-- ==== Sys2Proof/Word.lean ====
section
/-! DEFINITION. Word types of the LNT-1024 and their plainest arithmetic (R5, R7). -/

namespace Sys2Proof

/-- One byte. -/
abbrev Byte := BitVec 8

/-- A 64-bit register value or address. -/
abbrev Word := BitVec 64

/-- A 48-bit program counter (R124). -/
abbrev Pc := BitVec 48

/-- One 32-bit instruction word (R124). -/
abbrev Word32 := BitVec 32

/-- A sparse map: pairs of a key and a value, keys rising; a key that is not listed holds the
default that the reader names. -/
abbrev SMap (α : Type) := List (Nat × α)

/-- Bits hi down to lo of a number, as a number (R7). -/
def bits (x hi lo : Nat) : Nat := x / 2 ^ lo % 2 ^ (hi + 1 - lo)

/-- The two's complement reading of the low `n` bits of `x`. -/
def signedOf (n x : Nat) : Int :=
  if x % 2 ^ n < 2 ^ (n - 1) then (x % 2 ^ n : Nat) else ((x % 2 ^ n : Nat) : Int) - (2 ^ n : Nat)

/-- The word with `n` low bits of the integer `v`. -/
def ofInt (n : Nat) (v : Int) : BitVec n := BitVec.ofInt n v

/-- The little-endian number that a list of bytes holds (R5). -/
def leNat : List Byte → Nat
  | [] => 0
  | b :: bs => b.toNat + 256 * leNat bs

/-- The `n` little-endian bytes of a number (R5). -/
def leBytes : Nat → Nat → List Byte
  | 0, _ => []
  | n + 1, v => BitVec.ofNat 8 v :: leBytes n (v / 256)

/-- Bytes `lo` to `lo + n - 1` of a list as a little-endian number; bytes past the end count as 0. -/
def fieldAt (bs : List Byte) (lo n : Nat) : Nat := leNat ((bs.drop lo).take n)

end Sys2Proof
end

