-- ==== Sys2Proof/Syntax/Codes.lean ====
section
/-! DEFINITION. The small code fields of instruction words (R67, R105, R132, R133). -/

namespace Sys2Proof

/-- Condition codes (R132) -/
inductive Cc where
  | eq | ne | lt | ge | ltu | geu | le | gt | leu | gtu | un | ord
  deriving DecidableEq, Repr, Inhabited

/-- The code of a Cc (R132). -/
def Cc.code : Cc → Nat
  | .eq => 0
  | .ne => 1
  | .lt => 2
  | .ge => 3
  | .ltu => 4
  | .geu => 5
  | .le => 6
  | .gt => 7
  | .leu => 8
  | .gtu => 9
  | .un => 10
  | .ord => 11

/-- The Cc with a code, or none for a code that the field does not list (R132). -/
def Cc.ofCode : Nat → Option Cc
  | 0 => some .eq
  | 1 => some .ne
  | 2 => some .lt
  | 3 => some .ge
  | 4 => some .ltu
  | 5 => some .geu
  | 6 => some .le
  | 7 => some .gt
  | 8 => some .leu
  | 9 => some .gtu
  | 10 => some .un
  | 11 => some .ord
  | _ => none

theorem Cc.ofCode_code (x : Cc) : Cc.ofCode x.code = some x := by cases x <;> rfl

/-- Rounding modes (R67) -/
inductive Rm where
  | rne | rtz | rdn | rup | sr
  deriving DecidableEq, Repr, Inhabited

/-- The code of a Rm (R67). -/
def Rm.code : Rm → Nat
  | .rne => 0
  | .rtz => 1
  | .rdn => 2
  | .rup => 3
  | .sr => 4

/-- The Rm with a code, or none for a code that the field does not list (R67). -/
def Rm.ofCode : Nat → Option Rm
  | 0 => some .rne
  | 1 => some .rtz
  | 2 => some .rdn
  | 3 => some .rup
  | 4 => some .sr
  | _ => none

theorem Rm.ofCode_code (x : Rm) : Rm.ofCode x.code = some x := by cases x <;> rfl

/-- Arithmetic formats of the FADD group (R132) -/
inductive AFmt where
  | f32 | f16 | bf16
  deriving DecidableEq, Repr, Inhabited

/-- The code of a AFmt (R132). -/
def AFmt.code : AFmt → Nat
  | .f32 => 0
  | .f16 => 1
  | .bf16 => 2

/-- The AFmt with a code, or none for a code that the field does not list (R132). -/
def AFmt.ofCode : Nat → Option AFmt
  | 0 => some .f32
  | 1 => some .f16
  | 2 => some .bf16
  | _ => none

theorem AFmt.ofCode_code (x : AFmt) : AFmt.ofCode x.code = some x := by cases x <;> rfl

/-- Conversion formats of FCVT (R132) -/
inductive CFmt where
  | f32 | f16 | bf16 | e4m3 | e5m2 | i32 | i64 | f64
  deriving DecidableEq, Repr, Inhabited

/-- The code of a CFmt (R132). -/
def CFmt.code : CFmt → Nat
  | .f32 => 0
  | .f16 => 1
  | .bf16 => 2
  | .e4m3 => 3
  | .e5m2 => 4
  | .i32 => 5
  | .i64 => 6
  | .f64 => 7

/-- The CFmt with a code, or none for a code that the field does not list (R132). -/
def CFmt.ofCode : Nat → Option CFmt
  | 0 => some .f32
  | 1 => some .f16
  | 2 => some .bf16
  | 3 => some .e4m3
  | 4 => some .e5m2
  | 5 => some .i32
  | 6 => some .i64
  | 7 => some .f64
  | _ => none

theorem CFmt.ofCode_code (x : CFmt) : CFmt.ofCode x.code = some x := by cases x <;> rfl

/-- Scopes (R105, R132) -/
inductive Scope where
  | thr | core | cluster | die | pkg | sys
  deriving DecidableEq, Repr, Inhabited

/-- The code of a Scope (R105, R132). -/
def Scope.code : Scope → Nat
  | .thr => 0
  | .core => 1
  | .cluster => 2
  | .die => 3
  | .pkg => 4
  | .sys => 5

/-- The Scope with a code, or none for a code that the field does not list (R105, R132). -/
def Scope.ofCode : Nat → Option Scope
  | 0 => some .thr
  | 1 => some .core
  | 2 => some .cluster
  | 3 => some .die
  | 4 => some .pkg
  | 5 => some .sys
  | _ => none

theorem Scope.ofCode_code (x : Scope) : Scope.ofCode x.code = some x := by cases x <;> rfl

/-- Access sizes (R132) -/
inductive Sz where
  | b | h | w | d
  deriving DecidableEq, Repr, Inhabited

/-- The code of a Sz (R132). -/
def Sz.code : Sz → Nat
  | .b => 0
  | .h => 1
  | .w => 2
  | .d => 3

/-- The Sz with a code, or none for a code that the field does not list (R132). -/
def Sz.ofCode : Nat → Option Sz
  | 0 => some .b
  | 1 => some .h
  | 2 => some .w
  | 3 => some .d
  | _ => none

theorem Sz.ofCode_code (x : Sz) : Sz.ofCode x.code = some x := by cases x <;> rfl

/-- Annotations of AMO (R132) -/
inductive Ann where
  | none | acq | rel | acqrel
  deriving DecidableEq, Repr, Inhabited

/-- The code of a Ann (R132). -/
def Ann.code : Ann → Nat
  | .none => 0
  | .acq => 1
  | .rel => 2
  | .acqrel => 3

/-- The Ann with a code, or none for a code that the field does not list (R132). -/
def Ann.ofCode : Nat → Option Ann
  | 0 => some .none
  | 1 => some .acq
  | 2 => some .rel
  | 3 => some .acqrel
  | _ => none

theorem Ann.ofCode_code (x : Ann) : Ann.ofCode x.code = some x := by cases x <;> rfl

/-- Operations of AMO (R133, R191) -/
inductive AmoOp where
  | add | and | or | xor | min | max | minu | maxu | swap | cas | fadd
  deriving DecidableEq, Repr, Inhabited

/-- The code of a AmoOp (R133, R191). -/
def AmoOp.code : AmoOp → Nat
  | .add => 0
  | .and => 1
  | .or => 2
  | .xor => 3
  | .min => 4
  | .max => 5
  | .minu => 6
  | .maxu => 7
  | .swap => 8
  | .cas => 9
  | .fadd => 10

/-- The AmoOp with a code, or none for a code that the field does not list (R133, R191). -/
def AmoOp.ofCode : Nat → Option AmoOp
  | 0 => some .add
  | 1 => some .and
  | 2 => some .or
  | 3 => some .xor
  | 4 => some .min
  | 5 => some .max
  | 6 => some .minu
  | 7 => some .maxu
  | 8 => some .swap
  | 9 => some .cas
  | 10 => some .fadd
  | _ => none

theorem AmoOp.ofCode_code (x : AmoOp) : AmoOp.ofCode x.code = some x := by cases x <;> rfl
/-- Bytes of an access of this size (R183). -/
def Sz.bytes (z : Sz) : Nat := 2 ^ z.code

/-- The annotation carries an acquire (R132). -/
def Ann.isAcq : Ann → Bool
  | .acq => true | .acqrel => true | .none => false | .rel => false

/-- The annotation carries a release (R132). -/
def Ann.isRel : Ann → Bool
  | .rel => true | .acqrel => true | .none => false | .acq => false

end Sys2Proof
end

