-- ==== Sys2Proof/Syntax/Wire.lean ====
section
/-! DEFINITION. What travels between the parties of the package: thread contexts (R20 to R24), work
packets (R27, R28), accesses (R184), the bodies of messages and the link packets between packages
(R391). They stand below Instr because some of its events carry them. -/

namespace Sys2Proof

/-- One register of a thread with its full bit and its reserved bit (R20, R23). -/
structure Reg where
  val : Word
  full : Bool
  rsv : Bool
  deriving DecidableEq, Repr, Inhabited

/-- A held error of a thread: cause, address and count of further errors (R184). -/
structure HeldErr where
  cause : Nat
  addr : Word
  count : Nat
  deriving DecidableEq, Repr, Inhabited

/-- The thread context (R20 to R24). `held` is the held error of R184, which is of the thread too. -/
structure Thread where
  regs : Vector Reg 10
  pw : BitVec 32
  pc : Pc
  fmt : Word32
  sca : Word32
  scb : Word32
  lpc : Word32
  lps : Pc
  lpe : Pc
  home : BitVec 10
  prio : BitVec 3
  lane : BitVec 8
  ccid : BitVec 16
  tagFlags : BitVec 16
  fflags : BitVec 5
  held : Option HeldErr
  /-- The device's own notes: the core whose PIPE item the thread handles (R44), the stage of which it is a unit (R43), and
  its name among threads, by which its commands are known (R31). -/
  item : Option (Nat × Nat)
  stage : Option Nat
  tid : Nat
  deriving DecidableEq, Repr

/-- Kinds of a thread's access (R186, R190, R192, R198, R213). -/
inductive AccKind where
  | ld | st | ldn | stn | amo | put | join
  deriving DecidableEq, Repr, Inhabited

/-- Where an access goes: a key of the model's memory, or a store of a core of the partition that the
target package's binding names (R15, R16). -/
inductive Target where
  | key (k : Nat)
  | fabric (core space off : Nat)
  deriving DecidableEq, Repr, Inhabited

/-- One access of a thread on its way to its target store (R183 to R192, R198, R213). -/
structure Access where
  kind : AccKind
  tgt : Target
  size : Nat
  addr : Word
  data : Nat
  expect : Nat
  op : AmoOp
  reg : Nat
  sgn : Bool
  acq : Bool
  rel : Bool
  scope : Nat
  sem : Nat
  inc : Nat
  /-- The name by which the slot of a load knows its data. -/
  tag : Nat
  deriving DecidableEq, Repr

/-- A work packet on its way to a core, with the a0 and a1 of the thread it spawns (R27, R29). -/
structure Packet where
  /-- Bytes 0–63 as eight 64-bit words: control word, handler PC, six payloads. -/
  words : Vector Word 8
  a0 : Word
  a1 : Word
  /-- The device and core whose PIPE channel the packet is an item of (R44). -/
  credit : Option (Nat × Nat)
  /-- The register of the sender that the status of a SPAWN fills (R196). -/
  status : Option Nat
  /-- Whether the counter was raised before the packet left; a SENDM packet's is raised at its target
  (R212). -/
  counted : Bool
  /-- The stage whose unit the packet is, once a core has accepted it (R43). -/
  stage : Option Nat
  deriving DecidableEq, Repr

/-- The precise trap that a thread on a visit brings home, and what it needs there (R330, R331). -/
structure TrapInfo where
  cause : Nat
  tval : Word
  detail : Word
  more : Nat
  deriving DecidableEq, Repr, Inhabited

/-- What a message carries. -/
inductive MsgBody where
  /-- SEND modes 0 to 2 (R209). -/
  | send (slot reg : Nat) (val : Word) (tag : Nat)
  /-- SIGR and HSIG, and increments of engines for a held core (R204, R280). -/
  | sigr (sem inc : Nat)
  /-- A signal of the command named `cmd` with its deferred error (R54, R283, R302). -/
  | signal (sem inc : Nat) (err : Option TrapInfo) (cmd : Nat)
  /-- A work packet (R196, R212, R375, R33). -/
  | packet (p : Packet)
  /-- An access on its way to its store (R184). -/
  | access (a : Access)
  /-- Reply of an LDN, AMO, SPAWN or ECALL; `dec` says that it lowers the outstanding count (R185). -/
  | reply (slot reg : Nat) (val : Word) (dec : Bool)
  /-- Reply of an ENQ of a thread whose core was pre-empted (R219): pd and its value. -/
  | enqReply (slot pd : Nat) (val : Bool)
  /-- Data of the load that `tag` names (R187), or its precise far-end fault. -/
  | ldData (slot reg tag val : Nat) (fault : Option TrapInfo)
  /-- Acknowledgement of an STN (R190). -/
  | stnAck (slot : Nat)
  /-- A far-end fault that becomes a held error; `reg` names a register and what fills it, `dec` as in `reply` (R184). -/
  | farFault (slot : Nat) (reg : Option (Nat × Word)) (dec : Bool) (cause : Nat) (addr : Word)
  /-- A SEED request at the entropy source and its reply (R181). -/
  | seedReq (slot reg : Nat)
  | seedReply (slot reg : Nat) (val : Word)
  /-- A migrating thread (R34), and one that leaves on a visit (R37) with its level and home slot. -/
  | migrate (t : Thread)
  | visit (t : Thread) (homeCore homeSlot : Nat) (asid : Nat)
  /-- A thread that comes home from a visit, with the trap it took there (R37). -/
  | visitReturn (t : Thread) (homeSlot : Nat) (trap : Option TrapInfo) (cancelled : Bool)
  /-- A PIPE credit (R44). -/
  | credit
  /-- Mortar network (R289, R292, R294, R304). -/
  | joinReq (bind chain pos : Nat) (stg : Bool)
  | joinReply (bind gen : Nat) (refused : Option Nat) (admitted fix : Bool)
  | admission (chain pos gen : Nat)
  | beat (chain pos gen row : Nat) (vals : List Nat)
  | beatAck (chain pos gen : Nat)
  | evictNotice (chain pos gen : Nat)
  | evictAck (chain pos gen : Nat)
  | chevictReq (chain cmd : Nat)
  | chevictDone (cmd : Nat)
  /-- Pre-emption and debug (R343, R347): the register of the issuing thread that takes the STATUS. -/
  | preempt (slot reg : Nat) (desc : Word) (asid : Nat)
  | resume (slot reg : Nat) (desc : Word) (asid : Nat)
  | debugHalt (slot reg : Nat)
  deriving DecidableEq, Repr

/-- A link packet between two packages (R391 to R393): the devices, the class (0 request, 1 reply, 2
time-division), its sequence number, the partition and the core it comes from with the name of the sending thread (0 for
the hardware; of an answer, that of the thread it is for), the partition and the core it goes to (a logical core, but for a reply), the name of the request that a
reply answers, and for the time-division class the device cycle in which it is applied (R404). -/
structure LinkPkt where
  srcDev : Nat
  dstDev : Nat
  cls : Nat
  seq : Nat
  srcPart : Nat
  srcCore : Nat
  srcSlot : Nat
  srcAsid : Nat
  srcThread : Nat
  dstPart : Nat
  dstCore : Nat
  ask : Nat
  tdCycle : Nat
  body : MsgBody
  deriving DecidableEq, Repr

end Sys2Proof
end

