-- ==== Sys2Proof/Syntax.lean ====
section
/-! DEFINITION. The instruction set: one constructor per row of the opcode table. Scalar words and command
bundles (R133, R138), hod commands (R275), commands given through CSRs, memory blocks and the mailbox, and
the steps the hardware takes on its own, each with the entity it concerns. -/

namespace Sys2Proof

/-- The eight words of a command bundle after its engine and command code (R138, R139). -/
structure Bundle where
  substA : BitVec 4
  substB : BitVec 4
  popA : Bool
  popB : Bool
  flags : BitVec 5
  waitSem : BitVec 8
  threshold : BitVec 24
  sigSem : BitVec 8
  inc : BitVec 8
  rov : Bool
  rm : BitVec 3
  satv : Bool
  fieldA : BitVec 32
  fieldB : BitVec 32
  w5 : BitVec 32
  w6 : BitVec 32
  w7 : BitVec 32
  deriving DecidableEq, Repr, Inhabited

/-- The instructions, commands and steps of the opcode table. -/
inductive Instr where
  /-- ADD (R157): Writes ra plus rb, modulo 2^64, to rd. -/
  | add (d a b : Fin 10) (p : Fin 16)
  /-- SUB (R157): Writes ra minus rb, modulo 2^64, to rd. -/
  | sub (d a b : Fin 10) (p : Fin 16)
  /-- MUL (R157): Writes the low 64 bits of ra times rb to rd. -/
  | mul (d a b : Fin 10) (p : Fin 16)
  /-- MULH (R157): Writes the high 64 bits of the signed 128-bit product to rd. -/
  | mulh (d a b : Fin 10) (p : Fin 16)
  /-- MULHU (R157): Writes the high 64 bits of the unsigned 128-bit product to rd. -/
  | mulhu (d a b : Fin 10) (p : Fin 16)
  /-- DIV (R157): Signed division truncated toward zero, with fixed results for a zero divisor and for overflow, followed by the fixed division wait. -/
  | div (d a b : Fin 10) (p : Fin 16)
  /-- DIVU (R157): Unsigned division, where a zero divisor gives all ones, followed by the fixed division wait. -/
  | divu (d a b : Fin 10) (p : Fin 16)
  /-- REM (R157): Signed remainder consistent with DIV, followed by the fixed division wait. -/
  | rem (d a b : Fin 10) (p : Fin 16)
  /-- REMU (R157): Unsigned remainder, where a zero divisor gives x, followed by the fixed division wait. -/
  | remu (d a b : Fin 10) (p : Fin 16)
  /-- AND (R157): Writes the bitwise AND of ra and rb to rd. -/
  | and (d a b : Fin 10) (p : Fin 16)
  /-- OR (R157): Writes the bitwise OR of ra and rb to rd. -/
  | or (d a b : Fin 10) (p : Fin 16)
  /-- XOR (R157): Writes the bitwise XOR of ra and rb to rd. -/
  | xor (d a b : Fin 10) (p : Fin 16)
  /-- SHL (R157): Shifts ra left by rb[5:0]. -/
  | shl (d a b : Fin 10) (p : Fin 16)
  /-- SHR (R157): Shifts ra right logically by rb[5:0]. -/
  | shr (d a b : Fin 10) (p : Fin 16)
  /-- SAR (R157): Shifts ra right arithmetically by rb[5:0]. -/
  | sar (d a b : Fin 10) (p : Fin 16)
  /-- MIN (R157): Writes the signed minimum of ra and rb. -/
  | min (d a b : Fin 10) (p : Fin 16)
  /-- MAX (R157): Writes the signed maximum of ra and rb. -/
  | max (d a b : Fin 10) (p : Fin 16)
  /-- MINU (R157): Writes the unsigned minimum of ra and rb. -/
  | minu (d a b : Fin 10) (p : Fin 16)
  /-- MAXU (R157): Writes the unsigned maximum of ra and rb. -/
  | maxu (d a b : Fin 10) (p : Fin 16)
  /-- CLZ (R157): Writes the count of leading zero bits of ra. -/
  | clz (d a : Fin 10) (p : Fin 16)
  /-- POPC (R157): Writes the count of one bits of ra. -/
  | popc (d a : Fin 10) (p : Fin 16)
  /-- ADDI (R159): Adds the sign-extended imm14 to ra. -/
  | addi (d a : Fin 10) (p : Fin 16) (i : BitVec 14)
  /-- ANDI (R159): ANDs ra with the sign-extended imm14. -/
  | andi (d a : Fin 10) (p : Fin 16) (i : BitVec 14)
  /-- ORI (R159): ORs ra with the sign-extended imm14. -/
  | ori (d a : Fin 10) (p : Fin 16) (i : BitVec 14)
  /-- XORI (R159): XORs ra with the sign-extended imm14. -/
  | xori (d a : Fin 10) (p : Fin 16) (i : BitVec 14)
  /-- SHLI (R159): Shifts ra left by imm[5:0]. -/
  | shli (d a : Fin 10) (p : Fin 16) (n : BitVec 6)
  /-- SHRI (R159): Shifts ra right logically by imm[5:0]. -/
  | shri (d a : Fin 10) (p : Fin 16) (n : BitVec 6)
  /-- SARI (R159): Shifts ra right arithmetically by imm[5:0]. -/
  | sari (d a : Fin 10) (p : Fin 16) (n : BitVec 6)
  /-- LUI (R160): Writes sext(imm18) times 2^14 to rd. -/
  | lui (d : Fin 10) (p : Fin 16) (i : BitVec 18)
  /-- LIX (R161): Two-word instruction that writes the sign-extended 32-bit immediate to rd. -/
  | lix (d : Fin 10) (p : Fin 16) (i : BitVec 32)
  /-- CMP (R162): Writes the comparison of ra and rb under cc into a predicate, with taint from the guard. -/
  | cmp (d : Fin 16) (a b : Fin 10) (p : Fin 16) (c : Cc)
  /-- CMPI (R162): Writes the comparison of ra with sext(imm10) under cc into a predicate. -/
  | cmpi (d : Fin 16) (a : Fin 10) (p : Fin 16) (c : Cc) (i : BitVec 10)
  /-- PAND (R163): Writes pa AND pb into pd, with taint propagated. -/
  | pand (d a b p : Fin 16)
  /-- POR (R163): Writes pa OR pb into pd. -/
  | por (d a b p : Fin 16)
  /-- PXOR (R163): Writes pa XOR pb into pd. -/
  | pxor (d a b p : Fin 16)
  /-- PNOT (R163): Writes NOT pa into pd. -/
  | pnot (d a p : Fin 16)
  /-- PMOV (R163): Copies pa into pd. -/
  | pmov (d a p : Fin 16)
  /-- SEL (R164): Writes ra or rb to rd as a selector predicate chooses, reading both registers. -/
  | sel (d a b : Fin 10) (p c : Fin 16)
  /-- RND (R180): Writes two Philox words drawn from key ra and counter rb. -/
  | rnd (d a b : Fin 10) (p : Fin 16)
  /-- SEED (R181): Reserves rd and sends a request to the entropy source, or raises a determinism trap under STRICT. -/
  | seed (d : Fin 10) (p : Fin 16)
  /-- CSRR (R178): Reads a user CSR into rd. -/
  | csrr (d : Fin 10) (p : Fin 16) (c : BitVec 12)
  /-- CSRW (R178): Writes ra into the RW fields of a user CSR. -/
  | csrw (a : Fin 10) (p : Fin 16) (c : BitVec 12)
  /-- B (R165): Unconditional PC-relative branch, checked under R126. -/
  | br (o : BitVec 21)
  /-- BP (R165): Branches when the named predicate is 1. -/
  | bp (p : Fin 16) (o : BitVec 21)
  /-- BP_N (R165): Branches when the named predicate is 0. -/
  | bpN (p : Fin 16) (o : BitVec 21)
  /-- BTAG (R165): Branches when pw.TAG equals the tag field. -/
  | btag (t : BitVec 4) (o : BitVec 21)
  /-- BTAG_N (R165): Branches when pw.TAG differs from the tag field. -/
  | btagN (t : BitVec 4) (o : BitVec 21)
  /-- CALL (R166): Branches PC-relative and writes the return address to rd. -/
  | call (d : Fin 10) (o : BitVec 22)
  /-- JR (R167): Jumps to ra plus 4 times sext(imm14). -/
  | jr (a : Fin 10) (p : Fin 16) (i : BitVec 14)
  /-- RET (R167): Jumps to ra with a return hint. -/
  | ret (a : Fin 10) (p : Fin 16)
  /-- LOOP (R168): Sets up the hardware loop with its count taken from ra, or skips the body when the count is 0. -/
  | loop (a : Fin 10) (e : BitVec 16)
  /-- LOOPX (R168): Sets up the hardware loop with an immediate count. -/
  | loopx (c : BitVec 10) (e : BitVec 16)
  /-- FADD (R172): Floating-point add in FP32, FP16 or BF16 with one rounding, ORing the flags into fflags. -/
  | fadd (d a b : Fin 10) (p : Fin 16) (m : Rm) (f : AFmt)
  /-- FMUL (R172): Floating-point multiply with one rounding. -/
  | fmul (d a b : Fin 10) (p : Fin 16) (m : Rm) (f : AFmt)
  /-- FFMA (R172): Fused multiply-add into rd with one rounding. -/
  | ffma (d a b : Fin 10) (p : Fin 16) (m : Rm) (f : AFmt)
  /-- FMIN (R173): Returns the lesser operand under the NaN and −0 rules. -/
  | fmin (d a b : Fin 10) (p : Fin 16) (f : AFmt)
  /-- FCMP (R174): Writes a floating-point comparison into a predicate and sets NV as specified. -/
  | fcmp (d : Fin 16) (a b : Fin 10) (p : Fin 16) (c : Cc) (f : AFmt)
  /-- FCVT (R175): Converts between formats without FP64, with the rounding mode and fmt.SAT. -/
  | fcvt (d a b : Fin 10) (p : Fin 16) (f t : CFmt) (m : Rm)
  /-- FADD_F64 (R176): FP64 add of the D extension; visits a D core when the home core lacks the extension. -/
  | faddF64 (d a b : Fin 10) (p : Fin 16) (m : Rm)
  /-- FMUL_F64 (R176): FP64 multiply of the D extension. -/
  | fmulF64 (d a b : Fin 10) (p : Fin 16) (m : Rm)
  /-- FFMA_F64 (R176): FP64 fused multiply-add of the D extension. -/
  | ffmaF64 (d a b : Fin 10) (p : Fin 16) (m : Rm)
  /-- FMIN_F64 (R176): FP64 minimum of the D extension. -/
  | fminF64 (d a b : Fin 10) (p : Fin 16)
  /-- FCMP_F64 (R176): FP64 compare into a predicate. -/
  | fcmpF64 (d : Fin 16) (a b : Fin 10) (p : Fin 16) (c : Cc)
  /-- FCVT_F64 (R176): Conversion with FP64 on at least one side. -/
  | fcvtF64 (d a b : Fin 10) (p : Fin 16) (f t : CFmt) (m : Rm)
  /-- LD (R186): Loads 1 to 8 bytes into rd, zero- or sign-extended. -/
  | ld (d a : Fin 10) (p : Fin 16) (z : Sz) (x : Bool) (i : BitVec 11)
  /-- ST (R186): Stores 1 to 8 bytes of rs. -/
  | st (s a : Fin 10) (p : Fin 16) (z : Sz) (i : BitVec 11)
  /-- LD_ACQ (R189): Load with acquire at the named scope. -/
  | ldAcq (d a : Fin 10) (p : Fin 16) (z : Sz) (x : Bool) (c : Scope) (i : BitVec 7)
  /-- ST_REL (R189): Store with release at the named scope. -/
  | stRel (s a : Fin 10) (p : Fin 16) (z : Sz) (c : Scope) (i : BitVec 7)
  /-- LDN (R190): Non-blocking load that reserves rd and counts as an outstanding request. -/
  | ldn (d a b : Fin 10) (p : Fin 16) (z : Sz)
  /-- STN (R190): Posted store that counts as outstanding until it is acknowledged. -/
  | stn (s a b : Fin 10) (p : Fin 16) (z : Sz)
  /-- AMO (R192): Atomic read-modify-write at the location, with the old value returned to a reserved rd. -/
  | amo (d a b : Fin 10) (p : Fin 16) (n : Ann) (c : Scope) (w : Bool) (o : AmoOp)
  /-- FENCE (R193): Holds the slot until earlier accesses are performed at the scope, then delivers any held error. -/
  | fence (p : Fin 16) (c : Scope)
  /-- WATCH (R194): Takes a watch entry and completes at once if the line differs from seen; otherwise it waits for a write to the line. -/
  | watch (d a b : Fin 10) (p : Fin 16)
  /-- SPAWN (R196): Reads a TASK packet, raises its counter and sends the packet to a target core, with a status returned to rd. -/
  | spawn (d a b : Fin 10) (p : Fin 16)
  /-- FORK (R197): Raises the launch counter and takes a deque entry for a TASK packet from a register run, or waits to append to the QCB. -/
  | fork (a b : Fin 10) (p : Fin 16)
  /-- JOIN (R198): Posts an atomic decrement of a join record. -/
  | join (a : Fin 10) (p : Fin 16)
  /-- EXIT (R199): Holds the slot until the retirement conditions of R31 hold. -/
  | exit (p : Fin 16)
  /-- YIELD (R200): In ready mode the slot waits 63 cycles; in rotation mode YIELD only advances PC. -/
  | yield (p : Fin 16)
  /-- PRIO (R200): Sets the thread priority to ra[2:0]. -/
  | prio (a : Fin 10) (p : Fin 16)
  /-- ENQ (R201): Appends a register-run packet to a QCB and writes a tainted success predicate. -/
  | enq (d : Fin 16) (a b : Fin 10) (p : Fin 16)
  /-- GO (R202): Migrates the thread to the core that owns an address, making that core its home. -/
  | go (a : Fin 10) (p : Fin 16)
  /-- WAIT_IMM (R54): Completes when the semaphore is at least an immediate threshold, or delivers a held deferred error. -/
  | waitImm (s : BitVec 8) (i : BitVec 10)
  /-- WAIT_REG (R54): WAIT with the threshold taken from ra. -/
  | waitReg (a : Fin 10) (s : BitVec 8)
  /-- SIG (R204): Raises a home semaphore by an immediate, saturating, as a release at core scope. -/
  | sig (s : BitVec 8) (i : BitVec 10)
  /-- SIGR (R204): Sends a semaphore increment to a target core. -/
  | sigr (a : Fin 10) (s : BitVec 8) (i : BitVec 10)
  /-- SEMSET_IMM (R204): Sets a semaphore to an immediate value. -/
  | semsetImm (s : BitVec 8) (i : BitVec 10)
  /-- SEMSET_REG (R204): Sets a semaphore to ra[31:0]. -/
  | semsetReg (a : Fin 10) (s : BitVec 8)
  /-- SEMRD (R204): Reads a semaphore into ra. -/
  | semrd (a : Fin 10) (s : BitVec 8)
  /-- TEST (R204): Writes a tainted predicate that is 1 when the semaphore is at least the threshold. -/
  | test (d : Fin 16) (s : BitVec 8) (i : BitVec 10)
  /-- WAITA (R205): Arrival barrier that completes when the named ring tile is READY, and traps when the tile is poisoned. -/
  | waita (a : Fin 10) (k : BitVec 6) (i : BitVec 10)
  /-- TESTA (R205): Writes a tainted predicate that is 1 when the tile is READY. -/
  | testa (d : Fin 16) (a : Fin 10) (k : BitVec 6)
  /-- RTAIL (R97): Tail write that publishes tiles written by stores. -/
  | rtail (a : Fin 10) (k : BitVec 6)
  /-- RTAIL_GET (R205): Reads the ring's TAIL into ra. -/
  | rtailGet (a : Fin 10) (k : BitVec 6)
  /-- RHEAD (R98): Head write that releases tiles read by loads. -/
  | rhead (a : Fin 10) (k : BitVec 6)
  /-- RHEAD_GET (R205): Reads the ring's HEAD into ra. -/
  | rheadGet (a : Fin 10) (k : BitVec 6)
  /-- RINGDEF (R206): Defines or invalidates a ring from a configuration word. -/
  | ringdef (a : Fin 10) (k : BitVec 6)
  /-- SEND (R209): Sends a value to a target thread's register, or empties or reserves the sender's own register, according to the mode. -/
  | send (d a b : Fin 10) (p : Fin 16) (t : BitVec 4)
  /-- SENDM (R212): Sends a MSG work packet from a register run to a target core, subject to PIPE credits. -/
  | sendm (d a b : Fin 10) (p : Fin 16)
  /-- PUT (R213): Writes 1 to 8 payload words at a remote store, then raises a semaphore there. -/
  | put (d a b : Fin 10) (p : Fin 16)
  /-- SUBS (R214): Joins or leaves a multicast group for a ring, waiting until the mesh bitmaps are set. -/
  | subs (a b : Fin 10) (p : Fin 16)
  /-- TIME (R215): Samples device time in ns and its fraction. -/
  | time (d f : Fin 10) (p : Fin 16)
  /-- WAITT (R216): Waits until device time reaches a target. -/
  | waitt (a b : Fin 10) (p : Fin 16)
  /-- WAITLIM (R217): Sets the slot's EGT bit and wait LIMIT. -/
  | waitlim (a : Fin 10) (p : Fin 16)
  /-- TRAP (R334): Raises the software trap with the value of ra. -/
  | trap (a : Fin 10) (p : Fin 16)
  /-- TRET (R334): Returns from a supervisor or platform trap handler to sepc or pepc. -/
  | tret (p : Fin 16)
  /-- ECALL (R335): Appends a request to the home core's ECALL queue and reserves rd for the reply. -/
  | ecall (d a : Fin 10) (p : Fin 16)
  /-- EBREAK (R334): Debug-halts the core when BKH is set; otherwise raises a breakpoint trap. -/
  | ebreak (p : Fin 16)
  /-- IDLE (R336): Keeps the slot waiting until a waking event occurs. -/
  | idle (p : Fin 16)
  /-- DBGHALT (R347): Debug-halts another core and returns a status. -/
  | dbghalt (d a : Fin 10) (p : Fin 16)
  /-- CSRRP (R337): Reads a privileged or user CSR. -/
  | csrrp (d : Fin 10) (p : Fin 16) (c : BitVec 12)
  /-- CSRWP (R337): Writes a privileged or user CSR, subject to that CSR's rules. -/
  | csrwp (a : Fin 10) (p : Fin 16) (c : BitVec 12)
  /-- TLBI (R340): Invalidates translations of an ASID and waits until every use of them is performed. -/
  | tlbi (a b : Fin 10) (p : Fin 16)
  /-- ASIDSET (R341): Sets the issuing slot's ASID. -/
  | asidset (a : Fin 10) (p : Fin 16)
  /-- KILL (R342): Starts a kill fence for an ASID and reserves rd for the count of contexts killed. -/
  | kill (d a : Fin 10) (p : Fin 16)
  /-- PREEMPT (R343): Sends a pre-emption request with a save descriptor to another core. -/
  | preempt (d a b : Fin 10) (p : Fin 16)
  /-- RESUME (R343): Sends a resumption request to a held core, or ends a debug halt when rb is 0. -/
  | resume (d a b : Fin 10) (p : Fin 16)
  /-- ERRINJ (R348): Arms a datapath injection or flips bits of a stored granule. -/
  | errinj (a : Fin 10) (p : Fin 16)
  /-- MMA (R226): Queues a dense matrix pass on an accumulator tile. -/
  | mma (x : Bundle)
  /-- MMAS (R226): Queues a 2:4 sparse matrix pass. -/
  | mmas (x : Bundle)
  /-- ACLR (R228): Clears the named accumulator tiles to +0. -/
  | aclr (x : Bundle)
  /-- ALD (R229): Loads or adds a tile from memory into the ACM. -/
  | ald (x : Bundle)
  /-- AST (R230): Stores a tile raw as A34 or FP64 containers. -/
  | ast (x : Bundle)
  /-- ACVT (R231): Converts a tile to a destination format and writes it. -/
  | acvt (x : Bundle)
  /-- ACHK (R232): Forms exact row and column checksums of a tile, optionally compared against references. -/
  | achk (x : Bundle)
  /-- MSUM (R233): Sends a tile as partial sums to a mortar chain through a binding. -/
  | msum (x : Bundle)
  /-- ATRN (R234): Transposes one tile into another. -/
  | atrn (x : Bundle)
  /-- VADD (R238): Vector add. -/
  | vadd (x : Bundle)
  /-- VSUB (R238): Vector subtract. -/
  | vsub (x : Bundle)
  /-- VMUL (R238): Vector multiply. -/
  | vmul (x : Bundle)
  /-- VFMA (R238): Vector fused multiply-add into D. -/
  | vfma (x : Bundle)
  /-- VMAX (R238): Vector maximum. -/
  | vmax (x : Bundle)
  /-- VMIN (R238): Vector minimum. -/
  | vmin (x : Bundle)
  /-- VABS (R238): Vector absolute value. -/
  | vabs (x : Bundle)
  /-- VNEG (R238): Vector negation. -/
  | vneg (x : Bundle)
  /-- VEXP2 (R238): Correctly rounded 2^x. -/
  | vexp2 (x : Bundle)
  /-- VLOG2 (R238): Correctly rounded log2 x. -/
  | vlog2 (x : Bundle)
  /-- VRCP (R238): Correctly rounded reciprocal. -/
  | vrcp (x : Bundle)
  /-- VRSQ (R238): Correctly rounded reciprocal square root. -/
  | vrsq (x : Bundle)
  /-- VTANH (R238): Correctly rounded tanh. -/
  | vtanh (x : Bundle)
  /-- VCVT (R241): Vector conversion, including block encodes and decodes. -/
  | vcvt (x : Bundle)
  /-- VCMP (R239): Writes a comparison bit mask. -/
  | vcmp (x : Bundle)
  /-- VSEL (R239): Selects elements of X or Y under a mask. -/
  | vsel (x : Bundle)
  /-- VRED (R240): Reduces a vector by sum, max or min with one rounding. -/
  | vred (x : Bundle)
  /-- VSCAN (R240): Prefix scan, with each element rounded once. -/
  | vscan (x : Bundle)
  /-- VTRN (R241): Transposes a vector as an R by C matrix. -/
  | vtrn (x : Bundle)
  /-- VBCST (R238): Broadcasts a scalar to every element of D. -/
  | vbcst (x : Bundle)
  /-- VRNG (R241): Fills D with Philox random values. -/
  | vrng (x : Bundle)
  /-- VCPY (R241): Copies N elements raw. -/
  | vcpy (x : Bundle)
  /-- COPY (R260): GCE grid copy with conversion and one rounding. -/
  | copy (x : Bundle)
  /-- RSTR (R260): GCE restriction through a stencil table. -/
  | rstr (x : Bundle)
  /-- PRLG (R260): GCE prolongation through a stencil table. -/
  | prlg (x : Bundle)
  /-- GATH (R261): GCE row gather through an index list. -/
  | gath (x : Bundle)
  /-- SCAT (R261): GCE row scatter through an index list. -/
  | scat (x : Bundle)
  /-- MCAST (R266): GCE multicast of packed tiles into every member ring, with a status record. -/
  | mcast (x : Bundle)
  /-- TABPIN (R257): Pins a stencil table in a GCE slot at acceptance. -/
  | tabpin (x : Bundle)
  /-- TABINV (R257): Empties one pinned slot, or every slot of the ASID. -/
  | tabinv (x : Bundle)
  /-- HODRUN (R272): Queues a request that starts a hod program. -/
  | hodrun (x : Bundle)
  /-- HODSTOP (R273): Stops named hod programs and waiting requests. -/
  | hodstop (x : Bundle)
  /-- CHOPEN (R288): Opens a SEQ or FIX mortar chain and reserves its quarters. -/
  | chopen (x : Bundle)
  /-- CHJOIN (R289): Binds a binding to a position of a remote chain, with optional staging. -/
  | chjoin (x : Bundle)
  /-- CHCLOSE (R299): Writes a complete chain's result, frees the chain and advances its GEN. -/
  | chclose (x : Bundle)
  /-- CHSTAT (R300): Writes a 32-byte snapshot of a chain slot. -/
  | chstat (x : Bundle)
  /-- CHEVICT (R304): Supervisor eviction of a chain, with notices to its bound senders. -/
  | chevict (x : Bundle)
  /-- ILLEGAL_INSTRUCTION (R134): An instruction word outside the opcode map reaches issue and raises a precise illegal-instruction trap. -/
  | illegalInstruction (w : BitVec 32)
  /-- HLOOP (R276): Pushes a loop count, or skips to the matching HEND when the count is 0. -/
  | hloop (n : BitVec 32)
  /-- HEND (R276): Decrements the top loop count and loops back, or pops it. -/
  | hend
  /-- HSETA (R277): Sets a hod register to an immediate. -/
  | hseta (a : Fin 8) (i : BitVec 64)
  /-- HSETA_LD (R277): Loads a hod register from memory. -/
  | hsetaLd (a b : Fin 8) (i : BitVec 64)
  /-- HADDA (R277): Adds an immediate to a hod register. -/
  | hadda (a b : Fin 8) (i : BitVec 64)
  /-- HFILL (R278): Claims a ring index and fills the tile with strided rows. -/
  | hfill (a : Fin 8) (rows : BitVec 10) (ring : BitVec 6) (cl : BitVec 7) (rb : BitVec 10) (st : BitVec 64)
  /-- HSFILL (R278): Fills a scale tile with short strided rows. -/
  | hsfill (a : Fin 8) (rows : BitVec 10) (ring : BitVec 6) (cl : BitVec 7) (rb : BitVec 6) (st : BitVec 64)
  /-- HGATH (R278): Fills a tile with rows gathered through an index list. -/
  | hgath (a b : Fin 8) (rows : BitVec 10) (ring : BitVec 6) (cl : BitVec 7) (rb : BitVec 10) (st : BitVec 64)
  /-- HWWAIT (R279): Waits for window room on a ring without claiming. -/
  | hwwait (ring : BitVec 6) (cl : BitVec 7) (n : BitVec 12)
  /-- HSIG (R280): Waits for the claimed tiles to be READY, then raises a semaphore of a core. -/
  | hsig (core : BitVec 10) (dev : BitVec 16) (sem inc : BitVec 8)
  /-- HJMP (R276): Jumps the hod program PC by an entry offset. -/
  | hjmp (o : BitVec 32)
  /-- HNOP (R276): Does nothing. -/
  | hnop
  /-- HSTOP (R276): Ends the hod program. -/
  | hstop
  /-- BIND (R359): Partition command that checks the record, clears the clusters, applies QoS and spawns the supervisors. -/
  | bind (part : BitVec 6)
  /-- HALT (R362): Partition command that holds every core of the partition and pauses its hods. -/
  | halt (part : BitVec 6)
  /-- CONT (R359): Partition command that resumes a halted partition. -/
  | cont (part : BitVec 6)
  /-- SWAPOUT (R364): Moves a halted partition's state to shadow images and frees its clusters. -/
  | swapout (part : BitVec 6)
  /-- SWAPIN (R364): Restores a swapped partition into free clusters. -/
  | swapin (part : BitVec 6)
  /-- RESET (R365): Partition reset: halt, kill fences, clearing, then respawn. -/
  | reset (part : BitVec 6)
  /-- UNBIND (R359): Resets a halted partition without respawn and frees its clusters and ASIDs. -/
  | unbind (part : BitVec 6)
  /-- SELECT_ONLY (R358): partcmd write with OP 0 that selects PART for reading PSTATE. -/
  | selectOnly (part : BitVec 6)
  /-- CREATE (R373): Counter command that creates a completion counter and raises its parent. -/
  | create (part : BitVec 6) (level : BitVec 8) (id parent : BitVec 16) (count : BitVec 32)
  /-- CANCEL (R41): Counter command that cancels a counter and its children. -/
  | cancel (part : BitVec 6) (id : BitVec 16)
  /-- FREE (R373): Counter command that frees a DONE or CANCELLED counter. -/
  | free (part : BitVec 6) (id : BitVec 16)
  /-- DISPATCH (R375): dsp write that sends a packet and its side record from TCM to a core's inbox and traces the decision. -/
  | dispatch (v : Word)
  /-- DTREC_APPEND (R379): dtrec write that appends a software record to the decision trace. -/
  | dtrecAppend (v : Word)
  /-- TSTEP_WRITE (R397): Adds a forward step to device time in the next cycle and raises STEPS. -/
  | tstepWrite (v : Word)
  /-- ATTEST (R415): attest write that produces a signed attestation report over a nonce. -/
  | attest (v : Word)
  /-- CHAN_WRITE (R374): chan write that sets the channel endpoints and sets CRED to ALLOW. -/
  | chanWrite (v : Word)
  /-- ROTATION_TABLE_WRITE (R48): Write of a rotation turn, rejected when a slot would have two valid turns less than 8 apart. -/
  | rotationTableWrite (turn : BitVec 7) (v : Word)
  /-- MODE_WRITE (R52): cmode write that changes between ready and rotation mode only when every user slot is FREE. -/
  | modeWrite (v : Word)
  /-- SPQ_WRITE (R385): spq write, rejected while the queue holds entries or when its fields are invalid. -/
  | spqWrite (v : Word)
  /-- DQB_WRITE (R374): dqb write, rejected when LOG2C is 7 or the deque would pass the end of the TCM. -/
  | dqbWrite (v : Word)
  /-- FABCFG_WRITE (R389): fabcfg write, rejected while a connection is open or when DEV is out of range. -/
  | fabcfgWrite (v : Word)
  /-- EIE_WRITE (R338): Platform write of errctl.EIE that sets or clears error injection for the whole partition. -/
  | eieWrite (v : Word)
  /-- CSR_REGISTER_WRITE (R337): Write to any CSR that has no behaviour of its own. -/
  | csrRegisterWrite (c : BitVec 12) (v : Word)
  /-- IDENT (R408): Mailbox command that returns fabcfg and tstat. -/
  | ident (tag : BitVec 16)
  /-- RESYNC (R417): Mailbox command that writes the resynchronisation summary to host memory. -/
  | resync (tag : BitVec 16) (addr : Word) (len : BitVec 32)
  /-- CHALT (R408): Mailbox command that debug-halts a core when HOST is set. -/
  | chalt (tag core : BitVec 16)
  /-- CRESUME (R408): Mailbox command that ends a core's debug halt. -/
  | cresume (tag core : BitVec 16)
  /-- TIMEGET (R408): Mailbox command that returns device time and the doorbell timestamp. -/
  | timeget (tag : BitVec 16)
  /-- COUNTER (R408): Mailbox command that runs a counter command block for a partition. -/
  | counter (tag : BitVec 16) (part : BitVec 8) (lo hi : Word)
  /-- UNLISTED_MAILBOX_OP (R408): A doorbell with an unlisted OP answers STATUS 0xFF and has no effect. -/
  | unlistedMailboxOp (op tag : BitVec 16)
  /-- MAILBOX_OVERRUN (R408): A command or doorbell write while BUSY is discarded and sets OVR; a host write of the
  doubleword that holds OVR clears it where its bit is 1. -/
  | mailboxOverrun (ofs : BitVec 12) (value : Word)
  /-- HOST_STORE (R407): Host store through aperture A1, performed in issue order at system scope, or dropped outside the hacl ranges. -/
  | hostStore (addr : Nat) (data : List Byte)
  /-- HOST_READ (R406): Host read through aperture A1, returning zeros outside the hacl ranges. -/
  | hostRead (addr n : Nat)
  /-- HOST_APPEND (R369): Host append of a work packet to a QCB through A1. -/
  | hostAppend (qcb ring side : Nat) (words : Vector Word 8) (a0 a1 : Word)
  /-- BOOT (R410): Package reset runs the boot steps that verify, train, zero, load the platform image and spawn it. -/
  | boot
  /-- PACKET_SPAWN (R29): A waiting work packet is spawned into a slot that it may take. -/
  | packetSpawn (core : Nat)
  /-- WORK_PACKET_ARRIVAL (R30): A work packet reaches a core's inbox, or the spill queue when the inbox is full. -/
  | workPacketArrival (msg : Nat)
  /-- DEQUE_POP (R376): The core pops the bottom deque entry into a FREE slot that no inbox packet can take. -/
  | dequePop (core : Nat)
  /-- FORK_PUBLISH (R197): A deque entry and its side record are written and BOT advanced once earlier accesses are performed. -/
  | forkPublish (core : Nat)
  /-- FORK_APPEND (R376): A waiting FORK raises its counter, claims, writes and publishes into the QCB. -/
  | forkAppend (core slot : Nat)
  /-- ENQ_APPEND (R369): A waiting ENQ claims, writes and publishes its packet, or reports the QCB full or closed. -/
  | enqAppend (core slot : Nat)
  /-- SEND_ARRIVAL (R209): An arriving SEND writes the target register FULL and sets pw.TAG. -/
  | sendArrival (msg : Nat)
  /-- REPLY_ARRIVAL (R190): An LDN or AMO reply fills its reserved register and lowers the outstanding count. -/
  | replyArrival (msg : Nat)
  /-- STN_ACKNOWLEDGEMENT (R190): The acknowledgement of an STN lowers the outstanding count. -/
  | stnAcknowledgement (msg : Nat)
  /-- FAR_END_FAULT (R184): A far-end fault report becomes a held error, with rd filled with 0 where it applies. -/
  | farEndFault (msg : Nat)
  /-- LD_DATA_ARRIVAL (R187): Data of a non-local LD arrives, is written to rd and readies the slot, or a far-end fault traps precisely. -/
  | ldDataArrival (msg : Nat)
  /-- SIGR_ARRIVAL (R204): An arriving SIGR raises the semaphore in phase 1. -/
  | sigrArrival (msg : Nat)
  /-- PUT_ARRIVAL (R213): A PUT writes its words at the target and then raises the semaphore. -/
  | putArrival (msg : Nat)
  /-- SEED_SERVICE (R181): The entropy source claims and writes a seed-log record and replies. -/
  | seedService (msg : Nat)
  /-- SEED_REPLY (R181): The seed reply fills the reserved register. -/
  | seedReply (msg : Nat)
  /-- MIGRATION_ARRIVAL (R34): A migration packet places the thread in the lowest FREE user slot, or is queued. -/
  | migrationArrival (msg : Nat)
  /-- VISIT_RETURN (R37): A visiting thread returns to its VISITING home slot before core-local work. -/
  | visitReturn (msg : Nat)
  /-- JOIN_DECREMENT (R33): An atomic decrement of a join record that sends the continuation when COUNT reaches zero. -/
  | joinDecrement (msg : Nat)
  /-- WATCH_WAKE (R194): A write to a watched line completes the WATCH with an acquire read. -/
  | watchWake (core slot : Nat)
  /-- WAITT_READY (R216): Device time reaches a WAITT target and the slot becomes READY. -/
  | waittReady (core slot : Nat)
  /-- WAIT_LIMIT_REACHED (R218): The wait count reaches LIMIT; the slot becomes READY and the instruction traps on reissue. -/
  | waitLimitReached (core slot : Nat)
  /-- DIVIDE_WAIT_END (R158): The fixed 31-cycle division wait ends and the slot becomes READY. -/
  | divideWaitEnd (core slot : Nat)
  /-- YIELD_WAIT_END (R200): The 63-cycle YIELD wait ends and the slot becomes READY with age 0. -/
  | yieldWaitEnd (core slot : Nat)
  /-- FENCE_COMPLETE (R193): Earlier accesses have been performed and the FENCE completes or delivers a held error. -/
  | fenceComplete (core slot : Nat)
  /-- EXIT_RETIRE (R31): EXIT retires, the slot becomes FREE and the launch counter is decremented. -/
  | exitRetire (core slot : Nat)
  /-- SUBS_COMPLETE (R214): The subscription bitmaps are set and SUBS completes. -/
  | subsComplete (core slot : Nat)
  /-- TLBI_COMPLETE (R340): Matching entries have been discarded and their uses performed, so TLBI completes. -/
  | tlbiComplete (core slot : Nat)
  /-- KILL_FENCE (R366): Kill fence of an ASID that removes its threads, commands, messages and translations. -/
  | killFence (kill : Nat)
  /-- THREAD_CANCEL_STOP (R41): A cancelled unit stops at its next instruction boundary and is retired. -/
  | threadCancelStop (core slot : Nat)
  /-- CHANNEL_CREDIT_RETURN (R44): A returned PIPE credit raises CRED of the source core. -/
  | channelCreditReturn (msg : Nat)
  /-- FILLER_CLAIM (R96): A hod or GCE claims index TAIL of a ring when the window allows. -/
  | fillerClaim (fill : Nat)
  /-- FILL_COMPLETE (R89): The last byte of a fill is performed and the slot becomes READY. -/
  | fillComplete (fill : Nat)
  /-- FILL_FAILURE (R91): A failed or stopped fill makes the slot READY with POISON and CAUSE. -/
  | fillFailure (fill : Nat)
  /-- READER_RETIRE (R101): An engine command releases its tile reference in its retirement cycle. -/
  | readerRetire (core cmd : Nat)
  /-- MXE_COMMAND_START (R220): An MXE command starts once its wait, tiles, operand data and the MXE allow. -/
  | mxeCommandStart (core : Nat)
  /-- MXE_STEP (R221): In rotation mode one step of a lane's command runs in the slot's turn. -/
  | mxeStep (core : Nat)
  /-- MXE_COMMAND_COMPLETE (R220): An MXE command completes and applies its signal and any deferred error. -/
  | mxeCommandComplete (core cmd : Nat)
  /-- VXE_COMMAND_START (R236): A VXE command starts in issue order once its wait and tile allow. -/
  | vxeCommandStart (core : Nat)
  /-- VXE_COMMAND_COMPLETE (R242): A VXE command signals and reports its flags to the issuing thread. -/
  | vxeCommandComplete (core cmd : Nat)
  /-- GCE_COMMAND_START (R250): The GCE starts the next command in acceptance order once its wait and tile allow. -/
  | gceCommandStart (cluster : Nat)
  /-- GCE_STEP (R268): The GCE computes up to 64 destination elements. -/
  | gceStep (cluster : Nat)
  /-- GCE_COMMAND_COMPLETE (R268): A GCE command signals once every write is performed. -/
  | gceCommandComplete (cluster cmd : Nat)
  /-- HOD_INTERFACE_START (R272): A core's hod interface sends a HODRUN or HODSTOP once its wait holds. -/
  | hodInterfaceStart (core : Nat)
  /-- HOD_PROGRAM_BEGIN (R272): A hod takes the program once a place is free, after the tag check. -/
  | hodProgramBegin (hod : Nat)
  /-- HODRUN_COMPLETE (R272): The program has ended with its tiles READY and its HSIGs applied; the HODRUN signals. -/
  | hodrunComplete (hod prog : Nat)
  /-- MNI_COMMAND_START (R287): The MNI starts the next queued command. -/
  | mniCommandStart (core : Nat)
  /-- JOIN_REQUEST_ARRIVAL (R289): A join request reaches the receiver and is bound or refused. -/
  | joinRequestArrival (msg : Nat)
  /-- JOIN_REPLY_ARRIVAL (R289): The receiver's reply binds the binding and applies CHJOIN's signal. -/
  | joinReplyArrival (msg : Nat)
  /-- ADMISSION_ARRIVAL (R292): An admission reaches the sender, whose staged rows start to leave. -/
  | admissionArrival (msg : Nat)
  /-- STAGED_BEAT_SEND (R292): The MNI sends one staged row per cycle after admission. -/
  | stagedBeatSend (core bind : Nat)
  /-- BEAT_ARRIVAL (R294): A beat is applied or stored at the receiver, or discarded on a GEN mismatch. -/
  | beatArrival (msg : Nat)
  /-- STORED_ROW_APPLY (R294): A stored lookahead row is applied in position order. -/
  | storedRowApply (core chain : Nat)
  /-- BEAT_ACK_ARRIVAL (R292): Acknowledgement of the last beat; the MSUM signals. -/
  | beatAckArrival (msg : Nat)
  /-- EVICTION_NOTICE_ARRIVAL (R304): A sender marks its binding evicted and frees its staging quarter. -/
  | evictionNoticeArrival (msg : Nat)
  /-- EVICTION_ACK_ARRIVAL (R304): An acknowledgement of an eviction notice; the last one lets CHEVICT signal. -/
  | evictionAckArrival (msg : Nat)
  /-- PREEMPT_ARRIVAL (R383): A pre-emption message arrives, is checked, and STOPPING begins. -/
  | preemptArrival (msg : Nat)
  /-- SAVE_BEGIN (R380): The drains end and the core enters SAVING to write the image. -/
  | saveBegin (core : Nat)
  /-- SAVE_COMPLETE (R383): The image is performed; user slots become FREE and the core is PREEMPTED. -/
  | saveComplete (core : Nat)
  /-- RESUME_ARRIVAL (R386): A resumption message arrives and waits for free slots and drained commands. -/
  | resumeArrival (msg : Nat)
  /-- RESTORE_BEGIN (R386): The descriptor matches and RESTORING starts. -/
  | restoreBegin (core : Nat)
  /-- RESTORE_COMPLETE (R386): The image is read back; slots return to their states and the core is RUNNING. -/
  | restoreComplete (core : Nat)
  /-- SPILL_QUEUE_DELIVERY (R386): One spill-queue entry is delivered per cycle after resumption. -/
  | spillQueueDelivery (core : Nat)
  /-- DEBUG_HALT_ARRIVAL (R347): A debug-halt request holds the core with its contexts left in their slots. -/
  | debugHaltArrival (msg : Nat)
  /-- QUIESCENCE_WATCHDOG_FIRE (R388): The quiescence count reaches qwd and notifies slot 3. -/
  | quiescenceWatchdogFire (core : Nat)
  /-- PATROL_SCRUB (R338): The scrub period expires and a TCM or ACM granule is checked. -/
  | patrolScrub (core granule : Nat)
  /-- THERMAL_TRIP (R416): A thermal trip on a fixed island raises an alert to slot 0. -/
  | thermalTrip (island : Nat)
  /-- PAGE_WALK (R354): A walker walks the page tables and caches the translation or fails with a status. -/
  | pageWalk (walk : Nat)
  /-- LINK_PACKET_ARRIVAL (R391): A gateway receives a link packet, forwards it or delivers it in sequence. -/
  | linkPacketArrival (k : LinkPkt)
  /-- LINK_ACK_ARRIVAL (R393): A cumulative acknowledgement frees the window. -/
  | linkAckArrival (peer cls seq : Nat)
  /-- RETRANSMIT_TIMEOUT (R393): An unacknowledged packet is sent again after 20 µs. -/
  | retransmitTimeout (peer cls : Nat)
  /-- CONNECTION_DOWN (R395): After 9 sends without acknowledgement the connection drops and outstanding accesses fault. -/
  | connectionDown (peer : Nat)
  /-- CONNECTION_REOPEN (R395): The connection reopens with fresh sequence numbers. -/
  | connectionReopen (peer : Nat)
  /-- PEER_STATE_LOAD (R394): Peer state is loaded from the spill area and the waiting packet proceeds. -/
  | peerStateLoad (peer : Nat)
  /-- PORT_FAILURE (R409): A failed port leaves PLIVE and its packets are resent on other ports. -/
  | portFailure (port : Nat)
  /-- PTP_SYNC_RECEIPT (R398): A sync updates OFFS and the servo, and may change LOCK. -/
  | ptpSyncReceipt (offs : Int)
  /-- SYNC_MISSED (R398): A third missed sync clears LOCK. -/
  | syncMissed
  /-- TD_WINDOW_DEPART (R402): A time-division send leaves in its lane's window and the slot becomes READY. -/
  | tdWindowDepart (msg : Nat)
  /-- TD_PACKET_APPLY (R403): A time-division packet is applied in its scheduled cycle. -/
  | tdPacketApply (msg : Nat)
  /-- TD_LATE_ARRIVAL (R404): A late time-division packet is applied on arrival and counted in tdlate. -/
  | tdLateArrival (msg : Nat)
  /-- EGRESS_QUEUE_DEPARTURE (R322): An entry leaves the core's request egress queue onto the request network, freeing space for a waiting instruction. -/
  | egressQueueDeparture (msg : Nat)
  /-- FAR_END_ACCESS (R184): A thread's ST, STN, LDN, AMO or remote LD request reaches its target store and is performed or faults there. -/
  | farEndAccess (msg : Nat)
  /-- CHEVICT_REQUEST_ARRIVAL (R304): A CHEVICT request reaches the receiving MNI, which frees the chain and sends eviction notices. -/
  | chevictRequestArrival (msg : Nat)
  /-- FABRIC_PORT_TRAINED (R389): A fabric port finishes training and enters PLIVE, so routing can use it. -/
  | fabricPortTrained (port : Nat)
  /-- SYNC_INTERVAL_EXPIRY (R397): Each sync interval of 2^−LOGSYNC s, a boundary clock sends PTP sync messages on its master ports. -/
  | syncIntervalExpiry
  /-- PARTITION_COMMAND_COMPLETE (R358): A running partition command such as SWAPOUT, SWAPIN or HALT ends, writes STATUS and PSTATE, and clears BUSY. -/
  | partitionCommandComplete (part : Nat)
  /-- ISLAND_CLOCK_STOP (R336): When every slot of a core is FREE, WAITING or in IDLE, the core's island stops its clock. -/
  | islandClockStop (core : Nat)
  deriving DecidableEq, Repr

end Sys2Proof
end

