-- ==== Sys2Proof/WellFormed.lean ====
section
/-! DEFINITION. What an encoding must satisfy beyond its field widths: the codes each instruction allows and
the reserved fields of the command bundles (R22, R132, R138 to R140, R225 to R243, R251, R252, R272, R273,
R287 to R304). A term that fails here is an illegal encoding: an illegal-instruction trap at issue (R134, R243). -/

namespace Sys2Proof

/-- A field of a bundle word as a number. -/
def fld (w : BitVec 32) (hi lo : Nat) : Nat := bits w.toNat hi lo

/-- The format codes that R65 lists. -/
def isFormat (f : Nat) : Bool := f ≤ 0x12 && f != 0x0F

/-- MX formats (R63, R65). -/
def isMx (f : Nat) : Bool := 6 ≤ f && f ≤ 0x0A

/-- LB formats (R64, R65). -/
def isLb (f : Nat) : Bool := 0x0B ≤ f && f ≤ 0x0D

/-- Block formats (R63, R64). -/
def isBlock (f : Nat) : Bool := isMx f || isLb f

/-- Integer formats (R61). -/
def isIntFmt (f : Nat) : Bool := f == 5 || f == 0x10 || f == 0x11

/-- Elements of a block of a block format, 1 for any other (R63, R64). -/
def blockElems (f : Nat) : Nat := if isMx f then 32 else if isLb f then 16 else 1

/-- Bits that one element of a format takes in its vectors; for LB formats 16 elements take a block, so this
is the bits of 16 elements in `fmtBlockBits` (R59, R61 to R64). -/
def fmtBits (f : Nat) : Nat :=
  match f with
  | 0x00 => 32 | 0x01 => 16 | 0x02 => 16 | 0x03 => 8 | 0x04 => 8 | 0x05 => 8
  | 0x06 => 8 | 0x07 => 8 | 0x08 => 6 | 0x09 => 6 | 0x0A => 4
  | 0x0E => 64 | 0x10 => 32 | 0x11 => 64 | 0x12 => 64
  | _ => 0

/-- Bits that `n` elements of a format take, scales apart (R63, R64, R236). -/
def fmtSpanBits (f n : Nat) : Nat :=
  match f with
  | 0x0B => n / 16 * 144
  | 0x0C => n / 16 * 96
  | 0x0D => n / 16 * 64
  | _ => n * fmtBits f

/-- A substitution field that names a register or none (R139). -/
def substOk (n : BitVec 4) : Bool := n.toNat ≤ 9 || n == 15#4

/-- A field that a command leaves unused: zero, with no substitution register (R139, R235). -/
def unusedField (n : BitVec 4) (f : BitVec 32) : Bool := n == 15#4 && f == 0#32

/-- The register-free form of a field (R139, R252). -/
def regFree (f : BitVec 32) : Bool := fld f 31 28 == 8 || fld f 31 28 == 9

namespace Bundle

/-- Field A unused. -/
def noA (x : Bundle) : Bool := unusedField x.substA x.fieldA && !x.popA

/-- Field B unused. -/
def noB (x : Bundle) : Bool := unusedField x.substB x.fieldB && !x.popB

/-- What every bundle must satisfy: substitution fields, and RM and SATV (R138, R139, R67). -/
def base (x : Bundle) : Bool :=
  substOk x.substA && substOk x.substB &&
    (if x.rov then x.rm.toNat ≤ 4 else x.rm == 0#3 && !x.satv)

/-- Bit n of the command flags (R138). -/
def flag (x : Bundle) (n : Nat) : Bool := x.flags.getLsbD n

/-- Only the flags of the mask are set. -/
def flagsIn (x : Bundle) (mask : BitVec 5) : Bool := (x.flags &&& ~~~mask) == 0#5

/-- A STRIDE of the MXE: zero or a multiple of 8 (R235). -/
def strideOk (x : Bundle) : Bool := x.w6.toNat % 8 == 0

/-- MMA and MMAS (R225, R226). The scale rings of an operand without scales are judged at issue when the
formats come from fmt. -/
def wfMma (x : Bundle) (sparse : Bool) : Bool :=
  let aadr := x.flag 0
  let badr := x.flag 1
  let fov := x.w7.getLsbD 31
  let fa := fld x.w7 30 26
  let fb := fld x.w7 25 21
  x.base && !x.rov && x.flagsIn 0b00111#5 &&
    (!aadr || (!x.popA && fld x.w5 31 26 == 0 && fld x.w5 19 14 == 0)) &&
    (!badr || (!x.popB && fld x.w5 25 20 == 0 && fld x.w5 13 8 == 0)) &&
    fld x.w5 7 4 == 0 &&
    (if sparse && !aadr then fld x.w6 25 0 == 0 else x.w6 == 0#32) &&
    fld x.w7 20 0 == 0 &&
    (if fov then isFormat fa && isFormat fb &&
        (aadr || isMx fa || fld x.w5 19 14 == 0) && (badr || isMx fb || fld x.w5 13 8 == 0)
      else fa == 0 && fb == 0)

/-- ACLR (R228). -/
def wfAclr (x : Bundle) : Bool :=
  x.base && !x.rov && x.flagsIn 0#5 && x.noA && x.noB &&
    fld x.w5 31 16 == 0 && fld x.w5 15 0 != 0 && x.w6 == 0#32 && x.w7 == 0#32

/-- ALD (R229). -/
def wfAld (x : Bundle) : Bool :=
  let fs := fld x.w5 8 4
  x.base && !x.rov && x.flagsIn 0b00101#5 && !x.popA && x.noB &&
    fld x.w5 31 9 == 0 && x.strideOk && x.w7 == 0#32 &&
    (if x.flag 2 then fs == 0x0E && fld x.w5 0 0 == 0 else fs == 0x12 || fs ≤ 2)

/-- AST (R230). -/
def wfAst (x : Bundle) : Bool :=
  x.base && !x.rov && x.flagsIn 0b00101#5 && !x.popA && x.noB &&
    fld x.w5 31 4 == 0 && x.strideOk && x.w7 == 0#32 && (!x.flag 2 || fld x.w5 0 0 == 0)

/-- Bytes of one written row of an ACVT: 64 elements (R231). -/
def acvtRow (fd : Nat) : Nat := fmtSpanBits fd 64 / 8

/-- What ACVT needs of the format that it writes: an allowed code, FP64 only with D64, and a stride that
holds the row (R231). -/
def acvtFd (x : Bundle) (fd : Nat) : Bool :=
  isFormat fd && fd != 0x11 && fd != 0x12 && (fd != 0x0E || x.flag 2) &&
    (x.w6 == 0#32 || acvtRow fd ≤ x.w6.toNat)

/-- ACVT (R231). With FD = 0x1F the format comes from fmt.FO and is judged at issue. -/
def wfAcvt (x : Bundle) : Bool :=
  let fd := fld x.w5 8 4
  x.base && x.flagsIn 0b00111#5 && !x.popA && !x.popB && fld x.w5 31 16 == 0 && x.strideOk &&
    (!x.flag 2 || fld x.w5 0 0 == 0) &&
    (fd == 0x1F || (x.acvtFd fd && (isMx fd || x.noB)))

/-- ACHK (R232). -/
def wfAchk (x : Bundle) : Bool :=
  x.base && !x.rov && x.flagsIn 0b00111#5 && !x.popA && !x.popB && fld x.w5 31 4 == 0 &&
    fld x.w6 31 11 == 0 && x.w7 == 0#32 && (!x.flag 2 || fld x.w5 0 0 == 0) &&
    (x.flag 0 || (x.w6 == 0#32 && x.noB))

/-- MSUM (R233). -/
def wfMsum (x : Bundle) : Bool :=
  x.base && !x.rov && x.flagsIn 0b00001#5 && x.noA && x.noB &&
    fld x.w5 31 14 == 0 && fld x.w5 7 4 == 0 && x.w6 == 0#32 && x.w7 == 0#32

/-- ATRN (R234). -/
def wfAtrn (x : Bundle) : Bool :=
  x.base && !x.rov && x.flagsIn 0b00100#5 && x.noA && x.noB && fld x.w5 31 8 == 0 &&
    x.w6 == 0#32 && x.w7 == 0#32 && (!x.flag 2 || (fld x.w5 0 0 == 0 && fld x.w5 4 4 == 0))

/-- FS, FD, YS, TA, RING and N of a VXE command (R236). -/
def vfs (x : Bundle) : Nat := fld x.w6 31 27
def vfd (x : Bundle) : Nat := fld x.w6 26 22
def vys (x : Bundle) : Bool := x.w6.getLsbD 21
def vta (x : Bundle) : Bool := x.w6.getLsbD 20
def vring (x : Bundle) : Nat := fld x.w6 17 12
def vn (x : Bundle) : Nat := fld x.w6 11 0 + 1

/-- Format codes of the VXE outside VCVT and VCPY (R237). -/
def vfmtOk (f : Nat) : Bool := f ≤ 5 || f == 0x0E || f == 0x10 || f == 0x11

/-- Header fields that every VXE command shares (R236, R237): no pop of field B, the ring only with TA, and SR
only in VCVT. -/
def vbase (x : Bundle) (sr : Bool) : Bool :=
  x.base && !x.popB && fld x.w6 19 18 == 0 && (x.vta || (!x.popA && x.vring == 0)) &&
    (sr || !(x.rov && x.rm == 4#3))

/-- A source Y (R236): a scalar of at most 32 bits in word 7, a displacement from an address X, or a
register-free word. -/
def vyOk (x : Bundle) : Bool :=
  if x.vys then
    !x.flag 0 && x.w5 == 0#32 && fmtBits x.vfs ≤ 32 && x.w7.toNat < 2 ^ fmtBits x.vfs
  else if x.flag 0 then !x.vta && x.w7 == 0#32
  else regFree x.w5 && x.w7 == 0#32

/-- VADD, VSUB, VMUL, VFMA, VMAX and VMIN (R238). -/
def wfVbin (x : Bundle) : Bool :=
  x.vbase false && x.flagsIn 0b00001#5 && vfmtOk x.vfs && vfmtOk x.vfd && x.vyOk

/-- No source Y: YS, YREL and word 5 are zero. -/
def vnoY (x : Bundle) : Bool := !x.vys && !x.flag 0 && x.w5 == 0#32

/-- VABS and VNEG (R238). -/
def wfVun (x : Bundle) : Bool :=
  x.vbase false && x.flagsIn 0#5 && vfmtOk x.vfs && vfmtOk x.vfd && x.vnoY && x.w7 == 0#32

/-- VEXP2, VLOG2, VRCP, VRSQ and VTANH: FP32, FP16 and BF16 only (R238). -/
def wfVtrans (x : Bundle) : Bool :=
  x.vbase false && x.flagsIn 0#5 && x.vfs ≤ 2 && x.vfd ≤ 2 && x.vnoY && x.w7 == 0#32

/-- VCVT (R241). -/
def wfVcvt (x : Bundle) : Bool :=
  let ok (f : Nat) : Bool := vfmtOk f || isBlock f || f == 0x12
  x.vbase true && x.flagsIn 0#5 && ok x.vfs && ok x.vfd && !x.vys &&
    !(isBlock x.vfs && isBlock x.vfd) &&
    x.vn % blockElems x.vfs == 0 && x.vn % blockElems x.vfd == 0 &&
    (if isMx x.vfs || isMx x.vfd then regFree x.w7 else x.w7 == 0#32)

/-- VCMP: the conditions of FCMP for floating-point sources, codes 0 to 9 for integers (R239). -/
def wfVcmp (x : Bundle) : Bool :=
  let cc := x.flags.toNat / 2
  x.vbase false && vfmtOk x.vfs && vfmtOk x.vfd && x.vyOk &&
    (if isIntFmt x.vfs then cc ≤ 9 else cc ≤ 3 || cc == 6 || cc == 7 || cc == 10 || cc == 11)

/-- VSEL (R238, R239). -/
def wfVsel (x : Bundle) : Bool :=
  x.vbase false && x.flagsIn 0b00001#5 && vfmtOk x.vfs && x.vfs == x.vfd && !x.vys &&
    (if x.flag 0 then !x.vta else regFree x.w5) && regFree x.w7

/-- VRED and VSCAN (R240). -/
def wfVred (x : Bundle) : Bool :=
  x.vbase false && x.flagsIn 0b00110#5 && x.flags.toNat / 2 ≤ 2 && vfmtOk x.vfs && vfmtOk x.vfd &&
    x.vnoY && x.w7 == 0#32

/-- VTRN (R241). -/
def wfVtrn (x : Bundle) : Bool :=
  let r := fld x.w7 12 0
  x.vbase false && x.flagsIn 0#5 && vfmtOk x.vfs && x.vfs == x.vfd && x.vnoY &&
    fld x.w7 31 13 == 0 && 1 ≤ r && r ≤ 4096 && x.vn % r == 0

/-- VBCST (R238). With YS = 1 field A is unused. -/
def wfVbcst (x : Bundle) : Bool :=
  x.vbase false && x.flagsIn 0#5 && vfmtOk x.vfs && vfmtOk x.vfd && x.w5 == 0#32 &&
    (if x.vys then x.noA && !x.vta && fmtBits x.vfs ≤ 32 && x.w7.toNat < 2 ^ fmtBits x.vfs
      else x.w7 == 0#32)

/-- VRNG (R241). -/
def wfVrng (x : Bundle) : Bool :=
  x.vbase false && x.flagsIn 0#5 && !x.vta && !x.vys && x.vfs == x.vfd &&
    (x.vfd ≤ 2 || x.vfd == 0x10) && x.w7 == 0#32

/-- VCPY (R241). -/
def wfVcpy (x : Bundle) : Bool :=
  x.vbase false && x.flagsIn 0#5 && (vfmtOk x.vfs || isBlock x.vfs || x.vfs == 0x12) && x.vfs == x.vfd &&
    x.vnoY && x.vn % blockElems x.vfs == 0 && x.w7 == 0#32

/-- A register-free word of a GCE command with its alignment (R252). -/
def gword (w : BitVec 32) (align : Nat) : Bool := regFree w && w.toNat % align == 0

/-- A table reference: a register-free word or a pinned slot (R252). -/
def gtab (w : BitVec 32) : Bool := gword w 8 || (fld w 31 28 == 0xE && fld w 27 4 == 0)

/-- The fields that the grid commands share (R251, R252). -/
def gbase (x : Bundle) (dr : Bool) : Bool :=
  x.base && !x.popB && x.flagsIn 0b00011#5 && fld x.w7 19 9 == 0 &&
    (x.flag 0 || (fld x.w7 31 26 == 0 && !x.popA)) &&
    (if x.flag 1 then dr && x.noB else fld x.w7 25 20 == 0) && gword x.w5 64

/-- COPY (R251). -/
def wfCopy (x : Bundle) : Bool := x.gbase true && x.w6 == 0#32 && fld x.w7 8 0 == 0

/-- RSTR and PRLG (R251). -/
def wfStencil (x : Bundle) : Bool := x.gbase true && gtab x.w6 && fld x.w7 8 0 == 0

/-- GATH and SCAT (R251); SCAT allows no DR. -/
def wfGath (x : Bundle) (dr : Bool) : Bool := x.gbase dr && gword x.w6 4 && fld x.w7 8 0 == 0

/-- MCAST (R251, R266). -/
def wfMcast (x : Bundle) : Bool := x.gbase false && x.noB && gword x.w6 16

/-- The wait word is zero (R252). -/
def noWait (x : Bundle) : Bool := x.waitSem == 0#8 && x.threshold == 0#24

/-- TABPIN (R251, R252). -/
def wfTabpin (x : Bundle) : Bool :=
  x.base && !x.rov && x.flagsIn 0#5 && !x.popA && x.noB && fld x.w5 31 4 == 0 && x.w6 == 0#32 &&
    x.w7 == 0#32 && x.noWait

/-- TABINV (R251, R257). -/
def wfTabinv (x : Bundle) : Bool :=
  x.base && !x.rov && x.flagsIn 0#5 && x.noA && x.noB && fld x.w5 31 5 == 0 &&
    (!x.w5.getLsbD 4 || fld x.w5 3 0 == 0) && x.w6 == 0#32 && x.w7 == 0#32 && x.noWait

/-- HODRUN (R272). -/
def wfHodrun (x : Bundle) : Bool :=
  x.base && !x.rov && x.flagsIn 0#5 && !x.popA && !x.popB && fld x.w5 15 6 == 0 &&
    fld x.w5 5 0 ≤ 47 && fld x.w5 31 16 != 0xFFFF

/-- HODSTOP (R273). -/
def wfHodstop (x : Bundle) : Bool :=
  let hod := fld x.w5 5 0
  x.base && !x.rov && x.flagsIn 0#5 && x.noA && x.noB && fld x.w5 15 6 == 0 && x.w6 == 0#32 &&
    x.w7 == 0#32 && (hod ≤ 47 || (hod == 63 && fld x.w5 31 16 == 0xFFFF))

/-- What every MNI command shares (R287). -/
def mbase (x : Bundle) (mask : BitVec 5) : Bool :=
  x.base && !x.rov && !x.popA && !x.popB && x.flagsIn mask

/-- The signed base of a FIX chain (R288). -/
def chBase (x : Bundle) : Int := signedOf 11 (fld x.w6 10 0)

/-- CHOPEN (R288). -/
def wfChopen (x : Bundle) : Bool :=
  let qtr := fld x.w5 11 10
  let look := fld x.w5 9 8
  x.mbase 0b00001#5 && x.noA && x.noB && fld x.w5 15 12 == 0 && fld x.w5 7 4 == 0 && x.w7 == 0#32 &&
    (if x.flag 0 then look == 0 && qtr ≤ 2 && fld x.w6 31 11 == 0 &&
        decide (-533 ≤ x.chBase) && decide (x.chBase ≤ 417)
      else qtr + 1 + look ≤ 4 && x.w6 == 0#32)

/-- CHJOIN (R289). -/
def wfChjoin (x : Bundle) : Bool :=
  x.mbase 0b00001#5 && fld x.w5 31 14 == 0 && fld x.w5 7 2 == 0 && (x.flag 0 || fld x.w5 1 0 == 0) &&
    x.w6 == 0#32 && x.w7 == 0#32

/-- CHCLOSE (R299). -/
def wfChclose (x : Bundle) : Bool :=
  x.mbase 0b00011#5 && (x.flag 0 || x.noB) && fld x.w5 31 4 == 0 && x.w7 == 0#32 &&
    (x.w6 == 0#32 || (x.w6.toNat % 8 == 0 && 512 ≤ x.w6.toNat))

/-- CHSTAT (R300). -/
def wfChstat (x : Bundle) : Bool :=
  x.mbase 0#5 && x.noB && fld x.w5 31 4 == 0 && x.w6 == 0#32 && x.w7 == 0#32

/-- CHEVICT (R304). -/
def wfChevict (x : Bundle) : Bool :=
  x.mbase 0#5 && x.noB && x.w5 == 0#32 && x.w6 == 0#32 && x.w7 == 0#32

end Bundle

/-- Conditions of CMP and CMPI (R132). -/
def Cc.intOk (c : Cc) : Bool := c.code ≤ 9

/-- Conditions of FCMP (R132). -/
def Cc.fpOk (c : Cc) : Bool := c.code ≤ 3 || c.code == 6 || c.code == 7 || c.code == 10 || c.code == 11

/-- Fields of an FCVT (R175): the rb field is reserved unless the mode is SR. -/
def cvtOk (b : Fin 10) (m : Rm) : Bool := m == .sr || b == 0

/-- Whether a term is an encoding that the map assigns (R133, R134). Instructions that are not words, and words
whose fields are all free, are well formed as they stand. An HSIG with increment 0 is none (R275): DESIGN CHOICE, log 109. -/
def wellFormed : Instr → Bool
  | .add _ _ _ _ => true
  | .sub _ _ _ _ => true
  | .mul _ _ _ _ => true
  | .mulh _ _ _ _ => true
  | .mulhu _ _ _ _ => true
  | .div _ _ _ _ => true
  | .divu _ _ _ _ => true
  | .rem _ _ _ _ => true
  | .remu _ _ _ _ => true
  | .and _ _ _ _ => true
  | .or _ _ _ _ => true
  | .xor _ _ _ _ => true
  | .shl _ _ _ _ => true
  | .shr _ _ _ _ => true
  | .sar _ _ _ _ => true
  | .min _ _ _ _ => true
  | .max _ _ _ _ => true
  | .minu _ _ _ _ => true
  | .maxu _ _ _ _ => true
  | .clz _ _ _ => true
  | .popc _ _ _ => true
  | .addi _ _ _ _ => true
  | .andi _ _ _ _ => true
  | .ori _ _ _ _ => true
  | .xori _ _ _ _ => true
  | .shli _ _ _ _ => true
  | .shri _ _ _ _ => true
  | .sari _ _ _ _ => true
  | .lui _ _ _ => true
  | .lix _ _ _ => true
  | .cmp _ _ _ _ c => c.intOk
  | .cmpi _ _ _ c _ => c.intOk
  | .pand _ _ _ _ => true
  | .por _ _ _ _ => true
  | .pxor _ _ _ _ => true
  | .pnot _ _ _ => true
  | .pmov _ _ _ => true
  | .sel _ _ _ _ _ => true
  | .rnd _ _ _ _ => true
  | .seed _ _ => true
  | .csrr _ _ c => c.toNat ≤ 0x00B
  | .csrw _ _ c => c.toNat ≤ 0x00B
  | .br _ => true
  | .bp p _ => p != 0
  | .bpN _ _ => true
  | .btag _ _ => true
  | .btagN _ _ => true
  | .call _ _ => true
  | .jr _ _ _ => true
  | .ret _ _ => true
  | .loop _ e => e != 0#16
  | .loopx _ e => e != 0#16
  | .fadd _ _ _ _ m _ => m != .sr
  | .fmul _ _ _ _ m _ => m != .sr
  | .ffma _ _ _ _ m _ => m != .sr
  | .fmin _ _ _ _ _ => true
  | .fcmp _ _ _ _ c _ => c.fpOk
  | .fcvt _ _ b _ f t m => f != .f64 && t != .f64 && cvtOk b m
  | .faddF64 _ _ _ _ m => m != .sr
  | .fmulF64 _ _ _ _ m => m != .sr
  | .ffmaF64 _ _ _ _ m => m != .sr
  | .fminF64 _ _ _ _ => true
  | .fcmpF64 _ _ _ _ c => c.fpOk
  | .fcvtF64 _ _ b _ f t m => (f == .f64 || t == .f64) && cvtOk b m
  | .ld _ _ _ z x _ => !(x && z == .d)
  | .st _ _ _ _ _ => true
  | .ldAcq _ _ _ z x _ _ => !(x && z == .d)
  | .stRel _ _ _ _ _ _ => true
  | .ldn _ _ _ _ _ => true
  | .stn _ _ _ _ _ => true
  | .amo _ _ _ _ n c w o => (n != .none || c == .thr) && !(o == .fadd && w)
  | .fence _ _ => true
  | .watch _ _ _ _ => true
  | .spawn _ _ _ _ => true
  | .fork _ _ _ => true
  | .join _ _ => true
  | .exit _ => true
  | .yield _ => true
  | .prio _ _ => true
  | .enq d _ _ _ => 8 ≤ d.val
  | .go _ _ => true
  | .waitImm _ _ => true
  | .waitReg _ _ => true
  | .sig _ i => i != 0#10
  | .sigr _ _ i => i != 0#10
  | .semsetImm _ _ => true
  | .semsetReg _ _ => true
  | .semrd _ _ => true
  | .test d _ _ => 8 ≤ d.val
  | .waita _ _ _ => true
  | .testa d _ _ => 8 ≤ d.val
  | .rtail _ _ => true
  | .rtailGet _ _ => true
  | .rhead _ _ => true
  | .rheadGet _ _ => true
  | .ringdef _ _ => true
  | .send _ _ _ _ _ => true
  | .sendm _ _ _ _ => true
  | .put _ _ _ _ => true
  | .subs _ _ _ => true
  | .time _ _ _ => true
  | .waitt _ _ _ => true
  | .waitlim _ _ => true
  | .trap _ _ => true
  | .tret _ => true
  | .ecall _ _ _ => true
  | .ebreak _ => true
  | .idle _ => true
  | .dbghalt _ _ _ => true
  | .csrrp _ _ _ => true
  | .csrwp _ _ _ => true
  | .tlbi _ _ _ => true
  | .asidset _ _ => true
  | .kill _ _ _ => true
  | .preempt _ _ _ _ => true
  | .resume _ _ _ _ => true
  | .errinj _ _ => true
  | .mma x => x.wfMma false
  | .mmas x => x.wfMma true
  | .aclr x => x.wfAclr
  | .ald x => x.wfAld
  | .ast x => x.wfAst
  | .acvt x => x.wfAcvt
  | .achk x => x.wfAchk
  | .msum x => x.wfMsum
  | .atrn x => x.wfAtrn
  | .vadd x => x.wfVbin
  | .vsub x => x.wfVbin
  | .vmul x => x.wfVbin
  | .vfma x => x.wfVbin
  | .vmax x => x.wfVbin
  | .vmin x => x.wfVbin
  | .vabs x => x.wfVun
  | .vneg x => x.wfVun
  | .vexp2 x => x.wfVtrans
  | .vlog2 x => x.wfVtrans
  | .vrcp x => x.wfVtrans
  | .vrsq x => x.wfVtrans
  | .vtanh x => x.wfVtrans
  | .vcvt x => x.wfVcvt
  | .vcmp x => x.wfVcmp
  | .vsel x => x.wfVsel
  | .vred x => x.wfVred
  | .vscan x => x.wfVred
  | .vtrn x => x.wfVtrn
  | .vbcst x => x.wfVbcst
  | .vrng x => x.wfVrng
  | .vcpy x => x.wfVcpy
  | .copy x => x.wfCopy
  | .rstr x => x.wfStencil
  | .prlg x => x.wfStencil
  | .gath x => x.wfGath true
  | .scat x => x.wfGath false
  | .mcast x => x.wfMcast
  | .tabpin x => x.wfTabpin
  | .tabinv x => x.wfTabinv
  | .hodrun x => x.wfHodrun
  | .hodstop x => x.wfHodstop
  | .chopen x => x.wfChopen
  | .chjoin x => x.wfChjoin
  | .chclose x => x.wfChclose
  | .chstat x => x.wfChstat
  | .chevict x => x.wfChevict
  | .hloop _ => true
  | .hend => true
  | .hseta _ _ => true
  | .hsetaLd _ _ _ => true
  | .hadda _ _ _ => true
  | .hfill _ rows _ _ rb _ => (rows.toNat + 1) * (8 * (rb.toNat + 1)) ≤ 8192
  | .hsfill _ rows _ _ rb _ => (rows.toNat + 1) * (rb.toNat + 1) ≤ 8192
  | .hgath _ _ rows _ _ rb _ => (rows.toNat + 1) * (8 * (rb.toNat + 1)) ≤ 8192
  | .hwwait _ _ _ => true
  | .hsig _ _ _ inc => inc != 0#8
  | .hjmp _ => true
  | .hnop => true
  | .hstop => true
  | .bind _ => true
  | .halt _ => true
  | .cont _ => true
  | .swapout _ => true
  | .swapin _ => true
  | .reset _ => true
  | .unbind _ => true
  | .selectOnly _ => true
  | .create _ _ _ _ _ => true
  | .cancel _ _ => true
  | .free _ _ => true
  | .dispatch _ => true
  | .dtrecAppend _ => true
  | .tstepWrite _ => true
  | .attest _ => true
  | .chanWrite _ => true
  | .rotationTableWrite _ _ => true
  | .modeWrite _ => true
  | .spqWrite _ => true
  | .dqbWrite _ => true
  | .fabcfgWrite _ => true
  | .eieWrite _ => true
  | .csrRegisterWrite _ _ => true
  | .ident _ => true
  | .resync _ _ _ => true
  | .chalt _ _ => true
  | .cresume _ _ => true
  | .timeget _ => true
  | .counter _ _ _ _ => true
  | .unlistedMailboxOp _ _ => true
  | .mailboxOverrun _ _ => true
  | .hostStore _ _ => true
  | .hostRead _ _ => true
  | .hostAppend _ _ _ _ _ _ => true
  | .boot => true
  | .packetSpawn _ => true
  | .workPacketArrival _ => true
  | .dequePop _ => true
  | .forkPublish _ => true
  | .forkAppend _ _ => true
  | .enqAppend _ _ => true
  | .sendArrival _ => true
  | .replyArrival _ => true
  | .stnAcknowledgement _ => true
  | .farEndFault _ => true
  | .ldDataArrival _ => true
  | .sigrArrival _ => true
  | .putArrival _ => true
  | .seedService _ => true
  | .seedReply _ => true
  | .migrationArrival _ => true
  | .visitReturn _ => true
  | .joinDecrement _ => true
  | .watchWake _ _ => true
  | .waittReady _ _ => true
  | .waitLimitReached _ _ => true
  | .divideWaitEnd _ _ => true
  | .yieldWaitEnd _ _ => true
  | .fenceComplete _ _ => true
  | .exitRetire _ _ => true
  | .subsComplete _ _ => true
  | .tlbiComplete _ _ => true
  | .killFence _ => true
  | .threadCancelStop _ _ => true
  | .channelCreditReturn _ => true
  | .fillerClaim _ => true
  | .fillComplete _ => true
  | .fillFailure _ => true
  | .readerRetire _ _ => true
  | .mxeCommandStart _ => true
  | .mxeStep _ => true
  | .mxeCommandComplete _ _ => true
  | .vxeCommandStart _ => true
  | .vxeCommandComplete _ _ => true
  | .gceCommandStart _ => true
  | .gceStep _ => true
  | .gceCommandComplete _ _ => true
  | .hodInterfaceStart _ => true
  | .hodProgramBegin _ => true
  | .hodrunComplete _ _ => true
  | .mniCommandStart _ => true
  | .joinRequestArrival _ => true
  | .joinReplyArrival _ => true
  | .admissionArrival _ => true
  | .stagedBeatSend _ _ => true
  | .beatArrival _ => true
  | .storedRowApply _ _ => true
  | .beatAckArrival _ => true
  | .evictionNoticeArrival _ => true
  | .evictionAckArrival _ => true
  | .preemptArrival _ => true
  | .saveBegin _ => true
  | .saveComplete _ => true
  | .resumeArrival _ => true
  | .restoreBegin _ => true
  | .restoreComplete _ => true
  | .spillQueueDelivery _ => true
  | .debugHaltArrival _ => true
  | .quiescenceWatchdogFire _ => true
  | .patrolScrub _ _ => true
  | .thermalTrip _ => true
  | .pageWalk _ => true
  | .linkPacketArrival _ => true
  | .linkAckArrival _ _ _ => true
  | .retransmitTimeout _ _ => true
  | .connectionDown _ => true
  | .connectionReopen _ => true
  | .peerStateLoad _ => true
  | .portFailure _ => true
  | .ptpSyncReceipt _ => true
  | .syncMissed => true
  | .tdWindowDepart _ => true
  | .tdPacketApply _ => true
  | .tdLateArrival _ => true
  | .illegalInstruction _ => true
  | .egressQueueDeparture _ => true
  | .farEndAccess _ => true
  | .chevictRequestArrival _ => true
  | .fabricPortTrained _ => true
  | .syncIntervalExpiry => true
  | .partitionCommandComplete _ => true
  | .islandClockStop _ => true

end Sys2Proof
end

