-- ==== Sys2Proof/Decode.lean ====
section
/-! DEFINITION. The decoder of scalar words, two-word forms, command bundles and hod commands (R124 to R143,
R275), and after it the encoder. Decoding is total; what it refuses it names. -/

namespace Sys2Proof

/-- Why words are no instruction (R134, R282). -/
inductive DecodeError where
  /-- A major opcode that the map leaves out. -/
  | major
  /-- A func, sub, engine or command value that the map leaves out. -/
  | selector
  /-- A register field of 10 to 15, or of 8 to 15 in a hod command. -/
  | register
  /-- A reserved bit that is set. -/
  | reserved
  /-- A reserved code of a small field. -/
  | code
  /-- A combination of fields that the instruction does not allow. -/
  | illFormed
  /-- Fewer words than the instruction has. -/
  | short
  deriving DecidableEq, Repr

/-- Result of a decoding step. -/
abbrev Dec (α : Type) := Except DecodeError α

/-- A register field (R129). -/
def decReg (n : Nat) : Dec (Fin 10) := if h : n < 10 then .ok ⟨n, h⟩ else .error .register

/-- A predicate field (R129). -/
def decPred (n : Nat) : Fin 16 := Fin.ofNat 16 n

/-- A hod register field (R275, R282). -/
def decHreg (n : Nat) : Dec (Fin 8) := if h : n < 8 then .ok ⟨n, h⟩ else .error .register

/-- A reserved field must be zero (R129). -/
def decRsv (n : Nat) : Dec Unit := if n = 0 then .ok () else .error .reserved

/-- A small code field. -/
def decCode {α : Type} (o : Option α) : Dec α :=
  match o with
  | some x => .ok x
  | none => .error .code

/-- R format with three registers and a guard (R128). -/
def decR3 (w : Nat) (k : Fin 10 → Fin 10 → Fin 10 → Fin 16 → Instr) : Dec Instr := do
  let d ← decReg (bits w 25 22)
  let a ← decReg (bits w 21 18)
  let b ← decReg (bits w 17 14)
  return k d a b (decPred (bits w 13 10))

/-- R format without rb. -/
def decRda (w : Nat) (k : Fin 10 → Fin 10 → Fin 16 → Instr) : Dec Instr := do
  decRsv (bits w 17 14)
  let d ← decReg (bits w 25 22)
  let a ← decReg (bits w 21 18)
  return k d a (decPred (bits w 13 10))

/-- R format without rd. -/
def decRab (w : Nat) (k : Fin 10 → Fin 10 → Fin 16 → Instr) : Dec Instr := do
  decRsv (bits w 25 22)
  let a ← decReg (bits w 21 18)
  let b ← decReg (bits w 17 14)
  return k a b (decPred (bits w 13 10))

/-- R format with ra only. -/
def decRa (w : Nat) (k : Fin 10 → Fin 16 → Instr) : Dec Instr := do
  decRsv (bits w 25 22)
  decRsv (bits w 17 14)
  let a ← decReg (bits w 21 18)
  return k a (decPred (bits w 13 10))

/-- R format with a guard only. -/
def decRp (w : Nat) (k : Fin 16 → Instr) : Dec Instr := do
  decRsv (bits w 25 14)
  return k (decPred (bits w 13 10))

/-- R format whose rd field names a predicate. -/
def decRpd (w : Nat) (k : Fin 16 → Fin 10 → Fin 10 → Fin 16 → Instr) : Dec Instr := do
  let a ← decReg (bits w 21 18)
  let b ← decReg (bits w 17 14)
  return k (decPred (bits w 25 22)) a b (decPred (bits w 13 10))

/-- I format (R128). -/
def decI (w : Nat) (k : Fin 10 → Fin 10 → Fin 16 → BitVec 14 → Instr) : Dec Instr := do
  let d ← decReg (bits w 25 22)
  let a ← decReg (bits w 21 18)
  return k d a (decPred (bits w 17 14)) (BitVec.ofNat 14 (bits w 13 0))

/-- I format of the shifts: imm[13:6] reserved (R159). -/
def decShift (w : Nat) (k : Fin 10 → Fin 10 → Fin 16 → BitVec 6 → Instr) : Dec Instr := do
  decRsv (bits w 13 6)
  let d ← decReg (bits w 25 22)
  let a ← decReg (bits w 21 18)
  return k d a (decPred (bits w 17 14)) (BitVec.ofNat 6 (bits w 5 0))

/-- The CSR form of the I format (R128, R178, R337). -/
def decCsr (w : Nat) (r : Fin 10 → Fin 16 → BitVec 12 → Instr) (wr : Fin 10 → Fin 16 → BitVec 12 → Instr) :
    Dec Instr := do
  decRsv (bits w 12 12)
  let p := decPred (bits w 17 14)
  let c := BitVec.ofNat 12 (bits w 11 0)
  if bits w 13 13 = 0 then
    decRsv (bits w 21 18)
    let d ← decReg (bits w 25 22)
    return r d p c
  else
    decRsv (bits w 25 22)
    let a ← decReg (bits w 21 18)
    return wr a p c

/-- Major 0x01 (R133, R157). -/
def decInt (w : Nat) : Dec Instr :=
  match bits w 9 0 with
  | 0x00 => decR3 w .add
  | 0x01 => decR3 w .sub
  | 0x02 => decR3 w .mul
  | 0x03 => decR3 w .mulh
  | 0x04 => decR3 w .mulhu
  | 0x05 => decR3 w .div
  | 0x06 => decR3 w .divu
  | 0x07 => decR3 w .rem
  | 0x08 => decR3 w .remu
  | 0x09 => decR3 w .and
  | 0x0A => decR3 w .or
  | 0x0B => decR3 w .xor
  | 0x0C => decR3 w .shl
  | 0x0D => decR3 w .shr
  | 0x0E => decR3 w .sar
  | 0x0F => decR3 w .min
  | 0x10 => decR3 w .max
  | 0x11 => decR3 w .minu
  | 0x12 => decR3 w .maxu
  | 0x13 => decRda w .clz
  | 0x14 => decRda w .popc
  | _ => .error .selector

/-- Major 0x0A (R162). -/
def decCmp (w : Nat) : Dec Instr := do
  decRsv (bits w 9 4)
  let c ← decCode (Cc.ofCode (bits w 3 0))
  decRpd w fun d a b p => .cmp d a b p c

/-- Major 0x0B (R162). -/
def decCmpi (w : Nat) : Dec Instr := do
  let a ← decReg (bits w 21 18)
  let c ← decCode (Cc.ofCode (bits w 13 10))
  return .cmpi (decPred (bits w 25 22)) a (decPred (bits w 17 14)) c (BitVec.ofNat 10 (bits w 9 0))

/-- Major 0x0C (R163). -/
def decPlogic (w : Nat) : Dec Instr :=
  let d := decPred (bits w 25 22)
  let a := decPred (bits w 21 18)
  let b := decPred (bits w 17 14)
  let p := decPred (bits w 13 10)
  match bits w 9 0 with
  | 0 => .ok (.pand d a b p)
  | 1 => .ok (.por d a b p)
  | 2 => .ok (.pxor d a b p)
  | 3 => do decRsv (bits w 17 14); return .pnot d a p
  | 4 => do decRsv (bits w 17 14); return .pmov d a p
  | _ => .error .selector

/-- Major 0x0D (R164). -/
def decSel (w : Nat) : Dec Instr := do
  decRsv (bits w 9 4)
  decR3 w fun d a b p => .sel d a b p (decPred (bits w 3 0))

/-- Major 0x0E (R180, R181). -/
def decRnd (w : Nat) : Dec Instr :=
  match bits w 9 0 with
  | 0 => decR3 w .rnd
  | 1 => do
    decRsv (bits w 21 14)
    let d ← decReg (bits w 25 22)
    return .seed d (decPred (bits w 13 10))
  | _ => .error .selector

/-- Majors 0x10 and 0x11 (R165). B is BP with p0 and N = 0. -/
def decBranch (w : Nat) (tag : Bool) : Dec Instr :=
  let o := BitVec.ofNat 21 (bits w 20 0)
  let n := bits w 21 21
  if tag then
    let t := BitVec.ofNat 4 (bits w 25 22)
    .ok (if n = 0 then .btag t o else .btagN t o)
  else
    let p := decPred (bits w 25 22)
    .ok (if n = 0 then (if p = 0 then .br o else .bp p o) else .bpN p o)

/-- Majors 0x13 and 0x14 (R167). -/
def decJump (w : Nat) (ret : Bool) : Dec Instr := do
  decRsv (bits w 25 22)
  let a ← decReg (bits w 21 18)
  let p := decPred (bits w 17 14)
  if ret then
    decRsv (bits w 13 0)
    return .ret a p
  else return .jr a p (BitVec.ofNat 14 (bits w 13 0))

/-- Major 0x15 (R168). -/
def decLoop (w : Nat) : Dec Instr := do
  decRsv (bits w 21 16)
  let a ← decReg (bits w 25 22)
  return .loop a (BitVec.ofNat 16 (bits w 15 0))

/-- Majors 0x18 and 0x19 (R186). -/
def decMem (w : Nat) (store : Bool) : Dec Instr := do
  let d ← decReg (bits w 25 22)
  let a ← decReg (bits w 21 18)
  let z ← decCode (Sz.ofCode (bits w 13 12))
  let p := decPred (bits w 17 14)
  let i := BitVec.ofNat 11 (bits w 10 0)
  if store then
    decRsv (bits w 11 11)
    return .st d a p z i
  else return .ld d a p z (bits w 11 11 == 1) i

/-- Major 0x1A (R189). -/
def decMemA (w : Nat) : Dec Instr := do
  let d ← decReg (bits w 25 22)
  let a ← decReg (bits w 21 18)
  let z ← decCode (Sz.ofCode (bits w 13 12))
  let c ← decCode (Scope.ofCode (bits w 9 7))
  let p := decPred (bits w 17 14)
  let i := BitVec.ofNat 7 (bits w 6 0)
  if bits w 10 10 = 1 then
    decRsv (bits w 11 11)
    return .stRel d a p z c i
  else return .ldAcq d a p z (bits w 11 11 == 1) c i

/-- Major 0x1B (R190). -/
def decMemN (w : Nat) : Dec Instr := do
  decRsv (bits w 8 2)
  let z ← decCode (Sz.ofCode (bits w 1 0))
  decR3 w fun d a b p => if bits w 9 9 = 0 then .ldn d a b p z else .stn d a b p z

/-- Major 0x1C (R191). -/
def decAmo (w : Nat) : Dec Instr := do
  let n ← decCode (Ann.ofCode (bits w 9 8))
  let c ← decCode (Scope.ofCode (bits w 7 5))
  let o ← decCode (AmoOp.ofCode (bits w 3 0))
  decR3 w fun d a b p => .amo d a b p n c (bits w 4 4 == 1) o

/-- Major 0x1D (R193, R194). -/
def decFence (w : Nat) : Dec Instr :=
  if bits w 9 8 = 0 then do
    decRsv (bits w 7 3)
    let c ← decCode (Scope.ofCode (bits w 2 0))
    decRp w fun p => .fence p c
  else if bits w 9 0 = 0x100 then decR3 w .watch
  else .error .selector

/-- Major 0x20 (R196 to R202). -/
def decThread (w : Nat) : Dec Instr :=
  match bits w 9 0 with
  | 0 => decR3 w .spawn
  | 1 => decRab w .fork
  | 2 => decRa w .join
  | 3 => decRp w .exit
  | 4 => decRp w .yield
  | 5 => decRa w .prio
  | 6 => decRpd w .enq
  | 7 => decRa w .go
  | _ => .error .selector

/-- Major 0x21 (R203). -/
def decSem (w : Nat) : Dec Instr :=
  let s := BitVec.ofNat 8 (bits w 21 14)
  let i := BitVec.ofNat 10 (bits w 9 0)
  match bits w 13 10 with
  | 0 => do decRsv (bits w 25 22); return .waitImm s i
  | 1 => do decRsv (bits w 9 0); let a ← decReg (bits w 25 22); return .waitReg a s
  | 2 => do decRsv (bits w 25 22); return .sig s i
  | 3 => do let a ← decReg (bits w 25 22); return .sigr a s i
  | 4 => do decRsv (bits w 25 22); return .semsetImm s i
  | 5 => do decRsv (bits w 9 0); let a ← decReg (bits w 25 22); return .semsetReg a s
  | 6 => do decRsv (bits w 9 0); let a ← decReg (bits w 25 22); return .semrd a s
  | 7 => .ok (.test (decPred (bits w 25 22)) s i)
  | _ => .error .selector

/-- Major 0x22 (R205). -/
def decRing (w : Nat) : Dec Instr := do
  decRsv (bits w 21 20)
  let a ← decReg (bits w 25 22)
  let k := BitVec.ofNat 6 (bits w 19 14)
  match bits w 13 10 with
  | 0 => return .waita a k (BitVec.ofNat 10 (bits w 9 0))
  | 1 =>
    decRsv (bits w 9 4)
    return .testa (decPred (bits w 3 0)) a k
  | 2 =>
    decRsv (bits w 9 1)
    return (if bits w 0 0 = 0 then .rtail a k else .rtailGet a k)
  | 3 =>
    decRsv (bits w 9 1)
    return (if bits w 0 0 = 0 then .rhead a k else .rheadGet a k)
  | 4 =>
    decRsv (bits w 9 0)
    return .ringdef a k
  | _ => .error .selector

/-- Major 0x23 (R209 to R214). -/
def decMsg (w : Nat) : Dec Instr := do
  decRsv (bits w 7 4)
  match bits w 9 8 with
  | 0 => decR3 w fun d a b p => .send d a b p (BitVec.ofNat 4 (bits w 3 0))
  | 1 => do decRsv (bits w 3 0); decR3 w .sendm
  | 2 => do decRsv (bits w 3 0); decR3 w .put
  | _ => do decRsv (bits w 3 0); decRab w .subs

/-- Major 0x24 (R215 to R217). -/
def decTime (w : Nat) : Dec Instr :=
  match bits w 9 0 with
  | 0 => do
    decRsv (bits w 21 18)
    let d ← decReg (bits w 25 22)
    let f ← decReg (bits w 17 14)
    return .time d f (decPred (bits w 13 10))
  | 1 => decRab w .waitt
  | 2 => decRa w .waitlim
  | _ => .error .selector

/-- Majors 0x28 and 0x2A (R171). -/
def decFarith (w : Nat) (f64 : Bool) : Dec Instr := do
  decRsv (bits w 1 0)
  let m ← decCode (Rm.ofCode (bits w 6 4))
  if f64 then
    if bits w 3 2 = 0 then
      match bits w 9 7 with
      | 0 => decR3 w fun d a b p => .faddF64 d a b p m
      | 1 => decR3 w fun d a b p => .fmulF64 d a b p m
      | 2 => decR3 w fun d a b p => .ffmaF64 d a b p m
      | 3 => do decRsv (bits w 6 4); decR3 w .fminF64
      | _ => .error .selector
    else .error .code
  else
    let f ← decCode (AFmt.ofCode (bits w 3 2))
    match bits w 9 7 with
    | 0 => decR3 w fun d a b p => .fadd d a b p m f
    | 1 => decR3 w fun d a b p => .fmul d a b p m f
    | 2 => decR3 w fun d a b p => .ffma d a b p m f
    | 3 => do decRsv (bits w 6 4); decR3 w fun d a b p => .fmin d a b p f
    | _ => .error .selector

/-- Majors 0x29 and 0x2B (R174, R175). -/
def decFcmp (w : Nat) (f64 : Bool) : Dec Instr := do
  if bits w 9 9 = 0 then
    decRsv (bits w 2 0)
    let c ← decCode (Cc.ofCode (bits w 8 5))
    if f64 then
      if bits w 4 3 = 0 then decRpd w fun d a b p => .fcmpF64 d a b p c else .error .code
    else
      let f ← decCode (AFmt.ofCode (bits w 4 3))
      decRpd w fun d a b p => .fcmp d a b p c f
  else
    let f ← decCode (CFmt.ofCode (bits w 8 6))
    let t ← decCode (CFmt.ofCode (bits w 5 3))
    let m ← decCode (Rm.ofCode (bits w 2 0))
    if f64 then decR3 w fun d a b p => .fcvtF64 d a b p f t m
    else decR3 w fun d a b p => .fcvt d a b p f t m

/-- Major 0x2C (R334 to R336, R347). -/
def decTrap (w : Nat) : Dec Instr :=
  match bits w 9 0 with
  | 0 => decRa w .trap
  | 1 => decRp w .tret
  | 2 => decRda w .ecall
  | 3 => decRp w .ebreak
  | 4 => decRp w .idle
  | 5 => decRda w .dbghalt
  | _ => .error .selector

/-- Major 0x2E (R339). -/
def decPriv (w : Nat) : Dec Instr :=
  match bits w 9 0 with
  | 0 => decRab w .tlbi
  | 1 => decRa w .asidset
  | 2 => decRda w .kill
  | 3 => decR3 w .preempt
  | 4 => decR3 w .resume
  | 5 => decRa w .errinj
  | _ => .error .selector

/-- A one-word instruction by its major opcode (R133). Majors 0x30 and 0x31 have more words. -/
def decMajor (w : Nat) : Dec Instr :=
  match bits w 31 26 with
  | 0x01 => decInt w
  | 0x02 => decI w .addi
  | 0x03 => decI w .andi
  | 0x04 => decI w .ori
  | 0x05 => decI w .xori
  | 0x06 => decShift w .shli
  | 0x07 => decShift w .shri
  | 0x08 => decShift w .sari
  | 0x09 => do
    let d ← decReg (bits w 25 22)
    return .lui d (decPred (bits w 21 18)) (BitVec.ofNat 18 (bits w 17 0))
  | 0x0A => decCmp w
  | 0x0B => decCmpi w
  | 0x0C => decPlogic w
  | 0x0D => decSel w
  | 0x0E => decRnd w
  | 0x0F => decCsr w .csrr .csrw
  | 0x10 => decBranch w false
  | 0x11 => decBranch w true
  | 0x12 => do
    let d ← decReg (bits w 25 22)
    return .call d (BitVec.ofNat 22 (bits w 21 0))
  | 0x13 => decJump w false
  | 0x14 => decJump w true
  | 0x15 => decLoop w
  | 0x16 => .ok (.loopx (BitVec.ofNat 10 (bits w 25 16)) (BitVec.ofNat 16 (bits w 15 0)))
  | 0x18 => decMem w false
  | 0x19 => decMem w true
  | 0x1A => decMemA w
  | 0x1B => decMemN w
  | 0x1C => decAmo w
  | 0x1D => decFence w
  | 0x20 => decThread w
  | 0x21 => decSem w
  | 0x22 => decRing w
  | 0x23 => decMsg w
  | 0x24 => decTime w
  | 0x28 => decFarith w false
  | 0x29 => decFcmp w false
  | 0x2A => decFarith w true
  | 0x2B => decFcmp w true
  | 0x2C => decTrap w
  | 0x2D => decCsr w .csrrp .csrwp
  | 0x2E => decPriv w
  | _ => .error .major

/-- A term that the map assigns (R134). -/
def decCheck (i : Instr) : Dec Instr := if wellFormed i then .ok i else .error .illFormed

/-- Decoding of a scalar word (R128 to R134). -/
def decodeScalar (w : Nat) : Dec Instr :=
  match decMajor w with
  | .ok i => decCheck i
  | .error e => .error e

/-- Decoding of a two-word form (R137). -/
def decodeLix (w0 w1 : Nat) : Dec Instr := do
  if bits w0 17 12 ≠ 0 then .error .selector
  else
    decRsv (bits w0 11 0)
    let d ← decReg (bits w0 25 22)
    return .lix d (decPred (bits w0 21 18)) (BitVec.ofNat 32 w1)

/-- The command of an engine and command code (R140). -/
def decCommand (engine code : Nat) (x : Bundle) : Dec Instr :=
  match engine, code with
  | 0, 0x01 => .ok (.mma x)
  | 0, 0x02 => .ok (.mmas x)
  | 0, 0x03 => .ok (.aclr x)
  | 0, 0x04 => .ok (.ald x)
  | 0, 0x05 => .ok (.ast x)
  | 0, 0x06 => .ok (.acvt x)
  | 0, 0x07 => .ok (.achk x)
  | 0, 0x08 => .ok (.msum x)
  | 0, 0x09 => .ok (.atrn x)
  | 1, 0x01 => .ok (.vadd x)
  | 1, 0x02 => .ok (.vsub x)
  | 1, 0x03 => .ok (.vmul x)
  | 1, 0x04 => .ok (.vfma x)
  | 1, 0x05 => .ok (.vmax x)
  | 1, 0x06 => .ok (.vmin x)
  | 1, 0x07 => .ok (.vabs x)
  | 1, 0x08 => .ok (.vneg x)
  | 1, 0x09 => .ok (.vexp2 x)
  | 1, 0x0a => .ok (.vlog2 x)
  | 1, 0x0b => .ok (.vrcp x)
  | 1, 0x0c => .ok (.vrsq x)
  | 1, 0x0d => .ok (.vtanh x)
  | 1, 0x0e => .ok (.vcvt x)
  | 1, 0x0f => .ok (.vcmp x)
  | 1, 0x10 => .ok (.vsel x)
  | 1, 0x11 => .ok (.vred x)
  | 1, 0x12 => .ok (.vscan x)
  | 1, 0x13 => .ok (.vtrn x)
  | 1, 0x14 => .ok (.vbcst x)
  | 1, 0x15 => .ok (.vrng x)
  | 1, 0x16 => .ok (.vcpy x)
  | 2, 0x01 => .ok (.copy x)
  | 2, 0x02 => .ok (.rstr x)
  | 2, 0x03 => .ok (.prlg x)
  | 2, 0x04 => .ok (.gath x)
  | 2, 0x05 => .ok (.scat x)
  | 2, 0x06 => .ok (.mcast x)
  | 2, 0x07 => .ok (.tabpin x)
  | 2, 0x08 => .ok (.tabinv x)
  | 3, 0x01 => .ok (.hodrun x)
  | 3, 0x02 => .ok (.hodstop x)
  | 4, 0x01 => .ok (.chopen x)
  | 4, 0x02 => .ok (.chjoin x)
  | 4, 0x03 => .ok (.chclose x)
  | 4, 0x04 => .ok (.chstat x)
  | 4, 0x05 => .ok (.chevict x)
  | _, _ => .error .selector

/-- The fields of a bundle's eight words (R138, R139). -/
def decBundle (w0 w1 w2 w3 w4 w5 w6 w7 : Nat) : Bundle :=
  { substA := BitVec.ofNat 4 (bits w0 14 11)
    substB := BitVec.ofNat 4 (bits w0 10 7)
    popA := bits w0 6 6 == 1
    popB := bits w0 5 5 == 1
    flags := BitVec.ofNat 5 (bits w0 4 0)
    waitSem := BitVec.ofNat 8 (bits w1 31 24)
    threshold := BitVec.ofNat 24 (bits w1 23 0)
    sigSem := BitVec.ofNat 8 (bits w2 31 24)
    inc := BitVec.ofNat 8 (bits w2 23 16)
    rov := bits w2 15 15 == 1
    rm := BitVec.ofNat 3 (bits w2 14 12)
    satv := bits w2 11 11 == 1
    fieldA := BitVec.ofNat 32 w3
    fieldB := BitVec.ofNat 32 w4
    w5 := BitVec.ofNat 32 w5
    w6 := BitVec.ofNat 32 w6
    w7 := BitVec.ofNat 32 w7 }

/-- Decoding of a command bundle (R138 to R140, R243). -/
def decodeBundle (w0 w1 w2 w3 w4 w5 w6 w7 : Nat) : Dec Instr := do
  decRsv (bits w2 10 0)
  let i ← decCommand (bits w0 25 23) (bits w0 22 15) (decBundle w0 w1 w2 w3 w4 w5 w6 w7)
  decCheck i

/-- Words of the instruction that begins with a word (R124, R133): 8 for a bundle, 2 for major 0x31, else 1. -/
def wordCount (w0 : Nat) : Nat :=
  match bits w0 31 26 with
  | 0x30 => 8
  | 0x31 => 2
  | _ => 1

/-- Decoding of an instruction from its words, the first at the lowest address. -/
def decodeWords : List Nat → Dec Instr
  | [] => .error .short
  | w0 :: ws =>
    match bits w0 31 26, ws with
    | 0x30, w1 :: w2 :: w3 :: w4 :: w5 :: w6 :: w7 :: _ => decodeBundle w0 w1 w2 w3 w4 w5 w6 w7
    | 0x30, _ => .error .short
    | 0x31, w1 :: _ => decodeLix w0 w1
    | 0x31, _ => .error .short
    | _, _ => decodeScalar w0

/-- The N field of the fills: rows, ring and cluster (R275). -/
def decFill (v : Nat) (k : BitVec 10 → BitVec 6 → BitVec 7 → Instr) : Dec Instr := do
  decRsv (bits v 63 55)
  return k (BitVec.ofNat 10 (bits v 41 32)) (BitVec.ofNat 6 (bits v 47 42)) (BitVec.ofNat 7 (bits v 54 48))

/-- A hod command by its OP (R275). -/
def decHodOp (v : Nat) : Dec Instr :=
  let imm := BitVec.ofNat 64 (bits v 127 64)
  match bits v 7 0 with
  | 0x01 => do
    decRsv (bits v 15 8); decRsv (bits v 31 20); decRsv (bits v 127 64)
    return .hloop (BitVec.ofNat 32 (bits v 63 32))
  | 0x02 => do decRsv (bits v 127 8); return .hend
  | 0x03 => do
    decRsv (bits v 31 21); decRsv (bits v 63 32)
    let a ← decHreg (bits v 11 8)
    if bits v 20 20 = 1 then
      let b ← decHreg (bits v 15 12)
      return .hsetaLd a b imm
    else
      decRsv (bits v 15 12)
      return .hseta a imm
  | 0x04 => do
    decRsv (bits v 63 20)
    let a ← decHreg (bits v 11 8)
    let b ← decHreg (bits v 15 12)
    return .hadda a b imm
  | 0x05 => do
    decRsv (bits v 15 12); decRsv (bits v 31 30)
    let a ← decHreg (bits v 11 8)
    decFill v fun r k c => .hfill a r k c (BitVec.ofNat 10 (bits v 29 20)) imm
  | 0x06 => do
    decRsv (bits v 15 12); decRsv (bits v 31 26)
    let a ← decHreg (bits v 11 8)
    decFill v fun r k c => .hsfill a r k c (BitVec.ofNat 6 (bits v 25 20)) imm
  | 0x07 => do
    decRsv (bits v 31 30)
    let a ← decHreg (bits v 11 8)
    let b ← decHreg (bits v 15 12)
    decFill v fun r k c => .hgath a b r k c (BitVec.ofNat 10 (bits v 29 20)) imm
  | 0x08 => do
    decRsv (bits v 15 8); decRsv (bits v 41 32); decRsv (bits v 63 55); decRsv (bits v 127 64)
    return .hwwait (BitVec.ofNat 6 (bits v 47 42)) (BitVec.ofNat 7 (bits v 54 48)) (BitVec.ofNat 12 (bits v 31 20))
  | 0x09 => do
    decRsv (bits v 15 8); decRsv (bits v 31 28); decRsv (bits v 63 58); decRsv (bits v 127 72)
    return .hsig (BitVec.ofNat 10 (bits v 41 32)) (BitVec.ofNat 16 (bits v 57 42)) (BitVec.ofNat 8 (bits v 27 20))
      (BitVec.ofNat 8 (bits v 71 64))
  | 0x0A => do
    decRsv (bits v 31 8); decRsv (bits v 127 64)
    return .hjmp (BitVec.ofNat 32 (bits v 63 32))
  | 0x0B => do decRsv (bits v 127 8); return .hnop
  | 0x0C => do decRsv (bits v 127 8); return .hstop
  | _ => .error .selector

/-- Decoding of a 16-byte hod command, its low doubleword in the low 64 bits (R275, R282). -/
def decodeHod (v : Nat) : Dec Instr := do
  decRsv (bits v 19 16)
  let i ← decHodOp v
  decCheck i

/-- Words `0` to `n - 1` of a number, the first in its low 32 bits. -/
def wordsOf : Nat → Nat → List Nat
  | 0, _ => []
  | n + 1, w => (w % 2 ^ 32) :: wordsOf n (w / 2 ^ 32)

/-- The instruction that the decoder reads from an instruction's bits, numbered from the least significant bit
of its first word; bits above the given ones are zero. DEDUCED, log 62. -/
def decodeTableWord (_nbits w : Nat) : Option Instr :=
  match decodeWords (wordsOf 8 w) with
  | .ok i => some i
  | .error _ => none

/-- A word from the fixed bits of its opcode and its fields, each with the place of its lowest bit. -/
def packWord (base : Nat) : List (Nat × Nat) → Nat
  | [] => base
  | (v, lo) :: fs => v * 2 ^ lo + packWord base fs

/-- The single word of a scalar instruction (R133). -/
def encodeScalar : Instr → Option Nat
  | .add d a b p => some (packWord 0x04000000 [(d.val, 22), (a.val, 18), (b.val, 14), (p.val, 10)])
  | .sub d a b p => some (packWord 0x04000001 [(d.val, 22), (a.val, 18), (b.val, 14), (p.val, 10)])
  | .mul d a b p => some (packWord 0x04000002 [(d.val, 22), (a.val, 18), (b.val, 14), (p.val, 10)])
  | .mulh d a b p => some (packWord 0x04000003 [(d.val, 22), (a.val, 18), (b.val, 14), (p.val, 10)])
  | .mulhu d a b p => some (packWord 0x04000004 [(d.val, 22), (a.val, 18), (b.val, 14), (p.val, 10)])
  | .div d a b p => some (packWord 0x04000005 [(d.val, 22), (a.val, 18), (b.val, 14), (p.val, 10)])
  | .divu d a b p => some (packWord 0x04000006 [(d.val, 22), (a.val, 18), (b.val, 14), (p.val, 10)])
  | .rem d a b p => some (packWord 0x04000007 [(d.val, 22), (a.val, 18), (b.val, 14), (p.val, 10)])
  | .remu d a b p => some (packWord 0x04000008 [(d.val, 22), (a.val, 18), (b.val, 14), (p.val, 10)])
  | .and d a b p => some (packWord 0x04000009 [(d.val, 22), (a.val, 18), (b.val, 14), (p.val, 10)])
  | .or d a b p => some (packWord 0x0400000A [(d.val, 22), (a.val, 18), (b.val, 14), (p.val, 10)])
  | .xor d a b p => some (packWord 0x0400000B [(d.val, 22), (a.val, 18), (b.val, 14), (p.val, 10)])
  | .shl d a b p => some (packWord 0x0400000C [(d.val, 22), (a.val, 18), (b.val, 14), (p.val, 10)])
  | .shr d a b p => some (packWord 0x0400000D [(d.val, 22), (a.val, 18), (b.val, 14), (p.val, 10)])
  | .sar d a b p => some (packWord 0x0400000E [(d.val, 22), (a.val, 18), (b.val, 14), (p.val, 10)])
  | .min d a b p => some (packWord 0x0400000F [(d.val, 22), (a.val, 18), (b.val, 14), (p.val, 10)])
  | .max d a b p => some (packWord 0x04000010 [(d.val, 22), (a.val, 18), (b.val, 14), (p.val, 10)])
  | .minu d a b p => some (packWord 0x04000011 [(d.val, 22), (a.val, 18), (b.val, 14), (p.val, 10)])
  | .maxu d a b p => some (packWord 0x04000012 [(d.val, 22), (a.val, 18), (b.val, 14), (p.val, 10)])
  | .clz d a p => some (packWord 0x04000013 [(d.val, 22), (a.val, 18), (p.val, 10)])
  | .popc d a p => some (packWord 0x04000014 [(d.val, 22), (a.val, 18), (p.val, 10)])
  | .addi d a p i => some (packWord 0x08000000 [(d.val, 22), (a.val, 18), (p.val, 14), (i.toNat, 0)])
  | .andi d a p i => some (packWord 0x0C000000 [(d.val, 22), (a.val, 18), (p.val, 14), (i.toNat, 0)])
  | .ori d a p i => some (packWord 0x10000000 [(d.val, 22), (a.val, 18), (p.val, 14), (i.toNat, 0)])
  | .xori d a p i => some (packWord 0x14000000 [(d.val, 22), (a.val, 18), (p.val, 14), (i.toNat, 0)])
  | .shli d a p n => some (packWord 0x18000000 [(d.val, 22), (a.val, 18), (p.val, 14), (n.toNat, 0)])
  | .shri d a p n => some (packWord 0x1C000000 [(d.val, 22), (a.val, 18), (p.val, 14), (n.toNat, 0)])
  | .sari d a p n => some (packWord 0x20000000 [(d.val, 22), (a.val, 18), (p.val, 14), (n.toNat, 0)])
  | .lui d p i => some (packWord 0x24000000 [(d.val, 22), (p.val, 18), (i.toNat, 0)])
  | .cmp d a b p c =>
    some (packWord 0x28000000
      [(d.val, 22), (a.val, 18), (b.val, 14), (p.val, 10), (c.code, 0)])
  | .cmpi d a p c i =>
    some (packWord 0x2C000000
      [(d.val, 22), (a.val, 18), (p.val, 14), (c.code, 10), (i.toNat, 0)])
  | .pand d a b p => some (packWord 0x30000000 [(d.val, 22), (a.val, 18), (b.val, 14), (p.val, 10)])
  | .por d a b p => some (packWord 0x30000001 [(d.val, 22), (a.val, 18), (b.val, 14), (p.val, 10)])
  | .pxor d a b p => some (packWord 0x30000002 [(d.val, 22), (a.val, 18), (b.val, 14), (p.val, 10)])
  | .pnot d a p => some (packWord 0x30000003 [(d.val, 22), (a.val, 18), (p.val, 10)])
  | .pmov d a p => some (packWord 0x30000004 [(d.val, 22), (a.val, 18), (p.val, 10)])
  | .sel d a b p c =>
    some (packWord 0x34000000
      [(d.val, 22), (a.val, 18), (b.val, 14), (p.val, 10), (c.val, 0)])
  | .rnd d a b p => some (packWord 0x38000000 [(d.val, 22), (a.val, 18), (b.val, 14), (p.val, 10)])
  | .seed d p => some (packWord 0x38000001 [(d.val, 22), (p.val, 10)])
  | .csrr d p c => some (packWord 0x3C000000 [(d.val, 22), (p.val, 14), (c.toNat, 0)])
  | .csrw a p c => some (packWord 0x3C002000 [(a.val, 18), (p.val, 14), (c.toNat, 0)])
  | .br o => some (packWord 0x40000000 [(o.toNat, 0)])
  | .bp p o => some (packWord 0x40000000 [(p.val, 22), (o.toNat, 0)])
  | .bpN p o => some (packWord 0x40200000 [(p.val, 22), (o.toNat, 0)])
  | .btag t o => some (packWord 0x44000000 [(t.toNat, 22), (o.toNat, 0)])
  | .btagN t o => some (packWord 0x44200000 [(t.toNat, 22), (o.toNat, 0)])
  | .call d o => some (packWord 0x48000000 [(d.val, 22), (o.toNat, 0)])
  | .jr a p i => some (packWord 0x4C000000 [(a.val, 18), (p.val, 14), (i.toNat, 0)])
  | .ret a p => some (packWord 0x50000000 [(a.val, 18), (p.val, 14)])
  | .loop a e => some (packWord 0x54000000 [(a.val, 22), (e.toNat, 0)])
  | .loopx c e => some (packWord 0x58000000 [(c.toNat, 16), (e.toNat, 0)])
  | .fadd d a b p m f =>
    some (packWord 0xA0000000
      [(d.val, 22), (a.val, 18), (b.val, 14), (p.val, 10), (m.code, 4), (f.code, 2)])
  | .fmul d a b p m f =>
    some (packWord 0xA0000080
      [(d.val, 22), (a.val, 18), (b.val, 14), (p.val, 10), (m.code, 4), (f.code, 2)])
  | .ffma d a b p m f =>
    some (packWord 0xA0000100
      [(d.val, 22), (a.val, 18), (b.val, 14), (p.val, 10), (m.code, 4), (f.code, 2)])
  | .fmin d a b p f =>
    some (packWord 0xA0000180
      [(d.val, 22), (a.val, 18), (b.val, 14), (p.val, 10), (f.code, 2)])
  | .fcmp d a b p c f =>
    some (packWord 0xA4000000
      [(d.val, 22), (a.val, 18), (b.val, 14), (p.val, 10), (c.code, 5), (f.code, 3)])
  | .fcvt d a b p f t m =>
    some (packWord 0xA4000200
      [(d.val, 22), (a.val, 18), (b.val, 14), (p.val, 10), (f.code, 6), (t.code, 3), (m.code, 0)])
  | .faddF64 d a b p m =>
    some (packWord 0xA8000000
      [(d.val, 22), (a.val, 18), (b.val, 14), (p.val, 10), (m.code, 4)])
  | .fmulF64 d a b p m =>
    some (packWord 0xA8000080
      [(d.val, 22), (a.val, 18), (b.val, 14), (p.val, 10), (m.code, 4)])
  | .ffmaF64 d a b p m =>
    some (packWord 0xA8000100
      [(d.val, 22), (a.val, 18), (b.val, 14), (p.val, 10), (m.code, 4)])
  | .fminF64 d a b p => some (packWord 0xA8000180 [(d.val, 22), (a.val, 18), (b.val, 14), (p.val, 10)])
  | .fcmpF64 d a b p c =>
    some (packWord 0xAC000000
      [(d.val, 22), (a.val, 18), (b.val, 14), (p.val, 10), (c.code, 5)])
  | .fcvtF64 d a b p f t m =>
    some (packWord 0xAC000200
      [(d.val, 22), (a.val, 18), (b.val, 14), (p.val, 10), (f.code, 6), (t.code, 3), (m.code, 0)])
  | .ld d a p z x i =>
    some (packWord 0x60000000
      [(d.val, 22), (a.val, 18), (p.val, 14), (z.code, 12), (x.toNat, 11), (i.toNat, 0)])
  | .st s a p z i =>
    some (packWord 0x64000000
      [(s.val, 22), (a.val, 18), (p.val, 14), (z.code, 12), (i.toNat, 0)])
  | .ldAcq d a p z x c i =>
    some (packWord 0x68000000
      [(d.val, 22), (a.val, 18), (p.val, 14), (z.code, 12), (x.toNat, 11), (c.code, 7), (i.toNat, 0)])
  | .stRel s a p z c i =>
    some (packWord 0x68000400
      [(s.val, 22), (a.val, 18), (p.val, 14), (z.code, 12), (c.code, 7), (i.toNat, 0)])
  | .ldn d a b p z =>
    some (packWord 0x6C000000
      [(d.val, 22), (a.val, 18), (b.val, 14), (p.val, 10), (z.code, 0)])
  | .stn s a b p z =>
    some (packWord 0x6C000200
      [(s.val, 22), (a.val, 18), (b.val, 14), (p.val, 10), (z.code, 0)])
  | .amo d a b p n c w o =>
    some (packWord 0x70000000
      [(d.val, 22), (a.val, 18), (b.val, 14), (p.val, 10), (n.code, 8), (c.code, 5), (w.toNat, 4), (o.code, 0)])
  | .fence p c => some (packWord 0x74000000 [(p.val, 10), (c.code, 0)])
  | .watch d a b p => some (packWord 0x74000100 [(d.val, 22), (a.val, 18), (b.val, 14), (p.val, 10)])
  | .spawn d a b p => some (packWord 0x80000000 [(d.val, 22), (a.val, 18), (b.val, 14), (p.val, 10)])
  | .fork a b p => some (packWord 0x80000001 [(a.val, 18), (b.val, 14), (p.val, 10)])
  | .join a p => some (packWord 0x80000002 [(a.val, 18), (p.val, 10)])
  | .exit p => some (packWord 0x80000003 [(p.val, 10)])
  | .yield p => some (packWord 0x80000004 [(p.val, 10)])
  | .prio a p => some (packWord 0x80000005 [(a.val, 18), (p.val, 10)])
  | .enq d a b p => some (packWord 0x80000006 [(d.val, 22), (a.val, 18), (b.val, 14), (p.val, 10)])
  | .go a p => some (packWord 0x80000007 [(a.val, 18), (p.val, 10)])
  | .waitImm s i => some (packWord 0x84000000 [(s.toNat, 14), (i.toNat, 0)])
  | .waitReg a s => some (packWord 0x84000400 [(a.val, 22), (s.toNat, 14)])
  | .sig s i => some (packWord 0x84000800 [(s.toNat, 14), (i.toNat, 0)])
  | .sigr a s i => some (packWord 0x84000C00 [(a.val, 22), (s.toNat, 14), (i.toNat, 0)])
  | .semsetImm s i => some (packWord 0x84001000 [(s.toNat, 14), (i.toNat, 0)])
  | .semsetReg a s => some (packWord 0x84001400 [(a.val, 22), (s.toNat, 14)])
  | .semrd a s => some (packWord 0x84001800 [(a.val, 22), (s.toNat, 14)])
  | .test d s i => some (packWord 0x84001C00 [(d.val, 22), (s.toNat, 14), (i.toNat, 0)])
  | .waita a k i => some (packWord 0x88000000 [(a.val, 22), (k.toNat, 14), (i.toNat, 0)])
  | .testa d a k => some (packWord 0x88000400 [(d.val, 0), (a.val, 22), (k.toNat, 14)])
  | .rtail a k => some (packWord 0x88000800 [(a.val, 22), (k.toNat, 14)])
  | .rtailGet a k => some (packWord 0x88000801 [(a.val, 22), (k.toNat, 14)])
  | .rhead a k => some (packWord 0x88000C00 [(a.val, 22), (k.toNat, 14)])
  | .rheadGet a k => some (packWord 0x88000C01 [(a.val, 22), (k.toNat, 14)])
  | .ringdef a k => some (packWord 0x88001000 [(a.val, 22), (k.toNat, 14)])
  | .send d a b p t =>
    some (packWord 0x8C000000
      [(d.val, 22), (a.val, 18), (b.val, 14), (p.val, 10), (t.toNat, 0)])
  | .sendm d a b p => some (packWord 0x8C000100 [(d.val, 22), (a.val, 18), (b.val, 14), (p.val, 10)])
  | .put d a b p => some (packWord 0x8C000200 [(d.val, 22), (a.val, 18), (b.val, 14), (p.val, 10)])
  | .subs a b p => some (packWord 0x8C000300 [(a.val, 18), (b.val, 14), (p.val, 10)])
  | .time d f p => some (packWord 0x90000000 [(d.val, 22), (f.val, 14), (p.val, 10)])
  | .waitt a b p => some (packWord 0x90000001 [(a.val, 18), (b.val, 14), (p.val, 10)])
  | .waitlim a p => some (packWord 0x90000002 [(a.val, 18), (p.val, 10)])
  | .trap a p => some (packWord 0xB0000000 [(a.val, 18), (p.val, 10)])
  | .tret p => some (packWord 0xB0000001 [(p.val, 10)])
  | .ecall d a p => some (packWord 0xB0000002 [(d.val, 22), (a.val, 18), (p.val, 10)])
  | .ebreak p => some (packWord 0xB0000003 [(p.val, 10)])
  | .idle p => some (packWord 0xB0000004 [(p.val, 10)])
  | .dbghalt d a p => some (packWord 0xB0000005 [(d.val, 22), (a.val, 18), (p.val, 10)])
  | .csrrp d p c => some (packWord 0xB4000000 [(d.val, 22), (p.val, 14), (c.toNat, 0)])
  | .csrwp a p c => some (packWord 0xB4002000 [(a.val, 18), (p.val, 14), (c.toNat, 0)])
  | .tlbi a b p => some (packWord 0xB8000000 [(a.val, 18), (b.val, 14), (p.val, 10)])
  | .asidset a p => some (packWord 0xB8000001 [(a.val, 18), (p.val, 10)])
  | .kill d a p => some (packWord 0xB8000002 [(d.val, 22), (a.val, 18), (p.val, 10)])
  | .preempt d a b p => some (packWord 0xB8000003 [(d.val, 22), (a.val, 18), (b.val, 14), (p.val, 10)])
  | .resume d a b p => some (packWord 0xB8000004 [(d.val, 22), (a.val, 18), (b.val, 14), (p.val, 10)])
  | .errinj a p => some (packWord 0xB8000005 [(a.val, 18), (p.val, 10)])
  | _ => none

/-- The eight words of a bundle of an engine and a command code (R138 to R140). -/
def Bundle.words (x : Bundle) (engine code : Nat) : List Nat :=
  [ 0xC0000000 + engine * 2 ^ 23 + code * 2 ^ 15 + x.substA.toNat * 2 ^ 11 + x.substB.toNat * 2 ^ 7 +
      x.popA.toNat * 2 ^ 6 + x.popB.toNat * 2 ^ 5 + x.flags.toNat,
    x.waitSem.toNat * 2 ^ 24 + x.threshold.toNat,
    x.sigSem.toNat * 2 ^ 24 + x.inc.toNat * 2 ^ 16 + x.rov.toNat * 2 ^ 15 + x.rm.toNat * 2 ^ 12 +
      x.satv.toNat * 2 ^ 11,
    x.fieldA.toNat, x.fieldB.toNat, x.w5.toNat, x.w6.toNat, x.w7.toNat ]

/-- The words of a command bundle (R140). -/
def encodeBundle : Instr → Option (List Nat)
  | .mma x => some (x.words 0 0x1)
  | .mmas x => some (x.words 0 0x2)
  | .aclr x => some (x.words 0 0x3)
  | .ald x => some (x.words 0 0x4)
  | .ast x => some (x.words 0 0x5)
  | .acvt x => some (x.words 0 0x6)
  | .achk x => some (x.words 0 0x7)
  | .msum x => some (x.words 0 0x8)
  | .atrn x => some (x.words 0 0x9)
  | .vadd x => some (x.words 1 0x1)
  | .vsub x => some (x.words 1 0x2)
  | .vmul x => some (x.words 1 0x3)
  | .vfma x => some (x.words 1 0x4)
  | .vmax x => some (x.words 1 0x5)
  | .vmin x => some (x.words 1 0x6)
  | .vabs x => some (x.words 1 0x7)
  | .vneg x => some (x.words 1 0x8)
  | .vexp2 x => some (x.words 1 0x9)
  | .vlog2 x => some (x.words 1 0xa)
  | .vrcp x => some (x.words 1 0xb)
  | .vrsq x => some (x.words 1 0xc)
  | .vtanh x => some (x.words 1 0xd)
  | .vcvt x => some (x.words 1 0xe)
  | .vcmp x => some (x.words 1 0xf)
  | .vsel x => some (x.words 1 0x10)
  | .vred x => some (x.words 1 0x11)
  | .vscan x => some (x.words 1 0x12)
  | .vtrn x => some (x.words 1 0x13)
  | .vbcst x => some (x.words 1 0x14)
  | .vrng x => some (x.words 1 0x15)
  | .vcpy x => some (x.words 1 0x16)
  | .copy x => some (x.words 2 0x1)
  | .rstr x => some (x.words 2 0x2)
  | .prlg x => some (x.words 2 0x3)
  | .gath x => some (x.words 2 0x4)
  | .scat x => some (x.words 2 0x5)
  | .mcast x => some (x.words 2 0x6)
  | .tabpin x => some (x.words 2 0x7)
  | .tabinv x => some (x.words 2 0x8)
  | .hodrun x => some (x.words 3 0x1)
  | .hodstop x => some (x.words 3 0x2)
  | .chopen x => some (x.words 4 0x1)
  | .chjoin x => some (x.words 4 0x2)
  | .chclose x => some (x.words 4 0x3)
  | .chstat x => some (x.words 4 0x4)
  | .chevict x => some (x.words 4 0x5)
  | _ => none

/-- The 128-bit hod command of a hod instruction (R275). -/
def encodeHod : Instr → Option Nat
  | .hloop n => some (0x01 + n.toNat * 2 ^ 32)
  | .hend => some 0x02
  | .hseta a i => some (0x03 + a.val * 2 ^ 8 + i.toNat * 2 ^ 64)
  | .hsetaLd a b i => some (0x03 + a.val * 2 ^ 8 + b.val * 2 ^ 12 + 2 ^ 20 + i.toNat * 2 ^ 64)
  | .hadda a b i => some (0x04 + a.val * 2 ^ 8 + b.val * 2 ^ 12 + i.toNat * 2 ^ 64)
  | .hfill a r k c rb st => some (0x05 + a.val * 2 ^ 8 + rb.toNat * 2 ^ 20 + r.toNat * 2 ^ 32 +
      k.toNat * 2 ^ 42 + c.toNat * 2 ^ 48 + st.toNat * 2 ^ 64)
  | .hsfill a r k c rb st => some (0x06 + a.val * 2 ^ 8 + rb.toNat * 2 ^ 20 + r.toNat * 2 ^ 32 +
      k.toNat * 2 ^ 42 + c.toNat * 2 ^ 48 + st.toNat * 2 ^ 64)
  | .hgath a b r k c rb st => some (0x07 + a.val * 2 ^ 8 + b.val * 2 ^ 12 + rb.toNat * 2 ^ 20 +
      r.toNat * 2 ^ 32 + k.toNat * 2 ^ 42 + c.toNat * 2 ^ 48 + st.toNat * 2 ^ 64)
  | .hwwait k c n => some (0x08 + n.toNat * 2 ^ 20 + k.toNat * 2 ^ 42 + c.toNat * 2 ^ 48)
  | .hsig core dev s inc => some (0x09 + s.toNat * 2 ^ 20 + core.toNat * 2 ^ 32 + dev.toNat * 2 ^ 42 +
      inc.toNat * 2 ^ 64)
  | .hjmp o => some (0x0A + o.toNat * 2 ^ 32)
  | .hnop => some 0x0B
  | .hstop => some 0x0C
  | _ => none

/-- The words of an instruction of a thread, the first at the lowest address (R124, R133, R137, R138); none for
a step that has no words. -/
def encode (i : Instr) : Option (List Nat) :=
  match i with
  | .lix d p imm => some [0xC4000000 + d.val * 2 ^ 22 + p.val * 2 ^ 18, imm.toNat]
  | i =>
    match encodeScalar i with
    | some w => some [w]
    | none => encodeBundle i

end Sys2Proof
end

