-- ==== Sys2Proof/Machine/Numfmt.lean ====
section
/-! DEFINITION. Exact values, formats and rounding (R58 to R82): every arithmetic result of the machine goes
through `roundFmt` once. -/

namespace Sys2Proof.Machine

/-- An exact value (R58): a signed dyadic number m · 2^e, with m = 0 for a signed zero, an infinity or NaN. -/
inductive EV where
  | fin (neg : Bool) (m : Nat) (e : Int)
  | inf (neg : Bool)
  | nan
  deriving DecidableEq, Repr, Inhabited

/-- A floating-point format: exponent bits, fraction bits, bias, largest finite magnitude code, whether it has
infinities and NaNs, the canonical NaN (R59, R62, R63). -/
structure FF where
  eb : Nat
  fb : Nat
  bias : Nat
  maxc : Nat
  hasInf : Bool
  nan : Nat
  deriving DecidableEq, Repr

/-- Formats of R59 and R62. -/
def ffF64 : FF := ⟨11, 52, 1023, 0x7FEFFFFFFFFFFFFF, true, 0x7FF8000000000000⟩
def ffF32 : FF := ⟨8, 23, 127, 0x7F7FFFFF, true, 0x7FC00000⟩
def ffF16 : FF := ⟨5, 10, 15, 0x7BFF, true, 0x7E00⟩
def ffBf16 : FF := ⟨8, 7, 127, 0x7F7F, true, 0x7FC0⟩
def ffE5m2 : FF := ⟨5, 2, 15, 0x7B, true, 0x7E⟩
def ffE4m3 : FF := ⟨4, 3, 7, 0x7E, false, 0x7F⟩
def ffA34 : FF := ⟨10, 23, 511, 0x1FF7FFFFF, true, 0x1FFC00000⟩

/-- Element formats of R63, which have neither infinities nor NaNs. -/
def ffE2m3 : FF := ⟨2, 3, 1, 0x1F, false, 0⟩
def ffE3m2 : FF := ⟨3, 2, 3, 0x1F, false, 0⟩
def ffE2m1 : FF := ⟨2, 1, 1, 0x7, false, 0⟩

/-- The floating-point format of a format code, or none for an integer or Lenlas format (R65). For MX codes it is
the element format. -/
def ffOf : Nat → Option FF
  | 0x00 => some ffF32
  | 0x01 => some ffF16
  | 0x02 => some ffBf16
  | 0x03 => some ffE4m3
  | 0x04 => some ffE5m2
  | 0x06 => some ffE4m3
  | 0x07 => some ffE5m2
  | 0x08 => some ffE2m3
  | 0x09 => some ffE3m2
  | 0x0A => some ffE2m1
  | 0x0E => some ffF64
  | 0x12 => some ffA34
  | _ => none

/-- The sign bit of a code of a format. -/
def FF.sign (f : FF) (x : Nat) : Bool := x / 2 ^ (f.eb + f.fb) % 2 == 1

/-- The magnitude bits of a code. -/
def FF.mag (f : FF) (x : Nat) : Nat := x % 2 ^ (f.eb + f.fb)

/-- The code of +∞ as a magnitude (R59). -/
def FF.infc (f : FF) : Nat := (2 ^ f.eb - 1) * 2 ^ f.fb

/-- Whether a code is a NaN (R59): in E4M3 only the code with every bit of exponent and fraction set. -/
def FF.isNan (f : FF) (x : Nat) : Bool :=
  if f.hasInf then decide (f.infc < f.mag x) else f.nan != 0 && f.mag x == f.nan

/-- Whether a code is a signalling NaN (R60). -/
def FF.isSnan (f : FF) (x : Nat) : Bool := f.hasInf && f.isNan x && x / 2 ^ (f.fb - 1) % 2 == 0

/-- The exact value of a code (R59, R62). -/
def FF.value (f : FF) (x : Nat) : EV :=
  let m := f.mag x
  let s := f.sign x
  if f.isNan x then .nan
  else if f.hasInf && m == f.infc then .inf s
  else
    let e := m / 2 ^ f.fb
    let fr := m % 2 ^ f.fb
    if e = 0 then .fin s fr (1 - (f.bias : Int) - f.fb)
    else .fin s (2 ^ f.fb + fr) ((e : Int) - f.bias - f.fb)

/-- Number of bits of a number. -/
def bitLen (n : Nat) : Nat := if n = 0 then 0 else Nat.log2 n + 1

/-- Flags of R69. -/
def flagNV : BitVec 5 := 0b10000#5
def flagOF : BitVec 5 := 0b01000#5
def flagUF : BitVec 5 := 0b00100#5
def flagNX : BitVec 5 := 0b00010#5

/-- Whether a value n + r / 2^s between n and n + 1 in magnitude rounds away from zero (R67, R71). `draw` is the
word of stochastic rounding. -/
def roundsUp (rm : Rm) (neg : Bool) (n r s draw : Nat) : Bool :=
  match rm with
  | .rne => decide (2 ^ s < 2 * r) || (2 * r == 2 ^ s && n % 2 == 1)
  | .rtz => false
  | .rdn => neg && r != 0
  | .rup => !neg && r != 0
  | .sr => r != 0 && decide (draw < r * 2 ^ 32 / 2 ^ s)

/-- A magnitude m · 2^e rounded onto the grid of 2^q: the multiple, and whether it differs from the value. -/
def roundGrid (rm : Rm) (neg : Bool) (m : Nat) (e q : Int) (draw : Nat) : Nat × Bool :=
  if q ≤ e then (m * 2 ^ (e - q).toNat, false)
  else
    let s := (q - e).toNat
    let n := m / 2 ^ s
    let r := m % 2 ^ s
    (if roundsUp rm neg n r s draw then n + 1 else n, r != 0)

/-- A code with its sign bit. -/
def FF.withSign (f : FF) (neg : Bool) (mag : Nat) : Nat := (if neg then 2 ^ (f.eb + f.fb) else 0) + mag

/-- Result of a rounding that overflows (R68). -/
def FF.overflow (f : FF) (neg : Bool) (rm : Rm) (sat : Bool) : Nat :=
  let max := f.withSign neg f.maxc
  let inf := if f.hasInf then f.withSign neg f.infc else f.nan
  if sat then max
  else match rm with
    | .rne => inf
    | .sr => inf
    | .rtz => max
    | .rdn => if neg then inf else max
    | .rup => if neg then max else inf

/-- round_fmt into a floating-point format (R58, R67 to R69). -/
def FF.round (f : FF) (v : EV) (rm : Rm) (sat : Bool) (draw : Nat) : Nat × BitVec 5 :=
  match v with
  | .nan => (f.nan, 0#5)
  | .inf neg =>
    if sat then (f.withSign neg f.maxc, flagNX)
    else if f.hasInf then (f.withSign neg f.infc, 0#5)
    else (f.nan, flagNV)
  | .fin neg 0 _ => (f.withSign neg 0, 0#5)
  | .fin neg m e =>
    let emin : Int := 1 - f.bias
    let x : Int := e + bitLen m - 1
    let ex := if x < emin then emin else x
    let (n, inexact) := roundGrid rm neg m e (ex - f.fb) draw
    let code := ((ex + f.bias).toNat - 1) * 2 ^ f.fb + n
    if f.maxc < code then (f.overflow neg rm sat, flagOF ||| flagNX)
    else
      let free := (roundGrid rm neg m e (x - f.fb) draw).1
      let tiny := x < emin - 1 || (x = emin - 1 && free < 2 ^ (f.fb + 1))
      let fl := if inexact then (if tiny then flagUF ||| flagNX else flagNX) else 0#5
      (f.withSign neg code, fl)

/-- Width of an integer format code (R61, R65). -/
def intBits : Nat → Nat
  | 0x05 => 8
  | 0x10 => 32
  | _ => 64

/-- round_fmt into an integer format of `w` bits (R70). -/
def roundInt (w : Nat) (v : EV) (rm : Rm) (draw : Nat) : Nat × BitVec 5 :=
  let code (z : Int) : Nat := (z % (2 ^ w : Nat)).toNat
  let hi : Int := (2 ^ (w - 1) : Nat) - 1
  let lo : Int := -(2 ^ (w - 1) : Nat)
  match v with
  | .nan => (0, flagNV)
  | .inf neg => (code (if neg then lo else hi), flagNV)
  | .fin neg m e =>
    let (n, inexact) := roundGrid rm neg m e 0 draw
    let z : Int := if neg then -(n : Int) else n
    if z < lo then (code lo, flagNV)
    else if hi < z then (code hi, flagNV)
    else (code z, if inexact then flagNX else 0#5)

/-- An integer as an exact value. -/
def evInt (z : Int) : EV := .fin (decide (z < 0)) z.natAbs 0

/-- value(x, f) of a format code that is not a block format (R58, R59, R61, R62). -/
def valueOf (f x : Nat) : EV :=
  match ffOf f with
  | some ff => ff.value x
  | none => evInt (signedOf (intBits f) x)

/-- Whether bits are a signalling NaN of a format code (R60). -/
def snanOf (f x : Nat) : Bool :=
  match ffOf f with
  | some ff => ff.isSnan x
  | none => false

/-- round_fmt by format code, with the word of stochastic rounding (R58). -/
def roundFmt (v : EV) (f : Nat) (rm : Rm) (sat : Bool) (draw : Nat) : Nat × BitVec 5 :=
  match ffOf f with
  | some ff => ff.round v rm sat draw
  | none => roundInt (intBits f) v rm draw

/-- One round of Philox4x32 (R72). -/
def philoxRound (c0 c1 c2 c3 k0 k1 : Nat) : Nat × Nat × Nat × Nat :=
  let m0 := 0xD2511F53 * c0
  let m1 := 0xCD9E8D57 * c2
  (Nat.xor (Nat.xor (m1 / 2 ^ 32) c1) k0, m1 % 2 ^ 32, Nat.xor (Nat.xor (m0 / 2 ^ 32) c3) k1, m0 % 2 ^ 32)

/-- The rounds of Philox4x32-10 (R72). -/
def philoxRounds : Nat → Nat → Nat → Nat → Nat → Nat → Nat → Nat × Nat × Nat × Nat
  | 0, c0, c1, c2, c3, _, _ => (c0, c1, c2, c3)
  | n + 1, c0, c1, c2, c3, k0, k1 =>
    let (d0, d1, d2, d3) := philoxRound c0 c1 c2 c3 k0 k1
    philoxRounds n d0 d1 d2 d3 ((k0 + 0x9E3779B9) % 2 ^ 32) ((k1 + 0xBB67AE85) % 2 ^ 32)

/-- philox(c, k) (R72). -/
def philox (c0 c1 c2 c3 k0 k1 : Nat) : Nat × Nat × Nat × Nat := philoxRounds 10 c0 c1 c2 c3 k0 k1

/-- sr_word(key, stream, e) (R72). -/
def srWord (key stream e : Nat) : Nat :=
  let q := e / 4
  let (w0, w1, w2, w3) := philox (q % 2 ^ 32) (q / 2 ^ 32 % 2 ^ 32) (stream % 2 ^ 32) (stream / 2 ^ 32 % 2 ^ 32)
    (key % 2 ^ 32) (key / 2 ^ 32 % 2 ^ 32)
  match e % 4 with
  | 0 => w0
  | 1 => w1
  | 2 => w2
  | _ => w3

/-- The signed integer of a finite value on the grid 2^q, with q at most its exponent. -/
def evScaled (q : Int) : EV → Int
  | .fin neg m e =>
    let n : Int := (m * 2 ^ (e - q).toNat : Nat)
    if neg then -n else n
  | _ => 0

/-- The exponent of a finite non-zero value, else the bound. -/
def evExp (d : Int) : EV → Int
  | .fin _ 0 _ => d
  | .fin _ _ e => if e < d then e else d
  | _ => d

/-- exact_sum(t) (R77): +0 for no terms (R260). DEDUCED, log 66. -/
def exactSum (t : List EV) : EV :=
  if t.any (· == .nan) || (t.any (· == .inf false) && t.any (· == .inf true)) then .nan
  else if t.any (· == .inf false) then .inf false
  else if t.any (· == .inf true) then .inf true
  else
    let q := t.foldl evExp 0
    let z := t.foldl (fun a v => a + evScaled q v) (0 : Int)
    if z = 0 then
      .fin (!t.isEmpty && t.all fun v => match v with
        | .fin true 0 _ => true
        | _ => false) 0 0
    else .fin (decide (z < 0)) z.natAbs q

/-- mul(x, y, 2^g) (R77). -/
def evMul (x y : EV) (g : Int) : EV :=
  match x, y with
  | .nan, _ => .nan
  | _, .nan => .nan
  | .inf s, .inf t => .inf (s != t)
  | .inf s, .fin t m _ => if m = 0 then .nan else .inf (s != t)
  | .fin s m _, .inf t => if m = 0 then .nan else .inf (s != t)
  | .fin s m e, .fin t n f => .fin (s != t) (m * n) (e + f + g)

/-- A value with its sign changed. -/
def evNeg : EV → EV
  | .fin s m e => .fin (!s) m e
  | .inf s => .inf (!s)
  | .nan => .nan

/-- The absolute value. -/
def evAbs : EV → EV
  | .fin _ m e => .fin false m e
  | .inf _ => .inf false
  | .nan => .nan

/-- A value times 2^g. -/
def evScale (g : Int) : EV → EV
  | .fin s m e => .fin s m (e + g)
  | v => v

/-- Order of two values that are not NaN: less, with ±0 equal. -/
def evLt (x y : EV) : Bool :=
  match x, y with
  | .nan, _ => false
  | _, .nan => false
  | .inf s, .inf t => s && !t
  | .inf s, .fin _ _ _ => s
  | .fin _ _ _, .inf t => !t
  | .fin s m e, .fin t n f =>
    let q := if e < f then e else f
    decide (evScaled q (.fin s m e) < evScaled q (.fin t n f))

/-- Equality of two values that are not NaN, with ±0 equal. -/
def evEq (x y : EV) : Bool := x != .nan && y != .nan && !evLt x y && !evLt y x

/-- round_rne(v, f) (R82). -/
def roundRne (v : EV) (f : FF) : Nat := (f.round v .rne false 0).1

/-- a34_add (R82). -/
def a34Add (x y : Nat) : Nat := roundRne (exactSum [ffA34.value x, ffA34.value y]) ffA34

/-- floor(log2) of the magnitude of a finite non-zero value. -/
def evLog2 : EV → Int
  | .fin _ m e => e + bitLen m - 1
  | _ => 0

/-- The finite value of largest magnitude in a list, or +0. -/
def evMax (vs : List EV) : EV := vs.foldl (fun a v => if evLt (evAbs a) (evAbs v) then v else a) (.fin false 0 0)

/-- Special operands of a block encode (R73): none when the block is a NaN block, else the finite operands. `maxf`
is the largest finite value of the source format. -/
def blockSpecials (vs : List (EV × Bool)) (sat : Bool) (maxf : EV) : Option (List EV) × BitVec 5 :=
  let nan := vs.any fun v => v.1 == .nan
  let snan := vs.any fun v => v.2
  let inf := vs.any fun v => v.1 == .inf false || v.1 == .inf true
  if nan then (none, (if snan || (inf && !sat) then flagNV else 0#5) ||| (if inf && sat then flagNX else 0#5))
  else if inf && !sat then (none, flagNV)
  else
    (some (vs.map fun v => match v.1 with
      | .inf s => if s then evNeg maxf else maxf
      | x => x), if inf then flagNX else 0#5)

/-- emax of an MX element format (R74). -/
def mxEmax : Nat → Int
  | 0x06 => 8
  | 0x07 => 15
  | 0x08 => 2
  | 0x09 => 4
  | _ => 2

/-- Flags that a block encode reports (R69): never UF. -/
def noUF (f : BitVec 5) : BitVec 5 := f &&& ~~~flagUF

/-- mx_encode of 32 operands: element codes, scale code, flags (R74). `draw j` is the word of element j. The element codes
of a NaN block are 0 (R73). DESIGN CHOICE, log 96. -/
def mxEncode (f : Nat) (vs : List (EV × Bool)) (rm : Rm) (sat : Bool) (maxf : EV) (draw : Nat → Nat) :
    List Nat × Nat × BitVec 5 :=
  match blockSpecials vs sat maxf with
  | (none, fl) => (vs.map fun _ => 0, 0xFF, fl)
  | (some ws, fl) =>
    let amax := evMax ws
    let x0 : Int := match amax with
      | .fin _ 0 _ => -127
      | v => evLog2 v - mxEmax f
    let x : Int := if x0 < -127 then -127 else if 127 < x0 then 127 else x0
    let rs := ws.zipIdx.map fun (v, j) => roundFmt (evScale (-x) v) f rm true (draw j)
    (rs.map (·.1), (x + 127).toNat, noUF (rs.foldl (fun a r => a ||| r.2) fl))

/-- Magnitude bits of a Lenlas element (R64). -/
def lbBits : Nat → Nat
  | 0x0B => 7
  | 0x0C => 4
  | _ => 2

/-- The magnitude of a finite value on the grid 2^q, rounded with its own sign (R75). -/
def lbRound (rm : Rm) (q : Int) (v : EV) (draw : Nat) : Nat × Bool :=
  match v with
  | .fin neg m e => roundGrid rm neg m e q draw
  | _ => (0, false)

/-- lb_encode of 16 operands as the number of the block's bits, with flags (R75). -/
def lbEncode (f : Nat) (vs : List (EV × Bool)) (rm : Rm) (sat : Bool) (maxf : EV) (draw : Nat → Nat) :
    Nat × BitVec 5 :=
  let m := lbBits f
  match blockSpecials vs sat maxf with
  | (none, fl) => (0xFF, fl)
  | (some ws, fl) =>
    let iws := ws.zipIdx
    let amax := evMax ws
    let x0 : Int := match amax with
      | .fin _ 0 _ => -127
      | v => evLog2 v
    let grows := iws.any fun (v, j) =>
      evEq (evAbs v) (evAbs amax) && (lbRound rm (x0 - m + 1) v (draw j)).1 == 2 ^ m
    let x : Int := if grows then x0 + 1 else x0
    let e : Int := if x + 127 < 0 then 0 else if 254 < x + 127 then 254 else x + 127
    let fine (p : Nat) : Bool := iws.all fun (v, j) =>
      j / 2 != p || decide ((lbRound rm (e - 128 - (m - 1)) v (draw j)).1 ≤ 2 ^ m - 1)
    let code (v : EV) (j : Nat) : Nat × BitVec 5 :=
      let mu : Int := if fine (j / 2) then 1 else 0
      let (n, inexact) := lbRound rm (e - 127 - mu - (m - 1)) v (draw j)
      let big := decide (2 ^ m - 1 < n)
      let n' := if big then 2 ^ m - 1 else n
      let s := match v with
        | .fin true _ _ => 2 ^ m
        | _ => 0
      (s + n', if big then flagOF ||| flagNX else if inexact then flagNX else 0#5)
    let cs := iws.map fun (v, j) => code v j
    let mus := (List.range 8).foldl (fun a p => a + if fine p then 2 ^ (8 + p) else 0) 0
    let els := cs.zipIdx.foldl (fun a (c, j) => a + c.1 * 2 ^ (16 + (m + 1) * j)) 0
    (e.toNat + mus + els, cs.foldl (fun a c => a ||| c.2) fl)

/-- Element j of a Lenlas block given as the number of its bits (R64). -/
def lbValue (f blk j : Nat) : EV :=
  let m := lbBits f
  let e := blk % 256
  if e = 0xFF then .nan
  else
    let mu := blk / 2 ^ (8 + j / 2) % 2
    let c := blk / 2 ^ (16 + (m + 1) * j) % 2 ^ (m + 1)
    .fin (decide (2 ^ m ≤ c)) (c % 2 ^ m) ((e : Int) - 127 - mu - (m - 1))

/-- An MX element with its E8M0 scale (R63). -/
def mxValue (f code scale : Nat) : EV :=
  if scale = 0xFF then .nan else evScale ((scale : Int) - 127) (valueOf f code)

/-- The largest finite value of a source format (R73). -/
def maxFinite (f : Nat) : EV :=
  match ffOf f with
  | some ff => ff.value ff.maxc
  | none => .fin false 0 0

end Sys2Proof.Machine
end

