-- ==== Sys2Proof/Config.lean ====
section
/-! DEFINITION. What the LNT-1024 fixes for every package (R1, R9 to R15, R83) and the free values
that the manual leaves open. A free value is an opaque constant: nothing can be proved of it. -/

namespace Sys2Proof.Config

/-- Clusters of the package (R9): 4 dies of 32. -/
def clusters : Nat := 128

/-- Cores of a cluster (R9). -/
def coresPerCluster : Nat := 8

/-- Cores of the package (R1). -/
def cores : Nat := 1024

/-- Slots of a core (R1). -/
def slots : Nat := 256

/-- First user slot (R12). -/
def firstUser : Nat := 4

/-- Bytes of a TCM (R83). -/
def tcmBytes : Nat := 262144

/-- Bytes of a scratchpad (R83). -/
def spadBytes : Nat := 16777216

/-- Bytes of the shared SRAM of one die (R83). -/
def sramBytes : Nat := 134217728

/-- Bytes of HBM: twelve stacks of 64 GB, with GB a power of 1,000 (R1, R4, R83). DEDUCED, log 6. -/
def hbmBytes : Nat := 768000000000

/-- Hods of the package (R271). -/
def hods : Nat := 48

/-- Programs of one hod (R271). -/
def hodPrograms : Nat := 32

/-- Packets of an inbox (R11). -/
def inboxSize : Nat := 256

/-- Entries of the request egress queue (R11, R210). -/
def egressSize : Nat := 64

/-- Most outstanding requests of a core (R185). -/
def outstandingMax : Nat := 64

/-- Watch entries of a core (R194). -/
def watchEntries : Nat := 64

/-- Device-time units of 2^-16 ns that one cycle advances (R396). -/
def cycleUnits : Nat := 0x8000

/-- FREE VALUE. Cycles that the n-th message takes beyond the first; the manual fixes no mesh,
memory or fabric latency (R83, R220). Log 7. -/
opaque latency : Nat → Nat

/-- FREE VALUE. The seed that the entropy source draws for the n-th request (R181). Log 8. -/
opaque entropy : Nat → Word

/-- FREE VALUE. A byte whose value the manual leaves undefined (R91, R181). Log 9. -/
opaque freeByte : Nat → Byte

/-- FREE VALUE. Cycles after which a slot of a core with a stopped clock is READY, before the bound of
32 cycles is applied (R336). Log 10. -/
opaque wakeDelay : Nat → Nat

/-- FREE VALUE. The frequency correction that the servo holds after the n-th sync (R398). Log 11. -/
opaque servoRate : Nat → Word

/-- FREE VALUE. How far behind the upstream, at most 1 ms, a forward step of the servo leaves device
time, in 2^-16 ns, before the bound is applied (R398). Log 11. -/
opaque servoResidue : Nat → Nat

/-- UNINTERPRETED. SHA-384 of a message (R411, R414). Log 12. -/
opaque sha384 : List Byte → BitVec 384

/-- UNINTERPRETED. Ed25519 verification of a signature: key, message, signature (R411). Log 12. -/
opaque edVerify : List Byte → List Byte → List Byte → Bool

/-- UNINTERPRETED. ML-DSA-65 verification of a signature: key, message, signature (R411). Log 12. -/
opaque mlVerify : List Byte → List Byte → List Byte → Bool

/-- UNINTERPRETED. Byte n of the Ed25519 signature of the security block over a message (R415). Log 12. -/
opaque edSign : List Byte → Nat → Byte

/-- UNINTERPRETED. Byte n of the ML-DSA-65 signature of the security block over a message (R415). Log 12. -/
opaque mlSign : List Byte → Nat → Byte

/-- FREE VALUE. Whether the n-th training of the HBM and of a unit succeeds (R410 step 3). Log 13. -/
opaque trainOk : Nat → Bool

/-- FREE VALUE. Whether the branch of the mesh toward a member of a multicast fails, by the number of the draw (R267): 1 modulo
4 before the member's claim, 2 after it, else it works. Log 77. -/
opaque branchFails : Nat → Nat

/-- FREE VALUE. Which of the versions of a 16-byte entry that R281 leaves possible an execution uses, by the number of the draw,
before it is taken modulo their count. Log 93. -/
opaque entryVersion : Nat → Nat

/-- FREE VALUE. What rd of a SPAWN to another device holds when the packet never reaches its target, by the number of the
request: R196 gives no status for it. Log 79. -/
opaque spawnLost : Nat → Word

/-- FREE VALUE. The island that a platform write of a value to a register number sets, with its clock in steps of 125 MHz; none
where it sets none: R416 gives no register. Log 60. -/
opaque islandWrite : Nat → Word → Option (Nat × Nat)

end Sys2Proof.Config
end

