-- ==== Sys2Proof/Machine/State.lean ====
section
/-! DEFINITION. The state of one package as plain data: threads and slots (R20 to R26), cores (R11), clusters
(R88, R93, R102), hods (R271), memory (R83), messages in flight (R118), partitions (R357) and the package
(R389 to R417), with the state right after package reset (R410 step 1). -/

namespace Sys2Proof.Machine

/-- Why a step stops without a next state. -/
inductive Fault where
  /-- An instruction of a thread is executed while the current slot holds no thread. Raised by the wrapper of
  every thread instruction. Safe: no step of a core issues from such a slot. -/
  | noThread
  deriving DecidableEq, Repr

/-- Why an instruction has no meaning here. -/
inductive Refusal where
  /-- The instruction of this mnemonic has no meaning yet. Raised by its arm in Dispatch.lean. Safe. -/
  | notModelled (mnemonic : String)
  deriving DecidableEq, Repr

/-- States of a slot (R26). HELD is the slot's `isHeld`. -/
inductive SlotSt where
  | free | ready | waiting | visiting
  deriving DecidableEq, Repr, Inhabited

/-- Resources whose lack keeps an instruction from issuing (R142 step 6, R218). -/
inductive Res where
  | mxeq | vxeq | gceq | hodq | mniq | outstanding | readers | watch | credit | egress | ecall
  deriving DecidableEq, Repr, Inhabited

/-- A trap record (R328) without its EPC where the thread's PC gives it. -/
structure TrapRec where
  cause : Nat
  flags : Nat
  sem : Nat
  more : Nat
  epc : Nat
  tval : Word
  detail : Word
  deriving DecidableEq, Repr, Inhabited

/-- What a WAITING slot waits for. -/
inductive Wait where
  | none
  /-- An EMPTY or RESERVED register (R23). -/
  | reg (r : Nat)
  /-- WAIT (R54), WAITA (R56), WAITT (R216), WATCH (R194). -/
  | sem (s : Nat)
  | tile (ring idx : Nat)
  | time (t : Nat)
  | watch (key : Nat) (va : Word) (reg : Nat) (hit : Bool)
  /-- A resource (R142 step 6). -/
  | res (r : Res)
  /-- A page walk (R188), counted for a load (R218). -/
  | walk (uid : Nat) (counted : Bool)
  /-- The fixed waits of division and YIELD: the first cycle in which the slot is READY (R158, R200). -/
  | divide (ready : Nat)
  | yield (ready : Nat)
  /-- Data of a load (R187), of one from an own store that waits for an earlier access (R110), or the packet that a SPAWN
  reads from another device (R196), by its name. -/
  | load (tag : Nat)
  | loadOwn (tag : Nat)
  | fetch (tag : Nat)
  /-- FENCE at a scope, EXIT, an aborted or cancelled thread on its way to retirement (R31, R331, R41). -/
  | fence (scope : Nat)
  | exit
  | abort (r : TrapRec)
  | cancel
  /-- A migration or a release that waits for the thread's RESERVED registers and earlier accesses (R34, R112). -/
  | drain
  /-- A counter command or an attestation report that follows the thread's earlier accesses: counted with what comes after (R218,
  R373, R415). -/
  | drainCsr
  /-- FORK appending to a QCB; ENQ with its predicate, its QCB (by address, and by key once it has claimed) and its claim;
  an ENQ that pre-emption has parted from its thread (R219); SUBS with its group and ring; TLBI (R376, R201, R214, R340). -/
  | fork
  | enq (pd qcb claim : Nat) (claimed : Bool)
  | enqAway
  | subs (tag : Nat) (leave : Bool) (ring : Nat)
  /-- A counter command or an attestation report until the cycle given (R373, R415). -/
  | counted (ready : Nat)
  | tlbi (due : Nat)
  | idle
  /-- A time-division send until its window (R402). -/
  | window (msg : Nat)
  deriving DecidableEq, Repr, Inhabited

/-- A request to another device that is not answered: its name, the thread and the ASID that made it, whether it is an
acquire (R112). -/
structure RemoteAsk where
  uid : Nat
  thread : Nat
  asid : Nat
  acq : Bool
  deriving DecidableEq, Repr, Inhabited

/-- One slot with the attributes that belong to it (R25, R26) and the trap registers of slots 0 to 3 (R333, R338). -/
structure Slot where
  st : SlotSt
  isHeld : Bool
  thread : Option Thread
  asid : BitVec 14
  egt : Bool
  limit : BitVec 32
  age : Nat
  satCycle : Nat
  waitCount : Nat
  limitHit : Bool
  cancelled : Bool
  lastIssue : Option Nat
  readyAt : Nat
  wait : Wait
  /-- A packet that came from another device (R196). -/
  fetched : Option Nat
  /-- Home core, home slot of a thread on a visit here (R37). -/
  visitFrom : Option (Nat × Nat)
  sin : Bool
  tvec : Pc
  epc : Pc
  cause : Word
  tval : Word
  detail : Word
  deriving DecidableEq, Repr

/-- A slot after reset and for every slot that the sparse map of a core does not list. -/
def Slot.fresh : Slot :=
  { st := .free, isHeld := false, thread := none, asid := 0#14, egt := false, limit := 0#32, age := 0,
    satCycle := 0, waitCount := 0, limitHit := false, cancelled := false, lastIssue := none, readyAt := 0,
    wait := .none, fetched := none, visitFrom := none, sin := false, tvec := 0#48, epc := 0#48, cause := 0#64,
    tval := 0#64, detail := 0#64 }

/-- A deferred error of a command: cause, TVAL, DETAIL (R244, R332). -/
structure DefErr where
  cause : Nat
  tval : Word
  detail : Word
  deriving DecidableEq, Repr, Inhabited

/-- A semaphore: value, sticky overflow, held error with the count of later ones (R53, R54, R244). -/
structure Sem where
  val : BitVec 32
  ovf : Bool
  err : Option (DefErr × Nat)
  deriving DecidableEq, Repr, Inhabited

/-- Reset value of a semaphore (R53). -/
def Sem.zero : Sem := { val := 0#32, ovf := false, err := none }

/-- A reference of a command to a tile: ring, index, tile slot (R100). -/
structure TileRef where
  ring : Nat
  idx : Nat
  slot : Nat
  deriving DecidableEq, Repr, Inhabited

/-- A command in an engine queue or in an engine (R141, R220, R236, R249, R272, R287). -/
structure Cmd where
  uid : Nat
  core : Nat
  slot : Nat
  thread : Nat
  asid : Nat
  user : Bool
  op : Instr
  x : Bundle
  /-- Fields A and B as formed at issue, and whether a register-free form was not one (R139). -/
  a : Word
  b : Word
  aBad : Bool
  bBad : Bool
  fmt : Word32
  sca : Word32
  scb : Word32
  refs : List TileRef
  /-- The refusal of a ring, tile or reference at issue (R100). -/
  refused : Option DefErr
  /-- The cycle of its issue; whether it has started; its retirement cycle (R101) and whether it has retired; the
  first cycle in which it may start, and once started the cycle in which it signals. -/
  issued : Nat
  started : Bool
  retireAt : Nat
  retired : Bool
  due : Nat
  /-- Steps or rows done (R221) and elements done (R268); rows whose effect is made, the resume point of R246; whether a
  write goes to a store that is not local. -/
  steps : Nat
  rows : Nat
  far : Bool
  err : Option DefErr
  flags : BitVec 5
  /-- Copied records of a grid command: descriptor, level table, stencil table or index list (R249). -/
  desc : List Byte
  ltab : List Byte
  tab : List Byte
  tabBad : Bool
  /-- Rings that a grid command fills, by cluster and ring, those of a multicast that failed (R263, R265, R267), the
  CAUSE with which its tiles to come are poisoned (R264), whether a cancel stops it (R270) or a hold has stopped it at its
  resume point (R246). -/
  members : List (Nat × Nat)
  fail : Nat
  poison : Option Nat
  stop : Bool
  deriving DecidableEq, Repr

/-- A mortar chain (R284 to R297): state 0 FREE, 1 OPEN, 2 COMPLETE. -/
structure Chain where
  st : Nat
  gen : BitVec 8
  fix : Bool
  n : Nat
  look : Nat
  qtr : Nat
  base : Int
  csem : Nat
  asid : Nat
  /-- Joined positions with the core and binding that joined, and whether they were admitted. -/
  joined : List (Nat × Nat × Nat × Bool)
  /-- One past the highest admitted position. -/
  admitTo : Nat
  /-- Positions whose rows are all applied; rows applied at each position. -/
  done : Nat
  rows : SMap Nat
  /-- Positions that hold a lookahead quarter; stored lookahead rows: position, row, values. -/
  held : List Nat
  stored : List (Nat × Nat × List Nat)
  /-- SEQ: running sum by element. FIX: cell by element, an integer and five flags NAN PINF NINF NZ OUT. -/
  acc : SMap Nat
  cells : SMap (Int × BitVec 5)
  /-- Beats accepted of each position. -/
  accepted : SMap Nat
  deriving DecidableEq, Repr

/-- A FREE chain slot of generation 0. -/
def Chain.free : Chain :=
  { st := 0, gen := 0#8, fix := false, n := 0, look := 0, qtr := 0, base := 0, csem := 0, asid := 0,
    joined := [], admitTo := 0, done := 0, rows := [], held := [], stored := [], acc := [], cells := [], accepted := [] }

/-- A binding of the MNI that no MSUM has consumed (R286): receiving core, chain slot, position, GEN at join, whether the
position is admitted, the staging quarter, whether an eviction notice has come. -/
structure Binding where
  core : Nat
  chain : Nat
  pos : Nat
  gen : Nat
  asid : Nat
  admitted : Bool
  stg : Option Nat
  evicted : Bool
  deriving DecidableEq, Repr

/-- An MSUM on its way (R292): the binding number, the binding it consumed, whether its rows leave as the MXE reads
them, the first cycle in which the next row may leave, and the rows that have not left. -/
structure Send where
  num : Nat
  bind : Binding
  direct : Bool
  next : Nat
  rows : List (Nat × List Nat)
  deriving DecidableEq, Repr

/-- A cached translation (R356): ASID, lowest virtual address, bytes of the page, leaf entry. -/
structure TlbEntry where
  asid : Nat
  va : Nat
  size : Nat
  leaf : Nat
  level : Nat
  deriving DecidableEq, Repr, Inhabited

/-- A deque entry that a FORK has taken and not yet published (R197): packet and side record. -/
structure ForkEntry where
  slot : Nat
  thread : Nat
  asid : Nat
  words : Vector Word 8
  a0 : Word
  a1 : Word
  uid : Nat
  deriving DecidableEq, Repr

/-- A record of the decision trace (R378). -/
structure TraceRec where
  tns : Nat
  kind : Nat
  slot : Nat
  peer : Nat
  ccid : Nat
  asid : Nat
  arg : Word
  pc : Word
  deriving DecidableEq, Repr, Inhabited

/-- Modes of a core: held after package reset, pre-emption states (R380), debug halt (R347), held by HALT (R362). -/
inductive CoreMode where
  | resetHeld | running | stopping | saving | preempted | restoring | debugHalt | partHalt
  deriving DecidableEq, Repr, Inhabited

/-- Networks (R118, R210, R211, R336). -/
inductive Net where
  | request | reply | control | mortar | timediv
  deriving DecidableEq, Repr, Inhabited

/-- A message in flight, in an inbox or in a spill queue. `egress`: still in the request egress queue of its
core (R210); `due`: the first cycle in which it can arrive; `part`: the partition of this package that it comes from or
goes to; `rpart`: that of another package; `thread`: the name of the sending thread, 0 for the hardware (R118); `ask`: the
name of the request that an answer answers; `towards`: the name of the thread that an answer is for, else 0. -/
structure Msg where
  uid : Nat
  sdev : Nat
  score : Nat
  sslot : Nat
  thread : Nat
  ddev : Nat
  dcore : Nat
  net : Net
  asid : Nat
  part : Nat
  rpart : Nat
  ask : Nat
  towards : Nat
  egress : Bool
  due : Nat
  body : MsgBody
  deriving DecidableEq, Repr

/-- A pre-emption or resumption under way (R343, R380 to R386): its request, the ASID of the pre-empting launch, the save
set, the image's address, SEQ, SIZE, the first cycle of the next phase. -/
structure CoreOp where
  req : Msg
  launchAsid : Nat
  tiles : Nat
  blocks : Nat
  image : Nat
  seq : Nat
  bytes : Nat
  due : Nat
  deriving DecidableEq, Repr

/-- An eviction whose notices are not all acknowledged: chain, GEN, ASID, the core and the command of the CHEVICT that asked for
it, and the positions whose acknowledgement is to come (R304). -/
structure Eviction where
  chain : Nat
  gen : Nat
  asid : Nat
  issuer : Option (Nat × Nat)
  left : List Nat
  deriving DecidableEq, Repr, Inhabited

/-- One core (R11). -/
structure Core where
  mode : CoreMode
  slots : SMap Slot
  sems : SMap Sem
  rot : Bool
  utrec : Word
  ecq : Word
  ecqh : BitVec 32
  ecqt : BitVec 32
  qwd : Word
  scrub : BitVec 32
  abortc : Word
  dbgctl : BitVec 2
  softErr : SMap Word
  rotTab : SMap (BitVec 16)
  lanes : SMap (BitVec 9)
  lattr : Word
  spq : Word
  dqb : Word
  chan : Word
  inbox : List Msg
  visitBox : List Msg
  spill : List Msg
  spillCount : Nat
  /-- Whether the core still delivers what was diverted while it was held (R386), and the first cycle in which the next
  entry may be delivered. -/
  draining : Bool
  spillNext : Nat
  outstanding : Nat
  /-- Requests to other devices that are not answered (R112, R193). -/
  remote : List RemoteAsk
  misdelivered : Nat
  forkQ : List ForkEntry
  /-- Quiescence count, whether it has fired since its last reset, whether this cycle resets it (R388). -/
  wdCount : Nat
  wdFired : Bool
  wdHit : Bool
  matchTab : List (Nat × Nat)
  inject : Option Word
  trace : List TraceRec
  traceKinds : SMap Word
  traceCount : Nat
  mxeq : List Cmd
  vxeq : List Cmd
  hodq : List Cmd
  mniq : List Cmd
  /-- Started commands of the engines that have not yet signalled. -/
  active : List Cmd
  mxeFree : Nat
  vxeFree : Nat
  /-- First cycle in which the MNI may start its next command, and last cycles of an accepted beat and an applied
  stored row (R287, R294). -/
  mniFree : Nat
  lastBeat : Option Nat
  lastApply : Option Nat
  acm : SMap Nat
  chains : SMap Chain
  binds : SMap Binding
  /-- MSUMs on their way, by command. -/
  sends : SMap Send
  evictions : List Eviction
  quarters : SMap Bool
  clockStopped : Bool
  op : Option CoreOp
  /-- The mode to which CONT returns a core that HALT holds (R359). -/
  backMode : CoreMode
  /-- The mode to which RESUME returns a core in debug halt (R347). -/
  haltMode : CoreMode
  /-- What the save image cannot hold as bytes: threads' held errors and waits, commands (R382). -/
  savedSlots : SMap Slot
  savedSems : SMap Sem
  /-- Messages kept for saved threads that are away on a visit (R38, R387). -/
  savedVisit : List Msg
  savedCmds : List Cmd
  /-- SEQ of the last save and the header of its image (R381, R382). -/
  savedSeq : Nat
  savedHead : List Byte
  /-- Core of the pre-empting launch and its ASID while the core is PREEMPTED (R384). -/
  guestAsid : Option Nat
  tlb : List TlbEntry
  deriving DecidableEq, Repr

/-- A core right after package reset: HELD, every slot FREE (R410 step 1). -/
def Core.fresh : Core :=
  { mode := .resetHeld, slots := [], sems := [], rot := false, utrec := 0#64, ecq := 0#64, ecqh := 0#32,
    ecqt := 0#32, qwd := 0#64, scrub := 0#32, abortc := 0#64, dbgctl := 0#2, softErr := [], rotTab := [],
    lanes := [], lattr := 0#64, spq := 0#64, dqb := 0#64, chan := 0#64, inbox := [], visitBox := [], spill := [],
    spillCount := 0, draining := false, spillNext := 0, outstanding := 0, remote := [], misdelivered := 0,
    forkQ := [], wdCount := 0, wdFired := false, wdHit := false, matchTab := [], inject := none, trace := [], traceKinds := [], traceCount := 0, mxeq := [], vxeq := [],
    hodq := [], mniq := [], active := [], mxeFree := 0, vxeFree := 0, mniFree := 0, lastBeat := none, lastApply := none,
    acm := [], chains := [],
    binds := [], sends := [], evictions := [], quarters := [], clockStopped := false, op := none,
    backMode := .running, haltMode := .running, savedSlots := [], savedSems := [], savedVisit := [], savedCmds := [], savedSeq := 0, savedHead := [], guestAsid := none, tlb := [] }

/-- States of a tile slot (R88). -/
inductive TileSt where
  | empty | filling | ready | draining
  deriving DecidableEq, Repr, Inhabited

/-- An entry of the tile table (R88). -/
structure Tile where
  poison : Bool
  st : TileSt
  ring : BitVec 6
  inr : Bool
  cause : BitVec 8
  readers : BitVec 8
  deriving DecidableEq, Repr, Inhabited

/-- Reset value of a tile table entry (R88). -/
def Tile.zero : Tile :=
  { poison := false, st := .empty, ring := 0#6, inr := false, cause := 0#8, readers := 0#8 }

/-- A ring: configuration word, TAIL, HEAD, POPP (R93). -/
structure Ring where
  cfg : Word
  tail : BitVec 32
  head : BitVec 32
  popp : BitVec 32
  deriving DecidableEq, Repr, Inhabited

/-- Reset value of a ring (R93). -/
def Ring.zero : Ring := { cfg := 0#64, tail := 0#32, head := 0#32, popp := 0#32 }

/-- A pinned stencil table with its ASID (R257). -/
structure Pin where
  asid : Nat
  bytes : List Byte
  deriving DecidableEq, Repr, Inhabited

/-- One cluster (R11). Guarded granules are listed in rising order (R102). -/
structure Cluster where
  tiles : SMap Tile
  rings : SMap Ring
  guards : List Nat
  gceq : List Cmd
  active : List Cmd
  gceFree : Nat
  pins : SMap Pin
  deriving DecidableEq, Repr

/-- A cluster after boot's zeroing (R410 step 4). -/
def Cluster.fresh : Cluster :=
  { tiles := [], rings := [], guards := [], gceq := [], active := [], gceFree := 0, pins := [] }

/-- A HODRUN request on its way to a hod or waiting there for a place (R272), and the first cycle in which it is there. -/
structure HodReq where
  cmd : Cmd
  part : Nat
  due : Nat
  deriving DecidableEq, Repr

/-- A program of a hod (R271). -/
structure Prog where
  pc : Word
  h : Vector Word 8
  /-- Loop stack: count and address of the command after the HLOOP. -/
  stack : List (Nat × Word)
  asid : Nat
  part : Nat
  user : Bool
  core : Nat
  tag : Nat
  cmd : Cmd
  ended : Bool
  err : Option DefErr
  /-- What it waits for: the window of an HWWAIT by cluster, ring and n; the claim of a fill; its tiles, at an HSIG. -/
  wwait : Option (Nat × Nat × Nat)
  fillWait : Option Nat
  sigWait : Bool
  /-- HSIG messages under way with their entry addresses (R280). -/
  sigs : List (Nat × Word)
  deriving DecidableEq, Repr

/-- One hod: its programs by place, requests that wait for a place, the place whose turn is next, the first cycle in
which it may start its next command. -/
structure Hod where
  progs : SMap Prog
  queue : List HodReq
  turn : Nat
  next : Nat
  deriving DecidableEq, Repr

/-- A hod without programs. -/
def Hod.fresh : Hod := { progs := [], queue := [], turn := 0, next := 0 }

/-- A fill of a ring tile (R89): by a hod program, with the hod and its place, or for tile `tile` of a grid command, with
the GCE's cluster (R263, R278). The index is none until it is claimed, `due` the first cycle in which its last byte is
performed, `cause` the CAUSE with which it is poisoned. -/
structure Fill where
  uid : Nat
  byHod : Bool
  unit : Nat
  prog : Nat
  cmd : Nat
  tile : Nat
  cluster : Nat
  ring : Nat
  index : Option Nat
  asid : Nat
  rows : Nat
  rb : Nat
  stride : Word
  src : Word
  idx : Option Word
  entry : Word
  claimedAt : Nat
  due : Nat
  cause : Option Nat
  deriving DecidableEq, Repr

/-- For whom a page walk is made (R355). -/
structure Walk where
  uid : Nat
  core : Nat
  slot : Nat
  asid : Nat
  va : Word
  due : Nat
  deriving DecidableEq, Repr, Inhabited

/-- A kill fence (R366): whether its contexts are gone, the issuing core, slot and register, or none when a partition
command runs it. -/
structure Kill where
  uid : Nat
  begun : Bool
  asid : Nat
  part : Nat
  issuer : Option (Nat × Nat × Nat)
  count : Nat
  due : Nat
  unlive : Bool
  deriving DecidableEq, Repr, Inhabited

/-- A thread's store to a byte that not every fetch sees: the storing thread, the byte before it, the threads that have issued
a FENCE since (R127). Those of one byte stand newest first. -/
structure Stale where
  tid : Nat
  byte : Byte
  seen : List Nat
  deriving DecidableEq, Repr, Inhabited

/-- Bytes that a write has replaced: its cycle, the party that made it with the number of its access, and the old bytes (R281). -/
structure Older where
  cycle : Nat
  tid : Nat
  ord : Nat
  bytes : List Byte
  deriving DecidableEq, Repr, Inhabited

/-- An ENQ whose core has been pre-empted after its claim (R219): the context that it belongs to, its predicate, the key
of its QCB and its claim. -/
structure EnqJob where
  core : Nat
  slot : Nat
  asid : Nat
  tid : Nat
  pd : Nat
  qcb : Nat
  claim : Nat
  deriving DecidableEq, Repr, Inhabited

/-- A shadow image of a cluster (R364). -/
structure Shadow where
  part : Nat
  cluster : Cluster
  cores : List Core
  cells : List Host.Cell
  /-- Soft-error marks of its stores, old bytes of its code, page walks and parted ENQs of its threads (R127, R188, R219,
  R345). -/
  ecc : SMap Bool
  injected : SMap Nat
  stale : SMap (List Stale)
  walks : List Walk
  enqs : List EnqJob
  deriving DecidableEq, Repr

/-- A partition command (R358): OP, its phase (0 not started, 1 started, 2 its kill fences run), the first cycle in which it
may end, the STATUS it ends with. -/
structure PartCmd where
  op : Nat
  phase : Nat
  due : Nat
  status : Nat
  deriving DecidableEq, Repr, Inhabited

/-- A stage of a PIPE launch that has had units: counter id, its name, the units that it has, whether it has completed, error
(R43). -/
structure Stage where
  ccid : Nat
  name : Nat
  live : Nat
  completed : Bool
  err : Bool
  deriving DecidableEq, Repr, Inhabited

/-- A partition (R357 to R365): PSTATE 0 UNBOUND, 1 RUNNING, 2 HALTED, 3 SWAPPED, and the record in force. -/
structure Part where
  st : Nat
  clus : Nat
  sentry : Word
  hbmw : Nat
  srw : Nat
  fabw : Nat
  fport : Nat
  tdFirst : Nat
  tdCount : Nat
  hbmwin : List (Nat × Nat)
  srwin : List (Nat × Nat)
  ctab : Word
  /-- partrec of the record in force, and the one last used (R417). -/
  partrec : Word
  lastRec : Word
  eie : Bool
  cmd : Option PartCmd
  /-- Error record of each launch (R331) and completion record (R40), by counter id. -/
  errRecs : SMap TrapRec
  complRecs : SMap Word
  /-- Stages of PIPE launches (R43). -/
  stages : List Stage
  deriving DecidableEq, Repr

/-- An UNBOUND partition. -/
def Part.unbound : Part :=
  { st := 0, clus := 0, sentry := 0#64, hbmw := 0, srw := 0, fabw := 0, fport := 0, tdFirst := 0, tdCount := 0,
    hbmwin := [], srwin := [], ctab := 0#64, partrec := 0#64, lastRec := 0#64, eie := false, cmd := none, errRecs := [],
    complRecs := [], stages := [] }

/-- One class of a reliable connection (R393): next number to send, next number expected, unacknowledged packets
with the count of their sendings and the cycle of the last, early packets held. -/
structure ConnClass where
  sendSeq : Nat
  recvSeq : Nat
  unacked : List (LinkPkt × Nat × Nat)
  early : List LinkPkt
  deriving DecidableEq, Repr

/-- A reliable connection to a peer (R393 to R395): packets that wait for peer state, requests that the peer has not
answered. -/
structure Conn where
  up : Bool
  resident : Bool
  lastUse : Nat
  waiting : List LinkPkt
  asked : List LinkPkt
  classes : Vector ConnClass 3
  deriving DecidableEq, Repr

/-- A class with fresh sequence numbers. -/
def ConnClass.fresh : ConnClass := { sendSeq := 0, recvSeq := 0, unacked := [], early := [] }

/-- A connection just opened. -/
def Conn.fresh : Conn :=
  { up := true, resident := true, lastUse := 0, waiting := [], asked := [], classes := Vector.replicate 3 ConnClass.fresh }

/-- A fabric port (R389, R409, R417): live lanes, state 0 absent, 1 training, 2 live, 3 failed, resends. -/
structure Port where
  lanes : BitVec 8
  st : Nat
  resends : BitVec 32
  deriving DecidableEq, Repr, Inhabited

/-- A host append that has claimed a position and waits to publish it: QCB (physical address) and position (R369). -/
structure HostClaim where
  qcb : Nat
  claim : Nat
  deriving DecidableEq, Repr

/-- A record of a die's soft-error log: time, address, store code, syndrome (R349). -/
structure SoftRec where
  tns : Nat
  addr : Nat
  code : Nat
  syndrome : Nat
  deriving DecidableEq, Repr, Inhabited

/-- A fused key slot (R411). -/
structure Fuse where
  programmed : Bool
  revoked : Bool
  hash : BitVec 384
  deriving DecidableEq, Repr, Inhabited

/-- The package: time (R396), clock discipline (R397, R398), fabric (R389 to R394), host link (R405 to R408),
security block (R411 to R415) and boot (R410). -/
structure Pkg where
  dev : BitVec 16
  xm1 : BitVec 6
  ym1 : BitVec 6
  zm1 : BitVec 6
  plive : BitVec 24
  ports : SMap Port
  pbtab : Word
  psp : Word
  asidtab : Word
  tctl : Word
  lock : Bool
  steps : BitVec 16
  offs : BitVec 32
  trate : Word
  tdcfg : Word
  tdlate : BitVec 32
  tdlost : BitVec 32
  /-- The forward step set in this cycle, and the steps that it is made of (R397). -/
  tstep : Nat
  tsteps : Nat
  good : Nat
  missed : Nat
  nextSync : Nat
  hwbase : Word
  hwlim : Word
  hacl : SMap Word
  partStatus : BitVec 8
  partSel : BitVec 6
  partOp : BitVec 3
  partrec : Word
  busy : Bool
  ovr : Bool
  /-- The mailbox: its command area, the response of the command that runs with the cycle in which it is written, the
  response area, and how often it has signalled the adapter's interrupt (R408). -/
  cmdArea : List Byte
  mbox : Option (List Byte × Nat)
  resp : List Byte
  irqs : Nat
  bootStatus : Word
  booted : Bool
  meas : Vector (BitVec 384) 8
  fuses : List Fuse
  minSvn : Nat
  svn : Nat
  image : List Byte
  inventory : List Byte
  badClusters : List Nat
  badHods : List Nat
  badChans : List Nat
  conns : SMap Conn
  alerts : List Nat
  softLog : SMap (List SoftRec)
  hostData : List Byte
  hostErr : Bool
  hostAppends : List HostClaim
  islands : SMap Nat
  deriving DecidableEq, Repr

/-- The package right after package reset (R410 step 1, R389, R397, R405, R406, R408). -/
def Pkg.fresh : Pkg :=
  { dev := 0xFFFF#16, xm1 := 0#6, ym1 := 0#6, zm1 := 0#6, plive := 0#24, ports := [], pbtab := 0#64, psp := 0#64,
    asidtab := 0#64, tctl := 0x1A40#64, lock := false, steps := 0#16, offs := 0#32, trate := 0#64, tdcfg := 0#64,
    tdlate := 0#32, tdlost := 0#32, tstep := 0, tsteps := 0, good := 0, missed := 0, nextSync := 0, hwbase := 0#64,
    hwlim := 0#64, hacl := [], partStatus := 0#8, partSel := 0#6, partOp := 0#3, partrec := 0#64, busy := true,
    ovr := false, cmdArea := [], mbox := none, resp := [], irqs := 0, bootStatus := 0#64, booted := false,
    meas := Vector.replicate 8 0#384, fuses := [],
    minSvn := 0, svn := 0, image := [], inventory := [], badClusters := [], badHods := [], badChans := [],
    conns := [], alerts := [], softLog := [], hostData := [], hostErr := false, hostAppends := [], islands := [] }

/-- The machine: one package, what is in flight in it, and the model's own fields `cur` to `inputs`. -/
structure State where
  cycle : Nat
  devTime : Nat
  cores : SMap Core
  clusters : SMap Cluster
  hods : SMap Hod
  parts : SMap Part
  mem : List Host.Cell
  /-- Granules with a corrected (false) or an uncorrectable or poisoned (true) codeword (R345, R348). -/
  ecc : SMap Bool
  /-- Granules with injected errors that nothing has met, with the bits inverted (R348). -/
  injected : SMap Nat
  net : List Msg
  fills : List Fill
  walks : List Walk
  kills : List Kill
  shadows : SMap Shadow
  stale : SMap (List Stale)
  enqs : List EnqJob
  /-- Older bytes of 16-byte units of memory with the cycle in which a write replaced them, kept while hods have work
  (R281). -/
  older : SMap (List Older)
  pkg : Pkg
  /-- The model's own: core and slot whose instruction is executed; hod and program; next core to issue in this cycle; whether
  the cycle is at its events, its hod commands or its issues (R120); whether the instruction did not issue; names; free values
  drawn; STATUS of the last counter command; outside events with their cycles. -/
  cur : Nat × Nat
  hodCur : Nat × Nat
  coreTurn : Nat
  phase : Nat
  stalled : Bool
  uid : Nat
  fresh : Nat
  ctrStatus : Nat
  inputs : List (Nat × Instr)
  deriving DecidableEq, Repr

/-- The machine right after package reset, before boot runs (R410 step 1). -/
def State.reset : State :=
  { cycle := 0, devTime := 0, cores := [], clusters := [], hods := [], parts := [], mem := [], ecc := [], injected := [],
    net := [], fills := [], walks := [], kills := [], shadows := [], stale := [], enqs := [], older := [], pkg := Pkg.fresh,
    cur := (0, 0),
    hodCur := (0, 0), coreTurn := 0, phase := 0, stalled := false, uid := 0, fresh := 0, ctrStatus := 0, inputs := [] }

end Sys2Proof.Machine
end

