-- ==== Sys2Proof/Machine/Store.lean ====
section
/-! DEFINITION. Sparse maps, and memory: one list of cells in canonical form for the TCMs, scratchpads, shared
SRAMs, HBM and host memory (R5, R83). A byte that nothing has written reads as 0 (R410 steps 3 and 4; log 2). -/

namespace Sys2Proof.Machine

/-- Eight values by place. -/
def vec8 {α : Type} (f : Nat → α) : Vector α 8 := #v[f 0, f 1, f 2, f 3, f 4, f 5, f 6, f 7]

/-- Ten values by place. -/
def vec10 {α : Type} (f : Nat → α) : Vector α 10 := #v[f 0, f 1, f 2, f 3, f 4, f 5, f 6, f 7, f 8, f 9]

/-- The value of a key, or the default. -/
def mapGet {α : Type} (d : α) : SMap α → Nat → α
  | [], _ => d
  | (k, v) :: m, i => if k = i then v else mapGet d m i

/-- The value of a key, if it is listed. -/
def mapFind {α : Type} : SMap α → Nat → Option α
  | [], _ => none
  | (k, v) :: m, i => if k = i then some v else mapFind m i

/-- A map with a key set, keys rising. -/
def mapSet {α : Type} : SMap α → Nat → α → SMap α
  | [], i, x => [(i, x)]
  | (k, v) :: m, i, x =>
    if k < i then (k, v) :: mapSet m i x
    else if k = i then (i, x) :: m
    else (i, x) :: (k, v) :: m

/-- A map without a key. -/
def mapErase {α : Type} : SMap α → Nat → SMap α
  | [], _ => []
  | (k, v) :: m, i => if k = i then m else (k, v) :: mapErase m i

/-- What a byte that no cell lists reads as (log 2). -/
def emptyByte : Byte := 0#8

/-- The byte at a key (R5). -/
def memByte : List Host.Cell → Nat → Byte
  | [], _ => emptyByte
  | (a, v) :: m, k => if a = k then v else memByte m k

/-- `n` bytes from a key on. -/
def memBytes (m : List Host.Cell) (k : Nat) : Nat → List Byte
  | 0 => []
  | n + 1 => memByte m k :: memBytes m (k + 1) n

/-- The cells of a run of bytes, none for a byte that an unlisted key reads as. -/
def cellsOf (k : Nat) : List Byte → List Host.Cell
  | [] => []
  | b :: bs => if b = emptyByte then cellsOf (k + 1) bs else (k, b) :: cellsOf (k + 1) bs

/-- The cells below a key. -/
def cellsBelow (m : List Host.Cell) (k : Nat) : List Host.Cell := m.filter fun c => c.1 < k

/-- The cells from a key on. -/
def cellsFrom (m : List Host.Cell) (k : Nat) : List Host.Cell := m.filter fun c => k ≤ c.1

/-- Memory with bytes written from a key on. -/
def memWrite (m : List Host.Cell) (k : Nat) (bs : List Byte) : List Host.Cell :=
  cellsBelow m k ++ cellsOf k bs ++ cellsFrom m (k + bs.length)

/-- Memory with `n` bytes from a key on set to what an unlisted byte reads as. -/
def memClear (m : List Host.Cell) (k n : Nat) : List Host.Cell := cellsBelow m k ++ cellsFrom m (k + n)

/-- Keys strictly rising from a bound, and no cell that an unlisted byte equals. -/
def cellsOk : Nat → List Host.Cell → Bool
  | _, [] => true
  | lo, (k, v) :: m => decide (lo ≤ k) && v != emptyByte && cellsOk (k + 1) m

/-- The canonical form of memory. -/
def Memory.wf (m : List Host.Cell) : Bool := cellsOk 0 m

/-- Keys: HBM physical addresses lie below 2^60; the other stores follow (R83). -/
def tcmKey (core off : Nat) : Nat := 2 ^ 60 + core * 2 ^ 20 + off

/-- The key of a scratchpad byte. -/
def spadKey (cluster off : Nat) : Nat := 2 * 2 ^ 60 + cluster * 2 ^ 24 + off

/-- The key of a shared SRAM byte. -/
def sramKey (die off : Nat) : Nat := 3 * 2 ^ 60 + die * 2 ^ 27 + off

/-- The key of a byte of host memory. -/
def hostKey (addr : Nat) : Nat := 4 * 2 ^ 60 + addr

/-- Keys of what soft errors mark beside memory (R344): a codeword of a slot's context by its place in the layout of R24, an
accumulator element, an 8-byte granule of the mortar buffer, a tile table entry, the instruction cache of a core. -/
def regKey (core slot off : Nat) : Nat := 5 * 2 ^ 60 + core * 2 ^ 20 + slot * 128 + off

/-- The key of an accumulator element. -/
def acmKey (core tile row col : Nat) : Nat := 6 * 2 ^ 60 + core * 2 ^ 20 + tile * 32768 + row * 512 + col * 8

/-- The key of a granule of a mortar buffer. -/
def mortarKey (core off : Nat) : Nat := 7 * 2 ^ 60 + core * 2 ^ 20 + off

/-- The key of a tile table entry. -/
def tileKey (cluster slot : Nat) : Nat := 10 * 2 ^ 60 + cluster * 2 ^ 20 + slot * 8

/-- The key of a core's instruction cache and hod prefetch entries. -/
def parityKey (core : Nat) : Nat := 9 * 2 ^ 60 + core * 2 ^ 20

/-- The store of a key: 0 HBM, 1 TCM, 2 scratchpad, 3 shared SRAM, 4 host memory, 5 contexts, 6 ACM, 7 mortar buffer, 9
instruction cache, 10 tile table. -/
def keyStore (k : Nat) : Nat := k / 2 ^ 60

/-- The cluster and the offset of a scratchpad key. -/
def keySpad (k : Nat) : Nat × Nat := (k % 2 ^ 60 / 2 ^ 24, k % 2 ^ 24)

/-- The cluster that a key's store belongs to, none for HBM, shared SRAM and host memory. -/
def keyCluster (k : Nat) : Option Nat :=
  match keyStore k with
  | 1 | 5 | 6 | 7 | 9 => some (k % 2 ^ 60 / 2 ^ 20 / 8)
  | 2 => some (keySpad k).1
  | 10 => some (k % 2 ^ 60 / 2 ^ 20)
  | _ => none

/-- The store code of R344 of a key's store. -/
def storeCode (k : Nat) : Nat :=
  match keyStore k with
  | 1 => 2
  | 2 => 5
  | 3 => 6
  | 5 => 1
  | 6 => 3
  | 7 => 4
  | 9 => 8
  | 10 => 9
  | _ => 7

/-- A little-endian number of `n` bytes at a key (R5). -/
def memNat (m : List Host.Cell) (k n : Nat) : Nat := leNat (memBytes m k n)

/-- Memory with the `n` little-endian bytes of a number written at a key (R5). -/
def memPut (m : List Host.Cell) (k n v : Nat) : List Host.Cell := memWrite m k (leBytes n v)

/-- The 8-byte granules, by the key of their first byte, that a range of `n` bytes touches; an HBM codeword has
32 bytes (R344). -/
def codewordSize (k : Nat) : Nat := if keyStore k = 0 then 32 else 8

/-- Whether a range touches a codeword that the map marks uncorrectable (R345). -/
def eccBad (e : SMap Bool) (k n : Nat) : Bool :=
  e.any fun g => g.2 && decide (g.1 < k + n) && decide (k < g.1 + codewordSize g.1)

/-- Codewords with an uncorrectable error that a range touches (R345). -/
def eccBads (e : SMap Bool) (k n : Nat) : List Nat :=
  (e.filter fun g => g.2 && decide (g.1 < k + n) && decide (k < g.1 + codewordSize g.1)).map (·.1)

/-- Codewords with a correctable error that a range touches (R345). -/
def eccFixed (e : SMap Bool) (k n : Nat) : List Nat :=
  (e.filter fun g => !g.2 && decide (g.1 < k + n) && decide (k < g.1 + codewordSize g.1)).map (·.1)

/-- The marks after a write of a range: a write that covers a whole codeword removes its mark (R345). -/
def eccWrite (e : SMap Bool) (k n : Nat) : SMap Bool :=
  e.filter fun g => !(decide (k ≤ g.1) && decide (g.1 + codewordSize g.1 ≤ k + n))

end Sys2Proof.Machine
end

