-- ==== Sys2Proof/Machine/Get.lean ====
section
/-! DEFINITION. Reading and changing the parts of the state: cores, slots, threads, clusters, hods, partitions,
and the logical numbers of a partition (R9, R12, R357). -/

namespace Sys2Proof.Machine

/-- The core of a package number. -/
def coreOf (s : State) (c : Nat) : Core := mapGet Core.fresh s.cores c

/-- The state with a core replaced. -/
def setCore (s : State) (c : Nat) (x : Core) : State := { s with cores := mapSet s.cores c x }

/-- The state with a core changed. -/
def modCore (s : State) (c : Nat) (f : Core → Core) : State := setCore s c (f (coreOf s c))

/-- The slot `n` of a core. -/
def slotIn (k : Core) (n : Nat) : Slot := mapGet Slot.fresh k.slots n

/-- The slot `n` of core `c`. -/
def slotOf (s : State) (c n : Nat) : Slot := slotIn (coreOf s c) n

/-- A core with a slot replaced. -/
def putSlot (k : Core) (n : Nat) (x : Slot) : Core := { k with slots := mapSet k.slots n x }

/-- The state with a slot replaced. -/
def setSlot (s : State) (c n : Nat) (x : Slot) : State := setCore s c (putSlot (coreOf s c) n x)

/-- The state with a slot changed. -/
def modSlot (s : State) (c n : Nat) (f : Slot → Slot) : State := setSlot s c n (f (slotOf s c n))

/-- The thread in a slot. -/
def threadOf (s : State) (c n : Nat) : Option Thread := (slotOf s c n).thread

/-- The state with the thread of a slot replaced. -/
def setThread (s : State) (c n : Nat) (t : Thread) : State := modSlot s c n fun x => { x with thread := some t }

/-- The state with the thread of a slot changed, if there is one. -/
def modThread (s : State) (c n : Nat) (f : Thread → Thread) : State :=
  modSlot s c n fun x => { x with thread := x.thread.map f }

/-- A cluster by package number. -/
def clusterOf (s : State) (cl : Nat) : Cluster := mapGet Cluster.fresh s.clusters cl

/-- The state with a cluster changed. -/
def modCluster (s : State) (cl : Nat) (f : Cluster → Cluster) : State :=
  { s with clusters := mapSet s.clusters cl (f (clusterOf s cl)) }

/-- A hod. -/
def hodOf (s : State) (h : Nat) : Hod := mapGet Hod.fresh s.hods h

/-- The state with a hod changed. -/
def modHod (s : State) (h : Nat) (f : Hod → Hod) : State := { s with hods := mapSet s.hods h (f (hodOf s h)) }

/-- A partition. -/
def partOf (s : State) (p : Nat) : Part := mapGet Part.unbound s.parts p

/-- The state with a partition changed. -/
def modPart (s : State) (p : Nat) (f : Part → Part) : State := { s with parts := mapSet s.parts p (f (partOf s p)) }

/-- The state with the package's own registers changed. -/
def modPkg (s : State) (f : Pkg → Pkg) : State := { s with pkg := f s.pkg }

/-- A semaphore of a core (R53). -/
def semOf (k : Core) (n : Nat) : Sem := mapGet Sem.zero k.sems n

/-- The cluster of a core and the core's place in it (R9). -/
def clusterOfCore (c : Nat) : Nat := c / Config.coresPerCluster

/-- The physical cluster of a logical one: package numbers are logical over the clusters that the inventory record leaves
available (R2, R9, R413). -/
def physCluster (s : State) (cl : Nat) : Nat :=
  if s.pkg.badClusters.isEmpty then cl
  else (((List.range Config.clusters).filter fun c => !s.pkg.badClusters.contains c)[cl]?).getD cl

/-- The die on which a cluster lies (R9, R413). -/
def dieOfCluster (s : State) (cl : Nat) : Nat := physCluster s cl / 32

/-- The die on which a core lies (R9, R413). -/
def dieOfCore (s : State) (c : Nat) : Nat := dieOfCluster s (clusterOfCore c)

/-- Bytes of HBM that the inventory record leaves available: each stack offers the capacity of its remaining
pseudo-channels (R2, R413), and the addresses that remain run on from 0: DESIGN CHOICE, log 100. -/
def hbmSize (s : State) : Nat := Config.hbmBytes / 384 * (384 - s.pkg.badChans.length)

/-- D cores (R10). -/
def isDCore (c : Nat) : Bool := c % Config.coresPerCluster == 7

/-- Clusters of a bit set, in rising order (R357). -/
def clustersOf (clus : Nat) : List Nat := (List.range Config.clusters).filter fun c => clus.testBit c

/-- Whether a partition holds its clusters: RUNNING or HALTED (R360). -/
def holdsClusters (p : Part) : Bool := p.st == 1 || p.st == 2

/-- The partition that binds a core's cluster (R338 pid, R357). -/
def partOfCore (s : State) (c : Nat) : Option Nat :=
  (s.parts.find? fun q => holdsClusters q.2 && q.2.clus.testBit (clusterOfCore c)).map (·.1)

/-- Clusters that the inventory record leaves available; package numbers are logical over them (R9, R413). -/
def availClusters (s : State) : Nat := Config.clusters - s.pkg.badClusters.length

/-- Cores of the package that are available (R9, R413). -/
def availCores (s : State) : Nat := 8 * availClusters s

/-- Hods of the package that are available (R271, R413). -/
def availHods (s : State) : Nat := Config.hods - s.pkg.badHods.length

/-- The package number of a logical core of a partition; without a partition the numbers are the package's own
(R357; log 14). -/
def coreOfLogical (s : State) (p : Option Nat) (l : Nat) : Option Nat :=
  match p with
  | none => if l < availCores s then some l else none
  | some q => ((clustersOf (partOf s q).clus)[l / 8]?).map fun cl => cl * 8 + l % 8

/-- The logical number of a core in its partition (R357; log 14). -/
def logicalOfCore (s : State) (c : Nat) : Nat :=
  match partOfCore s c with
  | none => c
  | some q => ((clustersOf (partOf s q).clus).filter (· < clusterOfCore c)).length * 8 + c % 8

/-- Cores of a partition, in rising order. -/
def coresOfPart (s : State) (p : Nat) : List Nat :=
  (clustersOf (partOf s p).clus).flatMap fun cl => (List.range 8).map (cl * 8 + ·)

/-- Levels, fixed by the slot (R12, R326). -/
inductive Level where
  | platform | supervisor | user
  deriving DecidableEq, Repr

/-- The level of a slot (R326). -/
def levelOf (n : Nat) : Level := if n = 0 then .platform else if n < Config.firstUser then .supervisor else .user

/-- Whether a slot is a user slot (R12). -/
def isUserSlot (n : Nat) : Bool := Config.firstUser ≤ n

/-- The slot that fixes the level of the thread in a slot: a visit does not change it (R326). DEDUCED, log 76. -/
def levelSlot (s : State) (c n : Nat) : Nat :=
  match (slotOf s c n).visitFrom with
  | some h => h.2
  | none => n

/-- Whether the thread in a slot runs at user level (R12, R326). -/
def userAt (s : State) (c n : Nat) : Bool := isUserSlot (levelSlot s c n)

/-- The next free value, and the counter advanced. DESIGN CHOICE, log 4. -/
def drawFresh (s : State) : Nat × State := (s.fresh, { s with fresh := s.fresh + 1 })

/-- The name of a thread or command among those of every device, from its number on this one. -/
def threadName (s : State) (uid : Nat) : Nat := (uid + 1) * 65536 + s.pkg.dev.toNat

/-- The name of the thread in a slot, 0 without one. -/
def tidOf (s : State) (c n : Nat) : Nat :=
  match threadOf s c n with
  | some t => t.tid
  | none => 0

/-- The next name of a message or command, and the counter advanced. -/
def drawUid (s : State) : Nat × State := (s.uid, { s with uid := s.uid + 1 })

/-- Device time in nanoseconds (R396). -/
def timeNs (s : State) : Nat := s.devTime / 65536

/-- The device cycle (R396). -/
def deviceCycle (s : State) : Nat := s.devTime / Config.cycleUnits

end Sys2Proof.Machine
end

