-- ==== Sys2Proof/Machine/Trans.lean ====
section
/-! DEFINITION. Regions of an address (R14 to R18), the ASID table (R350, R351), page walks (R352 to R356),
partition windows (R361) and the host window (R405). -/

namespace Sys2Proof.Machine

/-- What an access does, as far as translation asks (R354). -/
inductive AccUse where
  | read | write | fetch | amo
  deriving DecidableEq, Repr

/-- The key of an ASID's entry: asidtab places the table in die 0's shared SRAM (R350, R410). -/
def asidKey (s : State) (a : Nat) : Nat := sramKey 0 (bits s.pkg.asidtab.toNat 26 16 * 65536 + 8 * a)

/-- The entry of an ASID (R350); one with an uncorrectable error counts as none (R345). DEDUCED, log 86. -/
def asidEntry (s : State) (a : Nat) : Nat := if eccBad s.ecc (asidKey s a) 8 then 0 else memNat s.mem (asidKey s a) 8

/-- A live ASID of a partition (R340, R350). -/
def asidLive (s : State) (p : Option Nat) (a : Nat) : Bool :=
  let e := asidEntry s a
  e.testBit 63 && some (bits e 61 56) == p

/-- The ASID check of a walk (R351). -/
def asidWalks (s : State) (p : Option Nat) (a : Nat) : Bool := asidLive s p a && !(asidEntry s a).testBit 62

/-- Lowest virtual-address bit that a level indexes, and the bits it indexes (R352). -/
def levelShift : Nat → Nat × Nat
  | 1 => (48, 9)
  | 2 => (39, 9)
  | 3 => (30, 9)
  | 4 => (21, 9)
  | _ => (16, 5)

/-- Reserved fields of a pointer entry (R353; log 15). -/
def pointerReserved (e : Nat) : Bool :=
  bits e 63 62 != 0 || bits e 61 60 != 0 || bits e 59 49 != 0 || bits e 7 2 != 0

/-- Reserved fields of a leaf entry (R353). -/
def leafReserved (e : Nat) : Bool :=
  bits e 63 62 == 3 || (bits e 63 62 != 1 && bits e 61 60 != 0) ||
    bits e 15 8 != 0 || bits e 3 2 != 0

/-- A walk over the levels left, from a table address: the leaf entry with its level, or level and status (R352 to
R354). -/
def walkLevels (s : State) (va : Nat) : List Nat → Nat → Except (Nat × Nat) (Nat × Nat)
  | [], _ => .error (0, 0x03)
  | lv :: ls, tab =>
    let (sh, w) := levelShift lv
    let pa := tab + 8 * bits va (sh + w - 1) sh
    if hbmSize s < pa + 8 then .error (lv, 0x06)
    else if eccBad s.ecc pa 8 then .error (lv, 0x0B)
    else
      let e := memNat s.mem pa 8
      if !e.testBit 0 then .error (lv, 0x01)
      else if e.testBit 1 && lv < 3 then .error (lv, 0x02)
      else if !e.testBit 1 && lv == 5 then .error (lv, 0x03)
      else if e.testBit 1 then
        if bits e 48 16 * 65536 % 2 ^ sh != 0 then .error (lv, 0x04)
        else if leafReserved e then .error (lv, 0x05)
        else .ok (e, lv)
      else
        let next := bits e 48 16 * 65536 + bits e 15 8 * 256
        if lv < 4 && next % 4096 != 0 then .error (lv, 0x04)
        else if pointerReserved e then .error (lv, 0x05)
        else walkLevels s va ls next

/-- A walk of a virtual address under an ASID of a partition's party (R351, R352). -/
def walkTables (s : State) (p : Option Nat) (asid va : Nat) : Except (Nat × Nat) (Nat × Nat) :=
  if !asidWalks s p asid then .error (0, 0x0C)
  else walkLevels s va [1, 2, 3, 4, 5] (bits (asidEntry s asid) 48 12 * 4096)

/-- Whether a range lies within a window; a window with LIMIT = BASE admits nothing (R361). -/
def inWindow (w : Nat × Nat) (a n : Nat) : Bool := decide (w.1 ≤ a) && decide (a + n ≤ w.2) && decide (w.1 < w.2)

/-- The host window (R405). -/
def inHostWindow (s : State) (a n : Nat) : Bool :=
  inWindow (bits s.pkg.hwbase.toNat 45 16 * 65536, bits s.pkg.hwlim.toNat 45 16 * 65536) a n

/-- The key of `n` bytes that a leaf maps, within the partition's windows (R353, R354 status 0x06, R361, R405). -/
def leafKey (s : State) (p : Option Nat) (leaf lv va n : Nat) : Option Nat :=
  let sh := (levelShift lv).1
  let pa := bits leaf 48 16 * 65536 + va % 2 ^ sh
  let q := partOf s (p.getD 64)
  match bits leaf 63 62 with
  | 0 => if pa + n ≤ hbmSize s && q.hbmwin.any fun w => inWindow w pa n then some pa else none
  | 1 =>
    let die := bits leaf 61 60
    if pa + n ≤ Config.sramBytes && (q.srwin[die]?).any fun w => inWindow w pa n then some (sramKey die pa) else none
  | _ => if pa + n ≤ 2 ^ 46 && inHostWindow s pa n then some (hostKey pa) else none

/-- The key of an access through a leaf, or its walk status (R354). -/
def leafAccess (s : State) (p : Option Nat) (leaf lv va n : Nat) (u : AccUse) (user : Bool) : Except Nat Nat :=
  match leafKey s p leaf lv va n with
  | none => .error 0x06
  | some k =>
    let rd := leaf.testBit 5
    let wr := leaf.testBit 6
    let needR := u == .read || u == .amo
    let needW := u == .write || u == .amo
    if needR && !rd then .error 0x07
    else if needW && !wr then .error 0x08
    else if u == .fetch && !leaf.testBit 7 then .error 0x09
    else if user && !leaf.testBit 4 then .error 0x0A
    else .ok k

/-- Level and status as the DETAIL of a translation fault (R354). -/
def walkDetail (lv st : Nat) : Nat := lv * 256 + st

/-- A fresh translation: what an engine, a hod or a service of the package uses (R351, R356). DEDUCED, log 71. -/
def transNow (s : State) (p : Option Nat) (asid : Nat) (user : Bool) (u : AccUse) (va n : Nat) : Except Nat Nat :=
  match walkTables s p asid va with
  | .error (lv, st) => .error (walkDetail lv st)
  | .ok (leaf, lv) =>
    match leafAccess s p leaf lv va n u user with
    | .error st => .error (walkDetail lv st)
    | .ok k => .ok k

/-- The translation that a TLB holds for an address (R356). -/
def tlbFind (t : List TlbEntry) (asid va : Nat) : Option TlbEntry :=
  t.find? fun e => e.asid == asid && decide (e.va ≤ va) && decide (va < e.va + e.size)

/-- The TLB entry of a completed walk (R356). -/
def tlbOf (asid va leaf lv : Nat) : TlbEntry :=
  let sz := 2 ^ (levelShift lv).1
  { asid := asid, va := va / sz * sz, size := sz, leaf := leaf, level := lv }

/-- Why an access cannot go on: a precise fault, or a page walk that it needs (R184, R188). -/
inductive AccErr where
  | fault (cause : Nat) (tval detail : Word)
  | walk (va : Word)
  deriving DecidableEq, Repr

/-- Where an access goes (R14 to R16): an own store, another store of the package with its need of egress space
(R210), a store of another device, control space (R349). -/
inductive Route where
  | own (key : Nat)
  | far (key : Nat) (egress : Bool)
  | dev (d core space off : Nat)
  | ctrl (core block off : Nat)
  deriving DecidableEq, Repr

/-- The access fault 0x06 of an address: DETAIL 0 region, 1 store bounds, 2 partition, 3 level, 4 ASID (R332). DEDUCED, log
19. -/
def accessFault (a : Word) (detail : Nat) : AccErr := .fault 0x06 a (BitVec.ofNat 64 detail)

/-- Entry of the peer binding table for a device (R392): V and RPART. -/
def peerEntry (s : State) (p : Option Nat) (d : Nat) : Nat :=
  let base := s.pkg.pbtab.toNat
  match p with
  | none => 0
  | some q => memNat s.mem (sramKey (dieOfCore s (bits base 43 34)) (bits base 26 0 + 524288 * q + 8 * d)) 8

/-- Whether a device is bound for a partition (R392). -/
def peerBound (s : State) (p : Option Nat) (d : Nat) : Bool := (peerEntry s p d).testBit 63

/-- The key of a byte of a named store, and the store's size (R15). -/
def spaceKey (s : State) (core space off : Nat) : Option (Nat × Nat) :=
  match space with
  | 0 => some (tcmKey core off, Config.tcmBytes)
  | 1 => some (spadKey (clusterOfCore core) off, Config.spadBytes)
  | 2 => some (sramKey (dieOfCore s core) off, Config.sramBytes)
  | _ => none

/-- Region 0xA: the store of the own device or the place on another (R15, R16). -/
def routeFabric (s : State) (c : Nat) (a : Word) (n : Nat) : Except AccErr Route :=
  let v := a.toNat
  let p := partOfCore s c
  let d := bits v 59 44
  let l := bits v 43 34
  let sp := bits v 33 32
  let off := bits v 31 0
  match spaceKey s 0 sp 0 with
  | none => .error (accessFault a 0)
  | some (_, size) =>
    if size < off + n then .error (accessFault a 1)
    else if d = s.pkg.dev.toNat then
      match coreOfLogical s p l with
      | none => .error (accessFault a 2)
      | some t =>
        match spaceKey s t sp off with
        | none => .error (accessFault a 0)
        | some (k, _) => .ok (.far k (t != c))
    else if peerBound s p d then .ok (.dev d l sp off)
    else .error (accessFault a 2)

/-- Region 0xF (R18, R349): supervisor level reaches its own partition, platform level every core.
A core number that the package does not have names a core as it is after reset. DESIGN CHOICE, log 101. -/
def routeCtrl (s : State) (c slot : Nat) (a : Word) : Except AccErr Route :=
  let v := a.toNat
  let l := bits v 43 34
  match levelOf (levelSlot s c slot) with
  | .user => .error (accessFault a 3)
  | .platform => if bits v 59 44 = 0 then .ok (.ctrl l (bits v 33 28) (bits v 27 0)) else .error (accessFault a 0)
  | .supervisor =>
    if bits v 59 44 ≠ 0 then .error (accessFault a 0)
    else match coreOfLogical s (partOfCore s c) l with
      | none => .error (accessFault a 2)
      | some t => .ok (.ctrl t (bits v 33 28) (bits v 27 0))

/-- The lowest guarded granule of a scratchpad range (R103, R104). -/
def guardHit (s : State) (cl off n : Nat) : Option Nat :=
  (clusterOf s cl).guards.find? fun g => decide (g * 64 < off + n) && decide (off < (g + 1) * 64)

/-- The bank of a scratchpad offset (R85). -/
def spadBank (off : Nat) : Nat := bits off 11 5

/-- Region 0x0 through the core's TLB (R14, R188, R351). -/
def routeVirtual (s : State) (c slot : Nat) (u : AccUse) (a : Word) (n : Nat) : Except AccErr Route :=
  let v := a.toNat
  if bits v 59 57 ≠ 0 then .error (accessFault a 0)
  else
    let asid := (slotOf s c slot).asid.toNat
    match tlbFind (coreOf s c).tlb asid v with
    | none => .error (.walk a)
    | some e =>
      match leafAccess s (partOfCore s c) e.leaf e.level v n u (userAt s c slot) with
      | .error st => .error (.fault 0x07 a (BitVec.ofNat 64 (walkDetail e.level st)))
      | .ok k => .ok (.far k false)

/-- Where a thread's access of `n` bytes goes, with its precise checks (R14 to R18, R103, R184). -/
def routeAccess (s : State) (c slot : Nat) (u : AccUse) (a : Word) (n : Nat) : Except AccErr Route :=
  let v := a.toNat
  match bits v 63 60 with
  | 0x0 => routeVirtual s c slot u a n
  | 0x8 =>
    if bits v 59 18 ≠ 0 then .error (accessFault a 0)
    else if Config.tcmBytes < bits v 17 0 + n then .error (accessFault a 1)
    else .ok (.own (tcmKey c (bits v 17 0)))
  | 0x9 =>
    if bits v 59 24 ≠ 0 then .error (accessFault a 0)
    else
      let off := bits v 23 0
      if Config.spadBytes < off + n then .error (accessFault a 1)
      else match guardHit s (clusterOfCore c) off n with
        | some g => .error (.fault 0x08 (BitVec.ofNat 64 (g * 64)) (BitVec.ofNat 64 (spadBank (g * 64))))
        | none => .ok (.own (spadKey (clusterOfCore c) off))
  | 0xA => routeFabric s c a n
  | 0xF => routeCtrl s c slot a
  | _ => .error (accessFault a 0)

/-- The keys of the entries that a walk reads, from a table address (R352). -/
def walkKeys (s : State) (va : Nat) : List Nat → Nat → List Nat
  | [], _ => []
  | lv :: ls, tab =>
    let pa := tab + 8 * bits va ((levelShift lv).1 + (levelShift lv).2 - 1) (levelShift lv).1
    if hbmSize s < pa + 8 then []
    else if eccBad s.ecc pa 8 then [pa]
    else
      let e := memNat s.mem pa 8
      if !e.testBit 0 || e.testBit 1 then [pa] else pa :: walkKeys s va ls (bits e 48 16 * 65536 + bits e 15 8 * 256)

/-- The keys of every entry that the walk of an address reads: the ASID's entry first (R351, R352). -/
def walkReads (s : State) (p : Option Nat) (asid va : Nat) : List Nat :=
  asidKey s asid :: (if asidWalks s p asid then walkKeys s va [1, 2, 3, 4, 5] (bits (asidEntry s asid) 48 12 * 4096) else [])

/-- Whether a range touches the ASID table, an area of the platform alone (R350). -/
def inAsidTable (s : State) (k n : Nat) : Bool := decide (asidKey s 0 < k + n) && decide (k < asidKey s 16384)

/-- Bits of byte `j` of an ASID entry that platform code writes (R350). -/
def asidWritable (j : Nat) : Byte :=
  match j with
  | 0 => 0x00#8
  | 1 => 0xF0#8
  | 6 => 0x01#8
  | 7 => 0xBF#8
  | _ => 0xFF#8

/-- Bytes stored from a key on, with the read-only bits of ASID entries kept (R350). -/
def keepAsidBits (s : State) : Nat → List Byte → List Byte
  | _, [] => []
  | k, b :: bs =>
    let m := if inAsidTable s k 1 then asidWritable ((k - asidKey s 0) % 8) else 0xFF#8
    ((b &&& m) ||| (memByte s.mem k &&& ~~~m)) :: keepAsidBits s (k + 1) bs

/-- Whether a range touches a partition's counter table (R372). -/
def inCounterTable (s : State) (k n : Nat) : Bool :=
  s.parts.any fun q =>
    q.2.st != 0 &&
      (let a := q.2.ctab.toNat
       let base := sramKey (dieOfCore s (bits a 43 34)) (bits a 26 0)
       decide (base < k + n) && decide (k < base + 524288))

end Sys2Proof.Machine
end

