-- ==== Sys2Proof/Machine/Link.lean ====
section
/-! DEFINITION. Routes between packages (R389, R390) and the sending side of the reliable connections (R391 to
R394). -/

namespace Sys2Proof.Machine

/-- Sizes of the torus (R389). -/
def torusX (s : State) : Nat := s.pkg.xm1.toNat + 1
def torusY (s : State) : Nat := s.pkg.ym1.toNat + 1
def torusZ (s : State) : Nat := s.pkg.zm1.toNat + 1

/-- Devices of the torus. -/
def torusSize (s : State) : Nat := torusX s * torusY s * torusZ s

/-- Coordinates of a device (R389). -/
def coords (s : State) (d : Nat) : Nat × Nat × Nat :=
  (d % torusX s, d / torusX s % torusY s, d / (torusX s * torusY s))

/-- The first dimension with an offset, and the offset the positive way round with the ring's size (R390 step 1). -/
def firstOffset (s : State) (d : Nat) : Option (Nat × Nat × Nat) :=
  let (x0, y0, z0) := coords s s.pkg.dev.toNat
  let (x1, y1, z1) := coords s d
  if x0 ≠ x1 then some (0, (x1 + torusX s - x0) % torusX s, torusX s)
  else if y0 ≠ y1 then some (1, (y1 + torusY s - y0) % torusY s, torusY s)
  else if z0 ≠ z1 then some (2, (z1 + torusZ s - z0) % torusZ s, torusZ s)
  else none

/-- Live ports of a direction, at the source those of the partition's FPORT (R390 step 3). -/
def eligiblePorts (s : State) (p : Option Nat) (dir : Nat) : List Nat :=
  ((List.range 4).map (dir * 4 + ·)).filter fun k =>
    s.pkg.plive.getLsbD k && (match p with
      | none => true
      | some q => (partOf s q).fport.testBit k)

/-- The port that a packet takes, or none where there is no route (R390). `p` is the partition at the source and
none at an intermediate package. -/
def routePort (s : State) (p : Option Nat) (srcCore dstCore d : Nat) : Option Nat :=
  if s.pkg.dev = 0xFFFF#16 || torusSize s ≤ d then none
  else match firstOffset s d with
    | none => none
    | some (dim, off, size) =>
      let short := if 2 * off ≤ size then 0 else 1
      let pick (dir : Nat) : Option Nat :=
        let ps := eligiblePorts s p dir
        ps[Nat.xor srcCore dstCore % ps.length]?
      match pick (2 * dim + short) with
      | some k => some k
      | none => pick (2 * dim + (1 - short))

/-- The connection of a peer. -/
def connOf (s : State) (d : Nat) : Conn := mapGet Conn.fresh s.pkg.conns d

/-- The state with a connection replaced. -/
def setConn (s : State) (d : Nat) (x : Conn) : State :=
  modPkg s fun k => { k with conns := mapSet k.conns d x }

/-- The class of a network (R393). -/
def classOf : Net → Nat
  | .reply => 1
  | .timediv => 2
  | _ => 0

/-- A class of a connection. -/
def connClass (x : Conn) (cls : Nat) : ConnClass := x.classes.toList.getD cls ConnClass.fresh

/-- A connection with a class replaced. -/
def putClass (x : Conn) (cls : Nat) (k : ConnClass) : Conn := { x with classes := x.classes.setIfInBounds cls k }

/-- Peers whose state the gateways hold (R394). -/
def residentPeers (s : State) : Nat := (s.pkg.conns.filter fun c => c.2.resident).length

/-- The resident peer used least recently (R394). -/
def oldestPeer (s : State) : Option Nat :=
  (s.pkg.conns.foldl (fun a c =>
    if !c.2.resident then a
    else match a with
      | none => some (c.1, c.2.lastUse)
      | some (d, u) => if c.2.lastUse < u then some (c.1, c.2.lastUse) else some (d, u)) none).map (·.1)

/-- Peer state spilled to make room (R394). The bytes of the spill area are the device's own (log 32). -/
def spillPeer (s : State) : State :=
  if residentPeers s < 4096 then s
  else match oldestPeer s with
    | none => s
    | some d => setConn s d { connOf s d with resident := false }

/-- Packets of a class that may be sent and not acknowledged (R393). -/
def linkWindow : Nat := 256

/-- Whether a message is an access, which its target answers (R184, R190, R192). -/
def isAsked : MsgBody → Bool
  | .access _ => true
  | _ => false

/-- Answers, which go to the core that asked. -/
def isAnswer : MsgBody → Bool
  | .reply _ _ _ _ | .enqReply _ _ _ | .ldData _ _ _ _ _ | .stnAck _ | .farFault _ _ _ _ _ | .seedReply _ _ _ => true
  | _ => false

/-- A link packet of a class handed to the connection of its peer: sent at once within the window of 256, else
kept until it opens (R391, R393). -/
def enqueueLink (s : State) (d cls : Nat) (k : LinkPkt) : State :=
  let x := connOf s d
  let q := connClass x cls
  let k' := { k with seq := q.sendSeq }
  let n := if q.unacked.length < linkWindow then 1 else 0
  let q' := { q with sendSeq := (q.sendSeq + 1) % 2 ^ 32, unacked := q.unacked ++ [(k', n, s.cycle)] }
  setConn s d { putClass x cls q' with lastUse := s.cycle, asked := if isAsked k.body then x.asked ++ [k'] else x.asked }

/-- The partition of a peer that a partition's binding names (R392). -/
def peerPart (s : State) (p : Option Nat) (d : Nat) : Nat := bits (peerEntry s p d) 61 56

/-- Whether the connection of a peer is down (R395). -/
def linkDown (s : State) (d : Nat) : Bool := !(connOf s d).up

/-- Whether the gateways hold the state of a peer or have room for it (R394). -/
def peerRoom (s : State) (d : Nat) : Bool :=
  (mapFind s.pkg.conns d).isSome || decide (residentPeers s < 4096) || s.pkg.psp != 0#64

/-- Whether what a partition sends to a device can leave: a route, a connection that is up, room for the peer's state (R390, R394,
R395). The cores only choose among the eligible ports. -/
def linkReach (s : State) (p : Option Nat) (d : Nat) : Bool :=
  (routePort s p 0 0 d).isSome && !linkDown s d && peerRoom s d

/-- The state of a new peer taken in, another's spilled first (R394). -/
def admitPeer (s : State) (d : Nat) : State := setConn (spillPeer s) d { Conn.fresh with lastUse := s.cycle }

/-- The state of a peer loaded from HBM: the packets that waited for it go on in their order (R394). -/
def loadPeer (s : State) (d : Nat) : State :=
  let x := connOf s d
  let s1 := setConn (spillPeer s) d { x with resident := true, lastUse := s.cycle, waiting := [] }
  x.waiting.foldl (fun a k => enqueueLink a d k.cls k) s1

/-- The state of a peer held by the gateways, or none where there is no room for it (R394). -/
def holdPeer (s : State) (d : Nat) : Option State :=
  match mapFind s.pkg.conns d with
  | some x => some (if x.resident then setConn s d { x with lastUse := s.cycle } else loadPeer s d)
  | none => if peerRoom s d then some (admitPeer s d) else none

/-- A message for another device given to its connection; none where there is no route, the connection is down or
no peer state can be held (R390, R394, R395). DEDUCED, log 35. -/
def linkSend (s : State) (m : Msg) (tdCycle : Nat) : Option State :=
  let p := if m.sdev = s.pkg.dev.toNat then partOfCore s m.score else none
  if !linkReach s p m.ddev then none
  else
    let s1 := if (mapFind s.pkg.conns m.ddev).isSome then s else admitPeer s m.ddev
    let x := connOf s1 m.ddev
    let k : LinkPkt :=
      { srcDev := s.pkg.dev.toNat, dstDev := m.ddev, cls := classOf m.net, seq := 0, srcPart := m.part,
        srcCore := m.score, srcSlot := m.sslot, srcAsid := m.asid,
        srcThread := if isAnswer m.body then m.towards else m.thread, ask := m.ask,
        dstPart := if m.rpart < 64 then m.rpart else peerPart s (some m.part) m.ddev, dstCore := m.dcore,
        tdCycle := tdCycle, body := m.body }
    some (if x.resident then enqueueLink s1 m.ddev (classOf m.net) k
      else setConn s1 m.ddev { x with waiting := x.waiting ++ [k] })

end Sys2Proof.Machine
end

