-- ==== Sys2Proof/Machine/Counter.lean ====
section
/-! DEFINITION. Stores with their soft errors and watches (R194, R345, R346), the decision trace (R378), attribute
records (R371) and completion counters (R39 to R41, R372, R373). -/

namespace Sys2Proof.Machine

/-- A word that counts up and saturates (R346, R378). -/
def satSucc (w : Word) : Word := if w.toNat + 1 < 2 ^ 64 then w + 1#64 else w

/-- A soft-error counter raised by one (R346). -/
def countSoft (s : State) (c num : Nat) : State :=
  if num = 0 then s
  else modCore s c fun k => { k with softErr := mapSet k.softErr num (satSucc (mapGet 0#64 k.softErr num)) }

/-- Counter numbers of a store: corrected and uncorrectable; parity refetches count alone, and the tile table has no counter
(R346). -/
def softNumbers (key : Nat) : Nat × Nat :=
  match keyStore key with
  | 1 => (0x120, 0x121)
  | 2 => (0x127, 0x128)
  | 3 => (0x127, 0x128)
  | 5 => (0x124, 0x125)
  | 6 => (0x122, 0x123)
  | 7 => (0x122, 0x123)
  | 10 => (0, 0)
  | 9 => (0x126, 0x126)
  | _ => (0x129, 0x12A)

/-- The die of a key, for the soft-error log (R346, R349); HBM addresses are spread over the dies evenly (log 6). -/
def dieOfKey (s : State) (k : Nat) : Nat :=
  match keyStore k with
  | 0 => k % 2 ^ 60 / (hbmSize s / 4) % 4
  | 2 => dieOfCluster s (k % 2 ^ 60 / 2 ^ 24)
  | 3 => k % 2 ^ 60 / 2 ^ 27
  | 10 => dieOfCluster s (k % 2 ^ 60 / 2 ^ 20)
  | _ => dieOfCore s (k % 2 ^ 60 / 2 ^ 20)

/-- A record appended to a die's soft-error log, of which the last 256 are kept by the reader (R349). DESIGN CHOICE, log 50. -/
def logSoft (s : State) (key : Nat) : State :=
  let d := dieOfKey s key
  modPkg s fun p => { p with softLog := mapSet p.softLog d (mapGet [] p.softLog d ++
    [{ tns := timeNs s, addr := key % 2 ^ 60, code := storeCode key, syndrome := 0 }]) }

/-- A first meeting with an injected error (R348). -/
def meetInjected (s : State) (c k n : Nat) : State :=
  let met (g : Nat × Nat) : Bool := decide (g.1 < k + n) && decide (k < g.1 + 8)
  (s.injected.filter met).foldl (fun a _ => countSoft a c 0x12B) { s with injected := s.injected.filter fun g => !met g }

/-- The errors that a read of a range meets: corrected codewords are written back and counted, an uncorrectable one
is counted and logged (R345, R346). The second part says that the read met an uncorrectable error. DESIGN CHOICE, log 78. -/
def eccRead (s : State) (c k n : Nat) : State × Bool :=
  let fixed := eccFixed s.ecc k n
  let bad := eccBads s.ecc k n
  if fixed.isEmpty && bad.isEmpty then (s, false)
  else
    let s1 := meetInjected s c k n
    let s2 := fixed.foldl (fun a g => countSoft { a with ecc := mapErase a.ecc g } c (softNumbers g).1) s1
    (bad.foldl (fun a g => logSoft (countSoft a c (softNumbers g).2) g) s2, !bad.isEmpty)

/-- The errors that a read of the device's own units meets: as those of `eccRead`, but in no core's counters (R345, R346). -/
def devMeets (s : State) (k n : Nat) : State :=
  let fixed := eccFixed s.ecc k n
  let bad := eccBads s.ecc k n
  if fixed.isEmpty && bad.isEmpty then s
  else bad.foldl logSoft { s with ecc := s.ecc.filter fun e => !fixed.contains e.1 }

/-- Several ranges read one after another. -/
def eccReads (s : State) (c : Nat) (l : List (Nat × Nat)) : State × Bool :=
  l.foldl (fun a r => let b := eccRead a.1 c r.1 r.2; (b.1, a.2 || b.2)) (s, false)

/-- The errors that a store meets in codewords that it writes in part (R345). -/
def eccPart (s : State) (c k n : Nat) : State × Bool :=
  let bad := eccBads (eccWrite s.ecc k n) k n
  (bad.foldl (fun a g => logSoft (countSoft a c (softNumbers g).2) g) s, !bad.isEmpty)

/-- The errors that a page walk meets (R345, R346). -/
def walkMeets (s : State) (c : Nat) (p : Option Nat) (asid va : Nat) : State :=
  (eccReads s c ((walkReads s p asid va).map fun k => (k, 8))).1

/-- Waiting watchers of a line that a write of another party touches (R194). -/
def hitWatch (byWhom : Option (Nat × Nat)) (k n c : Nat) (x : Core) : Core :=
  { x with slots := x.slots.map fun p =>
      match p.2.wait with
      | .watch key va reg _ =>
        if p.2.st = .waiting && byWhom != some (c, p.1) && decide (key < k + n) && decide (k < key + 64) then
          (p.1, { p.2 with wait := .watch key va reg true })
        else p
      | _ => p }

/-- Whether hods have work whose entries they may have fetched already (R281). -/
def hodsWork (s : State) : Bool :=
  s.hods.any (fun h => !h.2.progs.isEmpty || !h.2.queue.isEmpty) || s.cores.any fun k => !k.2.hodq.isEmpty

/-- The old bytes of the 16-byte units that a write of a party, by its name and the number of its access, touches (R281). -/
def noteOlder (s : State) (who : Nat × Nat) (k n : Nat) : SMap (List Older) :=
  if hodsWork s && decide (keyStore k < 4) then
    (List.range ((k + n + 15) / 16 - k / 16)).foldl (fun a i =>
      let u := (k / 16 + i) * 16
      mapSet a u (mapGet [] a u ++ [⟨s.cycle, who.1, who.2, memBytes s.mem u 16⟩])) s.older
  else if hodsWork s then s.older else []

/-- Bytes placed in memory, with the marks of whole codewords (R119, R345). -/
def placeBy (who : Nat × Nat) (s : State) (k : Nat) (bs : List Byte) : State :=
  { s with mem := memWrite s.mem k bs, ecc := eccWrite s.ecc k bs.length, older := noteOlder s who k bs.length,
           injected := s.injected.filter fun g => !(decide (k ≤ g.1) && decide (g.1 + 8 ≤ k + bs.length)) }

/-- Bytes placed by no party's access, as those of a save and a restore are (R119). -/
def placeBytes (s : State) (k : Nat) (bs : List Byte) : State := placeBy (0, 0) s k bs

/-- Bytes written by a party of a slot, which watches see (R5, R194, R345). -/
def storeBy (byWhom : Option (Nat × Nat)) (who : Nat × Nat) (s : State) (k : Nat) (bs : List Byte) : State :=
  { placeBy who s k bs with cores := s.cores.map fun p => (p.1, hitWatch byWhom k bs.length p.1 p.2) }

/-- Bytes written by the device itself. -/
def storeBytes (s : State) (k : Nat) (bs : List Byte) : State := storeBy none (0, 0) s k bs

/-- A thread's store to a byte noted before those that it follows; a store that nothing has seen is one with its
successor of the same thread (R127). -/
def noteByte (tid : Nat) (old : Byte) (l : List Stale) : List Stale :=
  match l with
  | e :: _ => if e.tid = tid && e.seen.isEmpty then l else { tid := tid, byte := old, seen := [] } :: l
  | [] => [{ tid := tid, byte := old, seen := [] }]

/-- The old bytes of a thread's store, for instruction fetch (R127). -/
def noteStale (m : List Host.Cell) (st : SMap (List Stale)) (tid k : Nat) : Nat → SMap (List Stale)
  | 0 => st
  | n + 1 =>
    let st' := noteStale m st tid k n
    mapSet st' (k + n) (noteByte tid (memByte m (k + n)) ((mapFind st' (k + n)).getD []))

/-- The stores to a byte after a FENCE of a thread: its own are seen by every fetch, those before them too, and the others by
its own. -/
def fenceByte (tid : Nat) : List Stale → List Stale
  | [] => []
  | e :: l => if e.tid = tid then [] else { e with seen := tid :: e.seen.filter (· != tid) } :: fenceByte tid l

/-- A byte as a thread fetches it: after the newest store that it sees (R127). -/
def fetchByte (tid : Nat) (now : Byte) : List Stale → Byte
  | [] => now
  | e :: l => if e.seen.contains tid then now else fetchByte tid e.byte l

/-- A FENCE of a thread: fetch sees its own stores from now on, and its own fetch sees those of every thread (R127). -/
def fenceStale (st : SMap (List Stale)) (tid : Nat) : SMap (List Stale) :=
  (st.map fun e => (e.1, fenceByte tid e.2)).filter fun e => !e.2.isEmpty

/-- What a thread's store leaves of its bytes: those of the ASID table keep the bits that only the device writes (R350). -/
def storedBytes (s : State) (k : Nat) (bs : List Byte) : List Byte :=
  if inAsidTable s k bs.length then keepAsidBits s k bs else bs

/-- Bytes stored by access `ord` of the thread `tid` of a slot (R127, R194, R281). -/
def partyStore (s : State) (c n tid ord k : Nat) (bs : List Byte) : State :=
  storeBy (some (c, n)) (tid, ord) { s with stale := noteStale s.mem s.stale tid k bs.length } k (storedBytes s k bs)

/-- Bytes stored by the thread of a slot (R127, R194). -/
def threadStore (s : State) (c n k : Nat) (bs : List Byte) : State :=
  partyStore s c n (tidOf s c n) s.uid k bs

/-- A record appended to the decision trace of a core (R378). -/
def traceAdd (s : State) (c kind slot peer ccid asid : Nat) (arg pc : Word) : State :=
  modCore s c fun k =>
    let t := k.trace ++ [{ tns := timeNs s, kind := kind, slot := slot, peer := peer, ccid := ccid, asid := asid,
                           arg := arg, pc := pc }]
    { k with trace := t.drop (t.length - 512),
             traceKinds := mapSet k.traceKinds kind (satSucc (mapGet 0#64 k.traceKinds kind)),
             traceCount := k.traceCount + 1 }

/-- An attribute record (R371). -/
structure Attr where
  asid : Nat
  utvec : Nat
  slog : Nat
  acmSave : Nat
  tcmSave : Nat
  qcb : Nat
  ftab : Nat
  fcnt : Nat
  deriving DecidableEq, Repr

/-- The key of the attribute record of counter id `n` for a partition and a value of lattr: an address of region 0xA, space 0b10
(R371, R374). -/
def attrKeyBy (s : State) (p : Option Nat) (lattr : Word) (n : Nat) : Option Nat :=
  let v := lattr.toNat
  if bits v 63 60 ≠ 0xA || bits v 33 32 ≠ 2 || Config.sramBytes < bits v 31 0 + 64 * n + 64 then none
  else (coreOfLogical s p (bits v 43 34)).map fun t => sramKey (dieOfCore s t) (bits v 31 0 + 64 * n)

/-- The key of the attribute record of counter id `n` at a core. -/
def attrKey (s : State) (c n : Nat) : Option Nat := attrKeyBy s (partOfCore s c) (coreOf s c).lattr n

/-- The attribute record at a key, none where it is not valid or has an uncorrectable error (R345, R371). DEDUCED, log 86. -/
def attrAt (s : State) (key : Option Nat) : Option Attr :=
  match key with
  | none => none
  | some k =>
    let f (lo m : Nat) := memNat s.mem (k + lo) m
    if f 2 1 % 2 = 0 || eccBad s.ecc k 64 then none
    else some { asid := f 0 2 % 2 ^ 14, utvec := f 8 8, slog := f 16 8, acmSave := f 24 2, tcmSave := f 32 8,
                qcb := f 40 8, ftab := f 48 8, fcnt := f 56 2 }

/-- The soft errors that a core meets where it reads the attribute record of a counter id (R345, R346). -/
def attrMeets (s : State) (c n : Nat) : State :=
  match attrKey s c n with
  | some k => (eccRead s c k 64).1
  | none => s

/-- The attribute record of a counter id at a core (R371). -/
def attrOf (s : State) (c n : Nat) : Option Attr := attrAt s (attrKey s c n)

/-- States of a counter (R39). -/
def cntOpen : Nat := 0
def cntDone : Nat := 1
def cntCancelling : Nat := 2
def cntCancelled : Nat := 3

/-- Fields of a counter record (R39). -/
def cntErr (w : Nat) : Bool := w.testBit 55
def cntLevel (w : Nat) : Nat := bits w 54 52
def cntState (w : Nat) : Nat := bits w 51 48
def cntParent (w : Nat) : Nat := bits w 47 32
def cntCount (w : Nat) : Nat := bits w 31 0

/-- A counter record (R39). -/
def cntWord (err : Bool) (level state parent count : Nat) : Nat :=
  (if err then 2 ^ 55 else 0) + level * 2 ^ 52 + state * 2 ^ 48 + parent * 2 ^ 32 + count

/-- The key of a counter of a partition (R372). -/
def counterKey (s : State) (p id : Nat) : Nat :=
  let a := (partOf s p).ctab.toNat
  sramKey (dieOfCore s (bits a 43 34)) (bits a 26 0 + 8 * id)

/-- The record of a counter; without a partition there is no counter (R372), and one with an uncorrectable error counts as
none (R345). DEDUCED, log 86. -/
def counterRead (s : State) (p : Option Nat) (id : Nat) : Nat :=
  match p with
  | none => 0
  | some q => if eccBad s.ecc (counterKey s q id) 8 then 0 else memNat s.mem (counterKey s q id) 8

/-- The soft errors that the reading of a counter meets (R345, R346); id 0 names none. -/
def counterMeets (s : State) (p : Option Nat) (id : Nat) : State :=
  match p with
  | none => s
  | some q => if id = 0 then s else devMeets s (counterKey s q id) 8

/-- A counter record written by the device. -/
def counterWrite (s : State) (p : Option Nat) (id w : Nat) : State :=
  match p with
  | none => s
  | some q => storeBytes s (counterKey s q id) (leBytes 8 w)

/-- Whether a counter is OPEN (R39). -/
def counterOpen (s : State) (p : Option Nat) (id : Nat) : Bool :=
  let w := counterRead s p id
  decide (id ≠ 0) && decide (cntLevel w ≠ 0) && decide (cntState w = cntOpen)

/-- Outcome of an increment (R372). -/
inductive Incr where
  | done (s : State)
  | notOpen
  | limit

/-- An increment of COUNT by one (R372). -/
def counterIncr (s : State) (p : Option Nat) (id : Nat) : Incr :=
  let w := counterRead s p id
  if !counterOpen s p id then .notOpen
  else if cntCount w = 2 ^ 32 - 1 then .limit
  else .done (counterWrite s p id (w + 1))

/-- The record of a counter whose COUNT is zero: DONE or CANCELLED (R40). -/
def cntEnd (w : Nat) : Nat :=
  cntWord (cntErr w) (cntLevel w) (if cntState w = cntCancelling then cntCancelled else cntDone) (cntParent w) 0

/-- A counter that has ended writes its completion record at launch level (R40). -/
def counterEnd (s : State) (p : Option Nat) (id w : Nat) : State :=
  let s1 := counterWrite s p id (cntEnd w)
  match p with
  | none => s1
  | some q =>
    if cntLevel w = 1 then
      modPart s1 q fun x => { x with complRecs := mapSet x.complRecs id (BitVec.ofNat 64 (cntEnd w)) }
    else s1

/-- One completion of a counter, with its error, over at most `fuel` levels (R40). -/
def counterCompleteN : Nat → State → Option Nat → Nat → Bool → State
  | 0, s, _, _, _ => s
  | fuel + 1, s0, p, id, err =>
    let s := counterMeets s0 p id
    let w := counterRead s p id
    if cntLevel w = 0 || (cntState w ≠ cntOpen && cntState w ≠ cntCancelling) || cntCount w = 0 then s
    else
      let e := cntErr w || err
      let w1 := cntWord e (cntLevel w) (cntState w) (cntParent w) (cntCount w - 1)
      if cntCount w = 1 then
        let s1 := counterEnd s p id w1
        if cntParent w = 0 then s1 else counterCompleteN fuel s1 p (cntParent w) e
      else counterWrite s p id w1

/-- One completion of a counter: a launch, its graph, phase and job (R40). -/
def counterComplete (s : State) (p : Option Nat) (id : Nat) (err : Bool) : State := counterCompleteN 4 s p id err

/-- Ids of a partition's counter table that a cell of memory touches: every id with a non-zero record. -/
def counterIds (s : State) (p : Nat) : List Nat :=
  let base := counterKey s p 0
  (s.mem.filterMap fun c =>
    if base ≤ c.1 ∧ c.1 < base + 524288 then some ((c.1 - base) / 8) else none).dedup

/-- Children of a counter (R39). -/
def counterChildren (s : State) (p id : Nat) : List Nat :=
  (counterIds s p).filter fun i =>
    let w := counterRead s (some p) i
    i ≠ 0 && cntLevel w ≠ 0 && cntParent w = id

/-- A cancel of a counter and of its children, over at most `fuel` levels (R41, R373). -/
def counterCancelN : Nat → State → Nat → Nat → State
  | 0, s, _, _ => s
  | fuel + 1, s, p, id =>
    let w := counterRead s (some p) id
    if cntLevel w = 0 || cntState w ≠ cntOpen then s
    else
      let w1 := cntWord (cntErr w) (cntLevel w) cntCancelling (cntParent w) (cntCount w)
      if cntCount w = 0 then
        let s1 := counterEnd s (some p) id w1
        if cntParent w = 0 then s1 else counterComplete s1 (some p) (cntParent w) (cntErr w)
      else
        (counterChildren s p id).foldl (fun a i => counterCancelN fuel a p i) (counterWrite s (some p) id w1)

/-- Launch ids below a counter, itself included. -/
def launchesN : Nat → State → Nat → Nat → List Nat
  | 0, _, _, _ => []
  | fuel + 1, s, p, id => id :: (counterChildren s p id).flatMap fun i => launchesN fuel s p i

/-- A thread of a cancelled launch: a running one stops at its next boundary, a waiting one at once; a held one when
it is resumed (R41). -/
def cancelSlot (ids : List Nat) (x : Slot) : Slot :=
  match x.thread with
  | none => x
  | some t =>
    if ids.contains t.ccid.toNat && x.st != .free then { x with cancelled := true } else x

/-- The threads of cancelled launches on a core: those in its slots and those saved from them (R41). -/
def cancelCore (ids : List Nat) (k : Core) : Core :=
  { k with slots := k.slots.map (fun q => if isUserSlot q.1 then (q.1, cancelSlot ids q.2) else q),
           savedSlots := k.savedSlots.map fun q => (q.1, cancelSlot ids q.2) }

/-- A thread of a cancelled launch that is on its way home from a visit: it stops there (R41). -/
def cancelReturn (ids : List Nat) (m : Msg) : Msg :=
  match m.body with
  | .visitReturn t n tr _ => if ids.contains t.ccid.toNat then { m with body := .visitReturn t n tr true } else m
  | _ => m

/-- The cancel of a counter with its effect on the threads of its launches, those of a swapped partition and those on
their way home from a visit among them (R41). -/
def counterCancel (s : State) (p id : Nat) : State :=
  let ids := launchesN 4 s p id
  let s1 := counterCancelN 4 s p id
  let back (k : Core) : Core := { cancelCore ids k with spill := k.spill.map (cancelReturn ids) }
  { s1 with
    cores := s1.cores.map (fun k => if partOfCore s k.1 = some p then (k.1, back k.2) else k),
    shadows := s1.shadows.map (fun h => if h.2.part = p then (h.1, { h.2 with cores := h.2.cores.map back }) else h),
    net := s1.net.map fun m => if m.part = p then cancelReturn ids m else m }

/-- A counter command: OP, LEVEL, ID, PARENT, COUNT; the new state and STATUS (R373). DEDUCED, log 67. -/
def counterCommand (s0 : State) (p : Option Nat) (op level id parent count : Nat) : State × Nat :=
  match p with
  | none => (s0, 4)
  | some q =>
    let s := counterMeets (counterMeets s0 p id) p parent
    let w := counterRead s p id
    if id = 0 || 65535 < id then (s, 4)
    else match op with
    | 1 =>
      let pw := counterRead s p parent
      if level = 0 || 4 < level then (s, 4)
      else if cntLevel w ≠ 0 then (s, 2)
      else if level = 4 && parent ≠ 0 then (s, 3)
      else if level < 4 && (!counterOpen s p parent || cntLevel pw ≠ level + 1) then (s, 3)
      else if level < 4 && cntCount pw = 2 ^ 32 - 1 then (s, 5)
      else
        let s0 := modPart s q fun x =>
          { x with errRecs := mapErase x.errRecs id, complRecs := mapErase x.complRecs id,
                   stages := x.stages.filter fun e => e.ccid != id }
        let s1 := counterWrite s0 p id (cntWord false level cntOpen parent count)
        (if level < 4 then counterWrite s1 p parent (pw + 1) else s1, 0)
    | 2 =>
      if level ≠ 0 || parent ≠ 0 || count ≠ 0 then (s, 4)
      else if cntLevel w = 0 then (s, 2)
      else if cntState w = cntDone || cntState w = cntCancelled then (s, 1)
      else if cntState w = cntCancelling then (s, 0)
      else (counterCancel s q id, 0)
    | 3 =>
      if level ≠ 0 || parent ≠ 0 || count ≠ 0 then (s, 4)
      else if cntLevel w = 0 then (s, 2)
      else if cntState w = cntOpen || cntState w = cntCancelling then (s, 3)
      else (counterWrite s p id 0, 0)
    | _ => (s, 4)

/-- The error record of a launch: the first record is kept, later ones are counted (R331). DESIGN CHOICE, log 74. -/
def errRecord (s : State) (p : Option Nat) (id : Nat) (r : TrapRec) : State :=
  match p with
  | none => s
  | some q =>
    modPart s q fun x =>
      match mapFind x.errRecs id with
      | none => { x with errRecs := mapSet x.errRecs id r }
      | some o => { x with errRecs := mapSet x.errRecs id { o with more := o.more + 1 } }

end Sys2Proof.Machine
end

