-- ==== Sys2Proof/Machine/Ops.lean ====
section
/-! DEFINITION. The operations that the meanings of the instructions share: registers and predicates (R20 to R23),
program order and the loop-back test (R126, R169), waiting (R54, R142), messages (R118, R210), departure (R34, R37),
taking a trap (R328 to R333) and returning from one (R334). -/

namespace Sys2Proof.Machine

/-! ## Registers, predicates, slots -/

/-- A register of a thread. -/
def regOf (t : Thread) (r : Nat) : Reg := (t.regs[r]?).getD { val := 0#64, full := true, rsv := false }

/-- The value of a register. -/
def valOf (t : Thread) (r : Nat) : Word := (regOf t r).val

/-- A thread with a register replaced. -/
def putReg (t : Thread) (r : Nat) (x : Reg) : Thread := { t with regs := t.regs.setIfInBounds r x }

/-- A register written by an instruction or an arrival: FULL, not RESERVED (R23, R143). -/
def writeReg (t : Thread) (r : Nat) (v : Word) : Thread := putReg t r { val := v, full := true, rsv := false }

/-- A register made RESERVED (R23). -/
def reserveReg (t : Thread) (r : Nat) : Thread := putReg t r { val := valOf t r, full := false, rsv := true }

/-- A register made EMPTY (R23). -/
def emptyReg (t : Thread) (r : Nat) : Thread := putReg t r { val := valOf t r, full := false, rsv := false }

/-- Whether a register of the thread is RESERVED. -/
def anyReserved (t : Thread) : Bool := t.regs.toList.any fun r => r.rsv

/-- Predicate `p` of a thread; p0 reads 1 (R21). -/
def predOf (t : Thread) (p : Nat) : Bool := p == 0 || t.pw.getLsbD p

/-- Taint of a predicate: p8 to p15 only (R22). -/
def taintOf (t : Thread) (p : Nat) : Bool := decide (8 ≤ p) && decide (p < 16) && t.pw.getLsbD (p + 8)

/-- STRICT and DET of a thread (R21). -/
def strictOf (t : Thread) : Bool := t.pw.getLsbD 30
def detOf (t : Thread) : Bool := t.pw.getLsbD 31

/-- A bit of a word set to a value. -/
def putBit {w : Nat} (x : BitVec w) (i : Nat) (b : Bool) : BitVec w :=
  if b then x ||| BitVec.twoPow w i else x &&& ~~~(BitVec.twoPow w i)

/-- A predicate with its taint written; p0 keeps its value and p1 to p7 carry no taint (R21, R22). -/
def putPred (t : Thread) (p : Nat) (v taint : Bool) : Thread :=
  if p = 0 then t
  else if p < 8 then { t with pw := putBit t.pw p v }
  else { t with pw := putBit (putBit t.pw p v) (p + 8) taint }

/-- TAG of a thread (R21). -/
def tagOf (t : Thread) : BitVec 4 := t.pw.extractLsb' 24 4

/-- A thread with its TAG replaced (R209). -/
def putTag (t : Thread) (tag : Nat) : Thread :=
  { t with pw := (t.pw &&& 0xF0FFFFFF#32) ||| (BitVec.ofNat 32 (tag % 16) <<< 24) }

/-- A slot that its thread has left; the spacing of its issues and its trap registers belong to the slot (R26, R45, R338). -/
def emptySlot (x : Slot) : Slot :=
  { Slot.fresh with lastIssue := x.lastIssue, sin := x.sin, tvec := x.tvec, epc := x.epc, cause := x.cause,
                    tval := x.tval, detail := x.detail }

/-- Modes in which a core counts as held (R347, R380). -/
def isHeldMode : CoreMode → Bool
  | .running | .preempted => false
  | _ => true

/-! ## Waking -/

/-- The first cycle in which a woken slot of a core is READY; a stopped clock takes up to 32 cycles (R54, R336). -/
def wakeCycle (s : State) (c : Nat) : Nat :=
  if (coreOf s c).clockStopped then s.cycle + 1 + Config.wakeDelay s.fresh % 32 else s.cycle + 1

/-- A slot made READY (R26). -/
def readySlot (at_ : Nat) (x : Slot) : Slot := { x with st := .ready, wait := .none, readyAt := at_ }

/-- Waiting slots of a core that meet a condition made READY (R54). -/
def wakeSlots (s : State) (c : Nat) (f : Nat → Slot → Bool) : State :=
  let k := coreOf s c
  if k.slots.any fun p => p.2.st = .waiting && f p.1 p.2 then
    let at_ := wakeCycle s c
    let s1 := if k.clockStopped then { s with fresh := s.fresh + 1 } else s
    setCore s1 c { k with clockStopped := false,
                          slots := k.slots.map fun p =>
                            if p.2.st = .waiting && f p.1 p.2 then (p.1, readySlot at_ p.2) else p }
  else s

/-- Slots that wait for a resource made READY (R142 step 6, R218). -/
def wakeRes (s : State) (c : Nat) (r : Res) : State := wakeSlots s c fun _ x => x.wait == .res r

/-- A waking event for IDLE on every slot of a core (R336). -/
def wakeIdle (s : State) (c : Nat) : State := wakeSlots s c fun _ x => x.wait == .idle

/-- Whether a slot waits for register `r` or, draining or in IDLE, for any (R23, R34, R336). -/
def waitsReg (n r m : Nat) (x : Slot) : Bool :=
  m == n && (x.wait == .reg r || x.wait == .idle || x.wait == .drain || x.wait == .drainCsr)

/-- A whole codeword written: its mark goes (R345). -/
def clearMark (s : State) (k n : Nat) : State := { s with ecc := eccWrite s.ecc k n }

/-- A register of a slot's thread filled by an arrival (R23, R120, R345). -/
def fillReg (s : State) (c n r : Nat) (v : Word) : State :=
  wakeSlots (modThread (clearMark s (regKey c n (8 * r)) 8) c n fun t => writeReg t r v) c (waitsReg n r)

/-- A register filled with a tag: SEND and the notices of the micro-kernel (R209, R367). -/
def fillTagged (s : State) (c n r : Nat) (v : Word) (tag : Nat) : State :=
  wakeSlots (modThread (clearMark s (regKey c n (8 * r)) 8) c n fun t => putTag (writeReg t r v) tag) c (waitsReg n r)

/-! ## Semaphores -/

/-- A core with a semaphore changed. -/
def putSem (k : Core) (n : Nat) (x : Sem) : Core := { k with sems := mapSet k.sems n x }

/-- A semaphore raised: saturating, with the sticky overflow bit (R53). -/
def raisedSem (x : Sem) (inc : Nat) : Sem :=
  if 2 ^ 32 - 1 < x.val.toNat + inc then { x with val := BitVec.allOnes 32, ovf := true }
  else { x with val := x.val + BitVec.ofNat 32 inc }

/-- A change of a semaphore, which wakes its waiters in the next cycle (R54). -/
def setSem (s : State) (c n : Nat) (x : Sem) : State :=
  wakeSlots (modCore s c fun k => putSem k n x) c fun _ y => y.wait == .sem n

/-- A semaphore raised by an increment (R53, R54). -/
def semAdd (s : State) (c n inc : Nat) : State := setSem s c n (raisedSem (semOf (coreOf s c) n) inc)

/-- A semaphore with a deferred error held against it: the first is kept, later ones are counted (R244). -/
def heldSem (x : Sem) (e : DefErr) : Sem :=
  match x.err with
  | none => { x with err := some (e, 0) }
  | some (f, m) => { x with err := some (f, m + 1) }

/-- A deferred error held against a semaphore (R54, R143). -/
def semHold (s : State) (c n : Nat) (e : DefErr) : State := setSem s c n (heldSem (semOf (coreOf s c) n) e)

/-! ## Messages -/

/-- Two messages of one sender: of one thread, wherever it runs, or from one source in one core (R118, R119). -/
def sameSender (a b : Msg) : Bool :=
  if a.thread = 0 && b.thread = 0 then a.sdev == b.sdev && a.score == b.score && a.sslot == b.sslot
  else a.thread == b.thread

/-- Two messages of one flow: one sender, one target core, one network (R118). -/
def sameFlow (a b : Msg) : Bool := sameSender a b && a.ddev == b.ddev && a.dcore == b.dcore && a.net == b.net

/-- A message of a slot of this package, not yet placed; one that takes egress space may leave the queue from the cycle
`due` on, which R210 does not fix (log 7). -/
def mkMsg (s : State) (c n ddev dcore : Nat) (net : Net) (egress : Bool) (body : MsgBody) : Msg :=
  { uid := s.uid, sdev := s.pkg.dev.toNat, score := c, sslot := n, thread := tidOf s c n, ddev := ddev, dcore := dcore,
    net := net, asid := (slotOf s c n).asid.toNat, part := (partOfCore s c).getD 64, rpart := 64, ask := s.uid, towards := 0,
    egress := egress, due := s.cycle + 1 + Config.latency s.uid, body := body }

/-- A message placed in flight; one for another device that takes no egress space goes to its gateway at once (R391). -/
def putMsg (s : State) (m : Msg) : State :=
  if m.egress || m.ddev = s.pkg.dev.toNat then { s with net := s.net ++ [m], uid := s.uid + 1 }
  else { (linkSend s m 0).getD s with uid := s.uid + 1 }

/-- A message to a core of the own device, or, from the egress queue, to any device (R118, R210). -/
def post (s : State) (c n ddev dcore : Nat) (net : Net) (egress : Bool) (body : MsgBody) : State :=
  putMsg s (mkMsg s c n ddev dcore net egress body)

/-- A message to a core of the own package that takes no egress space. -/
def postHere (s : State) (c n dcore : Nat) (net : Net) (body : MsgBody) : State :=
  post s c n s.pkg.dev.toNat dcore net false body

/-- Entries of a core's request egress queue (R210). -/
def egressCount (s : State) (c : Nat) : Nat :=
  (s.net.filter fun m => m.egress && m.net != .timediv && m.score == c).length

/-- Messages that may carry accesses not yet performed: those in flight and those that a spill queue holds (R385). -/
def flying (s : State) : List Msg := s.net ++ s.cores.flatMap fun k => k.2.spill

/-- Whether a message is an access of a party, a thread or a command, by its name (R107, R184, R213). -/
def isAccessOf (tid : Nat) (m : Msg) : Bool :=
  match m.body with
  | .access _ => m.thread == tid
  | _ => false

/-- Whether a message is an answer that a thread waits for (R185, R193). -/
def isAnswerTo (tid : Nat) (m : Msg) : Bool :=
  m.towards == tid && (match m.body with
    | .reply _ _ _ _ | .stnAck _ | .ldData _ _ _ _ _ | .farFault _ _ _ _ _ | .seedReply _ _ _ => true
    | _ => false)

/-- Whether a thread has accesses that are not performed (R112). -/
def unperformed (s : State) (c n : Nat) : Bool :=
  (flying s).any (isAccessOf (tidOf s c n)) || (coreOf s c).remote.any fun e => e.thread == tidOf s c n

/-- Whether a thread has accesses that are not performed or not answered (R31, R34, R193). -/
def pending (s : State) (c n : Nat) : Bool :=
  unperformed s c n || (flying s).any fun m => m.ddev == s.pkg.dev.toNat && isAnswerTo (tidOf s c n) m

/-- Whether an access of a party on core `c` older than `uid` is not performed, here or at another device (R112). -/
def earlierAccess (s : State) (c tid uid : Nat) : Bool :=
  (flying s).any (fun m => isAccessOf tid m && decide (m.uid < uid)) ||
    (coreOf s c).remote.any fun e => e.thread == tid && decide (e.uid < uid)

/-- Slots of a core that drain and have nothing left to wait for made READY (R34, R112). -/
def settle (s : State) (c : Nat) : State :=
  wakeSlots s c fun n x => (x.wait == .drain || x.wait == .drainCsr) && !pending s c n

/-- The delay of a SEED's request and of its reply: free, within the 16,384 cycles of both together (R181; log 7). -/
def seedDelay (s : State) : Nat := Config.latency s.uid % 8000

/-- A reply of the far end or of a service to a slot after a delay: a message of the reply network (R185, R210). -/
def answerIn (s : State) (m : Msg) (delay : Nat) (body : MsgBody) : State :=
  putMsg s
    { uid := s.uid, sdev := s.pkg.dev.toNat, score := m.dcore, sslot := 256, thread := 0, ddev := m.sdev, dcore := m.score,
      net := .reply, asid := m.asid, part := m.part, rpart := m.rpart, ask := m.ask, towards := m.thread,
      egress := false,
      due := s.cycle + 1 + delay, body := body }

/-- A reply of the far end or of a service to a slot. -/
def answer (s : State) (m : Msg) (body : MsgBody) : State := answerIn s m (Config.latency s.uid) body

/-- The state without a message. -/
def dropMsg (s : State) (uid : Nat) : State := { s with net := s.net.filter fun m => m.uid != uid }

/-! ## The context of an instruction and how it ends -/

/-- The slot and the thread whose instruction is executed, as they are when it issues. -/
structure Ctx where
  s : State
  c : Nat
  n : Nat
  sl : Slot
  t : Thread

/-- How an instruction ends other than by completing: a trap of the state given, not issued and waiting (R142 step
6), or issued and on its way by itself. -/
inductive Stop where
  | trap (s : State) (r : TrapInfo) (deferred : Option Nat)
  | stall (s : State) (w : Wait)
  | gone (s : State)

/-- What an instruction does: the state after it, or how else it ends. -/
abbrev Body := Except Stop State

/-- A precise trap without effect (R143). -/
def Ctx.trap {α : Type} (x : Ctx) (cause : Nat) (tval detail : Word) : Except Stop α :=
  .error (.trap x.s { cause := cause, tval := tval, detail := detail, more := 0 } none)

/-- The instruction does not issue; its slot waits (R142 step 6). -/
def Ctx.stall {α : Type} (x : Ctx) (w : Wait) : Except Stop α := .error (.stall x.s w)

/-- The illegal-operand trap (R332). -/
def Ctx.illegalOperand {α : Type} (x : Ctx) (v : Word) (reg : Nat) : Except Stop α :=
  x.trap 0x04 v (BitVec.ofNat 64 reg)

/-- A slot that waits after its instruction has issued: the instruction reissues, or an event completes it. -/
def waitSlot (s : State) (c n : Nat) (w : Wait) : State :=
  modSlot s c n fun x => { x with st := .waiting, wait := w, age := 0 }

/-- The instruction has issued and its slot waits. -/
def Ctx.waits {α : Type} (x : Ctx) (s : State) (w : Wait) : Except Stop α := .error (.gone (waitSlot s x.c x.n w))

/-! ## Instruction addresses -/

/-- The form that R124 asks of an address. -/
def pcOk (a : Nat) : Bool :=
  decide (a < 2 ^ 48) && a % 4 == 0 && (bits a 47 40 != 0xFF || bits a 39 18 == 0)

/-- The key of `len` bytes of code at an address of good form (R124). -/
def codeKey (s : State) (c n a len : Nat) : Option Nat :=
  if bits a 47 40 = 0xFF then some (tcmKey c (bits a 17 0))
  else
    match transNow s (partOfCore s c) (slotOf s c n).asid.toNat (userAt s c n) .fetch a len with
    | .ok k => some k
    | .error _ => none

/-- A byte of code as a thread fetches it: a store that no FENCE of the storing thread or of this one has followed is not
seen (R127). -/
def codeByte (s : State) (tid k : Nat) : Byte := fetchByte tid (memByte s.mem k) ((mapFind s.stale k).getD [])

/-- `len` bytes of code. -/
def codeBytes (s : State) (tid k : Nat) : Nat → List Byte
  | 0 => []
  | n + 1 => codeByte s tid k :: codeBytes s tid (k + 1) n

/-- `len` bytes of code at an address, or the trap of the fetch: 0x03 (R124), 0x16 (R345). DEDUCED, log 64. -/
def fetchCode (s : State) (c n a len : Nat) : Except TrapInfo (List Byte) :=
  if !pcOk a then .error { cause := 0x03, tval := BitVec.ofNat 64 a, detail := 0#64, more := 0 }
  else match codeKey s c n a len with
    | none => .error { cause := 0x03, tval := BitVec.ofNat 64 a, detail := 0#64, more := 0 }
    | some k =>
      if eccBad s.ecc k len then
        .error { cause := 0x16, tval := BitVec.ofNat 64 a, detail := BitVec.ofNat 64 (storeCode k), more := 0 }
      else .ok (codeBytes s (tidOf s c n) k len)

/-- The soft errors that the fetch of `len` bytes meets: those of its walk and of its code are corrected, counted and logged,
and a failed parity check of the instruction cache is counted and the code refetched (R344 to R346). -/
def fetchMeets (s : State) (c n a len : Nat) : State :=
  let s0 := if eccBad s.ecc (parityKey c) 8 then
      { countSoft s c 0x126 with ecc := mapErase s.ecc (parityKey c) } else s
  let s1 := if !pcOk a || bits a 47 40 = 0xFF then s0
    else walkMeets s0 c (partOfCore s c) (slotOf s c n).asid.toNat a
  match (if pcOk a then codeKey s c n a len else none) with
  | some k => (eccRead s1 c k len).1
  | none => s1

/-- The word of code at an address, 0 where it cannot be fetched. -/
def codeWord (s : State) (c n a : Nat) : Nat :=
  match fetchCode s c n a 4 with
  | .ok bs => leNat bs
  | .error _ => 0

/-- The instruction word that a trap record names (R332). -/
def instrWord (s : State) (c n : Nat) (pc : Pc) : Word := BitVec.ofNat 64 (codeWord s c n pc.toNat)

/-- The check of a transfer of control to an address; `pc` is the PC of the trap record (R126). An uncorrectable word
there is the trap of the fetch that follows (R345). -/
def checkTarget (s : State) (c n : Nat) (pc : Pc) (a : Nat) : Except TrapInfo Unit :=
  if !pcOk a || (codeKey s c n a 4).isNone then
    .error { cause := 0x03, tval := BitVec.ofNat 64 a, detail := 0#64, more := 0 }
  else
    if a % 32 ≠ 0 && codeWord s c n (a - a % 32) / 2 ^ 26 == 0x30 then
      .error { cause := 0x01, tval := instrWord s c n pc, detail := 1#64, more := 0 }
    else if a % 8 = 4 && codeWord s c n (a - 4) / 2 ^ 26 == 0x31 then
      .error { cause := 0x01, tval := instrWord s c n pc, detail := 2#64, more := 0 }
    else .ok ()

/-- Whether the check of a target waits: its walk follows the thread's own stores that are not performed yet (R356). -/
def targetWaits (s : State) (c n : Nat) (r : TrapInfo) : Bool :=
  r.cause == 0x03 && pcOk r.tval.toNat && unperformed s c n

/-! ## Completing an instruction -/

/-- The slot after an instruction of its thread completed: no wait is counted any more (R218). -/
def restSlot (x : Slot) : Slot := { x with waitCount := 0, limitHit := false, fetched := none }

/-- The state with the thread of the context replaced and its wait count cleared. -/
def Ctx.put (x : Ctx) (s : State) (t : Thread) : State :=
  modSlot s x.c x.n fun y => { restSlot y with thread := some t }

/-- The end of an instruction that takes `size` bytes and transfers no control: the next PC and the loop-back test
(R143, R169). `t` is the thread after the instruction's own effect. -/
def Ctx.finish (x : Ctx) (s : State) (t : Thread) (size : Nat) : Body :=
  let next := x.t.pc + BitVec.ofNat 48 size
  if t.lpc ≠ 0#32 && x.t.pc = x.t.lpe then
    if 1 < t.lpc.toNat then
      let s1 := x.put s { t with lpc := t.lpc - 1#32, pc := t.lps }
      match checkTarget s1 x.c x.n t.lps t.lps.toNat with
      | .ok _ => .ok s1
      | .error r => if targetWaits x.s x.c x.n r then x.stall .drain else .error (.trap s1 r none)
    else .ok (x.put s { t with lpc := 0#32, pc := next })
  else .ok (x.put s { t with pc := next })

/-- An instruction of one word whose only effect is on its thread. -/
def Ctx.done (x : Ctx) (t : Thread) : Body := x.finish x.s t 4

/-- The state after an instruction whose thread stands in `s`, which may have changed it. -/
def Ctx.doneIn (x : Ctx) (s : State) (size : Nat) : Body :=
  x.finish s ((threadOf s x.c x.n).getD x.t) size

/-- A transfer of control, checked (R126); no loop-back test applies (R169). -/
def Ctx.jump (x : Ctx) (t : Thread) (a : Nat) : Body :=
  match checkTarget x.s x.c x.n x.t.pc a with
  | .error r => if targetWaits x.s x.c x.n r then x.stall .drain else .error (.trap x.s r none)
  | .ok _ => .ok (x.put x.s { t with pc := BitVec.ofNat 48 a })

/-! ## Taking a trap -/

/-- A trap record as bytes (R328). -/
def recBytes (r : TrapRec) : List Byte :=
  leBytes 2 r.cause ++ leBytes 1 r.flags ++ leBytes 1 r.sem ++ leBytes 4 r.more ++ leBytes 8 r.epc ++
    leBytes 8 r.tval.toNat ++ leBytes 8 r.detail.toNat

/-- The place of a slot's user trap record (R330). -/
def recKey (k : Core) (c n : Nat) : Nat := tcmKey c (bits k.utrec.toNat 17 13 * 8192 + 32 * n)

/-- A trap record of a precise trap: `deferred` names the semaphore of a WAIT that delivers a deferred error (R328,
R329). -/
def trapRec (r : TrapInfo) (deferred : Option Nat) (visit : Bool) (epc : Nat) : TrapRec :=
  { cause := r.cause, flags := 1 + (if deferred.isSome then 2 else 0) + (if visit then 4 else 0),
    sem := deferred.getD 0, more := r.more, epc := epc, tval := r.tval, detail := r.detail }

/-- A user thread aborted: it waits to retire as EXIT does (R331, trace KIND 0x09). DEDUCED, log 73. -/
def abortThread (s : State) (c n : Nat) (r : TrapRec) : State :=
  match threadOf s c n with
  | none => s
  | some t =>
    let s1 := modCore s c fun k => { k with abortc := k.abortc + 1#64 }
    let s2 := traceAdd s1 c 0x09 n 0 t.ccid.toNat (slotOf s c n).asid.toNat (BitVec.ofNat 64 r.cause)
      (BitVec.setWidth 64 t.pc)
    waitSlot s2 c n (.abort r)

/-- A trap of a user thread at home, delivered at the instruction boundary (R330 steps 2 to 4). A record whose VALID has an
uncorrectable error counts as VALID (R345). DEDUCED, log 86. -/
def userTrap (s0 : State) (c n : Nat) (r : TrapRec) : State :=
  match threadOf s0 c n with
  | none => s0
  | some t =>
    let k := coreOf s0 c
    let s := (eccRead (attrMeets s0 c t.ccid.toNat) c (recKey k c n) 8).1
    let utvec := match attrOf s c t.ccid.toNat with
      | some a => a.utvec
      | none => 0
    let key := recKey k c n
    if !k.utrec.getLsbD 0 || utvec = 0 || r.cause = 0x3F || (memByte s.mem (key + 2)).getLsbD 0 || eccBad s.ecc key 8 then
      abortThread s c n r
    else
      match checkTarget s c n t.pc utvec with
      | .error _ => abortThread s c n { r with cause := 0x03, tval := BitVec.ofNat 64 utvec, detail := 0#64 }
      | .ok _ =>
        let s1 := threadStore s c n key (recBytes r)
        modSlot s1 c n fun x =>
          { restSlot x with st := .ready, wait := .none,
                            thread := x.thread.map fun u => { u with pc := BitVec.ofNat 48 utvec } }

/-- Bytes 0 to 7 of a trap record, as a cause register holds them (R333). -/
def causeWord (r : TrapRec) : Word := BitVec.ofNat 64 (leNat ((recBytes r).take 8))

/-- A slot that takes its own trap: slots 0 to 3 (R333). -/
def enterTrap (r : TrapRec) (x : Slot) : Slot :=
  { restSlot x with sin := true, epc := BitVec.ofNat 48 r.epc, cause := causeWord r, tval := r.tval,
                    detail := r.detail, st := .ready, wait := .none,
                    thread := x.thread.map fun t => { t with pc := x.tvec } }

/-- A core put into debug halt: every slot HELD (R326, R347). -/
def haltCore (s : State) (c : Nat) : State :=
  modCore s c fun k =>
    { k with mode := .debugHalt, haltMode := if k.mode = .debugHalt then k.haltMode else k.mode,
             slots := k.slots.map fun p => (p.1, { p.2 with isHeld := true }) }

/-- A platform failure: debug halt and an alert (R333). -/
def platformFailure (s : State) (c : Nat) : State :=
  modPkg (haltCore s c) fun p => { p with alerts := p.alerts ++ [c] }

/-- The trap of slot 0, or a platform failure (R333). A trap for slot 0 whose thread is on a visit waits in the slot until the
thread is home. DESIGN CHOICE, log 81. -/
def platformTrap (s : State) (c : Nat) (r : TrapRec) : State :=
  let x := slotOf s c 0
  if x.sin || x.tvec = 0#48 then platformFailure s c
  else if x.st = .visiting && x.wait = .none then setSlot s c 0 { x with wait := .abort r }
  else if x.thread.isNone then platformFailure s c
  else setSlot s c 0 (enterTrap r x)

/-- A supervisor failure: the slot becomes FREE and slot 0 receives a trap of cause 0x3F that names it (R333). -/
def supervisorFailure (s : State) (c n : Nat) : State :=
  let epc := match threadOf s c 0 with
    | some t => t.pc.toNat
    | none => 0
  platformTrap (setSlot s c n (emptySlot (slotOf s c n))) c
    { cause := 0x3F, flags := 1, sem := 0, more := 0, epc := epc, tval := BitVec.ofNat 64 n, detail := 0#64 }

/-- The trap of slots 0 to 3 (R333): a supervisor failure frees the slot and traps slot 0 with cause 0x3F. -/
def ownTrap (s : State) (c n : Nat) (r : TrapRec) : State :=
  let x := slotOf s c n
  if n = 0 then platformTrap s c r
  else if x.sin || x.tvec = 0#48 then supervisorFailure s c n
  else setSlot s c n (enterTrap r x)

/-- A thread that leaves a visited core for its home slot, with the trap that it takes there (R37 step 5, R330). -/
def departHome (s : State) (c n : Nat) (home : Nat × Nat) (t : Thread) (tr : Option TrapInfo) (cancelled : Bool) :
    State :=
  let s1 := postHere s c n home.1 .request (.visitReturn { t with pw := putBit t.pw 29 false } home.2 tr cancelled)
  setSlot s1 c n (emptySlot (slotOf s1 c n))

/-- TAKING A TRAP: the one operation for every trap of a thread in a slot (R328 to R333). `deferred` names the
semaphore of a WAIT that delivers a deferred error. -/
def takeTrap (s : State) (c n : Nat) (r : TrapInfo) (deferred : Option Nat) : State :=
  let x := slotOf s c n
  match x.thread with
  | none => s
  | some t =>
    match x.visitFrom with
    | some h => departHome s c n h t (some r) false
    | none =>
      if isUserSlot n then userTrap s c n (trapRec r deferred false t.pc.toNat)
      else ownTrap s c n (trapRec r deferred false t.pc.toNat)

/-- A context with an uncorrectable codeword: its thread takes 0x3F with store code 1 and is aborted; one of slots 1 to 3 is
a supervisor failure and slot 0 a platform failure (R332, R333, R345). DEDUCED, log 82. -/
def contextTrap (s : State) (c n : Nat) : State :=
  let s1 := clearMark s (regKey c n 0) 128
  if isUserSlot (levelSlot s c n) then
    takeTrap s1 c n { cause := 0x3F, tval := 0#64, detail := 1#64, more := 0 } none
  else
    let home := (slotOf s c n).visitFrom.getD (c, n)
    let s2 := if home = (c, n) then s1 else setSlot s1 c n (emptySlot (slotOf s1 c n))
    if home.2 = 0 then platformFailure s2 home.1 else supervisorFailure s2 home.1 home.2

/-- Return from a trap of slots 0 to 3: PC and SIN (R334 TRET). -/
def returnTrap (x : Slot) (t : Thread) : Slot := { restSlot x with sin := false, thread := some { t with pc := x.epc } }

/-! ## Running an instruction -/

/-- The next state that a body gives. -/
def settleBody (c n : Nat) : Body → State
  | .ok s1 => s1
  | .error (.trap s1 r d) => takeTrap s1 c n r d
  | .error (.stall s1 w) => { waitSlot s1 c n w with stalled := true }
  | .error (.gone s1) => s1

/-- An instruction of the thread in the current slot: the wait-limit trap first (R218), then its body. -/
def runInstr (s : State) (body : Ctx → Body) : Host.Outcome State Fault Refusal :=
  let c := s.cur.1
  let n := s.cur.2
  let sl := slotOf s c n
  match sl.thread with
  | none => .fault .noThread
  | some t =>
    if sl.limitHit then
      .next (takeTrap (setSlot s c n (restSlot sl)) c n
        { cause := 0x0A, tval := BitVec.setWidth 64 sl.limit, detail := 0#64, more := 0 } none)
    else .next (settleBody c n (body { s := s, c := c, n := n, sl := sl, t := t }))

/-- An event that is due: the next state; an event that is not due changes nothing. DESIGN CHOICE, log 24. -/
def event (s : State) (f : Option State) : Host.Outcome State Fault Refusal := .next (f.getD s)

/-! ## The checks of R142 in their order -/

/-- Step 3 for an instruction that names core-local state: a visiting thread returns home first (R37 step 5). DEDUCED, log
42. -/
def Ctx.atHome (x : Ctx) (k : Body) : Body :=
  match x.sl.visitFrom with
  | none => k
  | some h =>
    if pending x.s x.c x.n then x.stall .drain else .error (.gone (departHome x.s x.c x.n h x.t none x.sl.cancelled))

/-- The held error of a thread as a trap 0x15 (R184, R329). -/
def heldTrap (e : HeldErr) : TrapInfo :=
  { cause := 0x15, tval := e.addr, detail := BitVec.ofNat 64 e.cause, more := e.count }

/-- The thread's held error delivered, if it has one (R184). -/
def Ctx.deliverHeld (x : Ctx) (s : State) (k : Body) : Body :=
  match x.t.held with
  | none => k
  | some e => .error (.trap (modThread s x.c x.n fun t => { t with held := none }) (heldTrap e) none)

/-- The D core of a core's cluster, the nearest of its partition (R10, R37 step 2). -/
def nearestD (c : Nat) : Nat := clusterOfCore c * 8 + 7

/-- Step 3 for an opcode of the D extension: it executes on a D core, else the thread departs on a visit (R37, R135,
R176). DEDUCED, log 63. -/
def Ctx.onD (x : Ctx) (k : Body) : Body :=
  if isDCore x.c then k
  else if anyReserved x.t || pending x.s x.c x.n then x.stall .drain
  else x.deliverHeld x.s (
    let s1 := postHere x.s x.c x.n (nearestD x.c) .request
      (.visit { x.t with pw := putBit x.t.pw 29 true } x.c x.n x.sl.asid.toNat)
    .error (.gone (modSlot s1 x.c x.n fun y =>
      { restSlot y with st := .visiting, wait := .none, age := 0, thread := none })))

/-- The privileged-instruction trap (R136). -/
def Ctx.privileged (x : Ctx) : Body := x.trap 0x02 (instrWord x.s x.c x.n x.t.pc) 0#64

/-- The slot that fixes the thread's level: a visit does not change it (R326). -/
def Ctx.levelSlot (x : Ctx) : Nat := Machine.levelSlot x.s x.c x.n

/-- Step 4 for supervisor instructions (R136). -/
def Ctx.needS (x : Ctx) (k : Body) : Body := if isUserSlot x.levelSlot then x.privileged else k

/-- Step 4 for platform instructions (R136). -/
def Ctx.needP (x : Ctx) (k : Body) : Body := if x.levelSlot = 0 then k else x.privileged

/-- The illegal-instruction trap with its detail (R332). -/
def Ctx.illegal {α : Type} (x : Ctx) (detail : Nat) : Except Stop α :=
  x.trap 0x01 (instrWord x.s x.c x.n x.t.pc) (BitVec.ofNat 64 detail)

/-- A predicate used as a condition: the determinism trap under STRICT (R22, R143). -/
def Ctx.readPred (x : Ctx) (p : Nat) : Except Stop Bool :=
  if strictOf x.t && taintOf x.t p then x.trap 0x09 (BitVec.setWidth 64 x.t.pw) (BitVec.ofNat 64 p)
  else .ok (predOf x.t p)

/-- Step 5, the guard of an instruction of `size` bytes (R130). -/
def Ctx.guardedN (x : Ctx) (size p : Nat) (k : Body) : Body :=
  match x.readPred p with
  | .error e => .error e
  | .ok true => k
  | .ok false => x.finish x.s x.t size

/-- Step 5, the guard of a one-word instruction (R130). -/
def Ctx.guarded (x : Ctx) (p : Nat) (k : Body) : Body := x.guardedN 4 p k

/-- Step 6, source registers: the first that is not FULL keeps the instruction from issuing (R23, R142). -/
def Ctx.needRegs (x : Ctx) (rs : List Nat) (k : Body) : Body :=
  match rs.find? fun r => !(regOf x.t r).full with
  | some r => x.stall (.reg r)
  | none => k

/-- A resource that must be free for the instruction to issue (R142 step 6). -/
def Ctx.needRes (x : Ctx) (free : Bool) (r : Res) (k : Body) : Body := if free then k else x.stall (.res r)

/-- A predicate written with its taint: the determinism trap of a tainted p1 to p7 under STRICT (R22, R155). -/
def Ctx.writePred (x : Ctx) (p : Nat) (v taint : Bool) : Body :=
  if taint && decide (0 < p) && decide (p < 8) && strictOf x.t then
    x.trap 0x09 (BitVec.setWidth 64 x.t.pw) (BitVec.ofNat 64 p)
  else x.done (putPred x.t p v taint)

/-- A release that is performed at issue: earlier accesses of the thread come first (R112). -/
def Ctx.released (x : Ctx) (k : Body) : Body := if pending x.s x.c x.n then x.stall .drain else k

/-- A release where `rel` says that the instruction is one (R112). -/
def Ctx.releasedIf (x : Ctx) (rel : Bool) (k : Body) : Body :=
  if rel && unperformed x.s x.c x.n then x.stall .drain else k

end Sys2Proof.Machine
end

