-- ==== Sys2Proof/Machine/Tile.lean ====
section
/-! DEFINITION. The tile table and the rings of a cluster (R87 to R101). -/

namespace Sys2Proof.Machine

/-- Fields of a ring's configuration word (R93). -/
def ringValid (r : Ring) : Bool := r.cfg.getLsbD 63
def ringAsid (r : Ring) : Nat := bits r.cfg.toNat 62 49
def ringW (r : Ring) : Nat := bits r.cfg.toNat 35 24
def ringSize (r : Ring) : Nat := bits r.cfg.toNat 23 12
def ringBase (r : Ring) : Nat := bits r.cfg.toNat 10 0

/-- The distance from one index to another modulo 2^32 (R94). -/
def idxDist (a b : BitVec 32) : Nat := (a - b).toNat

/-- A ring of a cluster. -/
def ringOf (k : Cluster) (r : Nat) : Ring := mapGet Ring.zero k.rings r

/-- A cluster with a ring replaced. -/
def putRing (k : Cluster) (r : Nat) (x : Ring) : Cluster := { k with rings := mapSet k.rings r x }

/-- An entry of the tile table. -/
def tileOf (k : Cluster) (n : Nat) : Tile := mapGet Tile.zero k.tiles n

/-- A cluster with an entry of the tile table replaced. -/
def putTile (k : Cluster) (n : Nat) (x : Tile) : Cluster := { k with tiles := mapSet k.tiles n x }

/-- The tile slot of an index (R93). -/
def slotOfIdx (r : Ring) (i : BitVec 32) : Nat := ringBase r + i.toNat % ringSize r

/-- Tile slots of a ring. -/
def ringSlots (r : Ring) : List Nat := (List.range (ringSize r)).map (ringBase r + ·)

/-- Whether a party with this ASID may name the ring (R99). -/
def ringOwned (r : Ring) (asid : Nat) : Bool := ringValid r && ringAsid r == asid

/-- Whether an index of the ring is popped (R89). -/
def popped (r : Ring) (i : BitVec 32) : Bool := decide (idxDist i r.head < idxDist r.popp r.head)

/-- Entry of a released tile (R89). -/
def emptied (t : Tile) : Tile := { t with st := .empty, poison := false, cause := 0#8 }

/-- DRAINING to EMPTY at HEAD, repeated (R89). -/
def drainN : Nat → Cluster → Nat → Cluster
  | 0, k, _ => k
  | n + 1, k, r =>
    let x := ringOf k r
    let sl := slotOfIdx x x.head
    let t := tileOf k sl
    if t.st = .draining && t.readers = 0#8 then
      drainN n (putRing (putTile k sl (emptied t)) r { x with head := x.head + 1#32 }) r
    else k

/-- The rule DRAINING to EMPTY of a ring (R89). -/
def drain (k : Cluster) (r : Nat) : Cluster := drainN (ringSize (ringOf k r)) k r

/-- Slots of the cluster's cores that wait on a tile of a ring made READY (R56). -/
def wakeRing (s : State) (cl r : Nat) : State :=
  (List.range 8).foldl (fun a i => wakeSlots a (cl * 8 + i) fun _ x =>
    match x.wait with
    | .tile k _ => k == r
    | _ => false) s

/-- Slots of the cluster's cores that wait for the READERS limit made READY (R100). -/
def wakeReaders (s : State) (cl : Nat) : State :=
  (List.range 8).foldl (fun a i => wakeRes a (cl * 8 + i) .readers) s

/-- A tile that becomes READY, or DRAINING where a pop of it is recorded (R89). -/
def readyTile (k : Cluster) (r : Nat) (i : BitVec 32) (poison : Bool) (cause : Nat) : Cluster :=
  let x := ringOf k r
  let sl := slotOfIdx x i
  let t := tileOf k sl
  drain (putTile k sl { t with st := if popped x i then .draining else .ready, poison := poison,
                               cause := BitVec.ofNat 8 cause }) r

/-- A claim of the index TAIL by a filler within the window (R89, R96). -/
def claimTile (s : State) (cl r : Nat) : Option (BitVec 32 × State) :=
  let k := clusterOf s cl
  let x := ringOf k r
  if idxDist x.tail x.head < ringW x then
    let sl := slotOfIdx x x.tail
    some (x.tail, modCluster s cl fun k =>
      putRing (putTile k sl { tileOf k sl with st := .filling }) r { x with tail := x.tail + 1#32 })
  else none

/-- A fill that ends: READY, or READY with POISON and CAUSE (R89, R91). -/
def fillEnd (s : State) (cl r : Nat) (i : BitVec 32) (cause : Nat) : State :=
  wakeRing (modCluster s cl fun k => readyTile k r i (cause ≠ 0) cause) cl r

/-- A thread's tail write: the new state, or none for the ring-overrun fault (R97). -/
def tailWrite (s : State) (cl r : Nat) (t : BitVec 32) : Option State :=
  let k := clusterOf s cl
  let x := ringOf k r
  if ringSize x < idxDist t x.tail || ringSize x < idxDist t x.head ||
      (ringSlots x).any fun n => (tileOf k n).st = .filling then none
  else
    let k1 := putRing k r { x with tail := t }
    let k2 := (List.range (idxDist t x.tail)).foldl (fun a i => readyTile a r (x.tail + BitVec.ofNat 32 i) false 0) k1
    some (wakeRing (modCluster s cl fun _ => k2) cl r)

/-- Indices from HEAD on. -/
def headRun (x : Ring) (n : Nat) : List Nat := (List.range n).map fun i => slotOfIdx x (x.head + BitVec.ofNat 32 i)

/-- A thread's head write: the new state, or none for the ring-order fault (R98). -/
def headWrite (s : State) (cl r : Nat) (h : BitVec 32) : Option State :=
  let k := clusterOf s cl
  let x := ringOf k r
  let run := headRun x (idxDist h x.head)
  if x.popp ≠ x.head || idxDist x.tail x.head < idxDist h x.head ||
      run.any fun n => (tileOf k n).st ≠ .ready || (tileOf k n).readers ≠ 0#8 then none
  else
    let k1 := run.foldl (fun a n => putTile a n (emptied (tileOf a n))) k
    some (wakeRing (modCluster s cl fun _ => putRing k1 r { x with head := h, popp := h }) cl r)

/-- A configuration word that keeps R93. -/
def ringWordOk (x : Ring) : Bool :=
  let n := ringSize x
  decide (1 ≤ n) && decide (n ≤ 2048) && (List.range 12).any (fun i => n == 2 ^ i) && decide (ringBase x + n ≤ 2048) && ringBase x % n == 0 &&
    decide (1 ≤ ringW x) && decide (ringW x ≤ n)

/-- Whether two rings share a slot (R95). -/
def ringsMeet (a b : Ring) : Bool :=
  decide (ringBase a < ringBase b + ringSize b) && decide (ringBase b < ringBase a + ringSize a)

/-- Whether a slot of a valid ring is FILLING, DRAINING or held by a reader (R95). -/
def ringBusy (k : Cluster) (x : Ring) : Bool :=
  ringValid x && (ringSlots x).any fun n =>
    let t := tileOf k n
    t.st = .filling || t.st = .draining || t.readers != 0#8

/-- Outcome of RINGDEF (R95, R206). -/
inductive RingDef where
  | done (k : Cluster)
  | badDef
  | foreign

/-- Slots of a ring taken out of it. -/
def leaveRing (k : Cluster) (x : Ring) : Cluster :=
  if ringValid x then
    (ringSlots x).foldl (fun a n => putTile a n { tileOf a n with inr := false }) k
  else k

/-- RINGDEF of a ring with a configuration word by a party of an ASID (R94, R95, R206): reserved bits first, then the access fault,
then the other checks of R95. DESIGN CHOICE, log 103. -/
def ringDefine (k : Cluster) (r : Nat) (v : Word) (asid : Nat) : RingDef :=
  let old := ringOf k r
  let n := v.toNat
  let cfg : Word := BitVec.ofNat 64 (n + asid % 2 ^ 14 * 2 ^ 49)
  let x : Ring := { cfg := cfg, tail := 0#32, head := 0#32, popp := 0#32 }
  if bits n 62 49 ≠ 0 || bits n 48 36 ≠ 0 || bits n 11 11 ≠ 0 then .badDef
  else if ringValid old && ringAsid old ≠ asid then .foreign
  else if ringBusy k old then .badDef
  else if !v.getLsbD 63 then .done (putRing (leaveRing k old) r { old with cfg := cfg })
  else if !ringWordOk x || (k.rings.any fun p => p.1 != r && ringValid p.2 && ringsMeet p.2 x) ||
      (k.guards.any fun g => decide (ringBase x * 128 ≤ g) && decide (g < (ringBase x + ringSize x) * 128)) then .badDef
  else
    .done (putRing ((ringSlots x).foldl (fun a m =>
      putTile a m { Tile.zero with ring := BitVec.ofNat 6 r, inr := true }) (leaveRing k old)) r x)

/-- Refusals of a reference (R100). -/
inductive RefErr where
  | index | consumed | order | readers
  deriving DecidableEq, Repr

/-- A reference to a tile taken at issue, with or without pop (R100). -/
def takeRef (k : Cluster) (r : Nat) (i : BitVec 32) (pop : Bool) : Except RefErr (Nat × Cluster) :=
  let x := ringOf k r
  let sl := slotOfIdx x i
  let t := tileOf k sl
  if ringSize x ≤ idxDist i x.head then .error .index
  else if popped x i then .error (if pop then .order else .consumed)
  else if pop && i ≠ x.popp then .error .order
  else if t.readers = 255#8 then .error .readers
  else
    let t1 := { t with readers := t.readers + 1#8 }
    if pop then
      let t2 := { t1 with st := if t.st = .ready then .draining else t.st }
      .ok (sl, putRing (putTile k sl t2) r { x with popp := x.popp + 1#32 })
    else .ok (sl, putTile k sl t1)

/-- Whether a reference's tile may be read: READY, or DRAINING under the pop that was recorded (R89, R100). -/
def refReady (k : Cluster) (t : TileRef) : Bool :=
  let x := tileOf k t.slot
  x.st = .ready || x.st = .draining

/-- A reference released (R90 step 2, R101). -/
def dropRef (k : Cluster) (t : TileRef) : Cluster :=
  let x := tileOf k t.slot
  drain (putTile k t.slot { x with readers := x.readers - 1#8 }) t.ring

/-- References released, with the waiters that this concerns (R90, R100, R101). -/
def dropRefs (s : State) (cl : Nat) (ts : List TileRef) : State :=
  if ts.isEmpty then s
  else
    let s1 := modCluster s cl fun k => ts.foldl dropRef k
    wakeReaders (ts.foldl (fun a t => wakeRing a cl t.ring) s1) cl

/-- A thread's view of a tile by ring and index: a ring-index fault, else its state (R56, R100). -/
def tileAt (k : Cluster) (r : Nat) (i : BitVec 32) : Option Tile :=
  let x := ringOf k r
  if ringSize x ≤ idxDist i x.head || popped x i then none else some (tileOf k (slotOfIdx x i))

/-- R99 for a thread instruction at home: the access fault with DETAIL 4; TVAL is the ring number. DESIGN CHOICE, log 97. -/
def Ctx.ownsRing (x : Ctx) (r : Nat) (k : Body) : Body :=
  if ringOwned (ringOf (clusterOf x.s (clusterOfCore x.c)) r) x.sl.asid.toNat then k
  else x.trap 0x06 (BitVec.ofNat 64 r) 4#64

/-- A ring fault: index in TVAL, ring in DETAIL (R332). -/
def Ctx.ringFault (x : Ctx) (cause : Nat) (i : Word) (r : Nat) : Body := x.trap cause i (BitVec.ofNat 64 r)

end Sys2Proof.Machine
end

