-- ==== Sys2Proof/Machine/Flags.lean ====
section
/-! DEFINITION. Conditions of compares (R132, R162, R174) and the results and flags of scalar floating point (R69,
R171 to R177). -/

namespace Sys2Proof.Machine

/-- Condition codes on two integer registers (R162); .un and .ord are illegal there. -/
def ccInt (c : Cc) (x y : Word) : Bool :=
  match c with
  | .eq => x == y
  | .ne => x != y
  | .lt => x.slt y
  | .ge => !x.slt y
  | .ltu => x.ult y
  | .geu => !x.ult y
  | .le => !y.slt x
  | .gt => y.slt x
  | .leu => !y.ult x
  | .gtu => y.ult x
  | .un => false
  | .ord => true

/-- Condition codes on two values (R174): unordered when either is NaN. -/
def ccFp (c : Cc) (x y : EV) : Bool :=
  let un := x == .nan || y == .nan
  match c with
  | .eq => evEq x y
  | .ne => !evEq x y
  | .lt => evLt x y
  | .ge => !un && !evLt x y
  | .le => !un && !evLt y x
  | .gt => evLt y x
  | .un => un
  | .ord => !un
  | .ltu => evLt x y
  | .geu => !un && !evLt x y
  | .leu => !un && !evLt y x
  | .gtu => evLt y x

/-- Whether a condition signals on a quiet NaN (R174). -/
def ccSignals : Cc → Bool
  | .lt | .ge | .le | .gt => true
  | _ => false

/-- The exact sum of two values with the sign of an exact zero (R172). -/
def sumEV (rm : Rm) (x y : EV) : EV :=
  match exactSum [x, y] with
  | .fin _ 0 e =>
    match x, y with
    | .fin s 0 _, .fin t 0 _ => .fin (if s = t then s else rm == .rdn) 0 e
    | _, _ => .fin (rm == .rdn) 0 e
  | v => v

/-- NV of operands that are signalling NaNs (R69). -/
def nvSnan (f : FF) (xs : List Nat) : BitVec 5 := if xs.any f.isSnan then flagNV else 0#5

/-- Whether two values are an infinity and a zero (R172). -/
def infTimesZero (x y : EV) : Bool :=
  match x, y with
  | .inf _, .fin _ 0 _ => true
  | .fin _ 0 _, .inf _ => true
  | _, _ => false

/-- Whether two values are infinities of opposite sign (R172). -/
def infMinusInf (x y : EV) : Bool :=
  match x, y with
  | .inf s, .inf t => s != t
  | _, _ => false

/-- FADD of two codes (R172). -/
def fpAdd (f : FF) (rm : Rm) (x y : Nat) : Nat × BitVec 5 :=
  let (vx, vy) := (f.value x, f.value y)
  let (r, fl) := f.round (sumEV rm vx vy) rm false 0
  (r, fl ||| nvSnan f [x, y] ||| (if infMinusInf vx vy then flagNV else 0#5))

/-- FMUL of two codes (R172). -/
def fpMul (f : FF) (rm : Rm) (x y : Nat) : Nat × BitVec 5 :=
  let (vx, vy) := (f.value x, f.value y)
  let (r, fl) := f.round (evMul vx vy 0) rm false 0
  (r, fl ||| nvSnan f [x, y] ||| (if infTimesZero vx vy then flagNV else 0#5))

/-- FFMA: product and addend, rounded once (R172). -/
def fpFma (f : FF) (rm : Rm) (x y z : Nat) : Nat × BitVec 5 :=
  let (vx, vy, vz) := (f.value x, f.value y, f.value z)
  let p := evMul vx vy 0
  let (r, fl) := f.round (sumEV rm p vz) rm false 0
  (r, fl ||| nvSnan f [x, y, z] |||
    (if infTimesZero vx vy || (p != .nan && infMinusInf p vz) then flagNV else 0#5))

/-- FMIN: the lesser operand's bits (R173). -/
def fpMin (f : FF) (x y : Nat) : Nat × BitVec 5 :=
  let fl := nvSnan f [x, y]
  if f.isNan x && f.isNan y then (f.nan, fl)
  else if f.isNan x then (y, fl)
  else if f.isNan y then (x, fl)
  else
    let (vx, vy) := (f.value x, f.value y)
    (if evLt vx vy then x else if evLt vy vx then y else if f.sign x then x else y, fl)

/-- FCMP: the condition and its flags (R174). -/
def fpCmp (f : FF) (c : Cc) (x y : Nat) : Bool × BitVec 5 :=
  let un := f.isNan x || f.isNan y
  (ccFp c (f.value x) (f.value y), if [x, y].any f.isSnan || (un && ccSignals c) then flagNV else 0#5)

/-- Width of a floating-point format. -/
def FF.width (f : FF) : Nat := 1 + f.eb + f.fb

/-- The format of an arithmetic format code (R171). -/
def ffArith : AFmt → FF
  | .f32 => ffF32
  | .f16 => ffF16
  | .bf16 => ffBf16

/-- The format code of a conversion code (R65, R132). -/
def cvtCode : CFmt → Nat
  | .f32 => 0x00
  | .f16 => 0x01
  | .bf16 => 0x02
  | .e4m3 => 0x03
  | .e5m2 => 0x04
  | .i32 => 0x10
  | .i64 => 0x11
  | .f64 => 0x0E

/-- Bits of a format code that is not a block format (R59, R61). -/
def codeWidth (f : Nat) : Nat :=
  match ffOf f with
  | some ff => ff.width
  | none => intBits f

/-- FCVT of the low bits of a register: the result as R154 places it, and flags; a conversion to the source format itself
leaves every value but a NaN unchanged (R175). -/
def fpCvt (src dst : CFmt) (rm : Rm) (sat : Bool) (draw : Nat) (v : Word) : Word × BitVec 5 :=
  let f := cvtCode src
  let x := v.toNat % 2 ^ codeWidth f
  let (r, fl) := if src = dst && valueOf f x != .nan then (x, 0#5) else roundFmt (valueOf f x) (cvtCode dst) rm sat draw
  (if dst = .i32 then ofInt 64 (signedOf 32 r) else BitVec.ofNat 64 r,
   fl ||| (if snanOf f x then flagNV else 0#5))

/-- The thread with flags set (R177). -/
def addFlags (t : Thread) (fl : BitVec 5) : Thread := { t with fflags := t.fflags ||| fl }

end Sys2Proof.Machine
end

