-- ==== Sys2Proof/Machine/Operands.lean ====
section
/-! DEFINITION. Operand forms: effective addresses (R183, R186, R189), register runs and work packets (R27, R28,
R195), target words (R207, R208), the fields of a command bundle (R139). -/

namespace Sys2Proof.Machine

/-- The effective address of the M and MA formats (R183). -/
def effAddr {w : Nat} (base : Word) (i : BitVec w) (z : Sz) : Word :=
  base + BitVec.signExtend 64 i <<< (match z with
    | .b => 0
    | .h => 1
    | .w => 2
    | .d => 3)

/-- Natural alignment (R183). -/
def aligned (a : Word) (n : Nat) : Bool := a.toNat % n == 0

/-- The bytes of an access lie in one aligned 64-byte granule (R183). -/
def inGranule (a : Word) (n : Nat) : Bool := decide (a.toNat % 64 + n ≤ 64)

/-- A register run of eight registers (R195). -/
def runRegs (a : Nat) : List Nat := (List.range 8).map (a + ·)

/-- The packet that a register run holds (R27). -/
def runWords (t : Thread) (a : Nat) : Vector Word 8 := vec8 fun i => valOf t (a + i)

/-- A register run's check and readiness (R195). -/
def Ctx.needRun (x : Ctx) (a : Nat) (others : List Nat) (k : Body) : Body :=
  if 2 < a then x.needRegs others (x.illegalOperand (BitVec.ofNat 64 a) a)
  else x.needRegs (runRegs a ++ others) k

/-- Fields of a control word (R28). -/
def ctlKind (w : Nat) : Nat := bits w 3 0
def ctlPrio (w : Nat) : Nat := bits w 6 4
def ctlDet (w : Nat) : Bool := w.testBit 7
def ctlLane (w : Nat) : Nat := bits w 15 8
def ctlFmth (w : Nat) : Nat := bits w 31 16
def ctlCcid (w : Nat) : Nat := bits w 47 32
def ctlTag (w : Nat) : Nat := bits w 51 48
def ctlStrict (w : Nat) : Bool := w.testBit 52
def ctlNosteal (w : Nat) : Bool := w.testBit 53
def ctlChan (w : Nat) : Bool := w.testBit 54

/-- Word `n` of a packet. -/
def pktWord (p : Vector Word 8) (n : Nat) : Nat := ((p[n]?).getD 0#64).toNat

/-- The conditions of R28 on a packet itself: reserved bits, CHAN, STRICT, CCID, KIND, handler PC. -/
def packetOk (p : Vector Word 8) : Bool :=
  let w := pktWord p 0
  let pc := pktWord p 1
  bits w 63 55 == 0 && (!ctlChan w || ctlKind w == 5) && (!ctlStrict w || ctlDet w) && ctlCcid w != 0 &&
    decide (1 ≤ ctlKind w) && decide (ctlKind w ≤ 5) && bits pc 63 48 == 0 && pc % 4 == 0

/-- Bytes of a packet (R27). -/
def packetBytes (p : Vector Word 8) : List Byte := p.toList.flatMap fun w => leBytes 8 w.toNat

/-- A packet from 64 bytes (R27). -/
def packetOf (bs : List Byte) : Vector Word 8 := vec8 fun i => BitVec.ofNat 64 (fieldAt bs (8 * i) 8)

/-- A packet with its control word replaced. -/
def setCtl (p : Vector Word 8) (w : Nat) : Vector Word 8 := p.setIfInBounds 0 (BitVec.ofNat 64 w)

/-- The source id of a thread: slot, logical core, device (R29). -/
def sourceId (s : State) (c n : Nat) : Word :=
  BitVec.ofNat 64 (n + logicalOfCore s c * 2 ^ 8 + s.pkg.dev.toNat * 2 ^ 18)

/-- The home slot and core of the thread in a slot (R37). -/
def homeOf (s : State) (c n : Nat) : Nat × Nat :=
  match (slotOf s c n).visitFrom with
  | some h => h
  | none => (c, n)

/-- Fields of a target word (R207). -/
def twSlot (w : Nat) : Nat := bits w 7 0
def twCore (w : Nat) : Nat := bits w 17 8
def twDev (w : Nat) : Nat := bits w 33 18
def twMode (w : Nat) : Nat := bits w 39 36
def twRreg (w : Nat) : Nat := bits w 43 40

/-- The core that a target word names: package core of the own device, or device and core (R208). -/
structure Dest where
  own : Bool
  dev : Nat
  core : Nat
  deriving DecidableEq, Repr

/-- The core of a target word, or none where R208 refuses it. -/
def destOf (s : State) (c w : Nat) : Option Dest :=
  let p := partOfCore s c
  if twDev w = s.pkg.dev.toNat then
    (coreOfLogical s p (twCore w)).map fun t => { own := true, dev := twDev w, core := t }
  else if peerBound s p (twDev w) then some { own := false, dev := twDev w, core := twCore w }
  else none

/-- The access checks of a target word (R208). -/
def Ctx.dest (x : Ctx) (v : Word) (k : Dest → Body) : Body :=
  match destOf x.s x.c v.toNat with
  | none => x.trap 0x06 v 2#64
  | some d => k d

/-- A target word that names a core only (R208). -/
def Ctx.coreTarget (x : Ctx) (v : Word) (reg : Nat) (k : Dest → Body) : Body :=
  let w := v.toNat
  if bits w 63 34 ≠ 0 || twSlot w ≠ 0 then x.illegalOperand v reg else x.dest v k

/-- Whether a target is the issuing core itself. -/
def Dest.isCore (d : Dest) (c : Nat) : Bool := d.own && d.core == c

/-- Space in the request egress queue (R210): SQFULL with EGT set, else the slot waits. DEDUCED, log 47. -/
def Ctx.egress (x : Ctx) (v : Word) (k : Body) : Body :=
  if egressCount x.s x.c < Config.egressSize then k
  else if x.sl.egt then x.trap 0x0B v 0#64 else x.stall (.res .egress)

/-- A field of a bundle as an address operand (R139): none for a register-free form that is not one. -/
def fieldAddr (t : Thread) (sub : Nat) (f : Word32) : Option Word :=
  if sub = 15 then
    match bits f.toNat 31 28 with
    | 0x8 => some (BitVec.ofNat 64 (0x8000000000000000 + bits f.toNat 27 0))
    | 0x9 => some (BitVec.ofNat 64 (0x9000000000000000 + bits f.toNat 27 0))
    | _ => none
  else some (valOf t sub + BitVec.signExtend 64 f)

/-- A field of a bundle as a tile operand (R139). -/
def fieldIndex (t : Thread) (sub : Nat) (f : Word32) : BitVec 32 :=
  if sub = 15 then f else BitVec.setWidth 32 (valOf t sub) + f

/-- A field of a bundle as a value operand (R139). -/
def fieldValue (t : Thread) (sub : Nat) (f : Word32) : Word :=
  if sub = 15 then BitVec.setWidth 64 f else valOf t sub + BitVec.signExtend 64 f

/-- Registers that a bundle's fields substitute (R139). -/
def bundleRegs (x : Bundle) : List Nat :=
  (if x.substA.toNat = 15 then [] else [x.substA.toNat]) ++ (if x.substB.toNat = 15 then [] else [x.substB.toNat])

end Sys2Proof.Machine
end

