-- ==== Sys2Proof/Machine/Issue.lean ====
section
/-! DEFINITION. Which slot issues in a cycle (R45 to R49, R142 step 6), fetching its instruction (R124, R125) and the
ages after the issue (R45). -/

namespace Sys2Proof.Machine

/-- Whether a slot's core lets it run (R380). -/
def slotRuns (k : Core) (n : Nat) : Bool :=
  match k.mode with
  | .running => true
  | .preempted => true
  | .restoring => decide (n < Config.firstUser)
  | _ => false

/-- A slot that is READY in this cycle and not HELD (R26, R54). -/
def readyNow (cycle : Nat) (k : Core) (n : Nat) (x : Slot) : Bool :=
  x.st = .ready && !x.isHeld && x.thread.isSome && decide (x.readyAt ≤ cycle) && slotRuns k n

/-- A slot that may issue in this cycle in ready mode: READY and not issued in the preceding 7 cycles (R45). -/
def eligible (cycle : Nat) (k : Core) (n : Nat) (x : Slot) : Bool :=
  readyNow cycle k n x &&
    (match x.lastIssue with
      | none => true
      | some l => decide (l + 8 ≤ cycle))

/-- eff(s) of R45. -/
def effPrio (x : Slot) : Nat :=
  let p := match x.thread with
    | some t => t.prio.toNat
    | none => 0
  min 7 (p + x.age / 4)

/-- Whether slot `b` is picked rather than `a`, with `a` the lower slot number (R45). -/
def beats (b a : Slot) : Bool :=
  decide (effPrio a < effPrio b) ||
    (effPrio a == effPrio b &&
      (decide (a.age < b.age) || (a.age == b.age && a.age == 31 && decide (b.satCycle < a.satCycle))))

/-- Eligible slots of a core in rising order. -/
def eligibles (cycle : Nat) (k : Core) : List (Nat × Slot) := k.slots.filter fun p => eligible cycle k p.1 p.2

/-- The slot picked in ready mode (R45). -/
def pickReady (l : List (Nat × Slot)) : Option (Nat × Slot) :=
  l.foldl (fun a p => match a with
    | none => some p
    | some q => if beats p.2 q.2 then some p else some q) none

/-- An entry of the rotation table; turns 0, 32, 64 and 96 name slots 0 to 3 (R47). -/
def rotEntry (k : Core) (turn : Nat) : BitVec 16 :=
  if turn % 32 = 0 then BitVec.ofNat 16 (0x8000 + turn / 32) else mapGet 0#16 k.rotTab turn

/-- The turn of a cycle: rotation epochs start together at a multiple of 128 device cycles (R47, R51). -/
def turnOf (s : State) : Nat := deviceCycle s % 128

/-- The slot that the turn of this cycle issues in rotation mode: READY, named by a valid entry (R47). -/
def turnSlot (s : State) (k : Core) : Option Nat :=
  let e := rotEntry k (turnOf s)
  let n := bits e.toNat 7 0
  if e.getLsbD 15 && readyNow s.cycle k n (slotIn k n) then some n else none

/-- The trap of the fetch: illegal instruction at a misaligned first word (R125). -/
def misfetch (w pc : Nat) : Bool := (w / 2 ^ 26 == 0x31 && pc % 8 == 4) || (w / 2 ^ 26 == 0x30 && pc % 32 != 0)

/-- The instruction at the PC of a slot, an illegal word, or the trap of R142 step 1. -/
def fetchInstr (s : State) (c n : Nat) (pc : Pc) : Except TrapInfo Instr :=
  match fetchCode s c n pc.toNat 4 with
  | .error e => .error e
  | .ok b =>
    let w := leNat b
    if misfetch w pc.toNat then
      .error { cause := 0x01, tval := BitVec.ofNat 64 w, detail := 0#64, more := 0 }
    else
      match fetchCode s c n pc.toNat (4 * wordCount w) with
      | .error e => .error e
      | .ok bs =>
        match decodeWords (wordsOf (wordCount w) (leNat bs)) with
        | .ok i => .ok i
        | .error _ => .ok (.illegalInstruction (BitVec.ofNat 32 w))

/-- A slot that was eligible and not picked: its age rises (R45). -/
def passedOver (cycle : Nat) (x : Slot) : Slot :=
  if x.st = .ready && decide (x.age < 31) then
    { x with age := x.age + 1, satCycle := if x.age = 30 then cycle else x.satCycle }
  else x

/-- The slot that issued: its age is 0, that of PRIO's own issue too. DESIGN CHOICE, log 94: R200 keeps the age when PRIO
changes the priority, and R45 sets the age of every picked slot to 0. -/
def issued (cycle : Nat) (x : Slot) : Slot := { x with age := 0, lastIssue := some cycle }

/-- A core after slot `n` issued: `elig` are the slots that were eligible (R45). -/
def afterIssueCore (cycle : Nat) (elig : List Nat) (n : Nat) (k : Core) : Core :=
  { k with wdHit := k.wdHit || isUserSlot n,
           slots := (if k.rot then k.slots else k.slots.map fun p =>
      if p.1 != n && elig.contains p.1 then (p.1, passedOver cycle p.2) else p) }

/-- The state after the issue of slot `n` of core `c`: the core has had its issue of this cycle. -/
def afterIssue (cycle : Nat) (elig : List Nat) (c n : Nat) (s : State) : State :=
  let s1 := modCore s c (afterIssueCore cycle elig n)
  { modSlot s1 c n (issued cycle) with coreTurn := c + 1 }

/-- The context of a thread before anything has written it (R20, R21; log 1): PC at offset 0 of the TCM. -/
def freshThread (home : Nat) : Thread :=
  { regs := Vector.replicate 10 { val := 0#64, full := true, rsv := false }, pw := 1#32, pc := 0xFF0000000000#48,
    fmt := 0#32, sca := 0#32, scb := 0#32, lpc := 0#32, lps := 0#48, lpe := 0#48, home := BitVec.ofNat 10 home,
    prio := 0#3, lane := 0#8, ccid := 0#16, tagFlags := 0#16, fflags := 0#5, held := none, item := none,
    stage := none, tid := 0 }

/-- The core that a program placed from outside starts on: slot 0 READY and ahead of every other slot (log 5). -/
def placedCore : Core :=
  { Core.fresh with mode := .running,
                    slots := [(0, { Slot.fresh with st := .ready, thread := some (freshThread 0), age := 31 })] }

/-- A state in which nothing but slot 0 of core 0 is about to act, with bytes of code at its PC (log 5). -/
def placeCode (s : State) (bs : List Byte) : State :=
  { s with cores := [(0, placedCore)], clusters := [], hods := [], net := [], fills := [], walks := [], kills := [],
           inputs := [], coreTurn := 0, phase := 0, mem := memWrite s.mem (tcmKey 0 0) bs, ecc := [], stale := [], enqs := [],
           parts := [], pkg := { s.pkg with booted := true, busy := false, hostAppends := [], conns := [] } }

/-- A slot's wait that R218 counts, with those of a counter command and an attestation report (R373, R415). -/
def countedWait : Wait → Bool
  | .reg _ | .sem _ | .tile _ _ | .time _ | .watch _ _ _ _ | .res _ | .load _ | .fence _ | .exit | .fork
  | .enq _ _ _ _ | .enqAway | .subs _ _ _ | .counted _ | .drainCsr | .tlbi _ => true
  | .walk _ b => b
  | _ => false

/-- A slot at the end of a cycle: the wait count of R218; at LIMIT the slot is READY and traps at its next issue. -/
def tickSlot (cycle : Nat) (x : Slot) : Slot :=
  let y := if x.st = .waiting && !x.isHeld && countedWait x.wait && x.limit ≠ 0#32 then
    { x with waitCount := x.waitCount + 1 }
  else x
  match y.wait with
  | .counted t =>
    if y.st = .waiting && !y.isHeld && decide (t ≤ cycle + 1) && (y.limit = 0#32 || decide (y.waitCount < y.limit.toNat)) then
      { readySlot (cycle + 1) y with fetched := some t }
    else y
  | _ => y

/-- A slot in WAITT whose target a forward step passes: READY in the next cycle (R216). `from_` is the device time
of the cycle before the step. -/
def stepSlot (cycle from_ to_ : Nat) (x : Slot) : Slot :=
  match x.wait with
  | .time t => if x.st = .waiting && decide (from_ < t) && decide (t ≤ to_) then readySlot (cycle + 1) x else x
  | _ => x

/-- Device time of the next cycle without a step (R396). -/
def nextTime (s : State) : Nat := s.devTime + Config.cycleUnits

/-- The forward steps that tstep writes and the servo have set applied in the new cycle: each raises STEPS (R397). -/
def stepTime (s : State) : State :=
  if s.pkg.tstep = 0 then s
  else
    { s with devTime := s.devTime + s.pkg.tstep,
             pkg := { s.pkg with tstep := 0, tsteps := 0,
                                 steps := BitVec.ofNat 16 (min 65535 (s.pkg.steps.toNat + s.pkg.tsteps)) },
             cores := s.cores.map fun p =>
               (p.1, { p.2 with slots := p.2.slots.map fun q =>
                 (q.1, stepSlot s.cycle s.devTime (s.devTime + s.pkg.tstep) q.2) }) }

/-- Whether a cycle counts for the quiescence watchdog: a user slot waits and none is READY (R388). -/
def quiet (k : Core) : Bool :=
  (k.slots.any fun p => isUserSlot p.1 && p.2.st = .waiting && !p.2.isHeld) &&
    !k.slots.any fun p => isUserSlot p.1 && p.2.st = .ready && !p.2.isHeld

/-- The quiescence count of a core at the end of a cycle (R388): it holds its value in STOPPING, SAVING and
RESTORING. -/
def watchCore (k : Core) : Core :=
  let off := match k.mode with
    | .stopping | .saving | .restoring => true
    | _ => false
  if k.qwd = 0#64 then { k with wdCount := 0, wdFired := false, wdHit := false }
  else if off then { k with wdHit := false }
  else if k.wdHit then { k with wdCount := 0, wdFired := false, wdHit := false }
  else if quiet k && decide (k.wdCount < k.qwd.toNat) then { k with wdCount := k.wdCount + 1 }
  else k

/-- A core at the end of a cycle. -/
def tickCore (cycle : Nat) (k : Core) : Core :=
  watchCore { k with slots := k.slots.map fun q => (q.1, tickSlot cycle q.2) }

/-- The end of a cycle (R396: device time; R397: a step set in it). -/
def tick (s : State) : State :=
  stepTime { s with cycle := s.cycle + 1, devTime := nextTime s, coreTurn := 0, phase := 0,
                    cores := s.cores.map fun p => (p.1, tickCore s.cycle p.2) }

/-- The outcome of what happens within a cycle: time advances at the end of a cycle only (R396, R397). -/
def keepTime (s : State) (o : Host.Outcome State Fault Refusal) : Host.Outcome State Fault Refusal :=
  match o with
  | .next t => .next { t with cycle := s.cycle, devTime := s.devTime }
  | .fault r => .fault r
  | .refused r => .refused r

end Sys2Proof.Machine
end

