-- ==== Sys2Proof/Machine/Access.lean ====
section
/-! DEFINITION. Accesses on their way to a store and what they do there (R107 to R112, R183 to R192, R198, R213), and
the arrival of their answers. -/

namespace Sys2Proof.Machine

/-- A held error of a thread: the first is kept, later ones are counted (R184). -/
def holdError (t : Thread) (cause : Nat) (addr : Word) : Thread :=
  match t.held with
  | none => { t with held := some { cause := cause, addr := addr, count := 0 } }
  | some e => { t with held := some { e with count := e.count + 1 } }

/-- The value that an AMO writes, or none for a cas that fails (R192). `w` is the width in bits. -/
def amoNew (op : AmoOp) (w old y expect : Nat) : Option Nat :=
  let less := decide (signedOf w old < signedOf w y)
  match op with
  | .add => some ((old + y) % 2 ^ w)
  | .and => some (Nat.land old y)
  | .or => some (Nat.lor old y)
  | .xor => some (Nat.xor old y)
  | .min => some (if less then old else y)
  | .max => some (if less then y else old)
  | .minu => some (if old < y then old else y)
  | .maxu => some (if old < y then y else old)
  | .swap => some y
  | .cas => if old = expect then some y else none
  | .fadd => some (fpAdd ffF32 .rne old y).1

/-- Whether an access writes. -/
def accWrites (a : Access) : Bool :=
  match a.kind with
  | .ld | .ldn => false
  | _ => true

/-- Whether two accesses touch a common location (R110). -/
def accMeets (a b : Access) : Bool :=
  match a.tgt, b.tgt with
  | .key i, .key j => decide (i < j + b.size) && decide (j < i + a.size)
  | .fabric c sp i, .fabric d sq j => c == d && sp == sq && decide (i < j + b.size) && decide (j < i + a.size)
  | _, _ => false

/-- Preserved order (R110): an earlier access that a later one must follow. -/
def accBefore (a b : Access) : Bool := a.acq || b.rel || (accMeets a b && (accWrites a || accWrites b))

/-- Whether an unanswered request to another device must be performed before an access: an acquire, or any before a
release (R110). -/
def remoteBefore (k : Core) (tid uid : Nat) (rel : Bool) : Bool :=
  k.remote.any fun e => e.thread == tid && decide (e.uid < uid) && (e.acq || rel)

/-- Whether an earlier access of the same thread must be performed before this one (R110). DESIGN CHOICE, log 68. -/
def mustFollow (s : State) (m : Msg) (a : Access) : Bool :=
  (flying s).any (fun e => isAccessOf m.thread e && decide (e.uid < m.uid) &&
    (match e.body with
      | .access b => accBefore b a
      | _ => false)) ||
    (m.sdev == s.pkg.dev.toNat && remoteBefore (coreOf s m.score) m.thread m.uid a.rel)

/-- Whether an access that is about to be made must follow one still in flight (R110). -/
def mustQueue (s : State) (c n : Nat) (a : Access) : Bool :=
  (flying s).any (fun e => isAccessOf (tidOf s c n) e &&
    (match e.body with
      | .access b => accBefore b a
      | _ => false)) ||
    remoteBefore (coreOf s c) (tidOf s c n) s.uid a.rel

/-- A message in flight by name. -/
def findMsg (s : State) (uid : Nat) : Option Msg := s.net.find? fun m => m.uid == uid

/-- Whether a message is a release of its sender's earlier accesses (R112). -/
def isRelease : MsgBody → Bool
  | .access a => a.rel
  | .send _ _ _ _ | .sigr _ _ | .packet _ | .migrate _ | .visit _ _ _ _ | .visitReturn _ _ _ _ => true
  | _ => false

/-- Whether the order of R118 holds a message behind earlier ones of its flow: what a thread or a hod program sends, and the
mortar network; loads, stores and atomics follow R110 alone, and what a core's own units send has no order. -/
def flowOrdered (m : Msg) : Bool :=
  (m.thread != 0 || decide (m.sslot < 256) || m.net == .mortar) &&
    (match m.body with
      | .access a => a.kind == .put
      | _ => true)

/-- A message that may arrive now: out of the egress queue, due, for this device, first of its flow (R118), a release
after the sender's earlier accesses (R112), an access after those of R110. -/
def arrived (s : State) (uid : Nat) : Option Msg :=
  match findMsg s uid with
  | none => none
  | some m =>
    let earlier := s.net.takeWhile fun e => e.uid != uid
    if m.egress || decide (s.cycle < m.due) || m.ddev != s.pkg.dev.toNat then none
    else if flowOrdered m && earlier.any fun e => sameFlow e m && flowOrdered e then none
    else if isRelease m.body && m.sdev == s.pkg.dev.toNat && earlierAccess s m.score m.thread m.uid then none
    else match m.body with
      | .access a => if mustFollow s m a then none else some m
      | _ => some m

/-- The key of an access's target at this package (R15, R392): none for a core outside the partition named. -/
def targetKey (s : State) (m : Msg) (a : Access) : Option Nat :=
  match a.tgt with
  | .key k => some k
  | .fabric l sp off =>
    match coreOfLogical s (some m.part) l with
    | none => none
    | some t => (spaceKey s t sp off).map (·.1)

/-- A fault found at the far end: cause, address, DETAIL of a precise one (R184). -/
structure FarErr where
  cause : Nat
  addr : Word
  detail : Word
  deriving DecidableEq, Repr

/-- The answer of an access that faults at its far end (R184, R187, R190, R192). -/
def failBody (m : Msg) (a : Access) (e : FarErr) : MsgBody :=
  match a.kind with
  | .ld => .ldData m.sslot a.reg a.tag 0 (some { cause := e.cause, tval := e.addr, detail := e.detail, more := 0 })
  | .ldn => .farFault m.sslot (some (a.reg, 0#64)) true e.cause e.addr
  | .amo => .farFault m.sslot (some (a.reg, 0#64)) true e.cause e.addr
  | .stn => .farFault m.sslot none true e.cause e.addr
  | _ => .farFault m.sslot none false e.cause e.addr

/-- An access that has failed. -/
def failAccess (s : State) (m : Msg) (a : Access) (e : FarErr) : State :=
  if 256 ≤ m.sslot && m.sdev == s.pkg.dev.toNat then dropMsg s m.uid else answer (dropMsg s m.uid) m (failBody m a e)

/-- A guard granule that a fabric access touches at its target (R103). -/
def farGuard (s : State) (k n : Nat) (addr : Word) : Option FarErr :=
  if keyStore k = 2 then
    let (cl, off) := keySpad k
    (guardHit s cl off n).map fun g =>
      { cause := 0x08, addr := BitVec.ofNat 64 (addr.toNat - bits addr.toNat 31 0 + g * 64),
        detail := BitVec.ofNat 64 (spadBank (g * 64)) }
  else none

/-- The value of a load of `n` bytes as a register takes it (R186, R190, R192). -/
def loadValue (sgn : Bool) (n v : Nat) : Word := if sgn then ofInt 64 (signedOf (8 * n) v) else BitVec.ofNat 64 v

/-- The answer of a store that nothing waits for, sent only to another device. -/
def ackRemote (s : State) (m : Msg) : State :=
  if m.sdev = s.pkg.dev.toNat then s else answer s m (.reply m.sslot 16 0#64 false)

/-- An access performed at its store, with its answer (R107, R108, R186 to R192); one from another device to a counter table too.
DESIGN CHOICE, log 102. -/
def performAt (s : State) (m : Msg) (a : Access) (k : Nat) : State :=
  let s0 := dropMsg s m.uid
  let who := if m.sdev = s.pkg.dev.toNat then some (m.score, m.sslot) else none
  let counter := if m.sdev = s.pkg.dev.toNat then m.score else m.dcore
  let store (u : State) (v : Nat) : State :=
    match who with
    | some (c, n) => partyStore u c n m.thread m.uid k (leBytes a.size v)
    | none => storeBytes u k (leBytes a.size v)
  let bad : FarErr := { cause := 0x16, addr := a.addr, detail := BitVec.ofNat 64 (storeCode k) }
  let refused : Option FarErr :=
    if m.sdev ≠ s.pkg.dev.toNat && inAsidTable s k a.size then some { cause := 0x06, addr := a.addr, detail := 3#64 }
    else farGuard s k a.size a.addr
  match refused with
  | some e => failAccess s m a e
  | none =>
    match a.kind with
    | .st | .put | .join =>
      let (s1, err) := eccPart s0 counter k a.size
      if err then failAccess s1 m a bad else ackRemote (store s1 a.data) m
    | .stn =>
      let (s1, err) := eccPart s0 counter k a.size
      if err then failAccess s1 m a bad else answer (store s1 a.data) m (.stnAck m.sslot)
    | .ld =>
      let (s1, err) := eccRead s0 counter k a.size
      if err then failAccess s1 m a bad
      else
        let v := memNat s1.mem k a.size
        answer s1 m (.ldData m.sslot a.reg a.tag (if 8 < a.size then v else (loadValue a.sgn a.size v).toNat) none)
    | .ldn =>
      let (s1, err) := eccRead s0 counter k a.size
      if err then failAccess s1 m a bad
      else answer s1 m (.reply m.sslot a.reg (loadValue false a.size (memNat s1.mem k a.size)) true)
    | .amo =>
      let (s1, err) := eccRead s0 counter k a.size
      if err then failAccess s1 m a bad
      else
        let old := memNat s1.mem k a.size
        let s2 := match amoNew a.op (8 * a.size) old a.data a.expect with
          | some v => store s1 v
          | none => s1
        answer s2 m (.reply m.sslot a.reg (loadValue (a.size == 4) a.size old) true)

/-- A request of a thread to another device noted at its core until it is answered. -/
def askRemote (s : State) (c n uid : Nat) (acq : Bool) : State :=
  let e : RemoteAsk := { uid := uid, thread := tidOf s c n, asid := (slotOf s c n).asid.toNat, acq := acq }
  modCore s c fun k => { k with remote := k.remote ++ [e] }

/-- A request that is answered, or that no answer will come to. -/
def settleAsk (s : State) (c uid : Nat) : State :=
  modCore s c fun k => { k with remote := k.remote.filter fun e => e.uid != uid }

/-- An access of a thread made ready: the message that carries it. -/
def sendAccess (s : State) (c n : Nat) (r : Route) (a : Access) : State :=
  match r with
  | .own k => post s c n s.pkg.dev.toNat c .request false (.access { a with tgt := .key k })
  | .far k e =>
    let t := if keyStore k = 1 then k % 2 ^ 60 / 2 ^ 20 else c
    post s c n s.pkg.dev.toNat t .request e (.access { a with tgt := .key k })
  | .dev d l sp off =>
    askRemote (post s c n d l .request true (.access { a with tgt := .fabric l sp off })) c n s.uid a.acq
  | .ctrl _ _ _ => s

/-- Whether a route needs space in the egress queue (R210). -/
def routeEgress : Route → Bool
  | .far _ e => e
  | .dev _ _ _ _ => true
  | _ => false

/-- A page walk started for an access, whose slot waits for it (R188, R355). -/
def startWalk (s : State) (c n : Nat) (va : Word) (counted : Bool) : State :=
  let w : Walk := { uid := s.uid, core := c, slot := n, asid := (slotOf s c n).asid.toNat, va := va,
                    due := s.cycle + 1 + Config.latency s.uid }
  waitSlot { s with uid := s.uid + 1, walks := s.walks ++ [w] } c n (.walk s.uid counted)

/-- Region of an address (R14). -/
def regionOf (a : Word) : Nat := bits a.toNat 63 60

/-- An access to region 0x8 or 0x9 names core-local state (R37). -/
def Ctx.localHome (x : Ctx) (a : Word) (k : Body) : Body :=
  if regionOf a = 8 || regionOf a = 9 then x.atHome k else k

/-- Request egress space where the route needs it (R210). -/
def Ctx.egressFor (x : Ctx) (r : Route) (a : Word) (k : Body) : Body := if routeEgress r then x.egress a k else k

/-- The key of a route in this package. -/
def routeKey : Route → Option Nat
  | .far key _ => some key
  | .own key => some key
  | _ => none

/-- A key that a thread may not write: the counter table (R372). -/
def Ctx.notCounters (x : Ctx) (r : Route) (a : Word) (n : Nat) (k : Body) : Body :=
  if (routeKey r).any fun key => inCounterTable x.s key n then x.trap 0x06 a 0#64 else k

/-- The area of the ASID table is the platform's: an access of another level is an access fault (R350). DEDUCED, log 83. -/
def Ctx.notAsidTable (x : Ctx) (r : Route) (a : Word) (n : Nat) (k : Body) : Body :=
  if x.levelSlot ≠ 0 && (routeKey r).any fun key => inAsidTable x.s key n then x.trap 0x06 a 3#64 else k

/-- The route of an access, or its precise fault or the walk it needs (R184, R188). -/
def Ctx.route (x : Ctx) (u : AccUse) (a : Word) (n : Nat) (counted : Bool) (k : Route → Body) : Body :=
  match routeAccess x.s x.c x.n u a n with
  | .ok r => x.notAsidTable r a n (k r)
  | .error (.fault cause tval detail) => x.trap cause tval detail
  | .error (.walk va) => .error (.gone (startWalk x.s x.c x.n va counted))

end Sys2Proof.Machine
end

