-- ==== Sys2Proof/Machine/Cmd.lean ====
section
/-! DEFINITION. What the engine commands share: their codes and deferred errors (R140, R244, R332), the bytes that
their operands name (R14 to R17, R104, R354), their issue with their tile references (R100, R139, R141, R223), the
conditions of their start (R55, R115), their signal (R54, R245) and their discarding by a cancel (R247, R270, R283). -/

namespace Sys2Proof.Machine

/-! ## Codes and deferred errors -/

/-- Engine and command code (R140). -/
def cmdCode : Instr → Nat × Nat
  | .mma _ => (0, 0x01)
  | .mmas _ => (0, 0x02)
  | .aclr _ => (0, 0x03)
  | .ald _ => (0, 0x04)
  | .ast _ => (0, 0x05)
  | .acvt _ => (0, 0x06)
  | .achk _ => (0, 0x07)
  | .msum _ => (0, 0x08)
  | .atrn _ => (0, 0x09)
  | .vadd _ => (1, 0x01)
  | .vsub _ => (1, 0x02)
  | .vmul _ => (1, 0x03)
  | .vfma _ => (1, 0x04)
  | .vmax _ => (1, 0x05)
  | .vmin _ => (1, 0x06)
  | .vabs _ => (1, 0x07)
  | .vneg _ => (1, 0x08)
  | .vexp2 _ => (1, 0x09)
  | .vlog2 _ => (1, 0x0A)
  | .vrcp _ => (1, 0x0B)
  | .vrsq _ => (1, 0x0C)
  | .vtanh _ => (1, 0x0D)
  | .vcvt _ => (1, 0x0E)
  | .vcmp _ => (1, 0x0F)
  | .vsel _ => (1, 0x10)
  | .vred _ => (1, 0x11)
  | .vscan _ => (1, 0x12)
  | .vtrn _ => (1, 0x13)
  | .vbcst _ => (1, 0x14)
  | .vrng _ => (1, 0x15)
  | .vcpy _ => (1, 0x16)
  | .copy _ => (2, 0x01)
  | .rstr _ => (2, 0x02)
  | .prlg _ => (2, 0x03)
  | .gath _ => (2, 0x04)
  | .scat _ => (2, 0x05)
  | .mcast _ => (2, 0x06)
  | .tabpin _ => (2, 0x07)
  | .tabinv _ => (2, 0x08)
  | .hodrun _ => (3, 0x01)
  | .hodstop _ => (3, 0x02)
  | .chopen _ => (4, 0x01)
  | .chjoin _ => (4, 0x02)
  | .chclose _ => (4, 0x03)
  | .chstat _ => (4, 0x04)
  | .chevict _ => (4, 0x05)
  | _ => (7, 0)

/-- A deferred error whose DETAIL names the command: causes 0x20 to 0x28 and 0x2C to 0x30 (R332). DEDUCED, log 20. -/
def cmdErr (op : Instr) (cause : Nat) (tval : Word) (detail : Nat) : DefErr :=
  { cause := cause, tval := tval,
    detail := BitVec.ofNat 64 ((cmdCode op).1 * 2 ^ 29 + (cmdCode op).2 * 2 ^ 21 + detail % 2 ^ 21) }

/-- A deferred error of a command (R332). -/
def Cmd.fault (x : Cmd) (cause : Nat) (tval : Word) (detail : Nat) : DefErr := cmdErr x.op cause tval detail

/-- A deferred error whose DETAIL is a plain number: causes 0x29, 0x2A and 0x31 to 0x37 (R332). -/
def plainErr (cause detail : Nat) : DefErr := { cause := cause, tval := 0#64, detail := BitVec.ofNat 64 detail }

/-- The deferred error of a cancelled command (R247, R332). -/
def Cmd.cancelErr (x : Cmd) : DefErr := plainErr 0x37 (cmdCode x.op).2

/-! ## The bytes that an operand names -/

/-- The key of a byte of another package: region 0xA's low 60 bits. -/
def remoteKey (a : Nat) : Nat := 8 * 2 ^ 60 + a % 2 ^ 60

/-- A range of `n` bytes of a store, or the detail of the access error (R17, R332). -/
def boundSeg (base size off n : Nat) : Except Nat (List (Nat × Nat)) :=
  if size < off + n then .error 1 else .ok [(base + off, n)]

/-- A range of virtual addresses, page by page (R354). -/
def pageSegs (s : State) (p : Option Nat) (asid : Nat) (user : Bool) (u : AccUse) (va n : Nat) :
    Except Nat (List (Nat × Nat)) :=
  (List.range ((va % 65536 + n + 65535) / 65536)).mapM fun i =>
    let lo := max va ((va / 65536 + i) * 65536)
    let hi := min (va + n) ((va / 65536 + i + 1) * 65536)
    (transNow s p asid user u lo (hi - lo)).map fun k => (k, hi - lo)

/-- A range in region 0xA for a party of a partition (R15, R16); a device that nothing can reach is an access error (R390, R394). -/
def fabricSeg (s : State) (p : Option Nat) (v d n : Nat) : Except Nat (List (Nat × Nat)) :=
  let sp := bits v 33 32
  match spaceKey s 0 sp 0 with
  | none => .error 0
  | some (_, size) =>
    let off := bits v 31 0 + d
    if size < off + n then .error 1
    else if bits v 59 44 = s.pkg.dev.toNat then
      match coreOfLogical s p (bits v 43 34) with
      | none => .error 2
      | some t => match spaceKey s t sp off with
        | none => .error 0
        | some (k, _) => .ok [(k, n)]
    else if peerBound s p (bits v 59 44) && linkReach s p (bits v 59 44) then .ok [(remoteKey (v + d), n)]
    else .error 2

/-- `n` bytes from `d` on of the range that begins at an address: keys with lengths, or the detail of the access
error. `home` is the core whose own stores regions 0x8 and 0x9 name (R14, R17, R354). -/
def rangeSegs (s : State) (home : Option Nat) (p : Option Nat) (asid : Nat) (user : Bool) (u : AccUse) (a : Word)
    (d n : Nat) : Except Nat (List (Nat × Nat)) :=
  let v := a.toNat
  match bits v 63 60, home with
  | 0x0, _ => if 2 ^ 57 < v + d + n then .error 0 else pageSegs s p asid user u (v + d) n
  | 0x8, some c =>
    if bits v 59 18 ≠ 0 then .error 0 else boundSeg (tcmKey c 0) Config.tcmBytes (bits v 17 0 + d) n
  | 0x9, some c =>
    if bits v 59 24 ≠ 0 then .error 0
    else boundSeg (spadKey (clusterOfCore c) 0) Config.spadBytes (bits v 23 0 + d) n
  | 0xA, _ => fabricSeg s p v d n
  | 0xF, _ => .error (if user then 3 else 0)
  | _, _ => .error 0

/-- Whether a write of these ranges would touch a counter table, which only the device changes (R372). -/
def touchesCounters (s : State) (u : AccUse) (segs : List (Nat × Nat)) : Bool :=
  u == .write && segs.any fun g => inCounterTable s g.1 g.2

/-- The bytes of an operand of a command. -/
def Cmd.segs (s : State) (x : Cmd) (u : AccUse) (a : Word) (d n : Nat) : Except Nat (List (Nat × Nat)) :=
  match rangeSegs s (some x.core) (partOfCore s x.core) x.asid x.user u a d n with
  | .error e => .error e
  | .ok g =>
    if touchesCounters s u g then .error 0
    else if x.slot ≠ 0 && g.any fun e => inAsidTable s e.1 e.2 then .error 3
    else .ok g

/-- Bytes `off` on of the tile that a reference names (R87). -/
def tileSegs (c : Nat) (t : TileRef) (off n : Nat) : List (Nat × Nat) :=
  [(spadKey (clusterOfCore c) (t.slot * 8192 + off), n)]

/-- The lower of two offsets, where there are any. -/
def lowerOf (a b : Option Nat) : Option Nat :=
  match a, b with
  | some x, some y => some (min x y)
  | some x, none => some x
  | none, y => y

/-- The offset of the lowest guarded granule of some ranges (R104). -/
def segGuard (s : State) (segs : List (Nat × Nat)) : Option Nat :=
  segs.foldl (fun a g => lowerOf a
    (if keyStore g.1 = 2 then (guardHit s (keySpad g.1).1 (keySpad g.1).2 g.2).map (· * 64) else none)) none

/-- Bytes of another package, which the model does not hold: free values. -/
def freeBytes (s : State) (n : Nat) : State × List Byte :=
  ({ s with fresh := s.fresh + n }, (List.range n).map fun i => Config.freeByte (s.fresh + i))

/-- Ranges read by an engine of a core: the state with the soft errors met, the bytes, and whether an uncorrectable
error was met (R345). DEDUCED, log 53. -/
def segRead (s : State) (c : Nat) : List (Nat × Nat) → State × List Byte × Bool
  | [] => (s, [], false)
  | (k, n) :: r =>
    let (s1, bs, bad) :=
      if keyStore k = 8 then ((freeBytes s n).1, (freeBytes s n).2, false)
      else
        let (t, b) := eccRead s c k n
        (t, memBytes t.mem k n, b)
    let (s2, rest, bad2) := segRead s1 c r
    (s2, bs ++ rest, bad || bad2)

/-- The write of an engine, a grid command or a hod that its target refuses: its command ends with the access error (R14,
R244). -/
def failNamed (s : State) (tid : Nat) : State :=
  let hit (x : Cmd) : Cmd :=
    if threadName s x.uid = tid then { x with err := x.err.or (some (x.fault 0x20 0#64 2)) } else x
  { s with cores := s.cores.map fun k => (k.1, { k.2 with active := k.2.active.map hit }),
           clusters := s.clusters.map fun k => (k.1, { k.2 with active := k.2.active.map hit }) }

/-- A piece of what the party `tid` of a core writes elsewhere under an ASID, as a message without an answer of its own. -/
def writeMsg (s : State) (c asid tid ddev dcore : Nat) (tgt : Target) (addr : Word) (bs : List Byte) : Msg :=
  { mkMsg s c 256 ddev dcore .request false
      (.access { kind := .put, tgt := tgt, size := bs.length, addr := addr, data := leNat bs, expect := 0, op := .add,
                 reg := 16, sgn := false, acq := false, rel := false, scope := 5, sem := 0, inc := 0, tag := 0 }) with
    asid := asid, thread := tid }

/-- Bytes that the party `tid` writes to another package, in pieces of at most 64: posted on the request network under an
ASID. A piece that cannot leave is an access error of its command (R14, R390, R394). -/
def remoteWrite (s : State) (c asid tid : Nat) (k : Nat) (bs : List Byte) : State :=
  let v := k % 2 ^ 60
  (List.range ((bs.length + 63) / 64)).foldl (fun a i =>
    let m := writeMsg a c asid tid (bits v 59 44) (bits v 43 34) (.fabric (bits v 43 34) (bits v 33 32) (bits v 31 0 + 64 * i))
      (BitVec.ofNat 64 (10 * 2 ^ 60 + v + 64 * i)) ((bs.drop (64 * i)).take 64)
    match linkSend a m 0 with
    | some u => { u with uid := a.uid + 1 }
    | none => failNamed a tid) s

/-- The core in whose TCM a byte lies. -/
def tcmCore (k : Nat) : Option Nat := if keyStore k = 1 then some (k % 2 ^ 60 / 2 ^ 20) else none

/-- Whether a write under an ASID to a byte of a core's TCM meets another core's saved context: it is an arrival there, which the
core diverts (R384, R387). DEDUCED, log 112. -/
def heldTcm (s : State) (c asid k : Nat) : Bool :=
  (tcmCore k).any fun t =>
    let x := coreOf s t
    t != c && (match x.mode with
      | .saving | .restoring => true
      | .preempted => x.guestAsid != some asid
      | _ => false)

/-- Bytes that the party `tid` writes to the TCM of a core whose context is saved, as arrivals at that core (R384). -/
def arriveWrite (s : State) (c asid tid : Nat) (k : Nat) (bs : List Byte) : State :=
  (List.range ((bs.length + 63) / 64)).foldl (fun a i =>
    putMsg a (writeMsg a c asid tid a.pkg.dev.toNat (k % 2 ^ 60 / 2 ^ 20) (.key (k + 64 * i)) 0#64
      ((bs.drop (64 * i)).take 64))) s

/-- Bytes written to a scratchpad, guarded granules left out (R104). -/
def spadWrite (s : State) (k : Nat) (bs : List Byte) : State :=
  let (cl, off) := keySpad k
  match guardHit s cl off bs.length with
  | none => storeBytes s k bs
  | some _ =>
    (List.range ((off % 64 + bs.length + 63) / 64)).foldl (fun a i =>
      let g := off / 64 + i
      let lo := max off (g * 64)
      let hi := min (off + bs.length) (g * 64 + 64)
      if (clusterOf a cl).guards.contains g then a
      else storeBytes a (spadKey cl lo) ((bs.drop (lo - off)).take (hi - lo))) s

/-- One range written; bytes of the ASID table keep the bits that only the device writes (R350). -/
def rangeWrite (s : State) (c asid tid k : Nat) (bs : List Byte) : State :=
  if keyStore k = 2 then spadWrite s k bs
  else if keyStore k = 8 then remoteWrite s c asid tid k bs
  else if heldTcm s c asid k then arriveWrite s c asid tid k bs
  else storeBytes s k (storedBytes s k bs)

/-- Ranges written by the party `tid` of a core (R104). -/
def segWrite (s : State) (c asid tid : Nat) : List (Nat × Nat) → List Byte → State
  | [], _ => s
  | (k, n) :: r, bs => segWrite (rangeWrite s c asid tid k (bs.take n)) c asid tid r (bs.drop n)

/-- Whether the party `tid` has writes to other packages that are not acknowledged (R108, R115). -/
def writesOut (s : State) (tid : Nat) : Bool :=
  s.net.any (fun m => m.thread == tid) ||
    s.pkg.conns.any fun c => (c.2.waiting ++ c.2.asked).any fun k => k.srcThread == tid

/-- Whether two lists of ranges have a byte in common. -/
def segsMeet (a b : List (Nat × Nat)) : Bool :=
  a.any fun x => b.any fun y => decide (x.1 < y.1 + y.2) && decide (y.1 < x.1 + x.2)

/-- Whether ranges lie in the own TCM or the own scratchpad of a core (R220). -/
def segsLocal (c : Nat) (segs : List (Nat × Nat)) : Bool :=
  segs.all fun g => g.1 / 2 ^ 20 == tcmKey c 0 / 2 ^ 20 || g.1 / 2 ^ 24 == spadKey (clusterOfCore c) 0 / 2 ^ 24

/-! ## Issue -/

/-- What a command makes of a field (R139). -/
inductive FieldKind where
  | addr | tile | value | none
  deriving DecidableEq, Repr

/-- A field as formed at issue, and whether it is no address at all (R139). -/
def formField (t : Thread) (k : FieldKind) (sub : Nat) (f : Word32) : Word × Bool :=
  match k with
  | .addr => match fieldAddr t sub f with
    | some a => (a, false)
    | none => (BitVec.setWidth 64 f, true)
  | .tile => (BitVec.setWidth 64 (fieldIndex t sub f), false)
  | .value => (fieldValue t sub f, false)
  | .none => (0#64, false)

/-- A register-free word of words 5 to 7 as an address (R139). -/
def freeAddr (f : Word32) : Word := BitVec.ofNat 64 (bits f.toNat 31 28 * 2 ^ 60 + bits f.toNat 27 0)

/-- References taken one after the other (R223). -/
def takeRefs : Cluster → List (Nat × BitVec 32 × Bool) → Except (RefErr × BitVec 32) (Cluster × List TileRef)
  | k, [] => .ok (k, [])
  | k, (r, i, pop) :: rest =>
    match takeRef k r i pop with
    | .error e => .error (e, i)
    | .ok (sl, k1) =>
      match takeRefs k1 rest with
      | .error e => .error e
      | .ok (k2, refs) => .ok (k2, { ring := r, idx := i.toNat, slot := sl } :: refs)

/-- A cluster in which no tile has a reader: refusals judged apart from the READERS limit. -/
def noReaders (k : Cluster) : Cluster := { k with tiles := k.tiles.map fun t => (t.1, { t.2 with readers := 0#8 }) }

/-- Detail of a ring refusal (R332). -/
def RefErr.detail : RefErr → Nat
  | .index => 1
  | .consumed => 2
  | .order => 3
  | .readers => 0

/-- What a command's references come to at issue: taken, refused with a deferred error, or the READERS limit (R99,
R100). -/
inductive Refs where
  | taken (k : Cluster) (refs : List TileRef)
  | refused (e : DefErr)
  | full

/-- The references of a command at issue; if any is refused none is taken (R99, R100, R223). -/
def issueRefs (k : Cluster) (op : Instr) (asid : Nat) (rs : List (Nat × BitVec 32 × Bool)) : Refs :=
  match rs.find? fun r => !ringOwned (ringOf k r.1) asid with
  | some r => .refused (cmdErr op 0x20 (BitVec.setWidth 64 r.2.1) 4)
  | none =>
    match takeRefs (noReaders k) rs with
    | .error (e, i) => .refused (cmdErr op 0x22 (BitVec.setWidth 64 i) e.detail)
    | .ok _ =>
      match takeRefs k rs with
      | .ok (k1, refs) => .taken k1 refs
      | .error _ => .full

/-- The resource of an engine's queue. -/
def queueRes (engine : Nat) : Res :=
  match engine with
  | 0 => .mxeq
  | 1 => .vxeq
  | 2 => .gceq
  | 3 => .hodq
  | _ => .mniq

/-- Whether the queue of an engine has room for a command of a slot (R220, R221, R236, R249, R272, R287). -/
def queueRoom (s : State) (c n engine : Nat) : Bool :=
  let k := coreOf s c
  let g := (clusterOf s (clusterOfCore c)).gceq.filter fun q => !isHeldMode (coreOf s q.core).mode
  match engine with
  | 0 => if k.rot then decide ((k.mxeq.filter (·.slot == n)).length < 4) else decide (k.mxeq.length < 16)
  | 1 => decide (k.vxeq.length < 16)
  | 2 => decide (g.length < 32) && decide ((g.filter (·.core == c)).length < 8)
  | 3 => decide (k.hodq.length < 8)
  | _ => decide (k.mniq.length < 8)

/-- A command put at the end of its engine's queue (R141). -/
def enqueueCmd (s : State) (x : Cmd) : State :=
  match (cmdCode x.op).1 with
  | 0 => modCore s x.core fun k => { k with mxeq := k.mxeq ++ [x] }
  | 1 => modCore s x.core fun k => { k with vxeq := k.vxeq ++ [x] }
  | 2 => modCluster s (clusterOfCore x.core) fun k => { k with gceq := k.gceq ++ [x] }
  | 3 => modCore s x.core fun k => { k with hodq := k.hodq ++ [x] }
  | _ => modCore s x.core fun k => { k with mniq := k.mniq ++ [x] }

/-- The command that a bundle makes, with its fields as formed (R139, R141). -/
def Ctx.newCmd (x : Ctx) (op : Instr) (b : Bundle) (fa fb : Word × Bool) : Cmd :=
  { uid := x.s.uid, core := x.c, slot := x.n, thread := x.t.tid, asid := x.sl.asid.toNat, user := isUserSlot x.levelSlot,
    op := op, x := b, a := fa.1, b := fb.1, aBad := fa.2, bBad := fb.2, fmt := x.t.fmt, sca := x.t.sca, scb := x.t.scb,
    refs := [], refused := none, issued := x.s.cycle, started := false, retireAt := 0, retired := false,
    due := x.s.cycle + 1, steps := 0, rows := 0, far := false, err := none, flags := 0#5, desc := [], ltab := [], tab := [],
    tabBad := false,
    members := [], fail := 0, poison := none, stop := false }

/-- Whether a kill fence of an ASID runs: no command under it is accepted (R350, R366). -/
def asidKilling (s : State) (asid : Nat) : Bool := (asidEntry s asid).testBit 62

/-- The issue of a bundle (R141): substitution registers, queue space and the READERS limit first; then the fields are
formed, the references taken and the command queued. `rings` gives the tile operands by ring, index and pop; `copy`
is what the engine reads at acceptance. Nothing is accepted while a kill fence of the ASID runs (R350, R366). -/
def Ctx.issueCmd (x : Ctx) (op : Instr) (b : Bundle) (ka kb : FieldKind)
    (rings : Word → Word → List (Nat × BitVec 32 × Bool)) (copy : State → Cmd → State × Cmd) : Body :=
  let eng := (cmdCode op).1
  x.needRegs (bundleRegs b) <| x.needRes (queueRoom x.s x.c x.n eng) (queueRes eng) <|
    let fa := formField x.t ka b.substA.toNat b.fieldA
    let fb := formField x.t kb b.substB.toNat b.fieldB
    let cmd := x.newCmd op b fa fb
    let cl := clusterOfCore x.c
    let queue (s : State) (m : Cmd) : Body :=
      let (s1, y) := copy s m
      x.finish (enqueueCmd { s1 with uid := s1.uid + 1 } y) x.t 32
    if asidKilling x.s cmd.asid then x.finish x.s x.t 32
    else match issueRefs (clusterOf x.s cl) op cmd.asid (rings fa.1 fb.1) with
    | .full => x.stall (.res .readers)
    | .refused e => queue x.s { cmd with refused := some e }
    | .taken k refs => queue (modCluster x.s cl fun _ => k) { cmd with refs := refs }

/-! ## Start and end -/

/-- Slots that wait for the queue that a command has left made READY (R141): a GCE's queue is the cluster's. -/
def wakeQueue (s : State) (x : Cmd) : State :=
  let e := (cmdCode x.op).1
  if e = 2 then (List.range 8).foldl (fun a i => wakeRes a (clusterOfCore x.core * 8 + i) .gceq) s
  else wakeRes s x.core (queueRes e)

/-- The wait field of a command (R55). -/
def waitHolds (s : State) (x : Cmd) : Bool :=
  decide (x.x.threshold.toNat ≤ (semOf (coreOf s x.core) x.x.waitSem.toNat).val.toNat)

/-- The name of a command among the parties that write (R115, R118). -/
def cmdTid (s : State) (x : Cmd) : Nat := threadName s x.uid

/-- The conditions of a start that every engine asks: the wait field, the tiles, the fork edge, a core that is not held
(R55, R100, R115, R246). -/
def mayStart (s : State) (x : Cmd) : Bool :=
  !isHeldMode (coreOf s x.core).mode && decide (x.issued < s.cycle) && decide (x.due ≤ s.cycle) && waitHolds s x &&
    x.refs.all (refReady (clusterOf s (clusterOfCore x.core))) && !earlierAccess s x.core x.thread x.uid

/-- The first poisoned tile that a command names, with its cause (R92). -/
def poisonedRef (s : State) (x : Cmd) : Option DefErr :=
  (x.refs.find? fun t => (tileOf (clusterOf s (clusterOfCore x.core)) t.slot).poison).map fun t =>
    x.fault 0x23 (BitVec.ofNat 64 t.idx) (tileOf (clusterOf s (clusterOfCore x.core)) t.slot).cause.toNat

/-- A signal applied to a semaphore with its deferred error (R54, R244). -/
def signalSem (s : State) (c sem inc : Nat) (err : Option DefErr) : State :=
  let s1 := match err with
    | some e => semHold s c sem e
    | none => s
  if inc = 0 then s1 else semAdd s1 c sem inc

/-- A command's signal (R244). -/
def Cmd.signal (s : State) (x : Cmd) (err : Option DefErr) : State :=
  signalSem s x.core x.x.sigSem.toNat x.x.inc.toNat err

/-- A deferred error as a signal message carries it. -/
def DefErr.info (e : DefErr) : TrapInfo := { cause := e.cause, tval := e.tval, detail := e.detail, more := 0 }

/-- A signal of a command as a message to its own core (R283, R302). -/
def signalOf (s : State) (c asid sem inc : Nat) (err : Option DefErr) (cmd : Nat) : Msg :=
  { mkMsg s c 256 s.pkg.dev.toNat c .control false (.signal sem inc (err.map DefErr.info) cmd) with
    asid := asid, thread := 0 }

/-- A command's signal as a message to its core, which a held core diverts (R283). -/
def Cmd.signalMsg (s : State) (x : Cmd) (err : Option DefErr) : State :=
  putMsg s (signalOf s x.core x.asid x.x.sigSem.toNat x.x.inc.toNat err x.uid)

/-- A command's flags for the issuing thread, if it still occupies the issuing slot (R245). -/
def Cmd.report (s : State) (x : Cmd) : State :=
  match threadOf s x.core x.slot with
  | some t => if t.tid = x.thread && x.flags ≠ 0#5 then modThread s x.core x.slot fun u => addFlags u x.flags else s
  | none => s

/-- The references of a command released (R101). -/
def releaseRefs (s : State) (x : Cmd) : State := dropRefs s (clusterOfCore x.core) x.refs

/-- A command of a core's active list replaced. -/
def putActive (s : State) (x : Cmd) : State :=
  modCore s x.core fun k => { k with active := k.active.map fun y => if y.uid = x.uid then x else y }

/-- A core's active list without a command. -/
def dropActive (s : State) (c uid : Nat) : State :=
  modCore s c fun k => { k with active := k.active.filter fun y => y.uid != uid }

/-- An active command of a core. -/
def activeCmd (s : State) (c uid : Nat) : Option Cmd := (coreOf s c).active.find? fun y => y.uid == uid

/-- Where a command ends: whether a check before its reads failed, its error, its flags, whether a write went to a
store that is not local. -/
structure CmdEnd where
  s : State
  early : Bool
  err : Option DefErr
  flags : BitVec 5
  far : Bool

/-- A command that failed a check before its reads (R220, R242). -/
def CmdEnd.refuse (s : State) (e : DefErr) : CmdEnd := { s := s, early := true, err := some e, flags := 0#5, far := false }

/-- A command that met an error while it read. -/
def CmdEnd.fail (s : State) (e : DefErr) : CmdEnd := { s := s, early := false, err := some e, flags := 0#5, far := false }

/-- A command that ended without error. -/
def CmdEnd.done (s : State) (flags : BitVec 5) (far : Bool) : CmdEnd :=
  { s := s, early := false, err := none, flags := flags, far := far }

/-- Cycles that a write to a store that is not local may take beyond the 8 of R220 (log 7). -/
def farDelay (x : Cmd) (far : Bool) : Nat := if far then Config.latency x.uid else 0

/-- A cycle that no run reaches: the end of what waits for an acknowledgement, a reply or steps to come. -/
def never : Nat := 2 ^ 64

/-- A command as it stands after its start, with an occupancy (R101, R220, R242). -/
def startedCmd (s : State) (x : Cmd) (e : CmdEnd) (occ : Nat) : Cmd :=
  { x with started := true, err := e.err, flags := e.flags, steps := 0, rows := 0, far := e.far, retired := e.early,
           retireAt := if e.early then s.cycle else s.cycle + occ,
           due := if e.early then s.cycle + 8 else s.cycle + occ + 8 + farDelay x e.far }

/-! ## Cancel -/

/-- An unstarted command discarded by a cancel (R247, R270). -/
def cancelUnstarted (s : State) (x : Cmd) : State := x.signal (releaseRefs s x) (some x.cancelErr)

/-- The hod-stopped error of a HODRUN (R273, R332). -/
def stoppedErr (x : Cmd) : DefErr := x.fault 0x2F (BitVec.ofNat 64 (fld x.x.w5 31 16)) 0

/-- A program that a HODSTOP, a cancel or a kill fence ends (R273, R283). -/
def stopProg (p : Prog) : Prog :=
  { p with ended := true, err := p.err.or (some (stoppedErr p.cmd)), wwait := none, fillWait := none, sigWait := false }

/-- A fill of a stopped program: given up, or poisoned with CAUSE 0x06 once it is claimed (R273). -/
def stopFill (s : State) (f : Cmd → Bool) (g : Fill) : Option Fill :=
  let mine := g.byHod && (match mapFind (hodOf s g.unit).progs g.prog with
    | some p => f p.cmd && !p.ended
    | none => false)
  if !mine then some g
  else if g.index.isSome then some { g with cause := g.cause.or (some 6) } else none

/-- Hod programs and waiting requests stopped as HODSTOP stops them (R273, R283): a program is between two commands. -/
def stopHods (s : State) (f : Cmd → Bool) : State :=
  let gone := s.hods.flatMap fun h => h.2.queue.filter fun q => f q.cmd
  let s1 := { s with
    fills := s.fills.filterMap (stopFill s f),
    hods := s.hods.map fun h =>
      (h.1, { h.2 with queue := h.2.queue.filter fun q => !f q.cmd,
                       progs := h.2.progs.map fun p => if f p.2.cmd && !p.2.ended then (p.1, stopProg p.2) else p }) }
  gone.foldl (fun a q => q.cmd.signalMsg a (some (stoppedErr q.cmd))) s1

/-- The commands of a GCE's queue that a cancel or a kill meets: one that has started, which a hold has stopped at a tile
boundary, goes back to the active ones to stop there (R269, R270); one that has not goes. -/
def stopQueue (f : Cmd → Bool) (k : Cluster) : Cluster :=
  let stop (x : Cmd) : Cmd := if f x then { x with stop := true } else x
  { k with gceq := k.gceq.filter fun x => !f x,
           active := (k.gceq.filter fun x => f x && x.started).map stop ++ k.active.map stop }

/-- The engine commands of a cancelled thread (R247, R270, R283). -/
def cancelCmds (s : State) (tid : Nat) : State :=
  let mine (x : Cmd) : Bool := x.thread == tid
  let gone := (s.cores.flatMap fun k => (k.2.mxeq ++ k.2.vxeq).filter mine) ++
    s.clusters.flatMap fun k => k.2.gceq.filter fun x => mine x && !x.started
  let s1 := { s with
    cores := s.cores.map fun k => (k.1, { k.2 with mxeq := k.2.mxeq.filter fun x => !mine x,
                                                   vxeq := k.2.vxeq.filter fun x => !mine x }),
    clusters := s.clusters.map fun k => (k.1, stopQueue mine k.2) }
  let s2 := gone.foldl (fun a x => wakeQueue (cancelUnstarted a x) x) s1
  stopHods s2 mine

end Sys2Proof.Machine
end

