-- ==== Sys2Proof/Machine/Arrive.lean ====
section
/-! DEFINITION. Threads that come and go: spawn (R28 to R30, R371), migration and visits (R34 to R38), retirement
(R31, R331), and what an arriving message does (R118, R204, R209, R384). -/

namespace Sys2Proof.Machine

/-! ## Completing an instruction from an event -/

/-- The instruction that a WAITING slot's thread waits in completes, its slot READY in the next cycle: `f` is its
effect on the thread (R54, R187, R193). -/
def completeSlot (s : State) (c n : Nat) (f : Thread → Thread) : State :=
  let s0 := modSlot s c n (readySlot (wakeCycle s c))
  match threadOf s0 c n with
  | none => s0
  | some t =>
    let x : Ctx := { s := s0, c := c, n := n, sl := slotOf s0 c n, t := t }
    settleBody c n (x.done (f t))

/-- The body of an instruction that an event completes in a WAITING slot. -/
def fromWait (s : State) (c n : Nat) (body : Ctx → Body) : State :=
  let s1 := modSlot s c n (readySlot (wakeCycle s c))
  match threadOf s1 c n with
  | none => s1
  | some t => settleBody c n (body { s := s1, c := c, n := n, sl := slotOf s1 c n, t := t })

/-- A slot made READY so that its instruction issues again. -/
def reissueSlot (s : State) (c n : Nat) : State := modSlot s c n (readySlot (wakeCycle s c))

/-! ## Spawn -/

/-- A format-table entry that R66 accepts. -/
def fmtEntryOk (bs : List Byte) : Bool :=
  let f := fieldAt bs 0 4
  isFormat (bits f 30 26) && isFormat (bits f 25 21) && isFormat (bits f 20 16) && decide (bits f 15 13 ≤ 4) &&
    !f.testBit 31 && bits f 11 0 == 0 && fieldAt bs 4 4 / 128 == 0 && fieldAt bs 8 4 / 128 == 0 &&
    fieldAt bs 12 4 == 0

/-- The user slot bound to a lane (R49). DEDUCED, log 70. -/
def laneSlot (k : Core) (lane : Nat) : Option Nat :=
  let e := mapGet 0#9 k.lanes lane
  if e.getLsbD 8 && isUserSlot (bits e.toNat 7 0) then some (bits e.toNat 7 0) else none

/-- The lowest FREE user slot (R29). -/
def freeUserSlot (k : Core) : Option Nat :=
  ((List.range (Config.slots - Config.firstUser)).map (· + Config.firstUser)).find? fun n =>
    let x := slotIn k n
    x.st = .free && !x.isHeld

/-- The attribute record and format entry under which a packet is spawned on a core, or none when it is rejected
(R28, R49, R66, R371). -/
def spawnTerms (s : State) (c : Nat) (p : Vector Word 8) : Option (Attr × List Byte) :=
  let w := pktWord p 0
  let k := coreOf s c
  let part := partOfCore s c
  if !packetOk p || (ctlDet w && !k.rot) || (k.rot && (laneSlot k (ctlLane w)).isNone) then none
  else match attrOf s c (ctlCcid w) with
    | none => none
    | some a =>
      if !asidWalks s part a.asid || a.fcnt ≤ ctlFmth w then none
      else match transNow s part a.asid false .read (a.ftab + 16 * ctlFmth w) 16 with
        | .error _ => none
        | .ok key =>
          let bs := memBytes s.mem key 16
          if eccBad s.ecc key 16 || !fmtEntryOk bs then none else some (a, bs)

/-- The soft errors that a spawn meets where it reads: the attribute record and the format-table entry of its packet (R345,
R346). -/
def spawnMeets (s : State) (c : Nat) (p : Vector Word 8) : State :=
  let w := pktWord p 0
  let s1 := attrMeets s c (ctlCcid w)
  match attrOf s1 c (ctlCcid w) with
  | none => s1
  | some a =>
    match transNow s1 (partOfCore s1 c) a.asid false .read (a.ftab + 16 * ctlFmth w) 16 with
    | .error _ => s1
    | .ok key => (eccRead s1 c key 16).1

/-- The thread that spawn makes (R29). -/
def spawnThread (s : State) (c : Nat) (p : Packet) (bs : List Byte) : Thread :=
  let w := pktWord p.words 0
  let full (v : Word) : Reg := { val := v, full := true, rsv := false }
  { regs := vec10 fun i =>
      if i = 0 then full p.a0 else if i = 1 then full p.a1
      else if i < 8 then full (BitVec.ofNat 64 (pktWord p.words i)) else full 0#64,
    pw := BitVec.ofNat 32 ((if ctlDet w then 2 ^ 31 else 0) + (if ctlStrict w then 2 ^ 30 else 0) +
      ctlTag w * 2 ^ 24 + 1),
    pc := BitVec.ofNat 48 (pktWord p.words 1), fmt := BitVec.ofNat 32 (fieldAt bs 0 4),
    sca := BitVec.ofNat 32 (fieldAt bs 4 4), scb := BitVec.ofNat 32 (fieldAt bs 8 4), lpc := 0#32, lps := 0#48,
    lpe := 0#48, home := BitVec.ofNat 10 (logicalOfCore s c), prio := BitVec.ofNat 3 (ctlPrio w),
    lane := BitVec.ofNat 8 (ctlLane w), ccid := BitVec.ofNat 16 (ctlCcid w),
    tagFlags := BitVec.ofNat 16 (bits w 63 48), fflags := 0#5, held := none, item := p.credit,
    stage := p.stage, tid := threadName s s.uid }

/-- VALID of a user slot's trap record cleared when a thread is placed there (R330). -/
def clearValid (s : State) (c n : Nat) : State :=
  let k := coreOf s c
  if k.utrec.getLsbD 0 && isUserSlot n then storeBytes (eccPart s c (recKey k c n + 2) 1).1 (recKey k c n + 2) [0#8] else s

/-- A thread placed in a FREE slot with the attributes of R25. -/
def placeThread (s : State) (c n asid : Nat) (t : Thread) (visit : Option (Nat × Nat)) : State :=
  let s1 := clearValid s c n
  setSlot (clearMark s1 (regKey c n 0) 128) c n { emptySlot (slotOf s1 c n) with
    st := .ready, thread := some t, asid := BitVec.ofNat 14 asid, visitFrom := visit, readyAt := s.cycle }

/-- A credit returned to the core whose item a thread or packet was (R44). -/
def returnCredit (s : State) (c : Nat) (item : Option (Nat × Nat)) : State :=
  match item with
  | none => s
  | some (d, k) =>
    if d = s.pkg.dev.toNat then postHere s c 256 k .control .credit
    else (linkSend s (mkMsg s c 256 d k .control false .credit) 0).getD s

/-- The stages of a launch list with one stage changed, appended where it has had no unit yet. -/
def modStage (l : List Stage) (ccid name : Nat) (f : Stage → Stage) : List Stage :=
  let at_ (e : Stage) : Bool := e.ccid == ccid && e.name == name
  if l.any at_ then l.map fun e => if at_ e then f e else e
  else l ++ [f { ccid := ccid, name := name, live := 0, completed := false, err := false }]

/-- The name of the stage of a STAGE packet that a core accepts: the handler PC and the channel that the core has for the
launch, which tells apart two stages with one handler (R43, R44). DEDUCED, log 59. -/
def stageName (s : State) (c : Nat) (p : Vector Word 8) : Option Nat :=
  let w := pktWord p 0
  let ch := (coreOf s c).chan.toNat
  if ctlKind w ≠ 2 then none
  else some (pktWord p 1 +
    (if ch.testBit 63 && bits ch 47 32 == ctlCcid w then 1 + bits ch 57 48 * 64 + bits ch 31 26 else 0) * 2 ^ 64)

/-- Whether a packet of a stage is on its way to the core that will accept it (R43). -/
def stageComes (s : State) (ccid name : Nat) : Bool :=
  s.net.any fun m => match m.body with
    | .packet p => m.ddev == s.pkg.dev.toNat && ctlCcid (pktWord p.words 0) == ccid && stageName s m.dcore p.words == some name
    | _ => false

/-- A unit of a launch that is done: the stage it belongs to, which completes once with its last unit, or the launch's
counter (R31, R43). DEDUCED, log 59. -/
def unitDone (s : State) (part : Option Nat) (ccid : Nat) (stage : Option Nat) (err : Bool) : State :=
  match part, stage with
  | some q, some name =>
    match (partOf s q).stages.find? fun e => e.ccid == ccid && e.name == name with
    | none => counterComplete s part ccid err
    | some e =>
      let last := decide (e.live ≤ 1) && !e.completed && !stageComes s ccid name
      let s1 := modPart s q fun x => { x with stages := modStage x.stages ccid name fun y =>
        { y with live := y.live - 1, completed := y.completed || last, err := y.err || err } }
      if last then counterComplete s1 part ccid (e.err || err) else s1
  | _, _ => counterComplete s part ccid err

/-- A STAGE packet of a launch accepted by a core: one more unit of its stage (R43). -/
def stageAdd (s : State) (part : Option Nat) (ccid : Nat) (stage : Option Nat) : State :=
  match part, stage with
  | some q, some name =>
    modPart s q fun x => { x with stages := modStage x.stages ccid name fun y => { y with live := y.live + 1 } }
  | _, _ => s

/-- The ASID of a launch as the trace gives it: 0 without a valid record (R371, R378). -/
def traceAsid (s : State) (c ccid : Nat) : Nat :=
  match attrOf s c ccid with
  | some a => a.asid
  | none => 0

/-- A packet rejected at spawn: its counter completes with ERR, with a trace record (R28, R378). -/
def rejectPacket (s : State) (c : Nat) (p : Packet) : State :=
  let w := pktWord p.words 0
  let s1 := traceAdd s c 0x02 0 0 (ctlCcid w) (traceAsid s c (ctlCcid w)) (BitVec.ofNat 64 w) (BitVec.ofNat 64 (pktWord p.words 1))
  returnCredit (unitDone s1 (partOfCore s c) (ctlCcid w) p.stage true) c p.credit

/-- A packet of a cancelled launch: discarded, one completion (R41). -/
def discardPacket (s : State) (c : Nat) (p : Packet) : State :=
  returnCredit (unitDone s (partOfCore s c) (ctlCcid (pktWord p.words 0)) p.stage false) c p.credit

/-- Whether a launch is being cancelled or has been (R41). -/
def launchCancelled (s : State) (part : Option Nat) (ccid : Nat) : Bool :=
  let w := counterRead s part ccid
  decide (cntLevel w ≠ 0) && (cntState w == cntCancelling || cntState w == cntCancelled)

/-- A packet spawned into a slot (R29): the check of its first address is that of a transfer (R126). -/
def spawnInto (s : State) (c n : Nat) (p : Packet) (a : Attr) (bs : List Byte) : State :=
  let t := spawnThread s c p bs
  let s1 := placeThread { s with uid := s.uid + 1 } c n a.asid t none
  let s2 := traceAdd s1 c 0x01 n 0 t.ccid.toNat a.asid (BitVec.ofNat 64 (pktWord p.words 0)) (BitVec.setWidth 64 t.pc)
  match checkTarget s2 c n t.pc t.pc.toNat with
  | .ok _ => s2
  | .error r => takeTrap s2 c n r none

/-- Whether a core takes a packet now under its mode: a PREEMPTED core takes those of the pre-empting ASID (R384). -/
def takesPacket (s : State) (c : Nat) (p : Vector Word 8) : Bool :=
  let k := coreOf s c
  match k.mode with
  | .running => true
  | .preempted => match attrOf s c (ctlCcid (pktWord p 0)), k.guestAsid with
    | some a, some g => a.asid == g
    | _, _ => false
  | _ => false

/-- What becomes of a waiting packet now: spawned, rejected, discarded, or still waiting (R28, R30, R41, R49). -/
def trySpawn (s : State) (c : Nat) (p : Packet) : Option State :=
  let w := pktWord p.words 0
  let k := coreOf s c
  if !takesPacket s c p.words then none
  else if launchCancelled s (partOfCore s c) (ctlCcid w) then some (discardPacket s c p)
  else match spawnTerms s c p.words with
    | none => some (rejectPacket (spawnMeets s c p.words) c p)
    | some (a, bs) =>
      if k.rot then
        match laneSlot k (ctlLane w) with
        | none => some (rejectPacket s c p)
        | some n =>
          if (slotIn k n).st = .free && !(slotIn k n).isHeld then some (spawnInto (spawnMeets s c p.words) c n p a bs)
          else none
      else (freeUserSlot k).map fun n => spawnInto (spawnMeets s c p.words) c n p a bs

/-! ## Migration and visits -/

/-- The ASID of a thread's launch on a core (R25). -/
def launchAsid (s : State) (c ccid : Nat) : Nat :=
  match attrOf s c ccid with
  | some a => a.asid
  | none => 0

/-- A travelling thread placed in the lowest FREE user slot (R34, R35, R37): none while there is none. A thread
whose launch was cancelled while it travelled stops here (R41). -/
def tryPlace (s : State) (c : Nat) (t : Thread) (visit : Option (Nat × Nat)) : Option State :=
  (freeUserSlot (coreOf s c)).map fun n =>
    let t1 := if visit.isSome then t else { t with home := BitVec.ofNat 10 (logicalOfCore s c) }
    let s1 := placeThread s c n (launchAsid s c t.ccid.toNat) t1 visit
    if launchCancelled s (partOfCore s c) t.ccid.toNat then modSlot s1 c n fun x => { x with cancelled := true } else s1

/-- What becomes of an entry of the inbox now (R30, R34). -/
def tryInbox (s : State) (c : Nat) (m : Msg) : Option State :=
  match m.body with
  | .packet p => trySpawn s c p
  | .migrate t => if slotRuns (coreOf s c) Config.firstUser then tryPlace s c t none else none
  | .visit t hc hs _ => if slotRuns (coreOf s c) Config.firstUser then tryPlace s c t (some (hc, hs)) else none
  | _ => none

/-- The lane of an inbox entry (R49). -/
def msgLane (m : Msg) : Option Nat :=
  match m.body with
  | .packet p => some (ctlLane (pktWord p.words 0))
  | _ => none

/-- The ASID that an arrival carries (R384): for a work packet that of its launch. -/
def arrivalAsid (s : State) (m : Msg) : Nat :=
  match m.body with
  | .packet p => launchAsid s m.dcore (ctlCcid (pktWord p.words 0))
  | .migrate t => launchAsid s m.dcore t.ccid.toNat
  | .visit t _ _ _ => launchAsid s m.dcore t.ccid.toNat
  | _ => m.asid

/-- The slot that a message is addressed to, if to one. -/
def bodySlot : MsgBody → Option Nat
  | .send n _ _ _ | .reply n _ _ _ | .enqReply n _ _ | .ldData n _ _ _ _ | .stnAck n | .farFault n _ _ _ _
  | .seedReply n _ _ | .visitReturn _ n _ _ => some n
  | _ => none

/-- Whether a message is addressed to one of slots 0 to 3, which a held core takes as it comes (R384). -/
def forLowSlot (m : Msg) : Bool :=
  match bodySlot m.body with
  | some n => decide (n < Config.firstUser)
  | none => false

/-- Whether the core's mode lets an inbox entry be taken: a PREEMPTED core takes those of the pre-empting ASID, and the
others stay with the held context (R384). -/
def entryOpen (s : State) (c : Nat) (m : Msg) : Bool :=
  match (coreOf s c).mode with
  | .preempted => forLowSlot m || some (arrivalAsid s m) == (coreOf s c).guestAsid
  | _ => true

/-- The first inbox entry that can be taken: in ready mode the oldest alone, in rotation mode the oldest of a lane
(R30). -/
def firstTaken (s : State) (c : Nat) : List Msg → List Msg → Option (Msg × State)
  | _, [] => none
  | seen, m :: ms =>
    if seen.any (fun e => msgLane e == msgLane m) then firstTaken s c (seen ++ [m]) ms
    else match tryInbox s c m with
      | some t => some (m, t)
      | none => if (coreOf s c).rot then firstTaken s c (seen ++ [m]) ms else none

/-- An inbox without an entry. -/
def dropInbox (s : State) (c uid : Nat) : State :=
  modCore s c fun k => { k with inbox := k.inbox.filter fun m => m.uid != uid }

/-- Whether some inbox entry can be taken now. -/
def inboxTakes (s : State) (c : Nat) : Option (Msg × State) := 
  firstTaken s c [] ((coreOf s c).inbox.filter (entryOpen s c))

/-- PACKET_SPAWN (R29, R30): the first waiting entry that may be taken is spawned, placed, rejected or discarded. -/
def execPacketSpawn (core : Nat) (s : State) : Host.Outcome State Fault Refusal :=
  event s <| (inboxTakes s core).map fun r => dropInbox r.2 core r.1.uid

/-! ## Retirement -/

/-- Commands of a core's engines that have not completed. -/
def coreCmds (k : Core) : List Cmd := k.mxeq ++ k.vxeq ++ k.hodq ++ k.mniq ++ k.active ++ k.savedCmds

/-- Whether a command of a thread has not completed: engines, GCEs, hods, signals on their way (R31). -/
def hasCmds (s : State) (tid : Nat) : Bool :=
  let mine (x : Cmd) : Bool := x.thread == tid
  s.cores.any (fun k => (coreCmds k.2).any mine) ||
    s.clusters.any (fun k => (k.2.gceq ++ k.2.active).any mine) ||
    s.hods.any (fun h => h.2.queue.any (fun q => mine q.cmd) || h.2.progs.any fun p => mine p.2.cmd)

/-- Whether a slot's thread meets the conditions of R31. -/
def mayRetire (s : State) (c n : Nat) : Bool :=
  !pending s c n && (match threadOf s c n with
    | some t => !hasCmds s t.tid && !anyReserved t
    | none => false)

/-- The record of a held error that a retiring thread leaves (R31). -/
def heldRec (t : Thread) (e : HeldErr) : TrapRec := trapRec (heldTrap e) none false t.pc.toNat

/-- A thread retired: slot FREE, counter decremented, errors recorded, the credit of its item returned (R31, R44,
R331). -/
def retireThread (s : State) (c n : Nat) : State :=
  let x := slotOf s c n
  match x.thread with
  | none => s
  | some t =>
    let part := partOfCore s c
    let ccid := t.ccid.toNat
    let s1 := match x.wait with
      | .abort r => errRecord s part ccid r
      | _ => s
    let s2 := match t.held with
      | some e => errRecord s1 part ccid (heldRec t e)
      | none => s1
    let aborted := match x.wait with
      | .abort _ => true
      | _ => false
    let s3 := setSlot s2 c n (emptySlot x)
    returnCredit (unitDone s3 part ccid t.stage (aborted || t.held.isSome)) c t.item

/-- EXIT_RETIRE (R31, R331): EXIT, an abort or a cancel retires once the conditions hold. -/
def execExitRetire (core slot : Nat) (s : State) : Host.Outcome State Fault Refusal :=
  let x := slotOf s core slot
  let leaving := match x.wait with
    | .exit => true
    | .abort _ => true
    | .cancel => true
    | _ => false
  event s <| if x.st = .waiting && leaving && !x.isHeld && mayRetire s core slot then some (retireThread s core slot)
    else none

/-- THREAD_CANCEL_STOP (R41): a cancelled unit leaves the ready set for retirement; one on a visit returns home first; its
commands that have not started are discarded (R247, R270, R283). -/
def execThreadCancelStop (core slot : Nat) (s : State) : Host.Outcome State Fault Refusal :=
  let x := slotOf s core slot
  event s <| match x.thread with
    | none => none
    | some t =>
      if !x.cancelled || x.isHeld || !slotRuns (coreOf s core) slot then none
      else if x.st ≠ .ready && x.st ≠ .waiting then none
      else match x.visitFrom with
        | some h => some (departHome (cancelCmds s t.tid) core slot h t none true)
        | none =>
          some (modSlot (cancelCmds s t.tid) core slot fun y =>
            { y with st := .waiting, cancelled := false, age := 0,
                     wait := match y.wait with
                       | .exit => .exit
                       | .abort r => .abort r
                       | _ => .cancel })

/-! ## What an arriving message does -/

/-- The core that a message comes from as the trace names it, 0 for another device (R378). -/
def tracePeer (s : State) (m : Msg) : Nat := if m.sdev = s.pkg.dev.toNat then logicalOfCore s m.score else 0

/-- A message for a FREE slot (R35). -/
def misdeliver (s : State) (c n : Nat) (m : Msg) : State :=
  traceAdd (modCore s c fun k => { k with misdelivered := k.misdelivered + 1 }) c 0x05 n (tracePeer s m) 0 m.asid 0#64 0#64

/-- A register filled by an answer; register 16 is none (R190, R192). -/
def fillAnswer (s : State) (c n r : Nat) (v : Word) : State := if r < 10 then fillReg s c n r v else s

/-- The reply of an ENQ: pd with taint; a thread that was parted from its ENQ goes on (R201, R219). -/
def enqReturn (s : State) (c n pd : Nat) (v : Bool) : State :=
  wakeSlots (modThread s c n fun t => putPred t pd v true) c fun m x => m == n && x.wait == .enqAway

/-- The body of a message with a change made to the thread that it carries (R34, R37). -/
def onCarried (f : Thread → Thread) : MsgBody → MsgBody
  | .migrate t => .migrate (f t)
  | .visit t c n a => .visit (f t) c n a
  | .visitReturn t n tr x => .visitReturn (f t) n tr x
  | b => b

/-- The thread that a message carries (R34, R37). -/
def carriedThread : MsgBody → Option Thread
  | .migrate t | .visit t _ _ _ | .visitReturn t _ _ _ => some t
  | _ => none

/-- Whether a thread of a name is on this device: in a slot, in a saved context or on its way. -/
def threadHere (s : State) (tid : Nat) : Bool :=
  let named (t : Option Thread) : Bool := t.any fun u => u.tid == tid
  s.cores.any (fun k => (k.2.slots ++ k.2.savedSlots).any (fun p => named p.2.thread) ||
    (k.2.inbox ++ k.2.spill).any fun m => named (carriedThread m.body)) ||
    s.net.any fun m => named (carriedThread m.body)

/-- A thread changed by its name, wherever it is. -/
def modNamed (s : State) (tid : Nat) (f : Thread → Thread) : State :=
  let g (t : Thread) : Thread := if t.tid = tid then f t else t
  let slots (l : SMap Slot) : SMap Slot := l.map fun p => (p.1, { p.2 with thread := p.2.thread.map g })
  let msgs (l : List Msg) : List Msg := l.map fun m => { m with body := onCarried g m.body }
  { s with net := msgs s.net,
           cores := s.cores.map fun k =>
             (k.1, { k.2 with slots := slots k.2.slots, savedSlots := slots k.2.savedSlots, inbox := msgs k.2.inbox,
                              spill := msgs k.2.spill }) }

/-- A message whose slot does not hold the thread that it is for: the far-end fault of a thread that has moved on is held by
it all the same (R184), anything else is misdelivered (R35). -/
def toMoved (s : State) (c n : Nat) (m : Msg) : State :=
  match m.body with
  | .farFault _ _ _ cause addr =>
    if m.towards ≠ 0 && threadHere s m.towards then modNamed s m.towards fun t => holdError t cause addr
    else misdeliver s c n m
  | _ => misdeliver s c n m

/-- What a message for a thread writes at its slot (R184, R190, R201, R209). -/
def bodyWrite (s : State) (c : Nat) : MsgBody → State
  | .send n r v tag => fillTagged s c n r v tag
  | .reply n r v _ => fillAnswer s c n r v
  | .enqReply n pd v => enqReturn s c n pd v
  | .seedReply n r v => fillReg s c n r v
  | .farFault n r _ cause addr =>
    let s1 := modThread s c n fun t => holdError t cause addr
    match r with
    | some (i, v) => fillAnswer s1 c n i v
    | none => s1
  | _ => s

/-- A request for a slot, or an answer for the thread in it. -/
def forSlot (s : State) (c n : Nat) (m : Msg) : Bool := m.towards == 0 || m.towards == tidOf s c n

/-- A request or an answer for a thread: written, kept for a visiting thread, or counted as misdelivered (R35, R38,
R209). -/
def toSlot (s : State) (c n : Nat) (m : Msg) : State :=
  match (slotOf s c n).st with
  | .free => toMoved s c n m
  | .visiting => modCore s c fun k => { k with visitBox := k.visitBox ++ [m] }
  | _ => if forSlot s c n m then bodyWrite s c m.body else toMoved s c n m

/-- The outstanding count lowered by an answer, with the waiters for it (R185). -/
def lowerOutstanding (s : State) (c : Nat) (dec : Bool) : State :=
  if dec then wakeRes (modCore s c fun k => { k with outstanding := k.outstanding - 1 }) c .outstanding else s

/-- An answer of another device noted at the core that asked. -/
def noteAnswer (s : State) (c : Nat) (m : Msg) : State := if m.sdev = s.pkg.dev.toNat then s else settleAsk s c m.ask

/-- Data of a load: rd written and the slot READY, or the precise fault (R187); data that the slot does not wait for is
discarded. A SPAWN reissues with the packet it has read (R196). -/
def loadData (s : State) (c n r tag v : Nat) (f : Option TrapInfo) : State :=
  let w := (slotOf s c n).wait
  if w ≠ .load tag && w ≠ .loadOwn tag && w ≠ .fetch tag then s
  else match f with
    | some e => takeTrap (modSlot s c n (readySlot (wakeCycle s c))) c n e none
    | none =>
      if w ≠ .fetch tag then completeSlot s c n fun t => writeReg t r (BitVec.ofNat 64 v)
      else modSlot s c n fun x => { readySlot (wakeCycle s c) x with fetched := some v }

/-- A thread that returns to its VISITING home slot, with the messages kept for it written in their order and the trap it
took (R37, R38, R41, R330); a trap that waited there for slot 0 follows (R333). -/
def homeAgain (s : State) (c n : Nat) (t : Thread) (tr : Option TrapInfo) (cancelled : Bool) : State :=
  let mine (m : Msg) : Bool := bodySlot m.body == some n
  let box := (coreOf s c).visitBox.filter mine
  let s1 := modCore s c fun k => { k with visitBox := k.visitBox.filter fun m => !mine m }
  let s2 := modSlot s1 c n fun x =>
    { readySlot s.cycle x with thread := some t, cancelled := x.cancelled || cancelled }
  let s3 := box.foldl (fun u m => if forSlot u c n m then bodyWrite u c m.body else toMoved u c n m) s2
  match tr, (slotOf s c n).wait with
  | none, .abort r => platformTrap s3 c { r with epc := t.pc.toNat }
  | none, _ => s3
  | some r, .abort r0 => platformTrap (ownTrap s3 c n (trapRec r none true t.pc.toNat)) c { r0 with epc := t.pc.toNat }
  | some r, _ =>
    if isUserSlot n then userTrap s3 c n (trapRec r none true t.pc.toNat)
    else ownTrap s3 c n (trapRec r none true t.pc.toNat)

/-- A credit of the core's PIPE channel returned (R44, R374). -/
def addCredit (s : State) (c : Nat) : State :=
  wakeIdle (wakeRes (modCore s c fun k =>
    { k with chan := if bits k.chan.toNat 17 9 < bits k.chan.toNat 8 0 then k.chan + 0x200#64 else k.chan }) c .credit) c

/-- A command of a core's engines that ends as its signal applies; the MNI may start its next command in the next cycle
(R287). -/
def endNamed (s : State) (c uid : Nat) : State :=
  match activeCmd s c uid with
  | none => s
  | some x => modCore (dropActive s c uid) c fun k =>
      { k with mniFree := if (cmdCode x.op).1 = 4 then s.cycle + 1 else k.mniFree }

/-- An arrival for a user slot resets the quiescence count (R388). -/
def noteUser (s : State) (m : Msg) : State :=
  match bodySlot m.body with
  | some n => if isUserSlot n then modCore s m.dcore fun k => { k with wdHit := true } else s
  | none => s

/-- What a message does at its core when it is delivered (R120 phase 1). -/
def applyBody (s0 : State) (m : Msg) : State :=
  let s := noteUser s0 m
  let c := m.dcore
  match m.body with
  | .send n _ _ _ => toSlot s c n m
  | .sigr k inc => semAdd s c k inc
  | .signal k inc err cmd =>
    signalSem (endNamed s c cmd) c k inc (err.map fun e => { cause := e.cause, tval := e.tval, detail := e.detail })
  | .reply n _ _ dec => settle (toSlot (noteAnswer (lowerOutstanding s c dec) c m) c n m) c
  | .enqReply n _ _ => toSlot s c n m
  | .ldData n r tag v f => settle (loadData (noteAnswer s c m) c n r tag v f) c
  | .stnAck _ => settle (noteAnswer (lowerOutstanding s c true) c m) c
  | .farFault n _ dec _ _ => settle (toSlot (noteAnswer (lowerOutstanding s c dec) c m) c n m) c
  | .seedReply n _ _ => settle (toSlot s c n m) c
  | .visitReturn t n tr cancelled => homeAgain s c n t tr cancelled
  | .credit => addCredit s c
  | .packet _ => modCore s c fun k => { k with inbox := k.inbox ++ [m] }
  | .migrate _ => modCore s c fun k => { k with inbox := k.inbox ++ [m] }
  | .visit _ _ _ _ => modCore s c fun k => { k with inbox := k.inbox ++ [m] }
  | _ => s

/-- Whether a message waits its turn in the inbox (R30). -/
def bodyQueues : MsgBody → Bool
  | .packet _ | .migrate _ | .visit _ _ _ _ => true
  | _ => false

/-- How a core takes an arrival: at once, into the spill queue, or not yet (R30, R38, R384, R385, R386). -/
inductive Taking where
  | apply | spill | later
  deriving DecidableEq, Repr

/-- Room in the spill queue; the last 4,096 entries are for replies (R385). -/
def spillRoom (k : Core) (net : Net) : Bool :=
  let n := bits k.spq.toNat 4 0
  n != 0 && decide (k.spill.length < 2 ^ n - (if net = .reply then 0 else 4096))

/-- Whether a resumed core still has diversions to deliver, which new arrivals join (R386). -/
def stillSpilled (k : Core) : Bool := k.draining && !k.spill.isEmpty

/-- Whether an arrival is the signal of a command that its core's own engines have started, which completes before a
save (R246, R302). -/
def ownSignal (k : Core) (m : Msg) : Bool :=
  match m.body with
  | .signal _ _ _ cmd => k.active.any fun x => x.uid == cmd
  | _ => false

/-- How an arrival is taken (R384). One for slots 0 to 3 does not pass earlier ones of its flow (R118), and joins the queue of a
resumed core as every other (R386). -/
def taking (s : State) (m : Msg) : Taking :=
  let k := coreOf s m.dcore
  let low := forLowSlot m && !k.spill.any (sameFlow m)
  let divert : Taking := if spillRoom k m.net then .spill else .later
  let queue : Taking := if !bodyQueues m.body then .apply
    else if !(k.spill.any fun e => bodyQueues e.body && entryOpen s m.dcore e) && decide (k.inbox.length < Config.inboxSize) then .apply else divert
  match k.mode with
  | .running => if stillSpilled k then divert else queue
  | .preempted =>
    if low then .apply
    else if some (arrivalAsid s m) != k.guestAsid || k.spill.any (fun e => !bodyQueues e.body && entryOpen s m.dcore e) then divert
    else queue
  | .stopping | .saving =>
    if low || ownSignal k m then .apply
    else if (k.op.map (·.launchAsid)) == some (arrivalAsid s m) then .later else divert
  | .restoring => if low then .apply else if some (arrivalAsid s m) == k.guestAsid then queue else divert
  | .debugHalt | .partHalt => if ownSignal k m then .apply else divert
  | .resetHeld => .later

/-- Counter id and PC of what a message brings, as the trace names them: those of a packet or a thread (R378). -/
def traceUnit : MsgBody → Nat × Word
  | .packet p => (ctlCcid (pktWord p.words 0), BitVec.ofNat 64 (pktWord p.words 1))
  | .migrate t | .visit t _ _ _ | .visitReturn t _ _ _ => (t.ccid.toNat, BitVec.setWidth 64 t.pc)
  | _ => (0, 0#64)

/-- An entry written to the spill queue, with its trace record (R378, R385). -/
def toSpill (s : State) (m : Msg) : State :=
  let k := coreOf s m.dcore
  let u := traceUnit m.body
  traceAdd (modCore s m.dcore fun k => { k with spill := k.spill ++ [m], spillCount := k.spillCount + 1 }) m.dcore 0x03
    ((bodySlot m.body).getD 0) (tracePeer s m) u.1 (arrivalAsid s m) (BitVec.ofNat 64 k.spillCount) u.2

/-- An arriving message delivered, diverted, or left in flight; what it does is `f` (R118, R384). -/
def deliverBy (s : State) (m : Msg) (f : State → Msg → State) : Option State :=
  match taking s m with
  | .apply => some (f (dropMsg s m.uid) m)
  | .spill => some (toSpill (dropMsg s m.uid) m)
  | .later => none

/-- The arrival of a message of the kind that a step is for. -/
def arrive (s : State) (uid : Nat) (kind : MsgBody → Bool) (f : State → Msg → State) : Option State :=
  (arrived s uid).bind fun m => if kind m.body then deliverBy s m f else none

/-- The status of a SPAWN sent back when its packet is accepted (R196). -/
def acceptStatus (s : State) (m : Msg) (p : Packet) : State :=
  match p.status with
  | some r => answer s m (.reply m.sslot r 0#64 false)
  | none => s

/-- FCNT of a packet's launch as the issuing core reads it, the largest value where it has no valid record or the packet
goes to another device (R28, R371). -/
def spawnFcnt (s : State) (c : Nat) (own : Bool) (ccid : Nat) : Nat :=
  if own then match attrOf s c ccid with
    | some a => a.fcnt
    | none => 4096
  else 4096

/-- The fields of a SPAWN's packet that its status 2 tests (R28, R196): KIND TASK, FMTH below FCNT, the handler PC. -/
def spawnFieldsOk (fcnt : Nat) (ws : Vector Word 8) : Bool :=
  ctlKind (pktWord ws 0) == 3 && decide (ctlFmth (pktWord ws 0) < fcnt) && bits (pktWord ws 1) 63 48 == 0 &&
    pktWord ws 1 % 4 == 0

/-- The increment of an uncounted packet at its target, or the status of a SPAWN from another device (R196, R212). The
counter of a SPAWN's packet is one of the target's partition, so it is raised there. DESIGN CHOICE, log 79. -/
def targetIncr (s : State) (c : Nat) (p : Packet) : Except Nat State :=
  let ccid := ctlCcid (pktWord p.words 0)
  let fields := p.status.isNone || spawnFieldsOk (spawnFcnt s c true ccid) p.words
  match counterIncr s (partOfCore s c) ccid with
  | .notOpen => .error 1
  | .limit => .error (if fields then 3 else 2)
  | .done s1 => if fields then .ok s1 else .error 2

/-- A work packet that reaches its core: a SENDM packet raises its counter there (R212); a status goes back (R196);
then the packet waits in the inbox or the spill queue (R30). -/
def acceptPacket (s : State) (m : Msg) (p : Packet) : Option State :=
  let c := m.dcore
  let w := pktWord p.words 0
  match taking s m with
  | .later => none
  | way =>
    let read (u : State) : State :=
      counterMeets (if p.status.isSome then attrMeets u c (ctlCcid w) else u) (partOfCore s c) (ctlCcid w)
    let s0 := if p.counted then dropMsg s m.uid else read (dropMsg s m.uid)
    let stage := stageName s c p.words
    let place (u : State) : State :=
      let m1 := { m with body := .packet { p with counted := true, status := none, stage := stage } }
      let u1 := stageAdd (acceptStatus u m p) (partOfCore u c) (ctlCcid w) stage
      if way = .apply then applyBody u1 m1 else toSpill u1 m1
    if p.counted then some (place s0)
    else match targetIncr s0 c p with
      | .ok s1 => some (place s1)
      | .error st =>
        match p.status with
        | some d => some (answer s0 m (.reply m.sslot d (BitVec.ofNat 64 st) false))
        | none =>
        some (returnCredit (traceAdd s0 c 0x04 0 (tracePeer s m) (ctlCcid w) (traceAsid s c (ctlCcid w)) (BitVec.ofNat 64 w)
          (BitVec.ofNat 64 (pktWord p.words 1))) c p.credit)

/-- WORK_PACKET_ARRIVAL (R30, R212). -/
def execWorkPacketArrival (msg : Nat) (s : State) : Host.Outcome State Fault Refusal :=
  event s <| (arrived s msg).bind fun m => match m.body with
    | .packet p => acceptPacket s m p
    | _ => none

/-- SEND_ARRIVAL (R209). -/
def execSendArrival (msg : Nat) (s : State) : Host.Outcome State Fault Refusal :=
  event s <| arrive s msg (fun b => match b with
    | .send _ _ _ _ => true
    | _ => false) applyBody

/-- REPLY_ARRIVAL (R190, R192, R196). -/
def execReplyArrival (msg : Nat) (s : State) : Host.Outcome State Fault Refusal :=
  event s <| arrive s msg (fun b => match b with
    | .reply _ _ _ _ => true
    | .enqReply _ _ _ => true
    | _ => false) applyBody

/-- STN_ACKNOWLEDGEMENT (R190). -/
def execStnAcknowledgement (msg : Nat) (s : State) : Host.Outcome State Fault Refusal :=
  event s <| arrive s msg (fun b => match b with
    | .stnAck _ => true
    | _ => false) applyBody

/-- FAR_END_FAULT (R184). -/
def execFarEndFault (msg : Nat) (s : State) : Host.Outcome State Fault Refusal :=
  event s <| arrive s msg (fun b => match b with
    | .farFault _ _ _ _ _ => true
    | _ => false) applyBody

/-- LD_DATA_ARRIVAL (R187). -/
def execLdDataArrival (msg : Nat) (s : State) : Host.Outcome State Fault Refusal :=
  event s <| arrive s msg (fun b => match b with
    | .ldData _ _ _ _ _ => true
    | _ => false) applyBody

/-- Whether a message is the signal of a command that has writes to other packages not acknowledged (R115, R299). -/
def signalWaits (s : State) (m : Msg) : Bool :=
  match m.body with
  | .signal _ _ _ cmd => (activeCmd s m.dcore cmd).any fun x => writesOut s (cmdTid s x)
  | _ => false

/-- SIGR_ARRIVAL (R204); the signal of a command waits for the command's writes (R115). -/
def execSigrArrival (msg : Nat) (s : State) : Host.Outcome State Fault Refusal :=
  event s <| if (findMsg s msg).any (signalWaits s) then none else arrive s msg (fun b => match b with
    | .sigr _ _ => true
    | .signal _ _ _ _ => true
    | _ => false) applyBody

/-- SEED_REPLY (R181). -/
def execSeedReply (msg : Nat) (s : State) : Host.Outcome State Fault Refusal :=
  event s <| arrive s msg (fun b => match b with
    | .seedReply _ _ _ => true
    | _ => false) applyBody

/-- MIGRATION_ARRIVAL (R34, R35, R37): the thread is placed, or queued as a packet is (R30). DEDUCED, log 34. -/
def execMigrationArrival (msg : Nat) (s : State) : Host.Outcome State Fault Refusal :=
  event s <| arrive s msg (fun b => match b with
    | .migrate _ => true
    | .visit _ _ _ _ => true
    | _ => false) fun u m => if (coreOf u m.dcore).inbox.isEmpty then (tryInbox u m.dcore m).getD (applyBody u m)
      else applyBody u m

/-- VISIT_RETURN (R37). -/
def execVisitReturn (msg : Nat) (s : State) : Host.Outcome State Fault Refusal :=
  event s <| arrive s msg (fun b => match b with
    | .visitReturn _ _ _ _ => true
    | _ => false) applyBody

/-- CHANNEL_CREDIT_RETURN (R44): applied whether or not the core is held. -/
def execChannelCreditReturn (msg : Nat) (s : State) : Host.Outcome State Fault Refusal :=
  event s <| (arrived s msg).bind fun m => match m.body with
    | .credit => some (addCredit (dropMsg s m.uid) m.dcore)
    | _ => none

/-- A PUT performed at its target: every word is written, then the semaphore is raised; a fault writes and raises nothing
(R213). -/
def putNow (s : State) (m : Msg) (a : Access) (k c : Nat) : State :=
  let fault := (farGuard s k a.size a.addr).isSome || (eccPart s c k a.size).2 ||
    (m.sdev ≠ s.pkg.dev.toNat && inAsidTable s k a.size)
  let s1 := performAt s m a k
  settle (if fault || a.inc = 0 then s1 else semAdd s1 c a.sem a.inc) m.score

/-- An access that finds no store at its target package (R392). -/
def refusedAccess (s : State) (m : Msg) (a : Access) : State :=
  settle (failAccess s m a { cause := 0x06, addr := a.addr, detail := 2#64 }) m.score

/-- An access delivered from a spill queue (R213, R364). -/
def spilledAccess (s : State) (m : Msg) (a : Access) : State :=
  match targetKey s m a with
  | none => refusedAccess s m a
  | some k => if a.kind == .put then putNow s m a k m.dcore else settle (performAt s m a k) m.score

/-- An entry of a spill queue delivered. -/
def deliverSpilled (s : State) (m : Msg) : State :=
  match m.body with
  | .access a => spilledAccess s m a
  | _ => applyBody s m

/-- A core whose spill queue has given an entry: at most one leaves in a cycle, and once it is empty arrivals are taken
directly again (R386). -/
def spillLeft (cycle : Nat) (rest : List Msg) (k : Core) : Core :=
  { k with spill := rest, draining := k.draining && !rest.isEmpty, spillNext := cycle + 1 }

/-- In rotation mode, a packet behind a full inbox whose lane has nothing before it and whose slot is FREE, spawned (R30). -/
def spilledSpawn (s : State) (c : Nat) : Option (Msg × State) :=
  let k := coreOf s c
  if k.rot then firstTaken s c k.inbox (k.spill.filter fun m => bodyQueues m.body) else none

/-- SPILL_QUEUE_DELIVERY (R30, R386): one entry a cycle in arrival order, once the core runs again; a PREEMPTED core takes
the entries of the pre-empting ASID, packets once its inbox has room. -/
def execSpillQueueDelivery (core : Nat) (s : State) : Host.Outcome State Fault Refusal :=
  let k := coreOf s core
  event s <| if s.cycle < k.spillNext then none else match k.mode, k.spill with
    | .running, m :: rest =>
      if bodyQueues m.body && decide (Config.inboxSize ≤ k.inbox.length) then
        (spilledSpawn s core).map fun r =>
          modCore r.2 core (spillLeft s.cycle (k.spill.filter fun e => e.uid != r.1.uid || e.sdev != r.1.sdev))
      else some (deliverSpilled (modCore s core (spillLeft s.cycle rest)) m)
    | .preempted, l =>
      let full := decide (Config.inboxSize ≤ k.inbox.length)
      (l.find? fun m => entryOpen s core m && !(bodyQueues m.body && full)).map fun m =>
        deliverSpilled (modCore s core (spillLeft s.cycle (k.spill.filter fun e => e.uid != m.uid || e.sdev != m.sdev))) m
    | _, _ => none

/-- Adds an unplaced message of the package itself to its own core. -/
def selfMsg (s : State) (c n : Nat) (net : Net) (body : MsgBody) : State := postHere s c n c net body

/-- How an access is taken where its bytes lie: one that comes to a core's TCM from elsewhere, or from a thread whose context is
saved, is an arrival at that core (R210, R384, R387); every other is performed. DEDUCED, log 112. -/
def accessTaking (s : State) (m : Msg) (k : Nat) : Taking :=
  match tcmCore k with
  | none => .apply
  | some t =>
    let saved := match (coreOf s t).mode with
      | .preempted | .restoring => true
      | _ => false
    if m.sdev = s.pkg.dev.toNat && m.score = t && (m.sslot < Config.firstUser || !saved) then .apply
    else taking s { m with dcore := t }

/-- FAR_END_ACCESS (R184, R384): a load, store or atomic reaches its store. -/
def execFarEndAccess (msg : Nat) (s : State) : Host.Outcome State Fault Refusal :=
  event s <| (arrived s msg).bind fun m => match m.body with
    | .access a =>
      if a.kind == .put || a.kind == .join then none
      else match targetKey s m a with
        | none => some (refusedAccess s m a)
        | some k => match accessTaking s m k with
          | .later => none
          | .spill => some (settle (toSpill (dropMsg s m.uid) { m with dcore := (tcmCore k).getD m.dcore }) m.score)
          | .apply => some (settle (performAt s m a k) m.score)
    | _ => none

/-- A PUT at its target core: performed, diverted or not taken yet (R213, R384). -/
def putArrives (s : State) (m : Msg) (a : Access) : Option State :=
  match targetKey s m a with
  | none => some (refusedAccess s m a)
  | some k =>
    let c := match a.tgt with
      | .fabric l _ _ => (coreOfLogical s (some m.part) l).getD m.dcore
      | .key _ => m.dcore
    match taking s { m with dcore := c } with
    | .later => none
    | .spill => some (settle (toSpill (dropMsg s m.uid) { m with dcore := c }) m.score)
    | .apply => some (putNow s m a k c)

/-- PUT_ARRIVAL (R213): every word is written, then the semaphore is raised; a fault writes and raises nothing. -/
def execPutArrival (msg : Nat) (s : State) : Host.Outcome State Fault Refusal :=
  event s <| (arrived s msg).bind fun m => match m.body with
    | .access a => if a.kind != .put then none else putArrives s m a
    | _ => none

end Sys2Proof.Machine
end

