-- ==== Sys2Proof/Machine/Message.lean ====
section
/-! DEFINITION. Messages between threads (R207 to R214), device time and wait limits (R215 to R217). -/

namespace Sys2Proof.Machine

/-! ## The time-division windows (R401, R402) -/

/-- Whether a lane of a partition owns a window (R401). -/
def ownsWindow (first count lane w : Nat) : Bool :=
  decide (first ≤ w) && decide (w < first + count) && (w - first) % 256 == lane

/-- The start of the first of at most `fuel` windows from the `k`-th on that a lane owns; a window is 16 device cycles,
and its number is `k` modulo 4,096 (R401). -/
def ownedFrom (first count lane : Nat) : Nat → Nat → Option Nat
  | 0, _ => none
  | fuel + 1, k => if ownsWindow first count lane (k % 4096) then some (16 * k) else ownedFrom first count lane fuel (k + 1)

/-- The first window start after a device cycle that a lane owns (R402). -/
def nextWindow (first count lane c : Nat) : Option Nat := ownedFrom first count lane 4097 (c / 16 + 1)

/-- The window start of a send of a thread of a core, none where its partition has no time-division slots (R402). -/
def sendWindow (s : State) (c : Nat) (t : Thread) : Option Nat :=
  match partOfCore s c with
  | none => none
  | some q =>
    let p := partOf s q
    if p.tdCount = 0 then none else nextWindow p.tdFirst p.tdCount t.lane.toNat (deviceCycle s)

/-! ## Sending -/

/-- A message of the thread handed to its network, and the thread after the instruction (R209 to R211): on the
time-division network for a deterministic thread, through the request egress queue where the network and the target ask
for it, else at once. What leaves the package at issue or in a window follows the thread's earlier accesses (R112). -/
def Ctx.launch (x : Ctx) (v : Word) (reg : Nat) (d : Dest) (net : Net) (queued : Bool) (body : MsgBody) (t : Thread)
    (f : State → State) : Body :=
  if detOf x.t then
    match sendWindow x.s x.c x.t with
    | none => x.illegalOperand v reg
    | some c0 => x.releasedIf true <|
      let m := { mkMsg x.s x.c x.n d.dev d.core .timediv true body with due := c0 }
      match x.finish (f (putMsg x.s m)) t 4 with
      | .ok s1 => .error (.gone (waitSlot s1 x.c x.n (.window m.uid)))
      | .error e => .error e
  else if queued then x.egress v (x.finish (f (post x.s x.c x.n d.dev d.core net true body)) t 4)
  else x.releasedIf (!d.own) <|
    let m := mkMsg x.s x.c x.n d.dev d.core net false body
    if d.own || (linkSend x.s m 0).isSome then x.finish (f (putMsg x.s m)) t 4
    else x.finish (f x.s) (holdError t 0x06 v) 4

/-- Conditions of R207 on a SEND's target word: reserved bits and RREG. -/
def sendWordOk (w : Nat) : Bool :=
  bits w 63 44 == 0 && bits w 35 34 == 0 &&
    (match twMode w with
      | 0 => twRreg w == 0
      | 1 => twRreg w == 0
      | 2 => decide (twRreg w ≤ 9)
      | 3 => bits w 33 0 == 0 && twRreg w == 0
      | 4 => bits w 33 0 == 0 && twRreg w == 0
      | _ => false)

/-- A SEND to another thread's register: modes 0 to 2 (R208, R209). -/
def Ctx.sendTo (x : Ctx) (v : Word) (a d : Nat) (val : Word) (tag : Nat) : Body :=
  x.dest v fun to_ =>
    if isUserSlot x.levelSlot && !isUserSlot (twSlot v.toNat) then x.trap 0x06 v 3#64
    else
      let mode := twMode v.toNat
      let t := if mode = 2 then reserveReg x.t (twRreg v.toNat) else x.t
      x.launch v a to_ (if mode = 1 then .reply else .request) (mode ≠ 1) (.send (twSlot v.toNat) d val tag) t id

/-- SEND (R209): modes 2 to 4 name core-local state. -/
def execSend (d a b : Fin 10) (p : Fin 16) (tag : BitVec 4) (s : State) : Host.Outcome State Fault Refusal :=
  runInstr s fun x => x.guarded p <| x.needRegs [a, b] <|
    let v := valOf x.t a
    let mode := twMode v.toNat
    if !sendWordOk v.toNat || (3 ≤ mode && tag ≠ 0#4) then x.illegalOperand v a
    else if mode = 3 then x.atHome <| x.done (emptyReg x.t d)
    else if mode = 4 then x.atHome <| x.done (reserveReg x.t d)
    else if mode = 2 then x.atHome <| x.sendTo v a d (valOf x.t b) tag.toNat
    else x.sendTo v a d (valOf x.t b) tag.toNat

/-- Fields of the chan CSR (R374). -/
def chanValid (w : Word) : Bool := w.getLsbD 63
def chanFirst (w : Word) : Nat := bits w.toNat 57 48
def chanCcid (w : Word) : Nat := bits w.toNat 47 32
def chanCount (w : Word) : Nat := bits w.toNat 31 26 + 1
def chanCred (w : Word) : Nat := bits w.toNat 17 9
def chanAllow (w : Word) : Nat := bits w.toNat 8 0

/-- Whether a packet and a target are those of a core's PIPE channel (R44). -/
def chanTakes (s : State) (c : Nat) (ctl tw : Nat) : Bool :=
  let w := (coreOf s c).chan
  chanValid w && chanCcid w == ctlCcid ctl && twDev tw == s.pkg.dev.toNat && decide (chanFirst w ≤ twCore tw) &&
    decide (twCore tw < chanFirst w + chanCount w)

/-- A credit taken (R44). -/
def takeCredit (s : State) (c : Nat) : State := modCore s c fun k => { k with chan := k.chan - 0x200#64 }

/-- SENDM (R44, R212). -/
def execSendm (d a b : Fin 10) (p : Fin 16) (s : State) : Host.Outcome State Fault Refusal :=
  runInstr s fun x => x.guarded p <| x.needRun a [b, d] <|
    let ws := runWords x.t a
    let ctl := pktWord ws 0
    let v := valOf x.t b
    if ctlKind ctl ≠ 5 then x.illegalOperand (BitVec.ofNat 64 ctl) a
    else x.coreTarget v b fun to_ =>
      let chan := ctlChan ctl
      if chan && !chanTakes x.s x.c ctl v.toNat then x.illegalOperand (BitVec.ofNat 64 ctl) a
      else x.needRes (!chan || decide (0 < chanCred (coreOf x.s x.c).chan)) .credit <|
        let h := homeOf x.s x.c x.n
        x.launch v b to_ .request (!to_.isCore x.c)
          (.packet { words := ws, a0 := sourceId x.s h.1 h.2, a1 := valOf x.t d,
                     credit := if chan then some (x.s.pkg.dev.toNat, x.c) else none, status := none, counted := false,
                     stage := none })
          x.t fun u => if chan then takeCredit u x.c else u

/-- The words of a PUT's payload as one number (R5, R213). -/
def putData (t : Thread) (d : Nat) : Nat → Nat
  | 0 => 0
  | n + 1 => (valOf t d).toNat + 2 ^ 64 * putData t (d + 1) n

/-- Fields of a PUT's control word (R213). -/
def putWords (w : Nat) : Nat := bits w 19 16
def putInc (w : Nat) : Nat := bits w 15 8
def putSemNo (w : Nat) : Nat := bits w 7 0

/-- The core that a PUT's address names, with what the access carries as its target (R15, R213). -/
def putDest (s : State) (c : Nat) (a : Word) (r : Route) : Option (Dest × Target) :=
  match r with
  | .far k _ =>
    (coreOfLogical s (partOfCore s c) (bits a.toNat 43 34)).map fun t =>
      ({ own := true, dev := s.pkg.dev.toNat, core := t }, .key k)
  | .dev d l sp off => some ({ own := false, dev := d, core := l }, .fabric l sp off)
  | _ => none

/-- PUT (R213). -/
def execPut (d a b : Fin 10) (p : Fin 16) (s : State) : Host.Outcome State Fault Refusal :=
  runInstr s fun x => x.guarded p <| x.needRegs [a, b] <|
    let w := (valOf x.t b).toNat
    let addr := valOf x.t a
    let n := putWords w
    if bits w 63 20 ≠ 0 || n = 0 || 8 < n || 10 < d.val + n then x.illegalOperand (valOf x.t b) b
    else x.needRegs ((List.range n).map (d.val + ·)) <|
      if !aligned addr 8 then x.trap 0x05 addr 8#64
      else if regionOf addr ≠ 0xA || 2 ≤ bits addr.toNat 33 32 then x.trap 0x06 addr 0#64
      else x.route .write addr (8 * n) false fun r =>
        match putDest x.s x.c addr r with
        | none => x.trap 0x06 addr 2#64
        | some (to_, tgt) =>
          x.launch addr a to_ .request (!to_.isCore x.c)
            (.access { kind := .put, tgt := tgt, size := 8 * n, addr := addr, data := putData x.t d n, expect := 0,
                       op := .add, reg := 16, sgn := false, acq := false, rel := true, scope := 5, sem := putSemNo w,
                       inc := putInc w, tag := 0 })
            x.t fun u => if to_.own then u else askRemote u x.c x.n x.s.uid false

/-! ## SUBS -/

/-- The match table of a core with a tag joined to a ring, none where it is full (R214). -/
def joinGroup (m : List (Nat × Nat)) (tag ring : Nat) : Option (List (Nat × Nat)) :=
  let rest := m.filter fun e => e.1 != tag
  if 16 ≤ rest.length then none else some (rest ++ [(tag, ring)])

/-- The members of a tag that cores other than `c` hold: pairs of cluster and ring (R265). -/
def otherMembers (s : State) (c tag : Nat) : List (Nat × Nat) :=
  ((s.cores.filter fun k => k.1 != c).flatMap fun k =>
    (k.2.matchTab.filter fun e => e.1 == tag).map fun e => (clusterOfCore k.1, e.2)).dedup

/-- The match table that SUBS makes on a core, none where the table is full or the tag has 64 members beside the
entry that it replaces (R214, R265). -/
def subsTable (s : State) (c tag : Nat) (leave : Bool) (ring : Nat) : Option (List (Nat × Nat)) :=
  let m := (coreOf s c).matchTab
  if leave then some (m.filter fun e => e.1 != tag)
  else if 64 ≤ ((otherMembers s c tag).filter (· != (clusterOfCore c, ring))).length then none
  else joinGroup m tag ring

/-- SUBS (R214): its checks now; the table entry and the bitmaps on the mesh path after a time that is not fixed. -/
def execSubs (a b : Fin 10) (p : Fin 16) (s : State) : Host.Outcome State Fault Refusal :=
  runInstr s fun x => x.atHome <| x.guarded p <| x.needRegs [a, b] <|
    let w := (valOf x.t a).toNat
    let ring := (valOf x.t b).toNat
    if bits w 63 17 ≠ 0 then x.illegalOperand (valOf x.t a) a
    else if 64 ≤ ring then x.illegalOperand (valOf x.t b) b
    else x.ownsRing ring <|
      let tag := bits w 15 0
      match subsTable x.s x.c tag (w.testBit 16) ring with
      | none => x.trap 0x11 (valOf x.t a) 0#64
      | some _ =>
        let s1 := waitSlot x.s x.c x.n (.subs tag (w.testBit 16) ring)
        .error (.gone { modSlot s1 x.c x.n (fun y => { y with readyAt := x.s.cycle + 1 + Config.latency x.s.uid })
          with uid := x.s.uid + 1 })

/-- SUBS_COMPLETE (R214): the table changes; a table that has become full since the issue traps. -/
def execSubsComplete (core slot : Nat) (s : State) : Host.Outcome State Fault Refusal :=
  let x := slotOf s core slot
  event s <| match x.wait with
    | .subs tag leave ring =>
      if x.st = .waiting && !x.isHeld && decide (x.readyAt ≤ s.cycle) then
        some (fromWait s core slot fun y =>
          match subsTable y.s core tag leave ring with
          | none => y.trap 0x11 (BitVec.ofNat 64 (tag + if leave then 65536 else 0)) 0#64
          | some m => y.finish (modCore y.s core fun k => { k with matchTab := m }) y.t 4)
      else none
    | _ => none

/-! ## Time and wait limits -/

/-- TIME (R215). -/
def execTime (d f : Fin 10) (p : Fin 16) (s : State) : Host.Outcome State Fault Refusal :=
  runInstr s fun x => x.guarded p <|
    x.done (writeReg (writeReg x.t f (BitVec.ofNat 64 (x.s.devTime % 65536))) d (BitVec.ofNat 64 (timeNs x.s)))

/-- WAITT (R216). -/
def execWaitt (a b : Fin 10) (p : Fin 16) (s : State) : Host.Outcome State Fault Refusal :=
  runInstr s fun x => x.guarded p <| x.needRegs [a, b] <|
    if 65536 ≤ (valOf x.t b).toNat then x.illegalOperand (valOf x.t b) b
    else
      let t := (valOf x.t a).toNat * 65536 + (valOf x.t b).toNat
      if t ≤ x.s.devTime then x.done x.t else x.waits x.s (.time t)

/-- WAITT_READY (R216): the slot is READY in the first cycle whose device time is at or past the target. -/
def execWaittReady (core slot : Nat) (s : State) : Host.Outcome State Fault Refusal :=
  let x := slotOf s core slot
  event s <| match x.wait with
    | .time t =>
      if x.st = .waiting && decide (t ≤ s.devTime) then
        some (modSlot s core slot (readySlot (if (coreOf s core).clockStopped then wakeCycle s core else s.cycle)))
      else none
    | _ => none

/-- WAITLIM (R217). -/
def execWaitlim (a : Fin 10) (p : Fin 16) (s : State) : Host.Outcome State Fault Refusal :=
  runInstr s fun x => x.guarded p <| x.needRegs [a] <|
    let w := (valOf x.t a).toNat
    if bits w 63 33 ≠ 0 then x.illegalOperand (valOf x.t a) a
    else
      x.finish (modSlot x.s x.c x.n fun y => { y with egt := w.testBit 32, limit := BitVec.ofNat 32 (bits w 31 0) }) x.t 4

end Sys2Proof.Machine
end

