-- ==== Sys2Proof/Machine/SemRing.lean ====
section
/-! DEFINITION. Semaphore and ring instructions (R53 to R56, R203 to R206). -/

namespace Sys2Proof.Machine

/-! ## Semaphores -/

/-- A held deferred error as the trap of the WAIT that delivers it (R54, R328, R329). -/
def deferredTrap (e : DefErr × Nat) : TrapInfo :=
  { cause := e.1.cause, tval := e.1.tval, detail := e.1.detail, more := e.2 }

/-- WAIT on semaphore `k` for a threshold (R54, R204). DEDUCED, log 65. -/
def Ctx.waitSem (x : Ctx) (k v : Nat) : Body :=
  let m := semOf (coreOf x.s x.c) k
  match m.err with
  | some e => .error (.trap (modCore x.s x.c fun y => putSem y k { m with err := none }) (deferredTrap e) (some k))
  | none => if v ≤ m.val.toNat then x.done x.t else x.waits x.s (.sem k)

/-- WAIT with an immediate threshold (R204). -/
def execWaitImm (k : BitVec 8) (i : BitVec 10) (s : State) : Host.Outcome State Fault Refusal :=
  runInstr s fun x => x.atHome <| x.waitSem k.toNat i.toNat

/-- WAIT with a threshold register (R204). -/
def execWaitReg (a : Fin 10) (k : BitVec 8) (s : State) : Host.Outcome State Fault Refusal :=
  runInstr s fun x => x.atHome <| x.needRegs [a] <| x.waitSem k.toNat (bits (valOf x.t a).toNat 31 0)

/-- SIG (R53, R204); an increment of 0 is an illegal encoding (R203). -/
def execSig (k : BitVec 8) (i : BitVec 10) (s : State) : Host.Outcome State Fault Refusal :=
  runInstr s fun x =>
    if i = 0#10 then x.illegal 0
    else x.atHome <| x.released <| x.doneIn (semAdd x.s x.c k.toNat i.toNat) 4

/-- SIGR (R204): a message, also to the own core. -/
def execSigr (a : Fin 10) (k : BitVec 8) (i : BitVec 10) (s : State) : Host.Outcome State Fault Refusal :=
  runInstr s fun x =>
    if i = 0#10 then x.illegal 0
    else x.atHome <| x.needRegs [a] <|
      x.coreTarget (valOf x.t a) a fun d =>
        x.launch (valOf x.t a) a d .request (!d.isCore x.c) (.sigr k.toNat i.toNat) x.t id

/-- A semaphore set to a value: a lower value wakes no waiter (R204). -/
def semAssign (s : State) (c k : Nat) (v : BitVec 32) : State :=
  let m := semOf (coreOf s c) k
  if v.toNat < m.val.toNat then modCore s c fun y => putSem y k { m with val := v } else setSem s c k { m with val := v }

/-- SEMSET to an immediate (R204). -/
def execSemsetImm (k : BitVec 8) (i : BitVec 10) (s : State) : Host.Outcome State Fault Refusal :=
  runInstr s fun x => x.atHome <| x.released <| x.doneIn (semAssign x.s x.c k.toNat (BitVec.setWidth 32 i)) 4

/-- SEMSET to a register (R204). -/
def execSemsetReg (a : Fin 10) (k : BitVec 8) (s : State) : Host.Outcome State Fault Refusal :=
  runInstr s fun x => x.atHome <| x.needRegs [a] <| x.released <|
    x.doneIn (semAssign x.s x.c k.toNat (BitVec.setWidth 32 (valOf x.t a))) 4

/-- SEMRD (R204). -/
def execSemrd (a : Fin 10) (k : BitVec 8) (s : State) : Host.Outcome State Fault Refusal :=
  runInstr s fun x => x.atHome <|
    x.done (writeReg x.t a (BitVec.setWidth 64 (semOf (coreOf x.s x.c) k.toNat).val))

/-- TEST (R22, R204). -/
def execTest (d : Fin 16) (k : BitVec 8) (i : BitVec 10) (s : State) : Host.Outcome State Fault Refusal :=
  runInstr s fun x => x.atHome <|
    x.writePred d (decide (i.toNat ≤ (semOf (coreOf x.s x.c) k.toNat).val.toNat)) true

/-! ## Rings -/

/-- The tile that a thread instruction names: the ring-index fault, or its entry (R100); an uncorrectable entry is a precise
memory error that names the tile slot (R344, R345). DEDUCED, log 78. -/
def Ctx.tile (x : Ctx) (r : Nat) (i : BitVec 32) (k : Ctx → Tile → Body) : Body :=
  let cl := clusterOfCore x.c
  let sl := slotOfIdx (ringOf (clusterOf x.s cl) r) i
  match tileAt (clusterOf x.s cl) r i with
  | none => x.ringFault 0x10 (BitVec.setWidth 64 i) r
  | some t =>
    let (s1, bad) := eccRead x.s x.c (tileKey cl sl) 8
    if bad then
      .error (.trap s1 { cause := 0x16, tval := BitVec.ofNat 64 sl, detail := BitVec.ofNat 64 (storeCode (tileKey cl sl)),
                         more := 0 } none)
    else k { x with s := s1 } t

/-- Ring and CAUSE as the DETAIL of a poisoned-tile trap (R332). -/
def poisonDetail (r : Nat) (t : Tile) : Word := BitVec.ofNat 64 (r * 256 + t.cause.toNat)

/-- WAITA (R56, R92, R205). -/
def execWaita (a : Fin 10) (k : BitVec 6) (i : BitVec 10) (s : State) : Host.Outcome State Fault Refusal :=
  runInstr s fun x => x.atHome <| x.needRegs [a] <| x.ownsRing k.toNat <|
    let idx := BitVec.setWidth 32 (valOf x.t a) + BitVec.signExtend 32 i
    x.tile k.toNat idx fun y t =>
      if t.st ≠ .ready then y.waits y.s (.tile k.toNat idx.toNat)
      else if t.poison then y.trap 0x0C (BitVec.setWidth 64 idx) (poisonDetail k.toNat t)
      else y.done y.t

/-- TESTA (R92, R205). -/
def execTesta (d : Fin 16) (a : Fin 10) (k : BitVec 6) (s : State) : Host.Outcome State Fault Refusal :=
  runInstr s fun x => x.atHome <| x.needRegs [a] <| x.ownsRing k.toNat <|
    x.tile k.toNat (BitVec.setWidth 32 (valOf x.t a)) fun y t => y.writePred d (t.st = .ready) true

/-- The 32-bit index that a register holds, as a word (R97, R332). -/
def indexWord (v : Word) : Word := BitVec.setWidth 64 (BitVec.setWidth 32 v)

/-- RTAIL (R97, R205). -/
def execRtail (a : Fin 10) (k : BitVec 6) (s : State) : Host.Outcome State Fault Refusal :=
  runInstr s fun x => x.atHome <| x.needRegs [a] <| x.ownsRing k.toNat <| x.released <|
    match tailWrite x.s (clusterOfCore x.c) k.toNat (BitVec.setWidth 32 (valOf x.t a)) with
    | none => x.ringFault 0x0D (indexWord (valOf x.t a)) k.toNat
    | some s1 => x.doneIn s1 4

/-- RTAIL.get (R205). -/
def execRtailGet (a : Fin 10) (k : BitVec 6) (s : State) : Host.Outcome State Fault Refusal :=
  runInstr s fun x => x.atHome <| x.ownsRing k.toNat <|
    x.done (writeReg x.t a (BitVec.setWidth 64 (ringOf (clusterOf x.s (clusterOfCore x.c)) k.toNat).tail))

/-- RHEAD (R98, R205). -/
def execRhead (a : Fin 10) (k : BitVec 6) (s : State) : Host.Outcome State Fault Refusal :=
  runInstr s fun x => x.atHome <| x.needRegs [a] <| x.ownsRing k.toNat <| x.released <|
    match headWrite x.s (clusterOfCore x.c) k.toNat (BitVec.setWidth 32 (valOf x.t a)) with
    | none => x.ringFault 0x0E (indexWord (valOf x.t a)) k.toNat
    | some s1 => x.doneIn s1 4

/-- RHEAD.get (R205). -/
def execRheadGet (a : Fin 10) (k : BitVec 6) (s : State) : Host.Outcome State Fault Refusal :=
  runInstr s fun x => x.atHome <| x.ownsRing k.toNat <|
    x.done (writeReg x.t a (BitVec.setWidth 64 (ringOf (clusterOf x.s (clusterOfCore x.c)) k.toNat).head))

/-- RINGDEF (R95, R206). -/
def execRingdef (a : Fin 10) (k : BitVec 6) (s : State) : Host.Outcome State Fault Refusal :=
  runInstr s fun x => x.atHome <| x.needRegs [a] <|
    let cl := clusterOfCore x.c
    match ringDefine (clusterOf x.s cl) k.toNat (valOf x.t a) x.sl.asid.toNat with
    | .badDef => x.ringFault 0x0F (valOf x.t a) k.toNat
    | .foreign => x.trap 0x06 (BitVec.setWidth 64 k) 4#64
    | .done c => x.doneIn (wakeRing (modCluster x.s cl fun _ => c) cl k.toNat) 4

end Sys2Proof.Machine
end

