-- ==== Sys2Proof/Machine/Csr.lean ====
section
/-! DEFINITION. The control and status registers: user (R179), per core and per slot (R338, R374), of the package
(R358, R389, R392, R394, R397, R405, R406, R410, R415), with the rules of their writes. -/

namespace Sys2Proof.Machine

/-! ## Which registers there are -/

/-- Numbers of the CSRs of which each slot has its own copy, by slot (R338). -/
def slotCsr (n num : Nat) : Bool :=
  (decide (1 ≤ n) && decide (n < 4) && decide (0x100 ≤ num) && decide (num ≤ 0x105)) ||
    (n == 0 && decide (0x200 ≤ num) && decide (num ≤ 0x205)) || num == 0x115

/-- A per-slot CSR of some slot. -/
def perSlot (num : Nat) : Bool :=
  (decide (0x100 ≤ num) && decide (num ≤ 0x105)) || (decide (0x200 ≤ num) && decide (num ≤ 0x205)) || num == 0x115

/-- Per-core and package CSRs (R338, R358, R374, R389, R392, R394, R397, R405, R406, R410, R415). -/
def coreCsr (num : Nat) : Bool :=
  [0x110, 0x111, 0x112, 0x113, 0x114, 0x116, 0x117, 0x118, 0x130, 0x131, 0x132, 0x133, 0x134, 0x136, 0x137, 0x210,
    0x211, 0x220, 0x221, 0x230, 0x233, 0x234, 0x235, 0x240, 0x241, 0x243, 0x244, 0x245, 0x246, 0x250, 0x251,
    0x262].contains num ||
    (decide (0x120 ≤ num) && decide (num ≤ 0x12B)) || (decide (0x180 ≤ num) && decide (num ≤ 0x1FF)) ||
    (decide (0x252 ≤ num) && decide (num ≤ 0x259)) || (decide (0x400 ≤ num) && decide (num ≤ 0x4FF))

/-- A platform CSR (R337): attest alone of these numbers is at supervisor level (R415). -/
def platformCsr (num : Nat) : Bool := decide (0x200 ≤ num) && decide (num ≤ 0x2FF) && num != 0x262

/-! ## Reading -/

/-- The tinfo word of a thread (R179). -/
def tinfoOf (t : Thread) : Word :=
  BitVec.ofNat 64 (t.ccid.toNat * 2 ^ 32 + t.lane.toNat * 2 ^ 16 + t.prio.toNat * 2 ^ 10 + t.home.toNat)

/-- A user CSR of the thread in a slot (R178, R179). -/
def userCsrRead (s : State) (c n : Nat) (t : Thread) (num : Nat) : Word :=
  match num with
  | 0 => BitVec.setWidth 64 t.pw
  | 1 => BitVec.setWidth 64 t.fflags
  | 2 => BitVec.setWidth 64 t.fmt
  | 3 => BitVec.setWidth 64 t.sca
  | 4 => BitVec.setWidth 64 t.scb
  | 5 => BitVec.setWidth 64 t.lpc
  | 6 => BitVec.setWidth 64 t.lps
  | 7 => BitVec.setWidth 64 t.lpe
  | 8 => if isDCore c then 1#64 else 0#64
  | 9 => sourceId s c n
  | 10 => tinfoOf t
  | _ => match attrOf s c t.ccid.toNat with
    | some a => BitVec.ofNat 64 a.slog
    | none => 0#64

/-- The soft errors that the reading of a user CSR meets: slog stands in the attribute record (R179, R345). -/
def userCsrMeets (s : State) (c : Nat) (t : Thread) (num : Nat) : State :=
  if num = 0x00B then attrMeets s c t.ccid.toNat else s

/-- Whether the partition of a core has error injection enabled (R338). -/
def eieOf (s : State) (c : Nat) : Bool :=
  match partOfCore s c with
  | none => false
  | some q => (partOf s q).eie

/-- A set bit or none, for the words below. -/
def bitAt (b : Bool) (i : Nat) : Nat := if b then 2 ^ i else 0

/-- A per-slot CSR (R333, R338). -/
def slotCsrRead (x : Slot) (n num : Nat) : Word :=
  match num % 0x100 with
  | 0 => BitVec.ofNat 64 ((if n = 0 then 0xC0 else 0x80) + bitAt x.sin 0)
  | 1 => BitVec.setWidth 64 x.tvec
  | 2 => BitVec.setWidth 64 x.epc
  | 3 => x.cause
  | 4 => x.tval
  | 5 => x.detail
  | _ => BitVec.setWidth 64 x.asid

/-- partcmd (R358). -/
def partcmdRead (s : State) : Word :=
  let p := s.pkg
  BitVec.ofNat 64 (bitAt (s.parts.any fun q => q.2.cmd.isSome) 63 + p.partStatus.toNat * 2 ^ 48 +
    (partOf s p.partSel.toNat).st * 2 ^ 16 + p.partSel.toNat * 2 ^ 8 + p.partOp.toNat)

/-- fabcfg (R389). -/
def fabcfgRead (s : State) : Word :=
  let p := s.pkg
  BitVec.ofNat 64 (p.dev.toNat * 2 ^ 48 + p.zm1.toNat * 2 ^ 36 + p.ym1.toNat * 2 ^ 30 + p.xm1.toNat * 2 ^ 24 + p.plive.toNat)

/-- tstat (R397). -/
def tstatRead (s : State) : Word :=
  let p := s.pkg
  BitVec.ofNat 64 (bitAt p.lock 63 + p.steps.toNat * 2 ^ 32 + p.offs.toNat)

/-- tdlate and tdlost (R397). -/
def tdcountRead (s : State) : Word := BitVec.ofNat 64 (s.pkg.tdlate.toNat * 2 ^ 32 + s.pkg.tdlost.toNat)

/-- A CSR of the package. -/
def pkgCsrRead (s : State) (num : Nat) : Word :=
  let p := s.pkg
  match num with
  | 0x220 => partcmdRead s
  | 0x221 => p.partrec
  | 0x230 => fabcfgRead s
  | 0x233 => p.pbtab
  | 0x234 => p.psp
  | 0x235 => p.asidtab
  | 0x240 => p.tctl
  | 0x243 => tstatRead s
  | 0x244 => p.trate
  | 0x245 => p.tdcfg
  | 0x246 => tdcountRead s
  | 0x250 => p.hwbase
  | 0x251 => p.hwlim
  | _ => if 0x252 ≤ num ∧ num ≤ 0x259 then mapGet 0#64 p.hacl (num - 0x252) else 0#64

/-- A per-core CSR, or one of the package; write-only ones read zero (R338, R374). -/
def coreCsrRead (s : State) (c num : Nat) : Word :=
  let k := coreOf s c
  match num with
  | 0x110 => if k.rot then 1#64 else 0#64
  | 0x111 => k.utrec
  | 0x112 => k.ecq
  | 0x113 => BitVec.setWidth 64 k.ecqh
  | 0x114 => BitVec.setWidth 64 k.ecqt
  | 0x116 => k.qwd
  | 0x117 => BitVec.ofNat 64 (k.scrub.toNat * 2 ^ 32 + bitAt (eieOf s c) 1)
  | 0x118 => k.abortc
  | 0x131 => k.lattr
  | 0x132 => k.spq
  | 0x133 => k.dqb
  | 0x137 => k.chan
  | 0x210 => BitVec.ofNat 64 ((partOfCore s c).getD 0)
  | 0x211 => BitVec.setWidth 64 k.dbgctl
  | _ =>
    if 0x120 ≤ num ∧ num ≤ 0x12B then mapGet 0#64 k.softErr num
    else if 0x180 ≤ num ∧ num ≤ 0x1FF then BitVec.setWidth 64 (rotEntry k (num - 0x180))
    else if 0x400 ≤ num ∧ num ≤ 0x4FF then BitVec.setWidth 64 (mapGet 0#9 k.lanes (num - 0x400))
    else pkgCsrRead s num

/-- A CSR other than a user CSR, as core `c` and slot `n` read it (R338). -/
def csrRead (s : State) (c n num : Nat) : Word :=
  if perSlot num then slotCsrRead (slotOf s c n) n num else coreCsrRead s c num

/-! ## Writing -/

/-- A user CSR written (R178, R179): read-only fields keep their values. -/
def userCsrWrite (t : Thread) (num : Nat) (v : Word) : Thread :=
  match num with
  | 0 => { t with pw := (t.pw &&& 0xF0000001#32) ||| (BitVec.setWidth 32 v &&& 0x0F00FFFE#32) }
  | 1 => { t with fflags := BitVec.setWidth 5 v &&& 0b11110#5 }
  | 5 => { t with lpc := BitVec.setWidth 32 v }
  | 6 => { t with lps := BitVec.setWidth 48 v &&& 0xFFFFFFFFFFFC#48 }
  | 7 => { t with lpe := BitVec.setWidth 48 v &&& 0xFFFFFFFFFFFC#48 }
  | _ => t

/-- A per-slot CSR written (R338): asid is read-only. -/
def slotCsrWrite (x : Slot) (num : Nat) (v : Word) : Slot :=
  match num % 0x100 with
  | 0 => { x with sin := v.getLsbD 0 }
  | 1 => { x with tvec := BitVec.setWidth 48 v }
  | 2 => { x with epc := BitVec.setWidth 48 v }
  | 3 => { x with cause := v }
  | 4 => { x with tval := v }
  | 5 => { x with detail := v }
  | _ => x

/-- Every user slot is FREE (R52). -/
def usersFree (k : Core) : Bool := k.slots.all fun p => !isUserSlot p.1 || p.2.st = .free

/-- Modes in which the rotation table, the lane map and cmode may not be written (R382). -/
def lanesFixed (k : Core) : Bool :=
  k.mode = .stopping || k.mode = .saving || k.mode = .preempted || k.mode = .restoring

/-- A valid turn of a slot within 7 turns of another valid turn of it (R48). -/
def turnsTooClose (k : Core) : Bool :=
  (List.range 128).any fun t =>
    let e := rotEntry k t
    e.getLsbD 15 && (List.range 7).any fun d =>
      let f := rotEntry k ((t + d + 1) % 128)
      f.getLsbD 15 && bits f.toNat 7 0 == bits e.toNat 7 0

/-- A rotation turn written (R47, R48, R382): none where it is rejected. -/
def rotWrite (k : Core) (turn : Nat) (v : Word) : Option Core :=
  if lanesFixed k then none
  else if turn % 32 = 0 then some k
  else
    let k1 := { k with rotTab := mapSet k.rotTab turn (BitVec.setWidth 16 v &&& 0x80FF#16) }
    if turnsTooClose k1 then none else some k1

/-- cmode written (R52, R382). -/
def modeWriteOf (k : Core) (v : Word) : Option Core :=
  if lanesFixed k || !usersFree k then none else some { k with rot := v.getLsbD 0 }

/-- An entry of the lane map written (R49, R52, R382). -/
def laneWrite (k : Core) (lane : Nat) (v : Word) : Option Core :=
  if lanesFixed k || !usersFree k then none
  else some { k with lanes := mapSet k.lanes lane (BitVec.setWidth 9 v) }

/-- dqb written (R374): the deque must lie in the TCM. -/
def dqbWriteOf (k : Core) (v : Word) : Option Core :=
  let n := bits v.toNat 2 0
  if n = 7 || Config.tcmBytes < bits v.toNat 17 12 * 4096 + 64 + 80 * 2 ^ n then none
  else some { k with dqb := v &&& 0x3F007#64 }

/-- chan written (R374). -/
def chanWriteOf (k : Core) (v : Word) : Option Core :=
  let allow := chanAllow v
  if chanCred k.chan < chanAllow k.chan || (v.getLsbD 63 && (allow == 0 || decide (256 < allow))) then none
  else some { k with chan := (v &&& 0x83FFFFFFFC0001FF#64) ||| BitVec.ofNat 64 (allow * 2 ^ 9) }

/-- Whether an HBM range lies in a window of the partition of a core (R361, R385). -/
def inPartHbm (s : State) (c a n : Nat) : Bool :=
  match partOfCore s c with
  | none => false
  | some q => (partOf s q).hbmwin.any fun w => inWindow w a n

/-- spq written (R374, R385). -/
def spqWriteOf (s : State) (c : Nat) (v : Word) : Option Core :=
  let k := coreOf s c
  let n := bits v.toNat 4 0
  if !k.spill.isEmpty || (decide (1 ≤ n) && decide (n ≤ 12)) || decide (24 < n) ||
      !inPartHbm s c (bits v.toNat 48 16 * 65536) (if n = 0 then 1 else 256 * 2 ^ n) then none
  else some { k with spq := v &&& 0x1FFFFFFFF001F#64 }

/-- A per-core CSR with a field of its own and a rule that depends on the core alone (R338, R374). -/
def plainCoreWrite (k : Core) (num : Nat) (v : Word) : Core :=
  match num with
  | 0x111 => { k with utrec := v &&& 0x3E001#64 }
  | 0x112 => { k with ecq := v &&& 0x3F001#64 }
  | 0x116 => { k with qwd := v }
  | 0x118 => { k with abortc := v }
  | 0x131 => { k with lattr := v }
  | 0x211 => { k with dbgctl := BitVec.setWidth 2 v }
  | _ => if 0x120 ≤ num ∧ num ≤ 0x12B then { k with softErr := mapSet k.softErr num v } else k

/-- ecqh advanced: ECALLs that wait for an entry may go on (R335). -/
def ecqhWrite (s : State) (c : Nat) (v : Word) : State :=
  wakeRes (modCore s c fun k => { k with ecqh := BitVec.setWidth 32 v }) c .ecall

/-- errctl written: EIE only at platform level, for the whole partition (R338). -/
def errctlWrite (s : State) (lv : Level) (c : Nat) (v : Word) : State :=
  let s1 := modCore s c fun k => { k with scrub := BitVec.ofNat 32 (bits v.toNat 63 32) }
  if lv = .platform then
    match partOfCore s c with
    | none => s1
    | some q => modPart s1 q fun p => { p with eie := v.getLsbD 1 }
  else s1

/-- dsp written: a packet with its side record sent from the own TCM (R375). -/
def dspWrite (s : State) (c n : Nat) (v : Word) : Option State :=
  let w := v.toNat
  let off := bits w 17 6 * 64
  match coreOfLogical s (partOfCore s c) (bits w 35 26) with
  | none => none
  | some t =>
    let ws := packetOf (memBytes s.mem (tcmKey c off) 64)
    let ctl := pktWord ws 0
    if bits w 63 36 ≠ 0 || bits w 21 18 ≠ 0 || bits w 5 0 ≠ 0 || Config.tcmBytes < off + 80 || ctlKind ctl = 5 then none
    else
      let side (i : Nat) := BitVec.ofNat 64 (memNat s.mem (tcmKey c (off + 64 + 8 * i)) 8)
      let p : Packet :=
        { words := ws, a0 := side 0, a1 := side 1, credit := none, status := none, counted := true, stage := none }
      some (traceAdd (postHere s c n t .request (.packet p)) c (0x10 + bits w 25 22) n (bits w 35 26) (ctlCcid ctl)
        (launchAsid s c (ctlCcid ctl)) (BitVec.ofNat 64 ctl) (BitVec.ofNat 64 (bits (pktWord ws 1) 47 0)))

/-- dtrec written: a software record appended to the trace (R379). -/
def dtrecWrite (s : State) (c : Nat) (v : Word) : Option State :=
  let off := v.toNat
  let f (lo m : Nat) := memNat s.mem (tcmKey c (off + lo)) m
  if Config.tcmBytes < off + 32 || off % 32 ≠ 0 || f 8 1 < 0x20 then none
  else some (traceAdd s c (f 8 1) (f 9 1) (f 10 2) (f 12 2) (f 14 2) (BitVec.ofNat 64 (f 16 8)) (BitVec.ofNat 64 (f 24 8)))

/-- cctl written: a counter command block carried out and its STATUS written back (R373). -/
def cctlWrite (s : State) (c : Nat) (v : Word) : Option State :=
  let off := v.toNat
  let f (lo m : Nat) := memNat s.mem (tcmKey c (off + lo)) m
  if Config.tcmBytes < off + 16 || off % 16 ≠ 0 then none
  else
    let (s1, st) := if f 12 4 ≠ 0 then (s, 4) else counterCommand s (partOfCore s c) (f 0 1) (f 1 1) (f 2 2) (f 4 2) (f 8 4)
    some (storeBytes { s1 with ctrStatus := st } (tcmKey c (off + 6)) (leBytes 2 st))

/-- partcmd written: the selection and, with an OP, a command for PART; none while one runs (R358). -/
def partcmdWrite (s : State) (v : Word) : Option State :=
  if s.parts.any fun q => q.2.cmd.isSome then none
  else
    let part := bits v.toNat 13 8
    let op := bits v.toNat 2 0
    let s1 := modPkg s fun p => { p with partSel := BitVec.ofNat 6 part, partOp := BitVec.ofNat 3 op }
    some (if op = 0 then s1
      else modPart s1 part fun p => { p with cmd := some { op := op, phase := 0, due := s.cycle + 1, status := 0 } })

/-- The messages of the package itself under a new device number (R389). DEDUCED, log 69. -/
def renumber (old new : Nat) (m : Msg) : Msg :=
  { m with sdev := if m.sdev = old then new else m.sdev, ddev := if m.ddev = old then new else m.ddev }

/-- fabcfg written (R389). -/
def fabcfgWriteOf (s : State) (v : Word) : Option State :=
  let n := v.toNat
  let p := s.pkg
  let dev := bits n 63 48
  let same := dev == p.dev.toNat && bits n 41 36 == p.zm1.toNat && bits n 35 30 == p.ym1.toNat && bits n 29 24 == p.xm1.toNat
  let size := (bits n 41 36 + 1) * (bits n 35 30 + 1) * (bits n 29 24 + 1)
  if same then some s
  else if (p.conns.any fun c => c.2.up) || (decide (size ≤ dev) && dev != 0xFFFF) then none
  else
    some { modPkg s (fun p => { p with dev := BitVec.ofNat 16 dev, zm1 := BitVec.ofNat 6 (bits n 41 36),
                                       ym1 := BitVec.ofNat 6 (bits n 35 30), xm1 := BitVec.ofNat 6 (bits n 29 24) }) with
           net := s.net.map (renumber p.dev.toNat dev) }

/-- tstep written: a step for the next cycle, added to one that the cycle already holds, none while LOCK = 1 (R397). -/
def tstepWriteOf (s : State) (v : Word) : Option State :=
  if s.pkg.lock then none
  else if bits v.toNat 47 0 = 0 then some s
  else some (modPkg s fun p => { p with tstep := p.tstep + bits v.toNat 47 0, tsteps := p.tsteps + 1 })

/-- The sync interval in cycles (R397). -/
def syncCycles (s : State) : Nat := 2000000000 / 2 ^ bits s.pkg.tctl.toNat 7 4

/-- tctl written (R397): a sync interval begins, so that the first sync with the own oscillator is one interval later (R422).
DEDUCED, log 36. -/
def tctlWriteOf (s : State) (v : Word) : State :=
  let s1 := modPkg s fun p => { p with tctl := v &&& 0xFFF3#64 }
  modPkg s1 fun p => { p with nextSync := s.cycle + syncCycles s1 }

/-- Whether an island is fixed at 2.0 GHz: that of a core in rotation mode, or of a cluster with one (R416). Islands 0 to
1,023 are the cores', the others the cluster fabrics'. -/
def islandFixed (s : State) (i : Nat) : Bool :=
  if i < 1024 then (coreOf s i).rot else (List.range 8).any fun j => (coreOf s ((i - 1024) * 8 + j)).rot

/-- The clock of an island in steps of 125 MHz (R416): 16 is 2.0 GHz, its value at reset. DESIGN CHOICE, log 60. -/
def islandClock (s : State) (i : Nat) : Nat := if islandFixed s i then 16 else mapGet 16 s.pkg.islands i

/-- Platform code sets an island's clock between 1.0 GHz and 2.0 GHz: no effect on a fixed one (R416). The manual names no
register for it. DESIGN CHOICE, log 60. -/
def setIsland (s : State) (i steps : Nat) : State :=
  if islandFixed s i || 1152 ≤ i || steps < 8 || 16 < steps then s
  else modPkg s fun p => { p with islands := mapSet p.islands i steps }

/-- The bytes of an attestation report that the signatures cover (R415). -/
def reportBody (s : State) (part : Nat) (nonce : List Byte) : List Byte :=
  nonce ++ (s.pkg.meas.toList.flatMap fun m => leBytes 48 m.toNat) ++ leBytes 2 s.pkg.dev.toNat ++ leBytes 1 part ++
    leBytes 5 0 ++ leBytes 8 (timeNs s) ++ leBytes 4 s.pkg.svn

/-- A report with its signatures (R415). -/
def reportBytes (s : State) (part : Nat) (nonce : List Byte) : List Byte :=
  let b := reportBody s part nonce
  b ++ (List.range 64).map (Config.edSign b) ++ (List.range 3309).map (Config.mlSign b) ++ leBytes 287 0

/-- The key of a report's page: region 0xA, space 0b10 on the own device, 4 KiB aligned, in the partition's window
(R415). -/
def reportKey (s : State) (q : Nat) (v : Word) : Option Nat :=
  let n := v.toNat
  let off := bits n 31 0
  if bits n 63 60 ≠ 0xA || bits n 59 44 ≠ s.pkg.dev.toNat || bits n 33 32 ≠ 2 || off % 4096 ≠ 0 then none
  else match coreOfLogical s (some q) (bits n 43 34) with
    | none => none
    | some t =>
      let die := dieOfCore s t
      if ((partOf s q).srwin[die]?).any fun w => inWindow w off 4096 then some (sramKey die off) else none

/-- attest written (R415). -/
def attestWrite (s : State) (c : Nat) (v : Word) : Option State :=
  match partOfCore s c with
  | none => none
  | some q => (reportKey s q v).map fun k => storeBytes s k (reportBytes s q (memBytes s.mem k 32))

/-- A package CSR that a write only stores (R358, R392, R394, R397, R405, R406, R410). -/
def plainPkgWrite (p : Pkg) (num : Nat) (v : Word) : Pkg :=
  match num with
  | 0x221 => { p with partrec := v }
  | 0x233 => { p with pbtab := v }
  | 0x234 => { p with psp := v &&& 0x1FFFFFFFF0000#64 }
  | 0x235 => { p with asidtab := v &&& 0x7FF0000#64 }
  | 0x245 => { p with tdcfg := v &&& 0xFFFF0000#64 }
  | 0x250 => { p with hwbase := v &&& 0x3FFFFFFF0000#64 }
  | 0x251 => { p with hwlim := v &&& 0x3FFFFFFF0000#64 }
  | _ => if 0x252 ≤ num ∧ num ≤ 0x259 then { p with hacl := mapSet p.hacl (num - 0x252) (v &&& 0x80FFFFFFFFFFFFFF#64) } else p

/-- A per-core CSR replaced by what its rule gives. -/
def coreRule (s : State) (c : Nat) (k : Option Core) : Option State := k.map (setCore s c)

/-- A CSR other than a user CSR written as core `c` and slot `n`, at a level: none for the CSR fault (R337). -/
def csrWrite (s : State) (lv : Level) (c n num : Nat) (v : Word) : Option State :=
  let k := coreOf s c
  if perSlot num then some (modSlot s c n fun x => slotCsrWrite x num v)
  else match num with
    | 0x110 => coreRule s c (modeWriteOf k v)
    | 0x113 => some (ecqhWrite s c v)
    | 0x117 => some (errctlWrite s lv c v)
    | 0x130 => dspWrite s c n v
    | 0x132 => coreRule s c (spqWriteOf s c v)
    | 0x133 => coreRule s c (dqbWriteOf k v)
    | 0x134 => dtrecWrite s c v
    | 0x136 => cctlWrite s c v
    | 0x137 => coreRule s c (chanWriteOf k v)
    | 0x220 => partcmdWrite s v
    | 0x230 => fabcfgWriteOf s v
    | 0x240 => some (tctlWriteOf s v)
    | 0x241 => tstepWriteOf s v
    | 0x262 => attestWrite s c v
    | _ =>
      if 0x180 ≤ num ∧ num ≤ 0x1FF then coreRule s c (rotWrite k (num - 0x180) v)
      else if 0x400 ≤ num ∧ num ≤ 0x4FF then coreRule s c (laneWrite k (num - 0x400) v)
      else some (modPkg (modCore s c fun k => plainCoreWrite k num v) fun p => plainPkgWrite p num v)

/-! ## The instructions -/

/-- CSRR (R178): CSR access does not end a visit. -/
def execCsrr (d : Fin 10) (p : Fin 16) (num : BitVec 12) (s : State) : Host.Outcome State Fault Refusal :=
  runInstr s fun x =>
    if 0x00C ≤ num.toNat then x.illegal 0
    else x.guarded p <|
      x.finish (userCsrMeets x.s x.c x.t num.toNat) (writeReg x.t d (userCsrRead x.s x.c x.n x.t num.toNat)) 4

/-- CSRW (R178). -/
def execCsrw (a : Fin 10) (p : Fin 16) (num : BitVec 12) (s : State) : Host.Outcome State Fault Refusal :=
  runInstr s fun x =>
    if 0x00C ≤ num.toNat then x.illegal 0
    else x.guarded p <| x.needRegs [a] <| x.done (userCsrWrite x.t num.toNat (valOf x.t a))

/-- A CSR that a thread of slot `n` may name in CSRRP and CSRWP: a user CSR, a copy of its slot, one of its core or of
the package; the copies of other slots are listed too, at a level that slot `n` does not have (R337). DEDUCED, log 51. -/
def csrListed (n num : Nat) : Bool :=
  decide (num < 0x00C) || slotCsr n num || coreCsr num || (n != 0 && perSlot num)

/-- The checks of R337 on a CSR number: listed, supervisor level, platform level for platform CSRs; a slot that has no copy
of a per-slot CSR has none to name (R338). -/
def Ctx.csrLevel (x : Ctx) (num : Nat) (k : Body) : Body :=
  if !csrListed x.n num then x.illegal 0
  else x.needS <| if platformCsr num then x.needP (csrCopy x num k) else csrCopy x num k
where
  /-- A per-slot CSR must have its copy in the slot. -/
  csrCopy (x : Ctx) (num : Nat) (k : Body) : Body := if perSlot num && !slotCsr x.n num then x.illegal 0 else k

/-- A CSR fault: the value written and the CSR's number (R332). -/
def Ctx.csrFault (x : Ctx) (num : Nat) (v : Word) : Body := x.trap 0x12 v (BitVec.ofNat 64 num)

/-- CSRs whose write follows the thread's earlier accesses: dsp, dtrec, cctl, attest (R373, R375). -/
def csrReads (num : Nat) : Bool := num == 0x130 || num == 0x134 || num == 0x136 || num == 0x262

/-- CSRs whose write holds the slot in a counted wait: cctl, attest (R373, R415). -/
def csrCounted (num : Nat) : Bool := num == 0x136 || num == 0x262

/-- The address of the block that a write to dsp, dtrec, cctl or attest reads (R373, R375, R379, R415). -/
def csrBlockAt (num : Nat) (v : Word) : Word :=
  let tcm (off : Nat) : Word := BitVec.ofNat 64 (8 * 2 ^ 60 + off)
  match num with
  | 0x130 => tcm (bits v.toNat 17 6 * 64)
  | 0x262 => v
  | _ => tcm v.toNat

/-- The soft errors that the reading of such a block meets, and whether one is uncorrectable: as for a load, a precise memory
error (R345). DEDUCED, log 86. -/
def csrMeets (s : State) (c num : Nat) (v : Word) : State × Bool :=
  match num with
  | 0x130 => eccRead s c (tcmKey c (bits v.toNat 17 6 * 64)) 80
  | 0x134 => eccRead s c (tcmKey c v.toNat) 32
  | 0x136 => eccRead s c (tcmKey c v.toNat) 16
  | 0x262 => match (partOfCore s c).bind fun q => reportKey s q v with
    | some k => eccRead s c k 32
    | none => (s, false)
  | _ => (s, false)

/-- A value written to a CSR by the thread (R337). A write that holds the slot is checked when it issues, and takes effect when
the instruction issues again after its wait. DEDUCED, log 85. -/
def Ctx.csrSet (x : Ctx) (num : Nat) (v : Word) : Body :=
  if num < 0x00C then x.done (userCsrWrite x.t num v)
  else if csrReads num && pending x.s x.c x.n then x.stall (if csrCounted num then .drainCsr else .drain)
  else
    let (u, bad) := csrMeets x.s x.c num v
    match csrWrite u (levelOf x.levelSlot) x.c x.n num v with
    | none => x.csrFault num v
    | some s1 =>
      if bad then { x with s := u }.trap 0x16 (csrBlockAt num v) (BitVec.ofNat 64 (if num = 0x262 then 6 else 2))
      else if csrCounted num && x.sl.fetched.isNone then
        x.waits { x.s with uid := x.s.uid + 1 } (.counted (x.s.cycle + 1 + Config.latency x.s.uid))
      else x.doneIn s1 4

/-- CSRRP (R337). -/
def execCsrrp (d : Fin 10) (p : Fin 16) (num : BitVec 12) (s : State) : Host.Outcome State Fault Refusal :=
  runInstr s fun x => x.csrLevel num.toNat <| x.guarded p <|
    x.finish (userCsrMeets x.s x.c x.t num.toNat) (writeReg x.t d
      (if num.toNat < 0x00C then userCsrRead x.s x.c x.n x.t num.toNat else csrRead x.s x.c x.n num.toNat)) 4

/-- CSRWP (R337). -/
def execCsrwp (a : Fin 10) (p : Fin 16) (num : BitVec 12) (s : State) : Host.Outcome State Fault Refusal :=
  runInstr s fun x => x.csrLevel num.toNat <| x.guarded p <| x.needRegs [a] <| x.csrSet num.toNat (valOf x.t a)

/-- CSRWP of a value to a CSR, for the writes that the opcode table lists by themselves. DEDUCED, log 23. -/
def writeRow (s : State) (num : Nat) (v : Word) : Host.Outcome State Fault Refusal :=
  runInstr s fun x => x.csrLevel num <| x.csrSet num v

/-- DISPATCH (R375): CSRWP to dsp. -/
def execDispatch (v : Word) (s : State) : Host.Outcome State Fault Refusal := writeRow s 0x130 v

/-- DTREC_APPEND (R379): CSRWP to dtrec. -/
def execDtrecAppend (v : Word) (s : State) : Host.Outcome State Fault Refusal := writeRow s 0x134 v

/-- TSTEP_WRITE (R397): CSRWP to tstep. -/
def execTstepWrite (v : Word) (s : State) : Host.Outcome State Fault Refusal := writeRow s 0x241 v

/-- ATTEST (R415): CSRWP to attest. -/
def execAttest (v : Word) (s : State) : Host.Outcome State Fault Refusal := writeRow s 0x262 v

/-- CHAN_WRITE (R374): CSRWP to chan. -/
def execChanWrite (v : Word) (s : State) : Host.Outcome State Fault Refusal := writeRow s 0x137 v

/-- ROTATION_TABLE_WRITE (R48): CSRWP to a rotation turn. -/
def execRotationTableWrite (turn : BitVec 7) (v : Word) (s : State) : Host.Outcome State Fault Refusal :=
  writeRow s (0x180 + turn.toNat) v

/-- MODE_WRITE (R52): CSRWP to cmode. -/
def execModeWrite (v : Word) (s : State) : Host.Outcome State Fault Refusal := writeRow s 0x110 v

/-- SPQ_WRITE (R385): CSRWP to spq. -/
def execSpqWrite (v : Word) (s : State) : Host.Outcome State Fault Refusal := writeRow s 0x132 v

/-- DQB_WRITE (R374): CSRWP to dqb. -/
def execDqbWrite (v : Word) (s : State) : Host.Outcome State Fault Refusal := writeRow s 0x133 v

/-- FABCFG_WRITE (R389): CSRWP to fabcfg. -/
def execFabcfgWrite (v : Word) (s : State) : Host.Outcome State Fault Refusal := writeRow s 0x230 v

/-- EIE_WRITE (R338): CSRWP to errctl at platform level. -/
def execEieWrite (v : Word) (s : State) : Host.Outcome State Fault Refusal :=
  runInstr s fun x => x.needS <| x.needP <| x.csrSet 0x117 v

/-- CSR_REGISTER_WRITE (R337, R416): CSRWP to any CSR. At platform level a write that no CSR of R338 takes may be one to an
island's clock, whose register and value the manual does not give: free. DESIGN CHOICE, log 60. -/
def execCsrRegisterWrite (c : BitVec 12) (v : Word) (s : State) : Host.Outcome State Fault Refusal :=
  runInstr s fun x =>
    let write : Body := x.csrLevel c.toNat <| x.csrSet c.toNat v
    if csrListed x.n c.toNat || x.levelSlot ≠ 0 then write
    else match Config.islandWrite c.toNat v with
      | some (i, steps) => x.doneIn (setIsland x.s i steps) 4
      | none => write

/-! ## Counter commands (R373) -/

/-- A counter command of a partition; its STATUS is left in `ctrStatus`. -/
def counterRow (s : State) (part : BitVec 6) (op level id parent count : Nat) : Host.Outcome State Fault Refusal :=
  let r := counterCommand s (some part.toNat) op level id parent count
  .next { r.1 with ctrStatus := r.2 }

/-- CREATE (R373). -/
def execCreate (part : BitVec 6) (level : BitVec 8) (id parent : BitVec 16) (count : BitVec 32) (s : State) :
    Host.Outcome State Fault Refusal := counterRow s part 1 level.toNat id.toNat parent.toNat count.toNat

/-- CANCEL (R41, R373). -/
def execCancel (part : BitVec 6) (id : BitVec 16) (s : State) : Host.Outcome State Fault Refusal :=
  counterRow s part 2 0 id.toNat 0 0

/-- FREE (R373). -/
def execFree (part : BitVec 6) (id : BitVec 16) (s : State) : Host.Outcome State Fault Refusal :=
  counterRow s part 3 0 id.toNat 0 0

end Sys2Proof.Machine
end

