-- ==== Sys2Proof/Machine/Ctrl.lean ====
section
/-! DEFINITION. Thread contexts as bytes (R24) and the control space of region 0xF (R349). -/

namespace Sys2Proof.Machine

/-! ## Contexts -/

/-- Bits of a list of truth values, the first the lowest. -/
def boolBits : List Bool → Nat
  | [] => 0
  | b :: bs => (if b then 1 else 0) + 2 * boolBits bs

/-- The register state word of a context (R24). -/
def regStateWord (t : Thread) : Nat :=
  boolBits (t.regs.toList.map (·.rsv)) + boolBits (t.regs.toList.map (·.full)) * 2 ^ 10 + t.lane.toNat * 2 ^ 20 +
    bits t.fflags.toNat 4 1 * 2 ^ 28

/-- A context as 128 bytes (R24). -/
def contextBytes (t : Thread) : List Byte :=
  (t.regs.toList.flatMap fun r => leBytes 8 r.val.toNat) ++
    leBytes 8 (t.pc.toNat + t.home.toNat * 2 ^ 48 + t.prio.toNat * 2 ^ 58) ++ leBytes 4 t.pw.toNat ++
    leBytes 4 (regStateWord t) ++ leBytes 4 t.fmt.toNat ++ leBytes 4 t.sca.toNat ++ leBytes 4 t.scb.toNat ++
    leBytes 4 t.lpc.toNat ++ leBytes 6 t.lps.toNat ++ leBytes 6 t.lpe.toNat ++ leBytes 2 t.ccid.toNat ++
    leBytes 2 t.tagFlags.toNat

/-- A context read from 128 bytes; what the layout does not hold is kept from the thread given, and reserved bits stay zero
(R6, R21, R24, R66, R179). -/
def contextOf (t : Thread) (bs : List Byte) : Thread :=
  let st := fieldAt bs 92 4
  let pc := fieldAt bs 80 8
  { t with
    regs := vec10 fun i =>
      { val := BitVec.ofNat 64 (fieldAt bs (8 * i) 8), full := st.testBit (10 + i), rsv := st.testBit i },
    pc := BitVec.ofNat 48 pc, home := BitVec.ofNat 10 (bits pc 57 48), prio := BitVec.ofNat 3 (bits pc 60 58),
    pw := (BitVec.ofNat 32 (fieldAt bs 88 4) &&& 0xEFFFFFFF#32) ||| 1#32, lane := BitVec.ofNat 8 (bits st 27 20),
    fflags := BitVec.ofNat 5 (bits st 31 28 * 2), fmt := BitVec.ofNat 32 (fieldAt bs 96 4) &&& 0x7FFFF000#32,
    sca := BitVec.ofNat 32 (fieldAt bs 100 4 % 128), scb := BitVec.ofNat 32 (fieldAt bs 104 4 % 128),
    lpc := BitVec.ofNat 32 (fieldAt bs 108 4), lps := BitVec.ofNat 48 (fieldAt bs 112 6 / 4 * 4),
    lpe := BitVec.ofNat 48 (fieldAt bs 118 6 / 4 * 4), ccid := BitVec.ofNat 16 (fieldAt bs 124 2),
    tagFlags := BitVec.ofNat 16 (fieldAt bs 126 2) }

/-- Bytes of the context of a slot: zero where it holds no thread. -/
def slotContext (x : Slot) : List Byte :=
  match x.thread with
  | some t => contextBytes t
  | none => leBytes 128 0

/-! ## Reading control space -/

/-- Why an access to control space is refused: the access fault with its DETAIL, or the CSR fault (R349). -/
inductive CtrlErr where
  | access (detail : Nat)
  | csr (num : Nat)
  deriving DecidableEq, Repr

/-- The slot and the CSR of an offset of block 0x0: slot 256 for the plain form. -/
def ctrlCsr (off : Nat) : Nat × Nat := (if off < 0x10000 then 256 else off / 0x10000 - 1, off % 0x10000 / 8)

/-- The check of a CSR form (R349). -/
def ctrlCsrOk (lv : Level) (off : Nat) : Except CtrlErr (Nat × Nat) :=
  let (n, num) := ctrlCsr off
  let listed := if n = 256 then coreCsr num else n < 256 && slotCsr n num
  if platformCsr num && lv ≠ .platform && (coreCsr num || perSlot num) then .error (.access 3)
  else if !listed then .error (.access 1)
  else .ok (n, num)

/-- Entry of the tile table (R88). -/
def tileWord (t : Tile) : Nat :=
  t.readers.toNat + t.cause.toNat * 2 ^ 8 + bitAt t.inr 21 + t.ring.toNat * 2 ^ 22 +
    (match t.st with
      | .empty => 0
      | .filling => 1
      | .ready => 2
      | .draining => 3) * 2 ^ 29 + bitAt t.poison 31

/-- A word of the ring block (R93, R349). -/
def ringWord (k : Cluster) (off : Nat) : Nat :=
  let x := ringOf k (off / 32)
  match off % 32 with
  | 0 => x.cfg.toNat
  | 8 => x.tail.toNat * 2 ^ 32 + x.head.toNat
  | 16 => x.popp.toNat
  | _ => 0

/-- A doubleword of the guard map (R102, R349). -/
def guardWord (k : Cluster) (m : Nat) : Nat :=
  (k.guards.filter fun g => g / 64 == m).foldl (fun a g => a + 2 ^ (g % 64)) 0

/-- A semaphore's word (R349). -/
def semWord (x : Sem) : Nat := x.val.toNat + bitAt x.ovf 32 + bitAt x.err.isSome 33

/-- Bytes of a trace record (R378). -/
def traceBytes (r : TraceRec) : List Byte :=
  leBytes 8 r.tns ++ leBytes 1 r.kind ++ leBytes 1 r.slot ++ leBytes 2 r.peer ++ leBytes 2 r.ccid ++ leBytes 2 r.asid ++
    leBytes 8 r.arg.toNat ++ leBytes 8 r.pc.toNat

/-- Record at place `j` of a ring of `size` records of which a list holds the last and `count` were appended. -/
def ringRec {α : Type} (l : List α) (count size j : Nat) : Option α :=
  let kept := l.drop (l.length - size)
  (List.range kept.length).findSome? fun i =>
    if (count - kept.length + i) % size = j then kept[i]? else none

/-- A doubleword of the decision trace block (R378). -/
def traceWord (k : Core) (off : Nat) : Nat :=
  if off < 0x4000 then
    match ringRec k.trace k.traceCount 512 (off / 32) with
    | some r => fieldAt (traceBytes r) (off % 32) 8
    | none => 0
  else if off < 0x4200 then (mapGet 0#64 k.traceKinds ((off - 0x4000) / 8)).toNat
  else if off = 0x4200 then k.traceCount % 2 ^ 64
  else 0

/-- A doubleword of the soft-error log of a die: time, address, store code, syndrome (R349). -/
def softWord (l : List SoftRec) (off : Nat) : Nat :=
  if off = 0x2000 then l.length % 2 ^ 64
  else match ringRec l l.length 256 (off / 32) with
    | some r => (match off % 32 / 8 with
      | 0 => r.tns
      | 1 => r.addr
      | 2 => r.code
      | _ => r.syndrome) % 2 ^ 64
    | none => 0

/-- Bytes of each block (R349). -/
def blockSize (block : Nat) : Nat :=
  match block with
  | 0 => 0x1010000
  | 1 => 0x4000
  | 2 => 0x800
  | 3 => 0x8000
  | 4 => 0x800
  | 5 => 0x8000
  | 6 => 0x4208
  | 7 => 0x2008
  | _ => 0

/-- A doubleword of control space, read at a level (R349). -/
def ctrlRead (s : State) (lv : Level) (c block off : Nat) : Except CtrlErr Word :=
  let k := coreOf s c
  let cl := clusterOf s (clusterOfCore c)
  if 8 ≤ block then .error (.access 0)
  else if blockSize block ≤ off then .error (.access 1)
  else match block with
    | 0 => (ctrlCsrOk lv off).map fun p => csrRead s c p.1 p.2
    | 1 => .ok (BitVec.ofNat 64 (tileWord (tileOf cl (off / 8))))
    | 2 => .ok (BitVec.ofNat 64 (ringWord cl off))
    | 3 => .ok (BitVec.ofNat 64 (guardWord cl (off / 8)))
    | 4 => .ok (BitVec.ofNat 64 (semWord (semOf k (off / 8))))
    | 5 => .ok (BitVec.ofNat 64 (fieldAt (slotContext (slotIn k (off / 128))) (off % 128) 8))
    | 6 => .ok (BitVec.ofNat 64 (traceWord k off))
    | _ => .ok (BitVec.ofNat 64 (softWord (mapGet [] s.pkg.softLog (dieOfCore s c)) off))

/-! ## Writing control space -/

/-- The guard map with a doubleword replaced (R102). -/
def guardSet (k : Cluster) (m v : Nat) : Cluster :=
  let bitsOn := ((List.range 64).filter fun i => v.testBit i).map fun i => 64 * m + i
  { k with guards := (k.guards.filter fun g => g / 64 < m) ++ bitsOn ++ (k.guards.filter fun g => m < g / 64) }

/-- A list of bytes with eight of them replaced. -/
def setBytes (bs : List Byte) (lo v : Nat) : List Byte := bs.take lo ++ leBytes 8 v ++ bs.drop (lo + 8)

/-- A doubleword of a context written (R347, R349). -/
def contextSet (x : Slot) (lo v : Nat) : Slot :=
  { x with thread := x.thread.map fun t => contextOf t (setBytes (contextBytes t) lo v) }

/-- A doubleword of control space written at a level; read-only state stays (R349). -/
def ctrlWrite (s : State) (lv : Level) (c block off : Nat) (v : Word) : Except CtrlErr State :=
  let k := coreOf s c
  if 8 ≤ block then .error (.access 0)
  else if blockSize block ≤ off then .error (.access 1)
  else match block with
    | 0 =>
      match ctrlCsrOk lv off with
      | .error e => .error e
      | .ok (n, num) =>
        match csrWrite s lv c (if n = 256 then 0 else n) num v with
        | none => .error (.csr num)
        | some s1 => .ok s1
    | 3 => .ok (modCluster s (clusterOfCore c) fun x => guardSet x (off / 8) v.toNat)
    | 4 =>
      let m := semOf k (off / 8)
      .ok (if v.getLsbD 32 then modCore s c fun y => putSem y (off / 8) { m with ovf := false } else s)
    | 5 =>
      .ok (if lv = .platform && k.mode = .debugHalt then
          setCore (clearMark s (regKey c (off / 128) (off % 128)) 8) c
            (putSlot k (off / 128) (contextSet (slotIn k (off / 128)) (off % 128) v.toNat))
        else s)
    | _ => .ok s

/-- An access to control space refused: the precise trap (R349). -/
def Ctx.ctrlTrap {α : Type} (x : Ctx) (a v : Word) (e : CtrlErr) : Except Stop α :=
  match e with
  | .access d => x.trap 0x06 a (BitVec.ofNat 64 d)
  | .csr num => x.trap 0x12 v (BitVec.ofNat 64 num)

/-- A load from control space (R349). -/
def Ctx.ctrlLoad (x : Ctx) (a : Word) (size core block off : Nat) (k : Word → Body) : Body :=
  if size ≠ 8 || !aligned a 8 then x.trap 0x05 a (BitVec.ofNat 64 size)
  else match ctrlRead x.s (levelOf x.levelSlot) core block off with
    | .error e => x.ctrlTrap a 0#64 e
    | .ok v => k v

/-- A store to control space (R349). -/
def Ctx.ctrlStore (x : Ctx) (a v : Word) (size core block off : Nat) (k : State → Body) : Body :=
  if size ≠ 8 || !aligned a 8 then x.trap 0x05 a (BitVec.ofNat 64 size)
  else match ctrlWrite x.s (levelOf x.levelSlot) core block off v with
    | .error e => x.ctrlTrap a v e
    | .ok s1 => k s1

end Sys2Proof.Machine
end

