-- ==== Sys2Proof/Machine/MemInstr.lean ====
section
/-! DEFINITION. Loads, stores, atomics, FENCE and WATCH (R183 to R194), page walks (R188, R354 to R356) and departures
from the request egress queue (R210). -/

namespace Sys2Proof.Machine

/-! ## Accesses -/

/-- An access of a thread before its target is known. -/
def accessOf (kind : AccKind) (size : Nat) (addr : Word) (data : Nat) : Access :=
  { kind := kind, tgt := .key 0, size := size, addr := addr, data := data, expect := 0, op := .add, reg := 16, sgn := false,
    acq := false, rel := false, scope := 0, sem := 0, inc := 0, tag := 0 }

/-- The alignment rule of LD and ST: natural, or inside one granule (R183). It comes before the access checks, those of region
0xF too. DESIGN CHOICE, log 95. -/
def Ctx.looselyAligned (x : Ctx) (a : Word) (n : Nat) (k : Body) : Body :=
  if aligned a n || inGranule a n then k else x.trap 0x05 a (BitVec.ofNat 64 n)

/-- Natural alignment (R183). -/
def Ctx.aligned (x : Ctx) (a : Word) (n : Nat) (k : Body) : Body :=
  if Machine.aligned a n then k else x.trap 0x05 a (BitVec.ofNat 64 n)

/-- A load of the own stores at issue: the value, or the uncorrectable error (R187, R345). -/
def Ctx.loadOwn (x : Ctx) (a : Access) (k : Nat) (d : Nat) : Body :=
  let (s1, bad) := eccRead x.s x.c k a.size
  if bad then .error (.trap s1 { cause := 0x16, tval := a.addr, detail := BitVec.ofNat 64 (storeCode k), more := 0 } none)
  else x.finish s1 (writeReg x.t d (loadValue a.sgn a.size (memNat s1.mem k a.size))) 4

/-- A load: own stores at issue, control space at issue, every other store by a request whose data the slot awaits
(R186, R187, R189, R349). -/
def Ctx.load (x : Ctx) (d : Nat) (a : Access) : Body :=
  x.localHome a.addr <| x.looselyAligned a.addr a.size <|
    x.route .read a.addr a.size true fun r =>
      let b := { a with reg := d, tag := x.s.uid }
      let far (w : Wait) : Body := x.egressFor r a.addr <| x.waits (sendAccess x.s x.c x.n r b) w
      match r with
      | .own k => if mustQueue x.s x.c x.n { a with tgt := .key k } then far (.loadOwn x.s.uid) else x.loadOwn a k d
      | .ctrl core block off => 
        if mustQueue x.s x.c x.n a then x.stall .drain
        else x.ctrlLoad a.addr a.size core block off fun v => x.done (writeReg x.t d v)
      | _ => far (.load x.s.uid)

/-- A store of the own stores at issue; a part of a poisoned codeword is a held error (R188, R345). -/
def Ctx.storeOwn (x : Ctx) (a : Access) (k : Nat) : Body :=
  let (s1, bad) := eccPart x.s x.c k a.size
  if bad then x.finish s1 (holdError x.t 0x16 a.addr) 4
  else x.finish (threadStore x.s x.c x.n k (leBytes a.size a.data)) x.t 4

/-- A store: own stores at issue where no earlier access must come first, control space at issue, every other store
posted (R186, R188, R189, R349, R372). -/
def Ctx.store (x : Ctx) (a : Access) : Body :=
  x.localHome a.addr <| x.looselyAligned a.addr a.size <|
    x.route .write a.addr a.size false fun r =>
      let posted := fun _ : Unit => x.egressFor r a.addr <| x.finish (sendAccess x.s x.c x.n r a) x.t 4
      x.notCounters r a.addr a.size <|
        match r with
        | .own k => if mustQueue x.s x.c x.n { a with tgt := .key k } then posted () else x.storeOwn a k
        | .ctrl core block off =>
          if mustQueue x.s x.c x.n a then x.stall .drain
          else x.ctrlStore a.addr (BitVec.ofNat 64 a.data) a.size core block off fun s1 => x.doneIn s1 4
        | _ => posted ()

/-- The low bytes of a register (R186). -/
def lowBytes (v : Word) (n : Nat) : Nat := v.toNat % 2 ^ (8 * n)

/-- LD (R186). -/
def execLd (d a : Fin 10) (p : Fin 16) (z : Sz) (sx : Bool) (i : BitVec 11) (s : State) : Host.Outcome State Fault Refusal :=
  runInstr s fun x => x.guarded p <| x.needRegs [a] <|
    x.load d { accessOf .ld z.bytes (effAddr (valOf x.t a) i z) 0 with sgn := sx }

/-- ST (R186). -/
def execSt (v a : Fin 10) (p : Fin 16) (z : Sz) (i : BitVec 11) (s : State) : Host.Outcome State Fault Refusal :=
  runInstr s fun x => x.guarded p <| x.needRegs [v, a] <|
    x.store (accessOf .st z.bytes (effAddr (valOf x.t a) i z) (lowBytes (valOf x.t v) z.bytes))

/-- LD.acq (R189): natural alignment. -/
def execLdAcq (d a : Fin 10) (p : Fin 16) (z : Sz) (sx : Bool) (c : Scope) (i : BitVec 7) (s : State) :
    Host.Outcome State Fault Refusal :=
  runInstr s fun x => x.guarded p <| x.needRegs [a] <|
    let ea := effAddr (valOf x.t a) i z
    x.aligned ea z.bytes <|
      x.load d { accessOf .ld z.bytes ea 0 with sgn := sx, acq := c != .thr, scope := c.code }

/-- ST.rel (R189): natural alignment; every earlier access comes first (R110, R112). -/
def execStRel (v a : Fin 10) (p : Fin 16) (z : Sz) (c : Scope) (i : BitVec 7) (s : State) :
    Host.Outcome State Fault Refusal :=
  runInstr s fun x => x.guarded p <| x.needRegs [v, a] <|
    let ea := effAddr (valOf x.t a) i z
    x.aligned ea z.bytes <|
      x.store { accessOf .st z.bytes ea (lowBytes (valOf x.t v) z.bytes) with rel := c != .thr, scope := c.code }

/-- Room for one more outstanding request (R185). -/
def Ctx.outstanding (x : Ctx) (k : Body) : Body :=
  x.needRes (decide ((coreOf x.s x.c).outstanding < Config.outstandingMax)) .outstanding k

/-- The state with one more outstanding request (R185). -/
def moreOutstanding (s : State) (c : Nat) : State := modCore s c fun k => { k with outstanding := k.outstanding + 1 }

/-- A request of LDN, STN or AMO: sent, counted, and the thread after it (R185, R190, R192). -/
def Ctx.request (x : Ctx) (r : Route) (a : Access) (t : Thread) : Body :=
  x.outstanding <| x.egressFor r a.addr <| x.finish (moreOutstanding (sendAccess x.s x.c x.n r a) x.c) t 4

/-- The answer of a request that is performed at issue: control space (R190, R349). -/
def selfAnswer (s : State) (c n : Nat) (body : MsgBody) : State :=
  putMsg s { mkMsg s c 256 s.pkg.dev.toNat c .reply false body with asid := (slotOf s c n).asid.toNat, towards := tidOf s c n }

/-- LDN (R190): it reserves rd, so it names core-local state (R209). -/
def execLdn (d a b : Fin 10) (p : Fin 16) (z : Sz) (s : State) : Host.Outcome State Fault Refusal :=
  runInstr s fun x => x.atHome <| x.guarded p <| x.needRegs [a, b] <|
    let ea := valOf x.t a + valOf x.t b
    x.aligned ea z.bytes <| x.route .read ea z.bytes false fun r =>
      match r with
      | .ctrl core block off =>
        if mustQueue x.s x.c x.n (accessOf .ldn z.bytes ea 0) then x.stall .drain
        else x.outstanding <| x.ctrlLoad ea z.bytes core block off fun v =>
          x.finish (selfAnswer (moreOutstanding x.s x.c) x.c x.n (.reply x.n d v true)) (reserveReg x.t d) 4
      | _ => x.request r { accessOf .ldn z.bytes ea 0 with reg := d } (reserveReg x.t d)

/-- STN (R190). -/
def execStn (v a b : Fin 10) (p : Fin 16) (z : Sz) (s : State) : Host.Outcome State Fault Refusal :=
  runInstr s fun x => x.guarded p <| x.needRegs [v, a, b] <|
    let ea := valOf x.t a + valOf x.t b
    x.localHome ea <| x.aligned ea z.bytes <| x.route .write ea z.bytes false fun r =>
      x.notCounters r ea z.bytes <|
        match r with
        | .ctrl core block off =>
          if mustQueue x.s x.c x.n (accessOf .stn z.bytes ea 0) then x.stall .drain
          else x.outstanding <| x.ctrlStore ea (valOf x.t v) z.bytes core block off fun s1 =>
            x.doneIn (selfAnswer (moreOutstanding s1 x.c) x.c x.n (.stnAck x.n)) 4
        | _ => x.request r (accessOf .stn z.bytes ea (lowBytes (valOf x.t v) z.bytes)) x.t

/-- Whether a route leads to host memory (R405). -/
def isHostRoute : Route → Bool
  | .far k _ => keyStore k == 4
  | _ => false

/-- An AMO on control space (R192, R349): performed at issue, rd RESERVED until the reply. -/
def Ctx.ctrlAmo (x : Ctx) (d : Nat) (a : Access) (core block off : Nat) : Body :=
  if a.op = .fadd then x.trap 0x05 a.addr (BitVec.ofNat 64 a.size)
  else x.outstanding <| x.ctrlLoad a.addr a.size core block off fun old =>
    let replied (s1 : State) (t : Thread) : Body :=
      x.finish (selfAnswer (moreOutstanding s1 x.c) x.c x.n (.reply x.n d old true)) (reserveReg t d) 4
    match amoNew a.op 64 old.toNat a.data a.expect with
    | none => replied x.s x.t
    | some v => x.ctrlStore a.addr (BitVec.ofNat 64 v) a.size core block off fun s1 =>
        replied s1 ((threadOf s1 x.c x.n).getD x.t)

/-- AMO (R191, R192). -/
def execAmo (d a b : Fin 10) (p : Fin 16) (n : Ann) (c : Scope) (w : Bool) (o : AmoOp) (s : State) :
    Host.Outcome State Fault Refusal :=
  runInstr s fun x => x.atHome <| x.guarded p <| x.needRegs ([a.val, b.val] ++ if o = .cas then [d.val] else []) <|
    let ea := valOf x.t a
    let size := if w then 8 else 4
    let acc : Access :=
      { accessOf .amo size ea (lowBytes (valOf x.t b) size) with
        expect := lowBytes (valOf x.t d) size, op := o, reg := d, acq := n.isAcq && c != .thr,
        rel := n.isRel && c != .thr, scope := c.code }
    x.aligned ea size <| x.route .amo ea size false fun r =>
      x.notCounters r ea size <|
        match r with
        | .ctrl core block off =>
          if mustQueue x.s x.c x.n acc then x.stall .drain else x.ctrlAmo d acc core block off
        | _ =>
          if isHostRoute r then x.trap 0x06 ea 0#64
          else x.request r acc (reserveReg x.t d)

/-! ## FENCE and WATCH -/

/-- A FENCE whose earlier accesses are performed: fetch sees the thread's stores, a held error is delivered, else it
completes (R127, R184, R193). -/
def Ctx.fenceDone (x : Ctx) : Body :=
  let s1 := { x.s with stale := fenceStale x.s.stale x.t.tid }
  x.deliverHeld s1 <| x.finish s1 x.t 4

/-- FENCE (R193). -/
def execFence (p : Fin 16) (c : Scope) (s : State) : Host.Outcome State Fault Refusal :=
  runInstr s fun x => x.guarded p <|
    if c = .thr then x.done x.t
    else if pending x.s x.c x.n then x.waits x.s (.fence c.code)
    else x.fenceDone

/-- FENCE_COMPLETE (R193). -/
def execFenceComplete (core slot : Nat) (s : State) : Host.Outcome State Fault Refusal :=
  let x := slotOf s core slot
  event s <| match x.wait with
    | .fence _ =>
      if x.st = .waiting && !x.isHeld && !pending s core slot then some (fromWait s core slot Ctx.fenceDone) else none
    | _ => none

/-- Watch entries of a core in use (R194). -/
def watchCount (k : Core) : Nat :=
  (k.slots.filter fun p => match p.2.wait with
    | .watch _ _ _ _ => p.2.st = .waiting
    | _ => false).length

/-- A read at the line of a WATCH: the value, or the precise fault (R194, R345). -/
def Ctx.watchRead (x : Ctx) (a : Word) (k : Nat) (f : State → Word → Body) : Body :=
  let (s1, bad) := eccRead x.s x.c k 8
  if bad then .error (.trap s1 { cause := 0x16, tval := a, detail := BitVec.ofNat 64 (storeCode k), more := 0 } none)
  else f s1 (BitVec.ofNat 64 (memNat s1.mem k 8))

/-- WATCH (R194). -/
def execWatch (d a b : Fin 10) (p : Fin 16) (s : State) : Host.Outcome State Fault Refusal :=
  runInstr s fun x => x.guarded p <| x.needRegs [a, b] <|
    let ea := valOf x.t a
    x.aligned ea 8 <|
      if regionOf ea ≠ 0 then x.trap 0x06 ea 0#64
      else x.route .read ea 8 true fun r =>
        match r with
        | .far k _ =>
          if mustQueue x.s x.c x.n { accessOf .ld 8 ea 0 with tgt := .key k } then x.stall .drain
          else x.needRes (decide (watchCount (coreOf x.s x.c) < Config.watchEntries)) .watch <|
            x.watchRead ea k fun s1 v =>
              if v ≠ valOf x.t b then x.finish s1 (writeReg x.t d v) 4
              else x.waits s1 (.watch (k - k % 64) ea d false)
        | _ => x.trap 0x06 ea 0#64

/-- WATCH_WAKE (R194): a write to the line, or resumption, completes the WATCH with an acquire read. -/
def execWatchWake (core slot : Nat) (s : State) : Host.Outcome State Fault Refusal :=
  let x := slotOf s core slot
  event s <| match x.wait with
    | .watch key va reg hit =>
      if x.st = .waiting && !x.isHeld && hit then
        some (wakeRes (fromWait s core slot fun y =>
          y.watchRead va (key + va.toNat % 64) fun s1 v => y.finish s1 (writeReg y.t reg v) 4) core .watch)
      else none
    | _ => none

/-! ## Page walks -/

/-- The slot that waits for a walk, made READY or trapped (R188, R354). -/
def walkEnds (s : State) (w : Walk) (r : Except (Nat × Nat) (Nat × Nat)) : State :=
  let waiting := match (slotOf s w.core w.slot).wait with
    | .walk uid _ => uid == w.uid
    | _ => false
  match r with
  | .ok (leaf, lv) =>
    let s1 := modCore s w.core fun k => { k with tlb := k.tlb ++ [tlbOf w.asid w.va.toNat leaf lv] }
    if waiting then reissueSlot s1 w.core w.slot else s1
  | .error (lv, st) =>
    if waiting then
      takeTrap (reissueSlot s w.core w.slot) w.core w.slot
        { cause := 0x07, tval := w.va, detail := BitVec.ofNat 64 (walkDetail lv st), more := 0 } none
    else s

/-- Whether a write that the accessing thread made before the access of a walk is not performed: the walk reads after it
(R356). -/
def walkFollows (s : State) (w : Walk) : Bool :=
  (flying s).any fun m => isAccessOf (tidOf s w.core w.slot) m && decide (m.uid < w.uid) &&
    (match m.body with
      | .access a => accWrites a
      | _ => false)

/-- PAGE_WALK (R351 to R356): the walk of a thread's access; a failed walk is never cached. -/
def execPageWalk (walk : Nat) (s : State) : Host.Outcome State Fault Refusal :=
  event s <| (s.walks.find? fun w => w.uid == walk).bind fun w =>
    if s.cycle < w.due || walkFollows s w then none
    else
      let s1 := walkMeets s w.core (partOfCore s w.core) w.asid w.va.toNat
      some (walkEnds { s1 with walks := s1.walks.filter fun v => v.uid != walk } w
        (walkTables s (partOfCore s w.core) w.asid w.va.toNat))

/-! ## Leaving the egress queue -/

/-- The target word that names the target of a message (R207). -/
def wordOfMsg (m : Msg) : Word :=
  let slot := match m.body with
    | .send n _ _ _ => n
    | _ => 0
  BitVec.ofNat 64 (slot + m.dcore * 2 ^ 8 + m.ddev * 2 ^ 18)

/-- What fills the rd of a SPAWN whose packet never reaches its target (R196; log 79). -/
def lostStatus (ask : Nat) (p : Packet) : Option (Nat × Word) := p.status.map fun d => (d, Config.spawnLost ask)

/-- A request that finds no route, or a connection that is down: the far-end access fault of its sender (R184, R390,
R395). The rd of a SPAWN is filled with a free value beside the held error. DESIGN CHOICE, log 79. -/
def failRequest (s : State) (m : Msg) : State :=
  match m.body with
  | .access a => failAccess s { m with ddev := m.sdev, dcore := m.score } a { cause := 0x06, addr := a.addr, detail := 2#64 }
  | .packet p =>
    let s1 := answer (dropMsg s m.uid) { m with dcore := m.score }
      (.farFault m.sslot (lostStatus m.ask p) false 0x06 (wordOfMsg m))
    returnCredit s1 m.score p.credit
  | .send _ _ _ _ => answer (dropMsg s m.uid) { m with dcore := m.score } (.farFault m.sslot none false 0x06 (wordOfMsg m))
  | .sigr _ _ => answer (dropMsg s m.uid) { m with dcore := m.score } (.farFault m.sslot none false 0x06 (wordOfMsg m))
  | _ => dropMsg s m.uid

/-- Requests to other devices that their sender counts until they are answered. -/
def countsRemote : MsgBody → Bool
  | .access _ => true
  | .packet p => p.status.isSome
  | _ => false

/-- Accesses that fault when the connection of their target goes down: LD, LDN, STN, AMO (R395). -/
def faultsWhenDown (a : Access) : Bool := a.kind == .ld || a.kind == .ldn || a.kind == .stn || a.kind == .amo

/-- A request for a peer whose connection is down: it is discarded; what waits for an answer and a posted send fault (R208,
R395). -/
def downRequest (s : State) (m : Msg) : State :=
  match m.body with
  | .access a => if faultsWhenDown a then failRequest s m else dropMsg s m.uid
  | .packet _ | .send _ _ _ _ | .sigr _ _ => failRequest s m
  | _ => dropMsg s m.uid

/-- Whether a message for another device must stay here: a release behind an earlier access, an access behind one that it
follows (R110, R112). -/
def heldBack (s : State) (m : Msg) : Bool :=
  (isRelease m.body && earlierAccess s m.score m.thread m.uid) ||
    (match m.body with
      | .access a => mustFollow s m a
      | _ => false)

/-- Whether a message is the first of its core's request egress queue. -/
def firstOfQueue (s : State) (m : Msg) : Bool :=
  !(s.net.takeWhile fun e => e.uid != m.uid).any fun e => e.egress && e.net != .timediv && e.score == m.score

/-- Whether an earlier message of the same flow still stands in an egress queue, that of another core among them (R118). -/
def flowBehind (s : State) (m : Msg) : Bool :=
  flowOrdered m && (s.net.takeWhile fun e => e.uid != m.uid).any fun e => e.egress && sameFlow e m && flowOrdered e

/-- EGRESS_QUEUE_DEPARTURE (R210, R322): the first entry of a core's queue leaves; one for another device goes to its
gateway (R391) after what it follows (R110, R112, R118). -/
def execEgressQueueDeparture (msg : Nat) (s : State) : Host.Outcome State Fault Refusal :=
  event s <| (findMsg s msg).bind fun m =>
    if !m.egress || m.net = .timediv || decide (s.cycle < m.due) || !firstOfQueue s m then none
    else if m.ddev = s.pkg.dev.toNat then
      some (wakeRes { s with uid := s.uid + 1, net := s.net.map fun e =>
        if e.uid = msg then { e with egress := false, due := s.cycle + 1 + Config.latency s.uid } else e } m.score .egress)
    else if heldBack s m || flowBehind s m then none
    else match linkSend s m 0 with
      | some s1 => some (wakeRes (dropMsg s1 msg) m.score .egress)
      | none =>
        let s1 := if linkDown s m.ddev then downRequest s m else failRequest s m
        some (wakeRes (if countsRemote m.body then settleAsk s1 m.score msg else s1) m.score .egress)

end Sys2Proof.Machine
end

