-- ==== Sys2Proof/Machine/ThreadInstr.lean ====
section
/-! DEFINITION. SPAWN, FORK, JOIN, EXIT, YIELD, PRIO, ENQ and GO (R31 to R35, R196 to R202), the work-stealing deque
(R376), queue control blocks (R368, R369), the entropy source (R181, R182) and the ends of timed waits (R158, R218). -/

namespace Sys2Proof.Machine

/-! ## SPAWN -/

/-- The 64 bytes of a packet that a SPAWN reads, with the state after the read: an own store or one of the package at
once, one of another device by a request (R196). -/
def Ctx.packetAt (x : Ctx) (a : Word) (k : State → List Byte → Body) : Body :=
  let acc := { accessOf .ld 64 a 0 with tag := x.s.uid }
  let near (key : Nat) : Body :=
    if mustQueue x.s x.c x.n { acc with tgt := .key key } then x.stall .drain
    else
      match farGuard x.s key 64 a with
      | some e => x.trap e.cause e.addr e.detail
      | none =>
        let (s1, bad) := eccRead x.s x.c key 64
        if bad then .error (.trap s1 { cause := 0x16, tval := a, detail := BitVec.ofNat 64 (storeCode key), more := 0 } none)
        else k s1 (memBytes s1.mem key 64)
  match x.sl.fetched with
  | some v => k x.s (leBytes 64 v)
  | none => x.route .read a 64 true fun r =>
    match r with
    | .own key => near key
    | .far key _ => near key
    | .dev _ _ _ _ => x.egressFor r a <| x.waits (sendAccess x.s x.c x.n r acc) (.fetch x.s.uid)
    | .ctrl _ _ _ => x.trap 0x05 a 64#64

/-- The end of a SPAWN that sends nothing: its status in rd (R196). DEDUCED, log 46. -/
def Ctx.spawnStatus (x : Ctx) (s : State) (d : Nat) (st : Word) : Body := x.finish s (writeReg x.t d st) 4

/-- The packet of a SPAWN sent from a state in which its counter is raised, or uncounted to another device (R196). -/
def Ctx.spawnSend (x : Ctx) (s : State) (v : Word) (d : Nat) (to_ : Dest) (ws : Vector Word 8) (counted : Bool) : Body :=
  let h := homeOf x.s x.c x.n
  let p : Packet := { words := ws, a0 := sourceId x.s h.1 h.2, a1 := valOf x.t d, credit := none, status := some d,
                      counted := counted, stage := none }
  x.egress v <|
    let s1 := post s x.c x.n to_.dev to_.core .request true (.packet p)
    x.finish (if to_.own then s1 else askRemote s1 x.c x.n s.uid false) (reserveReg x.t d) 4

/-- SPAWN (R196): it reserves rd, so it names core-local state (R330). -/
def execSpawn (d a b : Fin 10) (p : Fin 16) (s : State) : Host.Outcome State Fault Refusal :=
  runInstr s fun x => x.atHome <| x.guarded p <| x.needRegs [d, a, b] <|
    let ea := valOf x.t a
    let v := valOf x.t b
    x.coreTarget v b fun to_ => x.aligned ea 64 <| x.packetAt ea fun s0 bs =>
      let ws := packetOf bs
      let ccid := ctlCcid (pktWord ws 0)
      let s1 := if to_.own then attrMeets s0 x.c ccid else s0
      let part := partOfCore s1 x.c
      let fields := spawnFieldsOk (spawnFcnt s1 x.c to_.own ccid) ws
      if to_.own then
        let u := counterMeets s1 part ccid
        match counterIncr u part ccid with
        | .notOpen => x.spawnStatus u d 1#64
        | .limit => if fields then x.spawnStatus u d 3#64 else x.spawnStatus u d 2#64
        | .done s2 => if fields then x.spawnSend s2 v d to_ ws true else x.spawnStatus u d 2#64
      else if fields then x.spawnSend s1 v d to_ ws false
      else x.spawnStatus s1 d 2#64

/-! ## Queue control blocks -/

/-- A queue control block as read (R368). -/
structure Qcb where
  key : Nat
  ring : Nat
  cap : Nat
  asid : Nat
  flags : Nat
  side : Nat
  tail : Nat
  claim : Nat
  head : Nat
  ok : Bool
  deriving DecidableEq, Repr

/-- Bytes that a QCB reserves (R368). -/
def qcbReserved (bs : List Byte) : Bool :=
  fieldAt bs 12 2 / 2 ^ 14 == 0 && fieldAt bs 14 1 / 4 == 0 && fieldAt bs 15 1 == 0 && fieldAt bs 16 2 / 2 ^ 10 == 0 &&
    fieldAt bs 18 6 == 0 && fieldAt bs 32 32 == 0 && fieldAt bs 72 56 == 0 && fieldAt bs 136 56 == 0 && fieldAt bs 208 48 == 0

/-- A power of two from 1 to 2^24 (R368). -/
def qcbCapOk (n : Nat) : Bool := (List.range 25).any fun i => n == 2 ^ i

/-- The QCB at a key, with the checks of R369 for an appender's ASID. -/
def qcbAt (s : State) (key asid : Nat) : Qcb :=
  let bs := memBytes s.mem key 256
  { key := key, ring := fieldAt bs 0 8, cap := fieldAt bs 8 4, asid := fieldAt bs 12 2, flags := fieldAt bs 14 1,
    side := fieldAt bs 24 8, tail := fieldAt bs 64 8, claim := fieldAt bs 128 8, head := fieldAt bs 192 8,
    ok := (fieldAt bs 14 1).testBit 0 && qcbCapOk (fieldAt bs 8 4) && fieldAt bs 0 8 % 64 == 0 &&
      fieldAt bs 24 8 % 16 == 0 && qcbReserved bs && fieldAt bs 12 2 == asid }

/-- CLOSED, or no free position (R369). -/
def qcbClosed (q : Qcb) : Bool := q.flags.testBit 1
def qcbFull (q : Qcb) : Bool := decide (q.cap ≤ (q.claim + 2 ^ 64 - q.head) % 2 ^ 64)

/-- A refusal on the way to a QCB: cause, TVAL, DETAIL. -/
def qcbTrap (cause : Nat) (a : Nat) (detail : Nat) : TrapInfo :=
  { cause := cause, tval := BitVec.ofNat 64 a, detail := BitVec.ofNat 64 detail, more := 0 }

/-- The QCB at a virtual address, read by a slot (R201, R369, R376): region 0x0, alignment, translation, header. A QCB
in the host window is used there. DESIGN CHOICE, log 99. -/
def openQcb (s : State) (c n a : Nat) : Except TrapInfo Qcb :=
  let asid := (slotOf s c n).asid.toNat
  if a % 256 ≠ 0 then .error (qcbTrap 0x05 a 256)
  else if bits a 63 57 ≠ 0 then .error (qcbTrap 0x06 a 0)
  else match transNow s (partOfCore s c) asid (userAt s c n) .amo a 256 with
    | .error e => .error (qcbTrap 0x07 a e)
    | .ok k =>
      if eccBad s.ecc k 256 then .error (qcbTrap 0x16 a (storeCode k))
      else
        let q := qcbAt s k asid
        if q.ok then .ok q else .error (qcbTrap 0x06 a 0)

/-- The soft errors that the reading of a QCB meets, those of its walk among them (R345, R346). -/
def qcbMeets (s : State) (c n a : Nat) : State :=
  let asid := (slotOf s c n).asid.toNat
  let s1 := walkMeets s c (partOfCore s c) asid a
  match transNow s1 (partOfCore s1 c) asid (userAt s1 c n) .amo a 256 with
  | .error _ => s1
  | .ok k => (eccRead s1 c k 256).1

/-- The keys of the packet and, where there is one, the side record of position `pos` (R368). -/
def qcbPlace (s : State) (c n : Nat) (q : Qcb) (pos : Nat) : Except TrapInfo (Nat × Option Nat) :=
  let asid := (slotOf s c n).asid.toNat
  let at_ (a len : Nat) : Except TrapInfo Nat :=
    match transNow s (partOfCore s c) asid (userAt s c n) .write a len with
    | .error e => .error (qcbTrap 0x07 a e)
    | .ok k => .ok k
  match at_ (q.ring + 64 * (pos % q.cap)) 64 with
  | .error e => .error e
  | .ok k =>
    if q.side = 0 then .ok (k, none)
    else match at_ (q.side + 16 * (pos % q.cap)) 16 with
      | .error e => .error e
      | .ok k2 => .ok (k, some k2)

/-- A packet and its side record written at their places (R369). -/
def qcbWrite (s : State) (place : Nat × Option Nat) (ws : Vector Word 8) (a0 a1 : Word) : State :=
  let s1 := storeBytes s place.1 (packetBytes ws)
  match place.2 with
  | none => s1
  | some k => storeBytes s1 k (leBytes 8 a0.toNat ++ leBytes 8 a1.toNat)

/-- A counter of a QCB written: TAIL at 64, CLAIM at 128, NFULL at 200 (R368). -/
def qcbSet (s : State) (key lo v : Nat) : State := storeBytes s (key + lo) (leBytes 8 v)

/-! ## FORK -/

/-- The deque of a core: base offset, entries as a power of two, TOP, BOT (R376). -/
structure Deque where
  base : Nat
  log : Nat
  top : Nat
  bot : Nat
  deriving DecidableEq, Repr

/-- The deque of a core, as its TCM holds it; one whose TOP or BOT has an uncorrectable error has no room and no entry (R345).
DEDUCED, log 86. -/
def dequeOf (s : State) (c : Nat) : Deque :=
  let w := (coreOf s c).dqb.toNat
  let base := bits w 17 12 * 4096
  let bad := eccBad s.ecc (tcmKey c base) 12
  { base := base, log := if bad then 0 else bits w 2 0, top := memNat s.mem (tcmKey c base) 4,
    bot := memNat s.mem (tcmKey c (base + 8)) 4 }

/-- Entries of a deque (R376). -/
def dequeLen (q : Deque) : Nat := (q.bot + 2 ^ 32 - q.top) % 2 ^ 32

/-- The offsets of an entry and its side record (R376). -/
def dequeEntry (q : Deque) (i : Nat) : Nat × Nat :=
  (q.base + 64 + 64 * (i % 2 ^ q.log), q.base + 64 + 64 * 2 ^ q.log + 16 * (i % 2 ^ q.log))

/-- Whether a FORK can take an entry: taken and unpublished ones count (R376). -/
def dequeRoom (s : State) (c : Nat) : Bool :=
  let q := dequeOf s c
  q.log != 0 && decide (dequeLen q + (coreOf s c).forkQ.length < 2 ^ q.log)

/-- A FORK's packet with the fields that the core replaces (R197). -/
def forkWords (k : Core) (t : Thread) (ws : Vector Word 8) : Vector Word 8 :=
  let w := pktWord ws 0
  let lane := if k.rot then t.lane.toNat else ctlLane w
  setCtl ws (w - bits w 15 8 * 2 ^ 8 - bitAt (ctlDet w) 7 - ctlCcid w * 2 ^ 32 - bitAt (ctlStrict w) 52 +
    lane * 2 ^ 8 + bitAt (detOf t) 7 + t.ccid.toNat * 2 ^ 32 + bitAt (strictOf t) 52)

/-- FORK (R32, R197): into the deque at issue, or a wait for the launch's QCB. DEDUCED, log 44. -/
def execFork (a b : Fin 10) (p : Fin 16) (s : State) : Host.Outcome State Fault Refusal :=
  runInstr s fun x => x.atHome <| x.guarded p <| x.needRun a [b] <|
    let ws := runWords x.t a
    if ctlKind (pktWord ws 0) ≠ 3 then x.illegalOperand (BitVec.ofNat 64 (pktWord ws 0)) a
    else if dequeRoom x.s x.c then
      let x := { x with s := counterMeets x.s (partOfCore x.s x.c) x.t.ccid.toNat }
      match counterIncr x.s (partOfCore x.s x.c) x.t.ccid.toNat with
      | .notOpen => x.done x.t
      | .limit => x.trap 0x17 (BitVec.setWidth 64 x.t.ccid) 0#64
      | .done s1 =>
        let e : ForkEntry :=
          { slot := x.n, thread := x.t.tid, asid := x.sl.asid.toNat, words := forkWords (coreOf x.s x.c) x.t ws,
            a0 := sourceId x.s x.c x.n, a1 := valOf x.t b, uid := s1.uid }
        x.finish { modCore s1 x.c (fun k => { k with forkQ := k.forkQ ++ [e] }) with uid := s1.uid + 1 } x.t 4
    else x.waits x.s .fork

/-- Whether an entry of a core may be published: not one of a held context once its image is written, whose deque a restore will
bring back (R387). -/
def forkOpen (k : Core) (e : ForkEntry) : Bool :=
  match k.mode with
  | .preempted | .restoring => !isUserSlot e.slot || some e.asid == k.guestAsid
  | _ => true

/-- FORK_PUBLISH (R197, R376): the first unpublished entry, once the forking thread's earlier accesses are performed. -/
def execForkPublish (core : Nat) (s : State) : Host.Outcome State Fault Refusal :=
  event s <| match (coreOf s core).forkQ.find? (forkOpen (coreOf s core)) with
    | none => none
    | some e =>
      if earlierAccess s core e.thread e.uid then none
      else
        let q := dequeOf s core
        let (pe, sd) := dequeEntry q q.bot
        let s1 := storeBytes s (tcmKey core pe) (packetBytes e.words)
        let s2 := storeBytes s1 (tcmKey core sd) (leBytes 8 e.a0.toNat ++ leBytes 8 e.a1.toNat)
        some (modCore (storeBytes s2 (tcmKey core (q.base + 8)) (leBytes 4 ((q.bot + 1) % 2 ^ 32))) core fun k =>
          { k with forkQ := k.forkQ.filter fun g => g.uid != e.uid })

/-- Whether a failed translation of a QCB waits: its walk follows the thread's own stores that are not performed yet
(R356). -/
def qcbWaits (s : State) (c n : Nat) (r : TrapInfo) : Bool := r.cause == 0x07 && unperformed s c n

/-- Whether the QCB of an ENQ cannot be looked at yet (R356). -/
def openWaits (s : State) (c n a : Nat) : Bool :=
  match openQcb s c n a with
  | .error r => qcbWaits s c n r
  | .ok _ => false

/-- The address of the QCB that takes a launch's overflow (R371); 0 without a valid record. -/
def launchQcb (s : State) (c : Nat) (t : Thread) : Nat :=
  match attrOf s c t.ccid.toNat with
  | some a => a.qcb
  | none => 0

/-- What a waiting FORK does now: nothing yet, a trap, or its completion (R197, R376). -/
def forkNow (s : State) (c n : Nat) (a b : Nat) (t : Thread) : Option (Ctx → Body) :=
  let refuse (r : TrapInfo) : Ctx → Body := fun y => .error (.trap (qcbMeets y.s c n (launchQcb s c t)) r none)
  match openQcb s c n (launchQcb s c t) with
  | .error r => if qcbWaits s c n r then none else some (refuse r)
  | .ok q =>
    if qcbClosed q then some (refuse (qcbTrap 0x06 (launchQcb s c t) 0))
    else if pending s c n || qcbFull q || q.claim ≠ q.tail then none
    else match qcbPlace s c n q q.claim with
      | .error r => some (refuse r)
      | .ok pl => some fun z =>
        let y := { z with s := attrMeets (counterMeets z.s (partOfCore z.s c) t.ccid.toNat) c t.ccid.toNat }
        match counterIncr y.s (partOfCore y.s c) t.ccid.toNat with
        | .notOpen => y.done y.t
        | .limit => y.trap 0x17 (BitVec.setWidth 64 t.ccid) 0#64
        | .done s0 =>
          let s1 := qcbMeets s0 c n (launchQcb s c t)
          let s2 := qcbSet s1 q.key 128 ((q.claim + 1) % 2 ^ 64)
          let s3 := qcbWrite s2 pl (forkWords (coreOf s c) t (runWords t a)) (sourceId s c n) (valOf t b)
          y.finish (qcbSet s3 q.key 64 ((q.tail + 1) % 2 ^ 64)) y.t 4

/-- The register fields of the FORK at the PC of a slot. -/
def forkFields (s : State) (c n : Nat) (t : Thread) : Nat × Nat :=
  let w := codeWord s c n t.pc.toNat
  (bits w 21 18, bits w 17 14)

/-- FORK_APPEND (R376): the increment, the claim, the write and the publish as one action. -/
def execForkAppend (core slot : Nat) (s : State) : Host.Outcome State Fault Refusal :=
  let x := slotOf s core slot
  event s <| match x.thread with
    | none => none
    | some t =>
      if x.st = .waiting && x.wait = .fork && !x.isHeld then
        let (a, b) := forkFields s core slot t
        (forkNow s core slot a b t).map (fromWait s core slot)
      else none

/-- Whether a waiting entry of the inbox or the spill queue may take the slot that a deque entry of a lane would take: in
rotation mode one of a lane of that slot, in PREEMPTED one of the pre-empting launch (R30, R384). -/
def inboxFirst (s : State) (c lane : Nat) : Bool :=
  let k := coreOf s c
  (k.inbox ++ k.spill.filter fun m => bodyQueues m.body).any fun m =>
    entryOpen s c m && (!k.rot || (msgLane m).any fun l => laneSlot k l == laneSlot k lane)

/-- Whether a user slot is FREE for a packet of a lane (R30, R49). -/
def slotFor (k : Core) (lane : Nat) : Bool :=
  if k.rot then
    match laneSlot k lane with
    | some n => (slotIn k n).st = .free
    | none => true
  else (freeUserSlot k).isSome

/-- DEQUE_POP (R376): the bottom entry; the last one is claimed at TOP. One with an uncorrectable error stays (R345).
DEDUCED, log 86. -/
def execDequePop (core : Nat) (s : State) : Host.Outcome State Fault Refusal :=
  let k := coreOf s core
  let q := dequeOf s core
  event s <|
    let (pe, sd) := dequeEntry q (q.bot + 2 ^ 32 - 1)
    if isHeldMode k.mode || q.log = 0 || dequeLen q = 0 || 2 ^ q.log < dequeLen q || eccBad s.ecc (tcmKey core pe) 64 ||
      eccBad s.ecc (tcmKey core sd) 16 then none
    else
      let ws := packetOf (memBytes s.mem (tcmKey core pe) 64)
      let side (i : Nat) := BitVec.ofNat 64 (memNat s.mem (tcmKey core (sd + 8 * i)) 8)
      let p : Packet :=
        { words := ws, a0 := side 0, a1 := side 1, credit := none, status := none, counted := true, stage := none }
      let lane := ctlLane (pktWord ws 0)
      if inboxFirst s core lane || !slotFor k lane then none
      else
        let s1 := if dequeLen q = 1 then storeBytes s (tcmKey core q.base) (leBytes 4 ((q.top + 1) % 2 ^ 32))
          else storeBytes s (tcmKey core (q.base + 8)) (leBytes 4 ((q.bot + 2 ^ 32 - 1) % 2 ^ 32))
        trySpawn s1 core p

/-! ## JOIN -/

/-- JOIN (R33, R198): posted; the source id of the decrementing thread travels with it. DEDUCED, log 48. A counter in the
host window is decremented there. DESIGN CHOICE, log 98. -/
def execJoin (a : Fin 10) (p : Fin 16) (s : State) : Host.Outcome State Fault Refusal :=
  runInstr s fun x => x.guarded p <| x.needRegs [a] <|
    let ea := valOf x.t a
    x.aligned ea 32 <|
      if regionOf ea ≠ 0 && (regionOf ea ≠ 0xA || bits ea.toNat 33 32 ≠ 2) then x.trap 0x06 ea 0#64
      else x.route .amo ea 32 false fun r => x.notCounters r ea 32 <|
          let h := homeOf x.s x.c x.n
          x.egressFor r ea <| x.finish (sendAccess x.s x.c x.n r
            { accessOf .join 32 ea (sourceId x.s h.1 h.2).toNat with rel := true, scope := 4 }) x.t 4

/-- The continuation packet of a join record, where it can be sent: the state with its counter raised, the target core,
its words (R33). A packet of another KIND is rejected at its target, so its KIND is made 0. A CONT that is not aligned,
CORE[15:10] other than zero and a packet with an uncorrectable error send nothing. DEDUCED, log 87. -/
def joinPacket (s : State) (part : Option Nat) (asid : Nat) (user : Bool) (cont core : Nat) :
    Option (State × Nat × Vector Word 8) :=
  if cont % 64 ≠ 0 || bits cont 63 57 ≠ 0 || bits core 15 10 ≠ 0 then none
  else match transNow s part asid user .read cont 64, coreOfLogical s part (bits core 9 0) with
    | .ok k, some t =>
      if eccBad s.ecc k 64 then none
      else
        let ws := packetOf (memBytes s.mem k 64)
        match counterIncr (counterMeets s part (ctlCcid (pktWord ws 0))) part (ctlCcid (pktWord ws 0)) with
        | .done s1 =>
          let w := pktWord ws 0
          some (s1, t, if ctlKind w = 4 then ws else setCtl ws (w - ctlKind w))
        | _ => none
    | _, _ => none

/-- STATUS bits of a join record set (R33). -/
def joinStatus (s : State) (k b : Nat) : State :=
  storeBytes s (k + 24) (leBytes 4 (Nat.lor (memNat s.mem (k + 24) 4) b))

/-- A decrement of the join record at a key (R33). -/
def joinAt (s : State) (m : Msg) (a : Access) (k : Nat) : State :=
  let n := memNat s.mem k 8
  if n = 0 then joinStatus s k 1
  else
    let s1 := storeBytes s k (leBytes 8 (n - 1))
    if n ≠ 1 then s1
    else
      let part := if m.part < 64 then some m.part else none
      let user := isUserSlot (a.data % 256)
      let cont := memNat s.mem (k + 8) 8
      let s1 := match transNow s1 part m.asid user .read cont 64 with
        | .ok q => (eccRead s1 m.score q 64).1
        | .error _ => s1
      match joinPacket s1 part m.asid user cont (memNat s.mem (k + 16) 2) with
      | none => joinStatus s1 k 2
      | some (s2, t, ws) =>
        let p : Packet := { words := ws, a0 := BitVec.ofNat 64 a.data, a1 := 0#64, credit := none, status := none,
                            counted := true, stage := none }
        putMsg s2
          { uid := s2.uid, sdev := s2.pkg.dev.toNat, score := m.dcore, sslot := 256, thread := 0, ddev := s2.pkg.dev.toNat,
            dcore := t,
            net := .request, asid := m.asid, part := part.getD 64, rpart := 64, ask := s2.uid, towards := 0, egress := false,
            due := s2.cycle + 1 + Config.latency s2.uid, body := .packet p }

/-- JOIN_DECREMENT (R33). -/
def execJoinDecrement (msg : Nat) (s : State) : Host.Outcome State Fault Refusal :=
  event s <| (arrived s msg).bind fun m => match m.body with
    | .access a =>
      if a.kind != .join then none
      else some <| settle (match targetKey s m a with
        | none => failAccess s m a { cause := 0x06, addr := a.addr, detail := 2#64 }
        | some k =>
          let (s1, bad) := eccRead (dropMsg s msg) m.score k 32
          if bad then failAccess s1 m a { cause := 0x16, addr := a.addr, detail := BitVec.ofNat 64 (storeCode k) }
          else ackRemote (joinAt s1 m a k) m) m.score
    | _ => none

/-! ## EXIT, YIELD, PRIO -/

/-- EXIT (R31, R184, R199): a held error is delivered first; then the slot waits until it may retire. A thread on a visit
returns home first (R26). DEDUCED, log 84. -/
def execExit (p : Fin 16) (s : State) : Host.Outcome State Fault Refusal :=
  runInstr s fun x => x.guarded p <| x.atHome <| x.deliverHeld x.s <| x.waits x.s .exit

/-- An instruction that has completed and whose slot then waits for a fixed time (R158, R200). -/
def Ctx.thenWait (x : Ctx) (w : Wait) (b : Body) : Body :=
  match b with
  | .ok s1 => x.waits s1 w
  | .error e => .error e

/-- YIELD (R200). -/
def execYield (p : Fin 16) (s : State) : Host.Outcome State Fault Refusal :=
  runInstr s fun x => x.guarded p <|
    if (coreOf x.s x.c).rot then x.done x.t else x.thenWait (.yield (x.s.cycle + 64)) (x.done x.t)

/-- PRIO (R200). -/
def execPrio (a : Fin 10) (p : Fin 16) (s : State) : Host.Outcome State Fault Refusal :=
  runInstr s fun x => x.guarded p <| x.needRegs [a] <|
    if 8 ≤ (valOf x.t a).toNat then x.illegalOperand (valOf x.t a) a
    else x.done { x.t with prio := BitVec.setWidth 3 (valOf x.t a) }

/-- DIVIDE_WAIT_END (R158). -/
def execDivideWaitEnd (core slot : Nat) (s : State) : Host.Outcome State Fault Refusal :=
  let x := slotOf s core slot
  event s <| match x.wait with
    | .divide r => if x.st = .waiting && decide (r ≤ s.cycle) then some (modSlot s core slot (readySlot r)) else none
    | _ => none

/-- YIELD_WAIT_END (R200). -/
def execYieldWaitEnd (core slot : Nat) (s : State) : Host.Outcome State Fault Refusal :=
  let x := slotOf s core slot
  event s <| match x.wait with
    | .yield r =>
      if x.st = .waiting && decide (r ≤ s.cycle) then some (modSlot s core slot fun y => { readySlot r y with age := 0 })
      else none
    | _ => none

/-- WAIT_LIMIT_REACHED (R218): the slot is READY and its instruction traps at its next issue. The claim of an ENQ ended so
stays unpublished. DESIGN CHOICE, log 80. -/
def execWaitLimitReached (core slot : Nat) (s : State) : Host.Outcome State Fault Refusal :=
  let x := slotOf s core slot
  event s <| if x.st = .waiting && !x.isHeld && countedWait x.wait && x.limit ≠ 0#32 && decide (x.limit.toNat ≤ x.waitCount)
    then some (modSlot s core slot fun y => { readySlot s.cycle y with limitHit := true })
    else none

/-! ## ENQ -/

/-- ENQ (R201): the checks of its operands, then the slot waits for the append. -/
def execEnq (d : Fin 16) (a b : Fin 10) (p : Fin 16) (s : State) : Host.Outcome State Fault Refusal :=
  runInstr s fun x =>
    if d.val < 8 then x.illegal 0
    else x.guarded p <| x.needRun a [b] <|
      let q := valOf x.t b
      x.aligned q 256 <|
        if regionOf q ≠ 0 then x.trap 0x06 q 0#64 else x.waits x.s (.enq d q.toNat 0 false)

/-- The end of an ENQ: its predicate with taint (R201). -/
def enqEnd (pd : Nat) (v : Bool) (f : State → State) : Ctx → Body := fun y => y.finish (f y.s) (putPred y.t pd v true) 4

/-- The claim of a waiting ENQ (R369): a trap, a refusal, or the packet written at its place. The second part says
whether the ENQ ends with it. -/
def enqClaim (s : State) (c n : Nat) (t : Thread) (pd qa a : Nat) : (Ctx → Body) ⊕ State :=
  let refuse (r : TrapInfo) : (Ctx → Body) ⊕ State := .inl fun y => .error (.trap (qcbMeets y.s c n qa) r none)
  match openQcb s c n qa with
  | .error r => refuse r
  | .ok q =>
    if qcbClosed q || qcbFull q then
      .inl (enqEnd pd false fun u => qcbSet u q.key 200 ((memNat u.mem (q.key + 200) 8 + 1) % 2 ^ 64))
    else match qcbPlace s c n q q.claim with
      | .error r => refuse r
      | .ok pl =>
        let h := homeOf s c n
        let s0 := qcbMeets s c n qa
        let s1 := qcbWrite (qcbSet s0 q.key 128 ((q.claim + 1) % 2 ^ 64)) pl (runWords t a) (sourceId s h.1 h.2)
          (BitVec.ofNat 64 q.claim)
        .inr (modSlot s1 c n fun y => { y with wait := .enq pd q.key q.claim true })

/-- Whether the turn of a claim has come at the QCB at a key (R369). -/
def enqTurn (s : State) (key claim : Nat) : Bool := memNat s.mem (key + 64) 8 == claim

/-- A claim published (R369). -/
def enqPublish (s : State) (key claim : Nat) : State := qcbSet s key 64 ((claim + 1) % 2 ^ 64)

/-- What a waiting ENQ does now (R369): the claim, then the publication once earlier claims have published and the
thread's accesses are performed, or nothing yet. -/
def enqNow (s : State) (c n : Nat) (t : Thread) (pd qcb claim a : Nat) (claimed : Bool) : Option ((Ctx → Body) ⊕ State) :=
  if !claimed then if openWaits s c n qcb then none else some (enqClaim s c n t pd qcb a)
  else if !enqTurn s qcb claim || pending s c n then none
  else some (.inl (enqEnd pd true fun u => enqPublish u qcb claim))

/-- An ENQ whose core was pre-empted after its claim: it publishes in its turn, and its reply goes to the core (R219). -/
def enqJobDone (s : State) (j : EnqJob) : Option State :=
  if !enqTurn s j.qcb j.claim || earlierAccess s j.core j.tid s.uid then none
  else
    let s1 := enqPublish { s with enqs := s.enqs.filter (· != j) } j.qcb j.claim
    some (putMsg s1 { mkMsg s1 j.core 256 s.pkg.dev.toNat j.core .reply false (.enqReply j.slot j.pd true) with asid := j.asid })

/-- ENQ_APPEND (R369): the claim with the packet's write, and the publication once earlier claims have published. DESIGN
CHOICE, log 80. -/
def execEnqAppend (core slot : Nat) (s : State) : Host.Outcome State Fault Refusal :=
  let x := slotOf s core slot
  event s <| match s.enqs.find? fun j => j.core == core && j.slot == slot with
    | some j => enqJobDone s j
    | none =>
      match x.wait, x.thread with
      | .enq pd qa claim claimed, some t =>
        if x.st = .waiting && !x.isHeld then
          (enqNow s core slot t pd qa claim (bits (codeWord s core slot t.pc.toNat) 21 18) claimed).map fun r =>
            match r with
            | .inl b => fromWait s core slot b
            | .inr s1 => s1
        else none
      | _, _ => none

/-! ## GO -/

/-- Where GO sends a thread: nowhere, or a core; or its trap, or the walk it needs (R35, R202). -/
inductive GoTo where
  | stay
  | core (d : Dest)
  | bad (detail : Nat)
  | walk

/-- The core that owns an address (R35, R202, R353). -/
def goTarget (s : State) (c n : Nat) (a : Word) : GoTo :=
  let v := a.toNat
  match regionOf a with
  | 0x8 => if bits v 59 18 = 0 then .stay else .bad 0
  | 0x9 => if bits v 59 24 = 0 then .stay else .bad 0
  | 0x0 =>
    if bits v 59 57 ≠ 0 then .bad 0
    else match tlbFind (coreOf s c).tlb (slotOf s c n).asid.toNat v with
      | none => .walk
      | some e =>
        if !e.leaf.testBit 49 then .stay
        else match coreOfLogical s (partOfCore s c) (bits e.leaf 59 50) with
          | none => .bad 2
          | some t => .core { own := true, dev := s.pkg.dev.toNat, core := t }
  | 0xA =>
    match routeFabric s c a 1 with
    | .error (.fault _ _ d) => .bad d.toNat
    | .ok (.dev d l _ _) => .core { own := false, dev := d, core := l }
    | _ => match coreOfLogical s (partOfCore s c) (bits v 43 34) with
      | none => .bad 2
      | some t => .core { own := true, dev := s.pkg.dev.toNat, core := t }
  | 0xF => if userAt s c n then .bad 3 else .bad 0
  | _ => .bad 0

/-- The departure of a thread by GO (R34, R35): without RESERVED registers and unanswered accesses, its held error
delivered first; no loop-back test applies to a thread that departs (R169). -/
def Ctx.depart (x : Ctx) (d : Dest) (a : Word) : Body :=
  if anyReserved x.t || pending x.s x.c x.n then x.stall .drain
  else x.deliverHeld x.s <|
    let t := { x.t with pc := x.t.pc + 4#48 }
    let m := mkMsg x.s x.c x.n d.dev d.core .request false (.migrate t)
    if d.own || (linkSend x.s m 0).isSome then
      let s1 := putMsg x.s m
      .error (.gone (setSlot s1 x.c x.n (emptySlot (slotOf s1 x.c x.n))))
    else x.finish x.s (holdError x.t 0x06 a) 4

/-- GO (R35, R202): a thread on a visit returns home first (R26). DEDUCED, log 45. -/
def execGo (a : Fin 10) (p : Fin 16) (s : State) : Host.Outcome State Fault Refusal :=
  runInstr s fun x => x.guarded p <| x.atHome <| x.needRegs [a] <|
    let ea := valOf x.t a
    match goTarget x.s x.c x.n ea with
    | .stay => x.done x.t
    | .bad d => x.trap 0x06 ea (BitVec.ofNat 64 d)
    | .walk => .error (.gone (startWalk x.s x.c x.n ea false))
    | .core d => x.depart d ea

/-! ## The entropy source -/

/-- A seed: never zero (R181; log 8). -/
def seedValue (s : State) : Word :=
  let v := Config.entropy s.fresh
  if v = 0#64 then 1#64 else v

/-- A seed-log record (R182). -/
def seedRecord (s : State) (seed : Word) (job ccid core slot : Nat) (det : Bool) : List Byte :=
  leBytes 8 seed.toNat ++ leBytes 8 (timeNs s) ++ leBytes 2 (s.devTime % 65536) ++ leBytes 2 job ++ leBytes 2 ccid ++
    leBytes 2 core ++ leBytes 1 slot ++ leBytes 1 (if det then 1 else 0) ++ leBytes 6 0

/-- The job counter above a launch (R39), over at most `fuel` levels. -/
def jobOf : Nat → State → Option Nat → Nat → Nat
  | 0, _, _, id => id
  | fuel + 1, s, p, id =>
    let w := counterRead s p id
    if cntLevel w = 4 || cntParent w = 0 then id else jobOf fuel s p (cntParent w)

/-- The thread that sent a message: the one in its slot, or the one held for it while its core is pre-empted (R384). -/
def senderOf (s : State) (m : Msg) : Option Thread :=
  if tidOf s m.score m.sslot = m.thread then threadOf s m.score m.sslot
  else (mapGet Slot.fresh (coreOf s m.score).savedSlots m.sslot).thread

/-- A seed-log record whose write has failed: its bytes are free (R181; log 9). -/
def freeRecord (s : State) (r : Nat) : State :=
  storeBytes { s with fresh := s.fresh + 32 } r ((List.range 32).map fun i => Config.freeByte (s.fresh + i))

/-- A SEED served (R181): the value that the reply fills rd with, and the state after. -/
def serveSeed (s : State) (m : Msg) : State × Word :=
  let c := m.score
  let n := m.sslot
  let part := partOfCore s c
  match senderOf s m with
  | none => (s, 0#64)
  | some t =>
    let s := attrMeets s c t.ccid.toNat
    match attrOf s c t.ccid.toNat with
    | none => (s, 0#64)
    | some a =>
      match transNow s part m.asid (isUserSlot n) .amo a.slog 64 with
      | .error _ => (s, 0#64)
      | .ok k =>
        if a.slog = 0 then (s, 0#64)
        else if eccBad s.ecc k 64 then ((eccRead s c k 64).1, 0#64)
        else
          let s := (eccRead s c k 64).1
          let count := memNat s.mem k 8
          if memNat s.mem (k + 8) 8 ≤ count then
            (storeBytes s (k + 16) (leBytes 8 ((memNat s.mem (k + 16) 8 + 1) % 2 ^ 64)), 0#64)
          else
            let s1 := storeBytes s k (leBytes 8 (count + 1))
            match transNow s part m.asid (isUserSlot n) .write (a.slog + 64 + 32 * count) 32 with
            | .error _ =>
              match transNow s part m.asid (isUserSlot n) .read (a.slog + 64 + 32 * count) 32 with
              | .error _ => (s1, 0#64)
              | .ok r => (freeRecord s1 r, 0#64)
            | .ok r =>
              let (s1, bad) := eccPart s1 c r 32
              if bad then
                (freeRecord s1 r, 0#64)
              else
              let rec_ := seedRecord s (seedValue s) (jobOf 4 s part t.ccid.toNat) t.ccid.toNat (logicalOfCore s c) n (detOf t)
              (storeBytes { s1 with fresh := s1.fresh + 1 } r rec_, seedValue s)

/-- SEED_SERVICE (R181): the entropy source serves a request and replies. -/
def execSeedService (msg : Nat) (s : State) : Host.Outcome State Fault Refusal :=
  event s <| (findMsg s msg).bind fun m => match m.body with
    | .seedReq n r =>
      if s.cycle < m.due then none
      else
        let (s1, v) := serveSeed (dropMsg s msg) m
        some (answerIn s1 m (seedDelay s1) (.seedReply n r v))
    | _ => none

end Sys2Proof.Machine
end

