-- ==== Sys2Proof/Machine/System.lean ====
section
/-! DEFINITION. TRAP, TRET, ECALL, EBREAK, IDLE, DBGHALT (R334 to R336, R347) and the translation, kill, pre-emption and
error-injection instructions (R339 to R343, R348). -/

namespace Sys2Proof.Machine

/-! ## System instructions -/

/-- TRAP (R334). -/
def execTrap (a : Fin 10) (p : Fin 16) (s : State) : Host.Outcome State Fault Refusal :=
  runInstr s fun x => x.guarded p <| x.needRegs [a] <| x.trap 0x13 (valOf x.t a) 0#64

/-- TRET (R334): the trap registers are the home slot's; SIN stays where the return fails. -/
def execTret (p : Fin 16) (s : State) : Host.Outcome State Fault Refusal :=
  runInstr s fun x => x.atHome <| x.needS <| x.guarded p <|
    if !x.sl.sin then x.illegalOperand 0#64 0
    else match checkTarget x.s x.c x.n x.t.pc x.sl.epc.toNat with
      | .error r => .error (.trap x.s r none)
      | .ok _ => .ok (modSlot x.s x.c x.n fun y => returnTrap y x.t)

/-- The bytes of an ECALL queue entry (R335). -/
def ecallEntry (s : State) (c n : Nat) (t : Thread) (d a : Nat) : List Byte :=
  leBytes 8 ((sourceId s c n).toNat + 2 ^ 36) ++ leBytes 8 t.pc.toNat ++ leBytes 1 d ++ leBytes 7 0 ++
    leBytes 8 (tinfoOf t).toNat ++ (List.range 4).flatMap fun i => leBytes 8 (valOf t (a + i)).toNat

/-- A notice of the hardware for a slot of a core: its register 9 with a tag, in phase 1 of the next cycle (R367). -/
def notice (s : State) (c n : Nat) (v : Word) (tag : Nat) : State :=
  putMsg s { mkMsg s c 256 s.pkg.dev.toNat c .control false (.send n 9 v tag) with due := s.cycle + 1 }

/-- An entry appended to a core's ECALL queue: IDLE wakes, slot 1 is told (R335, R336, R367). -/
def ecallAppend (s : State) (c : Nat) (bs : List Byte) : State :=
  let k := coreOf s c
  let s1 := storeBytes s (tcmKey c (bits k.ecq.toNat 17 12 * 4096 + 64 * (k.ecqt.toNat % 64))) bs
  notice (wakeIdle (modCore s1 c fun x => { x with ecqt := x.ecqt + 1#32 }) c) c 1 (BitVec.setWidth 64 k.ecqt) 15

/-- ECALL (R335). -/
def execEcall (d a : Fin 10) (p : Fin 16) (s : State) : Host.Outcome State Fault Refusal :=
  runInstr s fun x => x.atHome <| x.guarded p <|
    let k := coreOf x.s x.c
    if 6 < a.val then x.illegalOperand (BitVec.ofNat 64 a) a
    else x.needRegs ((List.range 4).map (a.val + ·)) <|
      if !k.ecq.getLsbD 0 then x.illegalOperand (BitVec.ofNat 64 a) a
      else x.needRes (k.ecqt - k.ecqh != 64#32) .ecall <| x.released <|
        x.finish (ecallAppend x.s x.c (ecallEntry x.s x.c x.n x.t d a)) (reserveReg x.t d) 4

/-- EBREAK (R334, R347). -/
def execEbreak (p : Fin 16) (s : State) : Host.Outcome State Fault Refusal :=
  runInstr s fun x => x.guarded p <|
    if (coreOf x.s x.c).dbgctl.getLsbD 0 then .ok (haltCore x.s x.c) else x.trap 0x14 0#64 0#64

/-- IDLE (R336): it completes when its slot is woken. DEDUCED, log 41. -/
def execIdle (p : Fin 16) (s : State) : Host.Outcome State Fault Refusal :=
  runInstr s fun x => x.needS <| x.guarded p <| x.thenWait .idle (x.done x.t)

/-- A control message to another core whose answer fills rd (R343, R347); without a route the access fault of its far
end (R390). -/
def Ctx.control (x : Ctx) (to_ : Dest) (v : Word) (d : Nat) (body : MsgBody) : Body :=
  let m := mkMsg x.s x.c x.n to_.dev to_.core .control false body
  if to_.own || (linkSend x.s m 0).isSome then x.finish (putMsg x.s m) (reserveReg x.t d) 4
  else x.finish x.s (writeReg (holdError x.t 0x06 v) d 0#64) 4

/-- A target word that names another core (R343, R347). -/
def Ctx.otherCore (x : Ctx) (v : Word) (reg : Nat) (k : Dest → Body) : Body :=
  x.coreTarget v reg fun to_ => if to_.isCore x.c then x.illegalOperand v reg else k to_

/-- DBGHALT (R334, R347). -/
def execDbghalt (d a : Fin 10) (p : Fin 16) (s : State) : Host.Outcome State Fault Refusal :=
  runInstr s fun x => x.atHome <| x.needP <| x.guarded p <| x.needRegs [a] <|
    x.otherCore (valOf x.t a) a fun to_ => x.control to_ (valOf x.t a) d (.debugHalt x.n d)

/-! ## Translations and ASIDs -/

/-- Whether a TLBI of a KIND covers a cached translation (R340). -/
def tlbiCovers (kind asid va : Nat) (e : TlbEntry) : Bool :=
  match kind with
  | 0 => e.asid == asid && decide (e.va ≤ va) && decide (va < e.va + e.size)
  | 1 => e.asid == asid
  | _ => true

/-- The translations of a partition's cores without those that a TLBI covers (R340). -/
def discardTlb (s : State) (p : Option Nat) (kind asid va : Nat) : State :=
  let gone (e : TlbEntry) : Bool := tlbiCovers kind asid va e
  { s with cores := s.cores.map fun k =>
             if partOfCore s k.1 = p then (k.1, { k.2 with tlb := k.2.tlb.filter fun e => !gone e }) else k }

/-- The ASID that an instruction names must be live in the core's partition; its entry is read (R340 to R342, R345). -/
def Ctx.liveAsid (x : Ctx) (asid : Nat) (v : Word) (k : Ctx → Body) : Body :=
  let y := { x with s := (eccRead x.s x.c (asidKey x.s asid) 8).1 }
  if asidLive y.s (partOfCore y.s y.c) asid then k y else y.trap 0x06 v 4#64

/-- TLBI (R340): a release, so earlier accesses come first; then it waits for the uses of the entries discarded.
DEDUCED, log 49. -/
def execTlbi (a b : Fin 10) (p : Fin 16) (s : State) : Host.Outcome State Fault Refusal :=
  runInstr s fun x => x.needS <| x.guarded p <| x.needRegs [a, b] <|
    let v := valOf x.t a
    let kind := bits v.toNat 63 62
    let asid := bits v.toNat 13 0
    let part := partOfCore x.s x.c
    if bits v.toNat 61 14 ≠ 0 || kind = 3 || (kind == 2 && asid != 0) then x.illegalOperand v a
    else
      let go (x : Ctx) : Body :=
        x.released <| x.waits (discardTlb x.s part kind asid (bits (valOf x.t b).toNat 56 0)) (.tlbi x.s.uid)
      if kind = 2 then go x else x.liveAsid asid v go

/-- Whether an access message was translated before a TLBI of its partition issued (R340). -/
def oldAccess (s : State) (p : Option Nat) (bound : Nat) (m : Msg) : Bool :=
  match m.body with
  | .access a => decide (m.uid < bound) && regionOf a.addr == 0 && m.part == p.getD 64 && m.sdev == s.pkg.dev.toNat
  | _ => false

/-- TLBI_COMPLETE (R340). -/
def execTlbiComplete (core slot : Nat) (s : State) : Host.Outcome State Fault Refusal :=
  let x := slotOf s core slot
  event s <| match x.wait with
    | .tlbi bound =>
      if x.st = .waiting && !x.isHeld && !s.net.any (oldAccess s (partOfCore s core) bound) then
        some (completeSlot s core slot id)
      else none
    | _ => none

/-- ASIDSET (R341). -/
def execAsidset (a : Fin 10) (p : Fin 16) (s : State) : Host.Outcome State Fault Refusal :=
  runInstr s fun x => x.needS <| x.guarded p <| x.needRegs [a] <|
    let v := valOf x.t a
    if 2 ^ 14 ≤ v.toNat then x.illegalOperand v a
    else x.liveAsid v.toNat v fun x =>
      x.finish (modSlot x.s x.c x.n fun y => { y with asid := BitVec.setWidth 14 v }) x.t 4

/-! ## Kill, pre-emption -/

/-- KILLING of an ASID set or cleared (R350, R366). -/
def setKilling (s : State) (asid : Nat) (b : Bool) : State :=
  let e := asidEntry s asid
  storeBytes s (asidKey s asid) (leBytes 8 (e - bitAt (e.testBit 62) 62 + bitAt b 62))

/-- A kill fence begun (R366 step 1). -/
def beginKill (s : State) (asid part : Nat) (issuer : Option (Nat × Nat × Nat)) (unlive : Bool) : State :=
  let k : Kill := { uid := s.uid, begun := false, asid := asid, part := part, issuer := issuer, count := 0, due := s.cycle + 1,
                    unlive := unlive }
  { setKilling s asid true with kills := s.kills ++ [k], uid := s.uid + 1 }

/-- KILL (R342): rd is RESERVED until the fence completes. -/
def execKill (d a : Fin 10) (p : Fin 16) (s : State) : Host.Outcome State Fault Refusal :=
  runInstr s fun x => x.atHome <| x.needS <| x.guarded p <| x.needRegs [a] <|
    let v := valOf x.t a
    if 2 ^ 14 ≤ v.toNat || v.toNat = x.sl.asid.toNat then x.illegalOperand v a
    else x.liveAsid v.toNat v fun x =>
      x.finish (beginKill x.s v.toNat ((partOfCore x.s x.c).getD 64) (some (x.c, x.n, d)) false) (reserveReg x.t d) 4

/-- The address of a save descriptor (R343): 64-byte aligned, in region 0x0. -/
def Ctx.descriptor (x : Ctx) (v : Word) (k : Body) : Body :=
  x.aligned v 64 <| if regionOf v ≠ 0 then x.trap 0x06 v 0#64 else k

/-- PREEMPT (R343). -/
def execPreempt (d a b : Fin 10) (p : Fin 16) (s : State) : Host.Outcome State Fault Refusal :=
  runInstr s fun x => x.atHome <| x.needS <| x.guarded p <| x.needRegs [a, b] <|
    x.otherCore (valOf x.t a) a fun to_ => x.descriptor (valOf x.t b) <|
      x.control to_ (valOf x.t a) d (.preempt x.n d (valOf x.t b) x.sl.asid.toNat)

/-- RESUME (R343, R347): with rb = 0 it ends a debug halt. -/
def execResume (d a b : Fin 10) (p : Fin 16) (s : State) : Host.Outcome State Fault Refusal :=
  runInstr s fun x => x.atHome <| x.needS <| x.guarded p <| x.needRegs [a, b] <|
    x.otherCore (valOf x.t a) a fun to_ =>
      let go := x.control to_ (valOf x.t a) d (.resume x.n d (valOf x.t b) x.sl.asid.toNat)
      if valOf x.t b = 0#64 then go else x.descriptor (valOf x.t b) go

/-! ## Error injection -/

/-- Fields of an injection word (R348). -/
def injSite (w : Nat) : Nat := bits w 63 60
def injKind (w : Nat) : Nat := bits w 59 56
def injTile (w : Nat) : Nat := bits w 51 48
def injPos (w : Nat) : Nat := bits w 47 36
def injBit (w : Nat) : Nat := bits w 35 30
def injOff (w : Nat) : Nat := bits w 29 0

/-- The map of R348 for an injection word. -/
def injOk (w : Nat) : Bool :=
  bits w 55 52 == 0 &&
    (match injSite w with
      | 0 => bits w 59 0 == 0
      | 1 => injKind w == 0 && decide (injBit w < 34) && injOff w == 0
      | 2 => injKind w == 0 && injTile w == 0 && injOff w == 0
      | 3 => decide (injKind w < 2) && injTile w == 0 && injPos w == 0 && decide (injOff w < 2 ^ 18) && injOff w % 8 == 0
      | 4 => decide (injKind w < 2) && injTile w == 0 && injPos w == 0 && decide (injOff w < 2 ^ 24) && injOff w % 8 == 0
      | _ => false)

/-- Number of bits set in a doubleword. -/
def bitCount (v : Nat) : Nat := ((List.range 64).filter fun i => v.testBit i).length

/-- A stored granule with bits inverted: one is a correctable error, more are not (R345, R348). -/
def flipGranule (s : State) (k mask : Nat) : State :=
  let m := Nat.xor (mapGet 0 s.injected k) mask
  let poisoned := mapFind s.ecc k == some true && (mapFind s.injected k).isNone
  if poisoned then s
  else
    { s with injected := if m = 0 then mapErase s.injected k else mapSet s.injected k m,
             ecc := if m = 0 then mapErase s.ecc k else mapSet s.ecc k (1 < bitCount m) }

/-- ERRINJ (R339, R348). DEDUCED, log 52. -/
def execErrinj (a : Fin 10) (p : Fin 16) (s : State) : Host.Outcome State Fault Refusal :=
  runInstr s fun x =>
    (fun k => if eieOf x.s x.c then k else x.needS k) <| x.guarded p <| x.needRegs [a] <|
      let v := valOf x.t a
      let w := v.toNat
      let mask := 2 ^ injBit w + (if injKind w = 1 then 2 ^ ((injBit w + 1) % 64) else 0)
      if !injOk w then x.illegalOperand v a
      else match injSite w with
        | 0 => x.doneIn (modCore x.s x.c fun k => { k with inject := none }) 4
        | 3 => x.doneIn (flipGranule x.s (tcmKey x.c (injOff w)) mask) 4
        | 4 => x.doneIn (flipGranule x.s (spadKey (clusterOfCore x.c) (injOff w)) mask) 4
        | _ => x.doneIn (modCore x.s x.c fun k => { k with inject := some v }) 4

end Sys2Proof.Machine
end

