-- ==== Sys2Proof/Machine/Transc.lean ====
section
/-! DEFINITION. The transcendental functions of the VXE as exact values to round (R238). A result that is no dyadic
number is given with enough leading bits and one more bit set below them, so that every rounding of R67 to a format of
at most 24 bits is the rounding of the true value (log 17). -/

namespace Sys2Proof.Machine

/-- Fraction bits of the fixed-point numbers below. -/
def fxBits : Nat := 640

/-- One in fixed point. -/
def fxOne : Nat := 2 ^ fxBits

/-- Product in fixed point. -/
def fxMul (a b : Nat) : Nat := a * b / fxOne

/-- Sum of z^(2k+1) / (2k+1) from a power on (`zz` is z squared). -/
def atanhSum : Nat → Nat → Nat → Nat → Nat
  | 0, _, _, _ => 0
  | n + 1, k, pow, zz => pow / (2 * k + 1) + atanhSum n (k + 1) (fxMul pow zz) zz

/-- ln of a ratio a / b with b ≤ a ≤ 2b: 2 atanh((a − b) / (a + b)). -/
def fxLn (a b : Nat) : Nat :=
  let z := (a - b) * fxOne / (a + b)
  2 * atanhSum 210 0 z (fxMul z z)

/-- ln 2. -/
def fxLn2 : Nat := fxLn 2 1

/-- Sum of y^k / k! from a term on. -/
def expSum : Nat → Nat → Nat → Nat → Nat
  | 0, _, _, _ => 0
  | n + 1, k, term, y => term + expSum n (k + 1) (fxMul term y / (k + 1)) y

/-- e^y for 0 ≤ y < 1. -/
def fxExp (y : Nat) : Nat := expSum 140 0 fxOne y

/-- Repeated squaring. -/
def squareN : Nat → Nat → Nat
  | 0, x => x
  | n + 1, x => squareN n (fxMul x x)

/-- A fixed-point magnitude that is not exact: one bit more, set. -/
def fxSticky (neg : Bool) (m : Nat) : EV := .fin neg (2 * m + 1) (-(fxBits : Int) - 1)

/-- 1/x (VRCP, R238). -/
def evRcp : EV → EV
  | .nan => .nan
  | .inf s => .fin s 0 0
  | .fin s 0 _ => .inf s
  | .fin s m e =>
    let q := fxOne / m
    .fin s (2 * q + if fxOne % m = 0 then 0 else 1) (-e - fxBits - 1)

/-- 1/√x (VRSQ, R238). -/
def evRsq : EV → EV
  | .nan => .nan
  | .inf s => if s then .nan else .fin false 0 0
  | .fin s 0 _ => .inf s
  | .fin true _ _ => .nan
  | .fin false m e =>
    let m' := if e % 2 = 0 then m else 2 * m
    let e' := if e % 2 = 0 then e else e - 1
    let n := fxOne * fxOne
    let y := Nat.sqrt (n / m')
    .fin false (2 * y + if y * y * m' = n then 0 else 1) (-(e' / 2) - fxBits - 1)

/-- floor(m · 2^e) and the fraction in fixed point, of a magnitude below 2^fxBits. -/
def fxSplit (m : Nat) (e : Int) : Nat × Nat :=
  let x := if 0 ≤ e then m * 2 ^ e.toNat * fxOne else m * fxOne / 2 ^ (-e).toNat
  (x / fxOne, x % fxOne)

/-- 2^x (VEXP2, R238). Beyond 4,096 in magnitude every format of the command has overflowed or rounds a value below
half its least subnormal. -/
def evExp2 : EV → EV
  | .nan => .nan
  | .inf s => if s then .fin false 0 0 else .inf false
  | .fin _ 0 _ => .fin false 1 0
  | .fin s m e =>
    let x := EV.fin false m e
    if evLt (.fin false 4096 0) x then .fin false 1 (if s then -5000 else 5000)
    else
      let (n, f) := fxSplit m e
      if f = 0 then .fin false 1 (if s then -n else n)
      else
        let (n', f') := if s then (-(n : Int) - 1, fxOne - f) else ((n : Int), f)
        evScale n' (fxSticky false (fxExp (fxMul f' fxLn2)))

/-- log2 x (VLOG2, R238). -/
def evLog2x : EV → EV
  | .nan => .nan
  | .inf s => if s then .nan else .inf false
  | .fin _ 0 _ => .inf true
  | .fin true _ _ => .nan
  | .fin false m e =>
    let k := bitLen m - 1
    let n : Int := e + k
    if m = 2 ^ k then evInt n
    else
      let v : Int := n * fxOne + (fxLn m (2 ^ k) * fxOne / fxLn2 : Nat)
      if 0 ≤ v then fxSticky false v.toNat else fxSticky true (-v).toNat

/-- tanh x (VTANH, R238): just below x where x is small, just below 1 where x is large. -/
def evTanh : EV → EV
  | .nan => .nan
  | .inf s => .fin s 1 0
  | .fin s 0 e => .fin s 0 e
  | .fin s m e =>
    let x := EV.fin false m e
    if evLt x (.fin false 1 (-20)) then .fin s (m * 2 ^ 200 - 1) (e - 200)
    else if evLt (.fin false 64 0) x then .fin s (2 ^ 200 - 1) (-200)
    else
      let y := if 0 ≤ e then m * 2 ^ e.toNat * fxOne else m * fxOne / 2 ^ (-e).toNat
      let w := squareN 8 (fxExp (y * 2 / 256))
      fxSticky s ((w - fxOne) * fxOne / (w + fxOne))

end Sys2Proof.Machine
end

