-- ==== Sys2Proof/Machine/Vxe.lean ====
section
/-! DEFINITION. The vector engine (R236 to R248): issue of its commands, their effect, start and completion. -/

namespace Sys2Proof.Machine

/-! ## Vectors as bytes -/

/-- A list cut into `n` pieces of `k` bytes. -/
def piecesOf (k : Nat) : Nat → List Byte → List (List Byte)
  | 0, _ => []
  | n + 1, bs => bs.take k :: piecesOf k n (bs.drop k)

/-- Bytes of a block of a block format, scales apart (R63, R64). -/
def blockBytes (f : Nat) : Nat := fmtSpanBits f (blockElems f) / 8

/-- Bytes that `n` elements take (R236). -/
def spanBytes (f n : Nat) : Nat := fmtSpanBits f n / 8

/-- The codes of `n` elements of a format that is not a block format. -/
def codesOf (f n : Nat) (bs : List Byte) : List Nat := (piecesOf (fmtBits f / 8) n bs).map leNat

/-- The bytes of codes of a format that is not a block format; an A34 code lies in bits 33 to 0 (R62). -/
def bytesOf (f : Nat) (cs : List Nat) : List Byte := cs.flatMap fun c => leBytes (fmtBits f / 8) c

/-- The values of one block with the scale of an MX block, and whether each is a signalling NaN (R63, R64). -/
def blockValues (f blk scale : Nat) : List (EV × Bool) :=
  (List.range (blockElems f)).map fun j =>
    if isLb f then (lbValue f blk j, false)
    else
      let c := blk / 2 ^ (fmtBits f * j) % 2 ^ fmtBits f
      (mxValue f c scale, snanOf f c)

/-- The values of `n` elements, and whether each is a signalling NaN. -/
def valuesOf (f n : Nat) (bs scales : List Byte) : List (EV × Bool) :=
  if isBlock f then
    ((piecesOf (blockBytes f) (n / blockElems f) bs).zipIdx).flatMap fun p =>
      blockValues f (leNat p.1) (scales.getD p.2 0#8).toNat
  else (codesOf f n bs).map fun c => (valueOf f c, snanOf f c)

/-- Bytes of an encoded vector, bytes of its scales, flags. -/
structure VOut where
  bytes : List Byte
  scales : List Byte
  flags : BitVec 5
  deriving Inhabited

/-- The number that a list of equally wide codes makes. -/
def packCodes (w : Nat) : List Nat → Nat
  | [] => 0
  | c :: cs => c + 2 ^ w * packCodes w cs

/-- Blocks of operands encoded one after the other from block `b` on (R73 to R75). `draw` is the word of an element. -/
def encodeBlocks (f : Nat) (rm : Rm) (sat : Bool) (maxf : EV) (draw : Nat → Nat) :
    Nat → Nat → List (EV × Bool) → VOut
  | 0, _, _ => { bytes := [], scales := [], flags := 0#5 }
  | n + 1, b, vs =>
    let k := blockElems f
    let blk := vs.take k
    let d (j : Nat) : Nat := draw (k * b + j)
    let rest := encodeBlocks f rm sat maxf draw n (b + 1) (vs.drop k)
    if isMx f then
      let (cs, x, fl) := mxEncode f blk rm sat maxf d
      { bytes := leBytes (blockBytes f) (packCodes (fmtBits f) cs) ++ rest.bytes,
        scales := BitVec.ofNat 8 x :: rest.scales, flags := fl ||| rest.flags }
    else
      let (v, fl) := lbEncode f blk rm sat maxf d
      { bytes := leBytes (blockBytes f) v ++ rest.bytes, scales := rest.scales, flags := fl ||| rest.flags }

/-- Values rounded one by one from element `e` on (R237). -/
def encodeElems (f : Nat) (rm : Rm) (sat : Bool) (draw : Nat → Nat) : Nat → List EV → List Nat × BitVec 5
  | _, [] => ([], 0#5)
  | e, v :: vs =>
    let (c, fl) := roundFmt v f rm sat (draw e)
    let (cs, fl') := encodeElems f rm sat draw (e + 1) vs
    (c :: cs, fl ||| fl')

/-! ## Element results -/

/-- The sign of a value that is not NaN. -/
def evSign : EV → Bool
  | .fin s _ _ => s
  | .inf s => s
  | .nan => false

/-- FMIN and its counterpart on values (R173). -/
def evMinMax (max : Bool) (x y : EV) : EV :=
  if x = .nan then y
  else if y = .nan then x
  else if evLt x y then (if max then y else x)
  else if evLt y x then (if max then x else y)
  else if evSign x == max then y else x

/-- The value of an element operation and whether it is invalid (R69, R237, R238). -/
def elemResult (op : Instr) (rm : Rm) (x y d : EV) : EV × Bool :=
  match op with
  | .vadd _ => (sumEV rm x y, infMinusInf x y)
  | .vsub _ => (sumEV rm x (evNeg y), infMinusInf x (evNeg y))
  | .vmul _ => (evMul x y 0, infTimesZero x y)
  | .vfma _ =>
    let p := evMul x y 0
    (sumEV rm p d, infTimesZero x y || (p != .nan && infMinusInf p d))
  | .vmax _ => (evMinMax true x y, false)
  | .vmin _ => (evMinMax false x y, false)
  | .vabs _ => (evAbs x, false)
  | .vneg _ => (evNeg x, false)
  | .vexp2 _ => (evExp2 x, false)
  | .vlog2 _ => (evLog2x x, x != .nan && evLog2x x == .nan)
  | .vrcp _ => (evRcp x, false)
  | .vrsq _ => (evRsq x, x != .nan && evRsq x == .nan)
  | .vtanh _ => (evTanh x, false)
  | _ => (x, false)

/-- NV where a condition holds. -/
def nvIf (b : Bool) : BitVec 5 := if b then flagNV else 0#5

/-- Prefix results of a reduction: op 0 sum, 1 max, 2 min (R240). -/
def foldValues (op : Nat) (a v : EV) : EV :=
  if op = 0 then exactSum [a, v] else evMinMax (op == 1) a v

/-- The prefixes of a reduction. -/
def prefixes (op : Nat) : EV → List EV → List EV
  | a, [] => [a]
  | a, v :: vs => a :: prefixes op (foldValues op a v) vs

/-- Prefixes of a whole vector, from element 0 on. -/
def scanValues (op : Nat) : List EV → List EV
  | [] => []
  | v :: vs => prefixes op v vs

/-- Whether a sum of values is invalid: infinities of both signs and no NaN (R69, R77). DESIGN CHOICE, log 111. -/
def sumInvalid (vs : List EV) : Bool :=
  vs.all (· != .nan) && vs.contains (.inf false) && vs.contains (.inf true)

/-- Bit `i` of a list of bytes. -/
def bitOfBytes (bs : List Byte) (i : Nat) : Bool := (bs.getD (i / 8) 0#8).getLsbD (i % 8)

/-- Bits as bytes, bit e in byte e div 8 (R239). -/
def bytesOfBits (n : Nat) (bs : List Bool) : List Byte :=
  leBytes ((n + 7) / 8) (bs.foldr (fun b a => 2 * a + if b then 1 else 0) 0)

/-- The element `i` of a list of codes. -/
def codeAt (cs : List Nat) (i : Nat) : Nat := cs.getD i 0

/-- The transpose of N raw elements as an R by C matrix (R241). -/
def transposeCodes (r c : Nat) (cs : List Nat) : List Nat :=
  let a := cs.toArray
  (List.range c).flatMap fun j => (List.range r).map fun i => a.getD (i * c + j) 0

/-! ## The command -/

/-- A word as a sign-extended 64-bit value. -/
def sext32 (f : Word32) : Word := BitVec.signExtend 64 f

/-- Rounding mode and saturation of a command (R138, R237). -/
def Cmd.rmOf (x : Cmd) : Rm :=
  (Rm.ofCode (if x.x.rov then x.x.rm.toNat else bits x.fmt.toNat 15 13)).getD .rne
def Cmd.satOf (x : Cmd) : Bool := if x.x.rov then x.x.satv else x.fmt.getLsbD 12

/-- SR counts as RNE outside VCVT (R237). -/
def Cmd.vrm (x : Cmd) : Rm :=
  match x.op with
  | .vcvt _ => x.rmOf
  | _ => if x.rmOf = .sr then .rne else x.rmOf

/-- Whether a command has a source Y (R238). -/
def vHasY : Instr → Bool
  | .vadd _ | .vsub _ | .vmul _ | .vfma _ | .vmax _ | .vmin _ | .vcmp _ | .vsel _ => true
  | _ => false

/-- Whether a command has a source X: not VRNG, nor VBCST of a scalar (R238, R241). -/
def vHasX (op : Instr) (b : Bundle) : Bool :=
  match op with
  | .vrng _ => false
  | .vbcst _ => !b.vys
  | _ => true

/-- Whether X has a single element (R238). -/
def vOneX : Instr → Bool
  | .vbcst _ => true
  | _ => false

/-- Elements of D (R240). -/
def vDst (op : Instr) (b : Bundle) : Nat :=
  match op with
  | .vred _ => 1
  | _ => b.vn

/-- Bytes of D (R239, R240). -/
def vDstBytes (op : Instr) (b : Bundle) : Nat :=
  match op with
  | .vcmp _ => (b.vn + 7) / 8
  | _ => spanBytes b.vfd (vDst op b)

/-- An operand in memory: address, whether it is no address, use, bytes, alignment. -/
structure VRange where
  addr : Word
  bad : Bool
  use : AccUse
  bytes : Nat
  align : Nat

/-- The alignment of a vector (R236). -/
def vAlign (f : Nat) : Nat := if isBlock f then 1 else fmtBits f / 8

/-- X where it lies in memory. -/
def Cmd.vx (x : Cmd) : List VRange :=
  if vHasX x.op x.x && !x.x.vta then
    [{ addr := x.a, bad := x.aBad, use := .read, align := vAlign x.x.vfs,
       bytes := spanBytes x.x.vfs (if vOneX x.op then 1 else x.x.vn) }]
  else []

/-- Y where it lies in memory (R236). -/
def Cmd.vy (x : Cmd) : List VRange :=
  if vHasY x.op && !x.x.vys then
    [{ addr := if x.x.flag 0 then x.a + sext32 x.x.w5 else freeAddr x.x.w5, bad := x.aBad && x.x.flag 0, use := .read,
       align := vAlign x.x.vfs, bytes := spanBytes x.x.vfs x.x.vn }]
  else []

/-- What a command reads besides X and Y: the addend of VFMA, the mask of VSEL, the scales of VCVT (R238 to R241). -/
def Cmd.vaux (x : Cmd) : List VRange :=
  match x.op with
  | .vfma _ => [{ addr := x.b, bad := x.bBad, use := .read, align := vAlign x.x.vfd, bytes := spanBytes x.x.vfd x.x.vn }]
  | .vsel _ => [{ addr := freeAddr x.x.w7, bad := false, use := .read, align := 1, bytes := (x.x.vn + 7) / 8 }]
  | .vcvt _ =>
    if isMx x.x.vfs then [{ addr := freeAddr x.x.w7, bad := false, use := .read, align := 1, bytes := x.x.vn / 32 }] else []
  | _ => []

/-- What a command writes: D, and the scales of an MX encode (R241). Masks and scales, whose elements R236 gives no size, are
byte-aligned. DESIGN CHOICE, log 89. -/
def Cmd.vdst (x : Cmd) : List VRange :=
  let scales : List VRange := match x.op with
    | .vcvt _ =>
      if isMx x.x.vfd then [{ addr := freeAddr x.x.w7, bad := false, use := .write, align := 1, bytes := x.x.vn / 32 }] else []
    | _ => []
  { addr := x.b, bad := x.bBad, use := .write, align := (match x.op with
      | .vcmp _ => 1
      | _ => vAlign x.x.vfd), bytes := vDstBytes x.op x.x } :: scales

/-- The bytes of operands, or the first access error (R244 check 1). -/
def rangesOf (s : State) (x : Cmd) : List VRange → Except DefErr (List (List (Nat × Nat)))
  | [] => .ok []
  | r :: rs =>
    if r.bad then .error (x.fault 0x20 r.addr 0)
    else match x.segs s r.use r.addr 0 r.bytes with
      | .error d => .error (x.fault 0x20 r.addr d)
      | .ok g => match rangesOf s x rs with
        | .error e => .error e
        | .ok gs => .ok (g :: gs)

/-- The first misaligned operand (R244 check 2). -/
def misaligned (x : Cmd) (rs : List VRange) : Option DefErr :=
  (rs.find? fun r => r.addr.toNat % r.align != 0).map fun r => x.fault 0x21 r.addr r.align

/-- The refusal of a command at issue, by the check of R244 that it fails. -/
def refusedBy (x : Cmd) (cause : Nat) : Option DefErr :=
  match x.refused with
  | some e => if e.cause = cause then some e else none
  | none => none

/-- The checks before any read that MXE and VXE commands share, in their order: access, alignment, ring refusal,
poisoned tile (R244). A ring of another ASID is an access error (R99), and comes before the access errors of addresses. DESIGN
CHOICE, log 88. -/
def preChecks (s : State) (x : Cmd) (rs : List VRange) : Except DefErr (List (List (Nat × Nat))) :=
  match refusedBy x 0x20 with
  | some e => .error e
  | none => match rangesOf s x rs with
    | .error e => .error e
    | .ok gs => match misaligned x rs, x.refused, poisonedRef s x with
      | some e, _, _ => .error e
      | none, some e, _ => .error e
      | none, none, some e => .error e
      | none, none, none => .ok gs

/-- The deferred memory error of a codeword (R332, R345). -/
def Cmd.memErr (x : Cmd) (k : Nat) : DefErr := x.fault 0x28 (BitVec.ofNat 64 (k % 2 ^ 60)) (storeCode k)

/-- Operands read one after the other: the state, their bytes, and the memory error met (R345). -/
def readList (s : State) (x : Cmd) : List (List (Nat × Nat)) → State × List (List Byte) × Option DefErr
  | [] => (s, [], none)
  | g :: gs =>
    let (s1, bs, bad) := segRead s x.core g
    let e := if bad then (g.flatMap fun r => eccBads s.ecc r.1 r.2).head?.map x.memErr else none
    let (s2, rest, e2) := readList s1 x gs
    (s2, bs :: rest, e.or e2)

/-- Operands read, with the tile table entries of the tiles among them (R345). DESIGN CHOICE, log 78. -/
def readRanges (s : State) (x : Cmd) (gs : List (List (Nat × Nat))) : State × List (List Byte) × Option DefErr :=
  let cl := clusterOfCore x.core
  let bad := x.refs.find? fun t => eccBad s.ecc (tileKey cl t.slot) 8
  let (s1, _) := eccReads s x.core (x.refs.map fun t => (tileKey cl t.slot, 8))
  let (s2, bs, e) := readList s1 x gs
  (s2, bs, (bad.map fun t => x.fault 0x28 (BitVec.ofNat 64 t.idx) 9).or e)

/-- The guard error of ranges: the lowest guarded granule of all of them (R104, R332). -/
def guardErr (s : State) (x : Cmd) (gs : List (List (Nat × Nat))) : Option DefErr :=
  (segGuard s gs.flatten).map fun g => x.fault 0x24 (BitVec.ofNat 64 g) (spadBank g)

/-- The errors that writes meet in codewords that they cover in part: counted, with the lowest such codeword (R345). -/
def writeMeets (s : State) (x : Cmd) (segs : List (Nat × Nat)) : State × Option DefErr :=
  segs.foldl (fun a g =>
    let low := (eccBads (eccWrite s.ecc g.1 g.2) g.1 g.2).head?.map x.memErr
    ((eccPart a.1 x.core g.1 g.2).1, a.2.or low)) (s, none)

/-- Ranges written, with the guard error or the memory error that they meet (R104, R244, R345). -/
def writeRanges (s : State) (x : Cmd) (gs : List (List (Nat × Nat))) (bs : List (List Byte)) : State × Option DefErr :=
  let (s1, bad) := writeMeets s x gs.flatten
  ((gs.zip bs).foldl (fun a p => segWrite a x.core x.asid (cmdTid s x) p.1 p.2) s1, (guardErr s x gs).or bad)

/-- Whether a destination partly overlaps a source (R237). -/
def partOverlap (dst src : List (List (Nat × Nat))) : Bool :=
  dst.any fun d => src.any fun r => d != r && segsMeet d r

/-- The output of a vector command from the bytes of X, Y and what else it reads (R237 to R241). -/
def vCompute (x : Cmd) (bx bY bz : List Byte) : VOut :=
  let b := x.x
  let (fs, fd, n) := (b.vfs, b.vfd, b.vn)
  let (rm, sat) := (x.vrm, x.satOf)
  let draw (e : Nat) : Nat := if rm = .sr then srWord b.w5.toNat 0 e else 0
  let xs := valuesOf fs n bx bz
  let ycode := b.w7.toNat % 2 ^ fmtBits fs
  let ys := if b.vys then List.replicate n (valueOf fs ycode, snanOf fs ycode)
    else if vHasY x.op then valuesOf fs n bY [] else List.replicate n (.fin false 0 0, false)
  let ds := match x.op with
    | .vfma _ => valuesOf fd n bz []
    | _ => List.replicate n (.fin false 0 0, false)
  let rounded (vs : List EV) (nv : Bool) : VOut :=
    let (cs, fl) := encodeElems fd rm sat draw 0 vs
    { bytes := bytesOf fd cs, scales := [], flags := fl ||| nvIf nv }
  let raw (cs : List Nat) : VOut := { bytes := bytesOf fd cs, scales := [], flags := 0#5 }
  let op := bits b.flags.toNat 2 1
  match x.op with
  | .vcvt _ =>
    if isBlock fd then encodeBlocks fd rm sat (maxFinite fs) draw (n / blockElems fd) 0 xs
    else rounded (xs.map (·.1)) (xs.any (·.2))
  | .vcmp _ =>
    let cc := (Cc.ofCode (bits b.flags.toNat 4 1)).getD .eq
    let yc := if b.vys then List.replicate n ycode else codesOf fs n bY
    if isIntFmt fs then
      { bytes := bytesOfBits n (((codesOf fs n bx).zip yc).map fun p =>
          ccInt cc (ofInt 64 (signedOf (intBits fs) p.1)) (ofInt 64 (signedOf (intBits fs) p.2))),
        scales := [], flags := 0#5 }
    else
      let ps := xs.zip ys
      { bytes := bytesOfBits n (ps.map fun p => ccFp cc p.1.1 p.2.1), scales := [],
        flags := nvIf (ps.any fun p =>
          p.1.2 || p.2.2 || ((p.1.1 == .nan || p.2.1 == .nan) && ccSignals cc)) }
  | .vsel _ =>
    raw ((((codesOf fs n bx).zip (codesOf fs n bY)).zipIdx).map fun p => if bitOfBytes bz p.2 then p.1.1 else p.1.2)
  | .vred _ =>
    let vs := xs.map (·.1)
    rounded [(scanValues op vs).getLastD .nan] (xs.any (·.2) || (op == 0 && sumInvalid vs))
  | .vscan _ =>
    let vs := xs.map (·.1)
    rounded (scanValues op vs) (xs.any (·.2) || (op == 0 && sumInvalid (vs.takeWhile (· != .nan))))
  | .vtrn _ => raw (transposeCodes (bits b.w7.toNat 12 0) (n / bits b.w7.toNat 12 0) (codesOf fs n bx))
  | .vbcst _ =>
    let c := if b.vys then ycode else codeAt (codesOf fs 1 bx) 0
    rounded (List.replicate n (valueOf fs c)) (snanOf fs c)
  | .vrng _ =>
    let ws := (List.range n).map fun e => srWord x.a.toNat b.w5.toNat e
    if fd = 0x10 then raw ws
    else
      let (cs, fl) := encodeElems fd .rtz false (fun _ => 0) 0 (ws.map fun w => .fin false w (-32))
      { bytes := bytesOf fd cs, scales := [], flags := fl }
  | .vcpy _ => { bytes := bx, scales := [], flags := 0#5 }
  | op =>
    let rs := ((xs.zip ys).zip ds).map fun p => elemResult op rm p.1.1.1 p.1.2.1 p.2.1
    rounded (rs.map (·.1)) (rs.any (·.2) || xs.any (·.2) || ys.any (·.2) || ds.any (·.2))

/-- The first bit and the width of destination element `i` (R348). -/
def elemPlace (x : Cmd) (i : Nat) : Nat × Nat :=
  let f := x.x.vfd
  match x.op with
  | .vcmp _ => (i, 1)
  | _ =>
    if isLb f then (blockBytes f * 8 * (i / 16) + 16 + (lbBits f + 1) * (i % 16), lbBits f + 1)
    else (fmtBits f * i, if f = 0x12 then 34 else fmtBits f)

/-- A bit of a list of bytes inverted. -/
def flipBit (bs : List Byte) (i : Nat) : List Byte :=
  bs.zipIdx.map fun p => if p.2 = i / 8 then p.1 ^^^ BitVec.twoPow 8 (i % 8) else p.1

/-- The armed injection of site 0x2 on the output of a command that writes more than POS elements (R348). -/
def vInject (s : State) (x : Cmd) (bs : List Byte) : State × List Byte :=
  match (coreOf s x.core).inject with
  | some w =>
    if injSite w.toNat = 2 && decide (injPos w.toNat < vDst x.op x.x) then
      let (lo, width) := elemPlace x (injPos w.toNat)
      (countSoft (modCore s x.core fun k => { k with inject := none }) x.core 0x12B,
        if injBit w.toNat < width then flipBit bs (lo + injBit w.toNat) else bs)
    else (s, bs)
  | none => (s, bs)

/-- The tile that X names, when it holds X whole (log 18). -/
def vTile (x : Cmd) : Except DefErr (List (List (Nat × Nat))) :=
  match x.refs with
  | t :: _ =>
    let n := spanBytes x.x.vfs (if vOneX x.op then 1 else x.x.vn)
    if 8192 < n then .error (x.fault 0x20 (BitVec.ofNat 64 t.idx) 1) else .ok [tileSegs x.core t 0 n]
  | [] => .ok []

/-- The effect of a VXE command (R236 to R244). An overlap, which is found before any read, comes before a guarded source.
DESIGN CHOICE, log 90. -/
def vxeEffect (s : State) (x : Cmd) : CmdEnd :=
  let reads := x.vx ++ x.vy ++ x.vaux
  match vTile x with
  | .error e => .refuse s e
  | .ok tile =>
    match preChecks s x (reads ++ x.vdst) with
    | .error e => .refuse s e
    | .ok gs =>
      let src := tile ++ gs.take reads.length
      let dst := gs.drop reads.length
      if partOverlap dst src then .refuse s (x.fault 0x27 x.b 0)
      else match guardErr s x src with
        | some e => .fail s e
        | none =>
          let (s1, bs, bad) := readRanges s x src
          match bad with
          | some e => .fail s1 e
          | none =>
            let hx := vHasX x.op x.x
            let hy := vHasY x.op && !x.x.vys
            let bx := if hx then bs.headD [] else []
            let rest := if hx then bs.drop 1 else bs
            let out := vCompute x bx (if hy then rest.headD [] else []) ((if hy then rest.drop 1 else rest).headD [])
            let (s2, d) := vInject s1 x out.bytes
            let (s3, e) := writeRanges s2 x dst [d, out.scales]
            { s := s3, early := false, err := e, flags := out.flags, far := !(src ++ dst).all (segsLocal x.core) }

/-! ## Issue -/

/-- A command that selects FP64 issues on a D core; any other at home (R37, R135, R235, R237). -/
def Ctx.bundleCore (x : Ctx) (fp64 : Bool) (k : Body) : Body := if fp64 then x.onD k else x.atHome k

/-- The issue of a VXE command (R141, R236). -/
def Ctx.vxe (x : Ctx) (op : Instr) (b : Bundle) : Body :=
  x.bundleCore (b.vfs == 0x0E || b.vfd == 0x0E) <|
    x.issueCmd op b (match op with
      | .vrng _ => .value
      | .vbcst _ => if b.vys then .none else if b.vta then .tile else .addr
      | _ => if b.vta then .tile else .addr) .addr
      (fun a _ => if b.vta then [(b.vring, BitVec.setWidth 32 a, b.popA)] else []) (fun s c => (s, c))

/-- VADD (R238). -/
def execVadd (b : Bundle) (s : State) : Host.Outcome State Fault Refusal := runInstr s fun x => x.vxe (.vadd b) b
/-- VSUB (R238). -/
def execVsub (b : Bundle) (s : State) : Host.Outcome State Fault Refusal := runInstr s fun x => x.vxe (.vsub b) b
/-- VMUL (R238). -/
def execVmul (b : Bundle) (s : State) : Host.Outcome State Fault Refusal := runInstr s fun x => x.vxe (.vmul b) b
/-- VFMA (R238). -/
def execVfma (b : Bundle) (s : State) : Host.Outcome State Fault Refusal := runInstr s fun x => x.vxe (.vfma b) b
/-- VMAX (R238). -/
def execVmax (b : Bundle) (s : State) : Host.Outcome State Fault Refusal := runInstr s fun x => x.vxe (.vmax b) b
/-- VMIN (R238). -/
def execVmin (b : Bundle) (s : State) : Host.Outcome State Fault Refusal := runInstr s fun x => x.vxe (.vmin b) b
/-- VABS (R238). -/
def execVabs (b : Bundle) (s : State) : Host.Outcome State Fault Refusal := runInstr s fun x => x.vxe (.vabs b) b
/-- VNEG (R238). -/
def execVneg (b : Bundle) (s : State) : Host.Outcome State Fault Refusal := runInstr s fun x => x.vxe (.vneg b) b
/-- VEXP2 (R238). -/
def execVexp2 (b : Bundle) (s : State) : Host.Outcome State Fault Refusal := runInstr s fun x => x.vxe (.vexp2 b) b
/-- VLOG2 (R238). -/
def execVlog2 (b : Bundle) (s : State) : Host.Outcome State Fault Refusal := runInstr s fun x => x.vxe (.vlog2 b) b
/-- VRCP (R238). -/
def execVrcp (b : Bundle) (s : State) : Host.Outcome State Fault Refusal := runInstr s fun x => x.vxe (.vrcp b) b
/-- VRSQ (R238). -/
def execVrsq (b : Bundle) (s : State) : Host.Outcome State Fault Refusal := runInstr s fun x => x.vxe (.vrsq b) b
/-- VTANH (R238). -/
def execVtanh (b : Bundle) (s : State) : Host.Outcome State Fault Refusal := runInstr s fun x => x.vxe (.vtanh b) b
/-- VCVT (R241). -/
def execVcvt (b : Bundle) (s : State) : Host.Outcome State Fault Refusal := runInstr s fun x => x.vxe (.vcvt b) b
/-- VCMP (R239). -/
def execVcmp (b : Bundle) (s : State) : Host.Outcome State Fault Refusal := runInstr s fun x => x.vxe (.vcmp b) b
/-- VSEL (R239). -/
def execVsel (b : Bundle) (s : State) : Host.Outcome State Fault Refusal := runInstr s fun x => x.vxe (.vsel b) b
/-- VRED (R240). -/
def execVred (b : Bundle) (s : State) : Host.Outcome State Fault Refusal := runInstr s fun x => x.vxe (.vred b) b
/-- VSCAN (R240). -/
def execVscan (b : Bundle) (s : State) : Host.Outcome State Fault Refusal := runInstr s fun x => x.vxe (.vscan b) b
/-- VTRN (R241). -/
def execVtrn (b : Bundle) (s : State) : Host.Outcome State Fault Refusal := runInstr s fun x => x.vxe (.vtrn b) b
/-- VBCST (R238). -/
def execVbcst (b : Bundle) (s : State) : Host.Outcome State Fault Refusal := runInstr s fun x => x.vxe (.vbcst b) b
/-- VRNG (R241). -/
def execVrng (b : Bundle) (s : State) : Host.Outcome State Fault Refusal := runInstr s fun x => x.vxe (.vrng b) b
/-- VCPY (R241). -/
def execVcpy (b : Bundle) (s : State) : Host.Outcome State Fault Refusal := runInstr s fun x => x.vxe (.vcpy b) b

/-! ## Start and completion -/

/-- Width of an element for the occupancy: block formats count as 32 bits, A34 as its container (R242). -/
def vWidth (f : Nat) : Nat := if isBlock f then 32 else fmtBits f

/-- Occupancy of a VXE command (R242). -/
def vOccupancy (op : Instr) (b : Bundle) : Nat :=
  let l := 1024 / max (vWidth b.vfs) (vWidth b.vfd)
  (b.vn + l - 1) / l * (match op with
    | .vexp2 _ | .vlog2 _ | .vrcp _ | .vrsq _ | .vtanh _ => 4
    | _ => 1)

/-- The references of a command that failed before its reads are released at once (R101). -/
def retireEarly (s : State) (x : Cmd) : State := if x.retired then releaseRefs s x else s

/-- VXE_COMMAND_START (R236, R242). -/
def execVxeCommandStart (core : Nat) (s : State) : Host.Outcome State Fault Refusal :=
  event s <| match (coreOf s core).vxeq with
    | [] => none
    | x :: rest =>
      if !mayStart s x || decide (s.cycle < (coreOf s core).vxeFree) then none
      else
        let occ := vOccupancy x.op x.x
        let e := vxeEffect s x
        let y := startedCmd s x e occ
        let s1 := modCore e.s core fun k =>
          { k with vxeq := rest, active := k.active ++ [y], vxeFree := s.cycle + if e.early then 1 else occ }
        some (wakeQueue (retireEarly s1 y) y)

/-- No command: the name in a signal that the MNI raises by itself. -/
def noCmd : Nat := 2 ^ 63

/-- A signal due now that a held core diverts (R302). -/
def divertSignal (s : State) (c asid sem inc : Nat) (err : Option DefErr) : State :=
  let m := { signalOf s c asid sem inc err noCmd with due := s.cycle }
  match taking s m with
  | .apply => applyBody s m
  | .spill => toSpill s m
  | .later => putMsg s m

/-- A command's signal at its end; one of a held context that falls due while the core is PREEMPTED or RESTORING is diverted
(R302, R303). -/
def Cmd.signalHeld (s : State) (x : Cmd) (err : Option DefErr) : State :=
  let k := coreOf s x.core
  if (k.mode == .preempted || k.mode == .restoring) && some x.asid != k.guestAsid then
    divertSignal s x.core x.asid x.x.sigSem.toNat x.x.inc.toNat err
  else x.signal s err

/-- A command of a core's engine that has retired and is due, with every write to another package acknowledged: its signal,
its error and its flags (R54, R115, R220, R244, R245). -/
def completeCmd (s : State) (core uid engine : Nat) : Option State :=
  match activeCmd s core uid with
  | none => none
  | some x =>
    if (cmdCode x.op).1 = engine && x.started && x.retired && decide (x.due ≤ s.cycle) &&
      !writesOut s (cmdTid s x) then
      some (x.signalHeld (x.report (dropActive s core uid)) x.err)
    else none

/-- VXE_COMMAND_COMPLETE (R242, R245). -/
def execVxeCommandComplete (core cmd : Nat) (s : State) : Host.Outcome State Fault Refusal :=
  event s (completeCmd s core cmd 1)

end Sys2Proof.Machine
end

