-- ==== Sys2Proof/Machine/Mortar.lean ====
section
/-! DEFINITION. The mortar network (R284 to R307): MNI commands, joining, admission, beats, the addition rules, eviction. -/

namespace Sys2Proof.Machine

/-! ## Chains, quarters, messages -/

/-- A chain slot of a core (R284). -/
def chainOf (s : State) (c n : Nat) : Chain := mapGet Chain.free (coreOf s c).chains n

/-- The state with a chain slot replaced. -/
def putChain (s : State) (c n : Nat) (h : Chain) : State := modCore s c fun k => { k with chains := mapSet k.chains n h }

/-- Whether a quarter of a core's mortar buffer is reserved (R285). -/
def quarterUsed (s : State) (c q : Nat) : Bool := mapGet false (coreOf s c).quarters q

/-- Quarters reserved or freed (R285). -/
def setQuarters (s : State) (c : Nat) (qs : List Nat) (b : Bool) : State :=
  modCore s c fun k => { k with quarters := qs.foldl (fun m q => mapSet m q b) k.quarters }

/-- The quarters of a chain (R285). -/
def chainQuarters (h : Chain) : List Nat := (List.range (if h.fix then 2 else 1 + h.look)).map (h.qtr + ·)

/-- A message of the mortar network under an ASID. -/
def mortarMsg (s : State) (c d asid : Nat) (body : MsgBody) : State :=
  putMsg s { mkMsg s c 256 s.pkg.dev.toNat d .mortar false body with asid := asid }

/-- A chain slot freed: its generation rises (R284). -/
def freeChain (s : State) (c n : Nat) : State :=
  let h := chainOf s c n
  putChain (setQuarters s c (chainQuarters h) false) c n { Chain.free with gen := h.gen + 1#8 }

/-! ## Admission and addition -/

/-- Positions of a SEQ chain admitted in increasing order while R293 allows. -/
def admitN : Nat → State → Nat → Nat → State
  | 0, s, _, _ => s
  | fuel + 1, s, c, n =>
    let h := chainOf s c n
    let p := h.admitTo
    if h.fix || h.st ≠ 1 || h.n ≤ p then s
    else if p = h.done || (decide (p ≤ h.done + h.look) && decide (h.held.length < h.look)) then
      let h1 := { h with admitTo := p + 1, held := if p = h.done then h.held else h.held ++ [p],
                         joined := h.joined.map fun j => if j.1 = p then (j.1, j.2.1, j.2.2.1, true) else j }
      let s1 := putChain s c n h1
      let s2 := match h.joined.find? fun j => j.1 == p with
        | some j => mortarMsg s1 c j.2.1 h.asid (.admission n p h.gen.toNat)
        | none => s1
      admitN fuel s2 c n
    else s

/-- The admissions of a chain that are due (R293). -/
def admitAll (s : State) (c n : Nat) : State := admitN 256 s c n

/-- Flags of a FIX cell: NAN, PINF, NINF, NZ, OUT (R296). -/
def cellNan : BitVec 5 := 16#5
def cellPinf : BitVec 5 := 8#5
def cellNinf : BitVec 5 := 4#5
def cellNz : BitVec 5 := 2#5
def cellOut : BitVec 5 := 1#5

/-- A contribution to a FIX cell (R296). -/
def cellAdd (base : Int) (cell : Int × BitVec 5) (x : Nat) : Int × BitVec 5 :=
  match ffA34.value x with
  | .nan => (cell.1, cell.2 ||| cellNan)
  | .inf neg => (cell.1, cell.2 ||| if neg then cellNinf else cellPinf)
  | .fin neg m e =>
    let q := e - base
    let (v, exact) : Nat × Bool :=
      if 0 ≤ q then (m * 2 ^ q.toNat, true) else (m / 2 ^ (-q).toNat, m % 2 ^ (-q).toNat == 0)
    let sat := decide (2 ^ 86 ≤ v)
    let w := if sat then 2 ^ 86 - 1 else v
    (cell.1 + (if neg then -(w : Int) else w),
      cell.2 ||| (if neg && m == 0 then 0#5 else cellNz) ||| if sat || !exact then cellOut else 0#5)

/-- The result of a FIX cell (R297). -/
def cellResult (base : Int) (cell : Int × BitVec 5) : Nat :=
  let has (f : BitVec 5) : Bool := cell.2 &&& f != 0#5
  if has cellNan || (has cellPinf && has cellNinf) then ffA34.nan
  else if has cellPinf then ffA34.infc
  else if has cellNinf then ffA34.withSign true ffA34.infc
  else if cell.1 = 0 then (if has cellNz then 0 else ffA34.withSign true 0)
  else roundRne (.fin (decide (cell.1 < 0)) cell.1.natAbs base) ffA34

/-- The running sum of a SEQ chain after element contributions of a row of a position (R295). -/
def seqRow (acc : SMap Nat) (pos row : Nat) (vals : List Nat) : SMap Nat :=
  vals.zipIdx.foldl (fun a p =>
    let i := 64 * row + p.2
    mapSet a i (if pos = 0 then roundRne (ffA34.value p.1) ffA34 else a34Add (mapGet 0 a i) p.1)) acc

/-- The cells of a FIX chain after a row. -/
def fixRow (base : Int) (cells : SMap (Int × BitVec 5)) (row : Nat) (vals : List Nat) : SMap (Int × BitVec 5) :=
  vals.zipIdx.foldl (fun a p =>
    let i := 64 * row + p.2
    mapSet a i (cellAdd base (mapGet (0, 0#5) a i) p.1)) cells

/-- Rows of a position that are applied. -/
def rowsOf (h : Chain) (p : Nat) : Nat := mapGet 0 h.rows p

/-- Whether a row of a SEQ position can be applied (R294). -/
def rowReady (h : Chain) (pos row : Nat) : Bool :=
  rowsOf h pos == row && (pos == 0 || decide (row < rowsOf h (pos - 1)))

/-- A row applied at its chain (R293, R294). -/
def applyRow (s : State) (c n pos row : Nat) (vals : List Nat) : State :=
  let h := chainOf s c n
  let k := rowsOf h pos + 1
  let whole := k == 64
  let h1 := { h with rows := mapSet h.rows pos k, done := if whole then h.done + 1 else h.done,
                     held := if whole then h.held.filter (· != pos) else h.held,
                     acc := if h.fix then h.acc else seqRow h.acc pos row vals,
                     cells := if h.fix then fixRow h.base h.cells row vals else h.cells }
  admitAll (putChain s c n h1) c n

/-- A chain whose rows were all applied by the last cycle: it is COMPLETE and CSEM is raised (R294). -/
def chainComplete (s : State) (c n : Nat) : State :=
  let h := chainOf s c n
  divertSignal (putChain s c n { h with st := 2 }) c h.asid h.csem 1 none

/-! ## Issue of the MNI commands -/

/-- A mortar target (R289): chain slot and core, or its traps. -/
def Ctx.chainTarget (x : Ctx) (v : Word) (reg : Nat) (k : Body) : Body :=
  let w := v.toNat
  if 2 ^ 34 ≤ w || 15 < twSlot w || twDev w ≠ x.s.pkg.dev.toNat then x.illegalOperand v reg
  else x.dest v fun _ => k

/-- The issue of an MNI command (R141, R287, R306). -/
def Ctx.mni (x : Ctx) (op : Instr) (b : Bundle) (ka kb : FieldKind) : Body :=
  x.issueCmd op b ka kb (fun _ _ => []) fun s c => (s, c)

/-- Step 6 for a command whose formed fields are checked at issue. -/
def Ctx.mniReady (x : Ctx) (b : Bundle) (k : Body) : Body :=
  x.needRegs (bundleRegs b) <| x.needRes (queueRoom x.s x.c x.n 4) .mniq k

/-- CHOPEN (R288). -/
def execChopen (b : Bundle) (s : State) : Host.Outcome State Fault Refusal :=
  runInstr s fun x => x.atHome <| x.mni (.chopen b) b .none .none

/-- CHJOIN (R289). -/
def execChjoin (b : Bundle) (s : State) : Host.Outcome State Fault Refusal :=
  runInstr s fun x => x.atHome <| x.mniReady b <|
    let tgt := fieldValue x.t b.substA.toNat b.fieldA
    let pos := fieldValue x.t b.substB.toNat b.fieldB
    if 255 < pos.toNat then x.illegalOperand pos b.substB.toNat
    else x.chainTarget tgt b.substA.toNat <| x.mni (.chjoin b) b .value .value

/-- CHCLOSE (R299). -/
def execChclose (b : Bundle) (s : State) : Host.Outcome State Fault Refusal :=
  runInstr s fun x => x.atHome <| x.mni (.chclose b) b .addr (if b.flag 0 then .addr else .none)

/-- CHSTAT (R300). -/
def execChstat (b : Bundle) (s : State) : Host.Outcome State Fault Refusal :=
  runInstr s fun x => x.atHome <| x.mni (.chstat b) b .addr .none

/-- CHEVICT (R304). -/
def execChevict (b : Bundle) (s : State) : Host.Outcome State Fault Refusal :=
  runInstr s fun x => x.atHome <| x.needS <| x.mniReady b <|
    x.chainTarget (fieldValue x.t b.substA.toNat b.fieldA) b.substA.toNat <| x.mni (.chevict b) b .value .none

/-! ## Running the MNI commands -/

/-- A started command that signals after a fixed delay. -/
def mniEnd (s : State) (x : Cmd) (err : Option DefErr) (delay : Nat) : State :=
  let s1 := modCore s x.core fun k => { k with active := k.active ++ [{ x with started := true, retired := true, due := s.cycle + delay }] }
  putMsg s1 { signalOf s1 x.core x.asid x.x.sigSem.toNat x.x.inc.toNat err x.uid with due := s.cycle + delay }

/-- A started command that waits for the reply of another core. -/
def mniWait (s : State) (x : Cmd) : State :=
  modCore s x.core fun k => { k with active := k.active ++ [{ x with started := true, retired := true, due := never }] }

/-- A command that ends as a reply arrives: its signal applies in that cycle (R287, R289). -/
def mniFinish (s : State) (x : Cmd) (err : Option DefErr) : State := x.signal (endNamed s x.core x.uid) err

/-- CHOPEN at its start (R288). -/
def startChopen (s : State) (x : Cmd) : State :=
  let b := x.x
  let n := fld b.w5 3 0
  let h : Chain := { Chain.free with
    st := 1, gen := (chainOf s x.core n).gen, fix := b.flag 0, n := fld b.w5 23 16 + 1,
    look := if b.flag 0 then 0 else fld b.w5 9 8, qtr := fld b.w5 11 10, base := if b.flag 0 then b.chBase else 0,
    csem := fld b.w5 31 24, asid := x.asid }
  if (chainOf s x.core n).st ≠ 0 then mniEnd s x (some (plainErr 0x31 n)) 8
  else match (chainQuarters h).find? (quarterUsed s x.core) with
    | some q => mniEnd s x (some (plainErr 0x32 q)) 8
    | none =>
      let s1 := clearMark s (mortarKey x.core (32768 * h.qtr)) (32768 * (chainQuarters h).length)
      mniEnd (admitAll (putChain (setQuarters s1 x.core (chainQuarters h) true) x.core n h) x.core n) x none 8

/-- CHJOIN at its start (R289). One that its own core refuses signals 8 cycles later. DESIGN CHOICE, log 110. -/
def startChjoin (s : State) (x : Cmd) : State :=
  let b := x.x
  let bind := fld b.w5 13 8
  let sq := fld b.w5 1 0
  let w := x.a.toNat
  if (mapFind (coreOf s x.core).binds bind).isSome then mniEnd s x (some (plainErr 0x33 bind)) 8
  else if b.flag 0 && quarterUsed s x.core sq then mniEnd s x (some (plainErr 0x32 sq)) 8
  else match coreOfLogical s (partOfCore s x.core) (twCore w) with
    | none => mniEnd s x (some (x.fault 0x20 x.a 2)) 8
    | some d =>
      let s1 := if b.flag 0 then setQuarters s x.core [sq] true else s
      mortarMsg (mniWait s1 x) x.core d x.asid (.joinReq bind (twSlot w) x.b.toNat (b.flag 0))

/-- The code of element `i` of a complete chain (R295, R297). -/
def chainValue (h : Chain) (i : Nat) : Nat :=
  if h.fix then cellResult h.base (mapGet (0, 0#5) h.cells i) else mapGet 0 h.acc i

/-- Elements of a chain with OUT = 1 (R296). -/
def chainOuts (h : Chain) : List Nat := (h.cells.filter fun c => c.2.2 &&& cellOut != 0#5).map (·.1)

/-- CHCLOSE at its start (R299): rows are written one per cycle and the slot is freed; an uncorrectable error in the chain's
quarters writes nothing (R244, R345). -/
def startChclose (s : State) (x : Cmd) : State :=
  let b := x.x
  let n := fld b.w5 3 0
  let h := chainOf s x.core n
  let stride := if b.w6 = 0#32 then 512 else b.w6.toNat
  let row (i : Nat) : VRange :=
    { addr := x.a + BitVec.ofNat 64 (i * stride), bad := x.aBad, use := .write, bytes := 512, align := 8 }
  let map : List VRange := if b.flag 0 then [{ addr := x.b, bad := x.bBad, use := .write, bytes := 512, align := 8 }] else []
  let outs := chainOuts h
  if h.st = 0 || h.asid ≠ x.asid then mniEnd s x (some (x.fault 0x20 (BitVec.ofNat 64 n) 4)) 8
  else if h.st = 1 then mniEnd s x (some (plainErr 0x35 n)) 8
  else match preChecks s x ((List.range 64).map row ++ map) with
    | .error e => mniEnd s x (some e) 8
    | .ok gs =>
      let vals := (List.range 4096).map (chainValue h)
      let rows := (List.range 64).map fun r => ((vals.drop (64 * r)).take 64).flatMap (leBytes 8)
      let bits := leBytes 512 (outs.foldl (fun a i => a + 2 ^ i) 0)
      let at_ := mortarKey x.core (32768 * h.qtr)
      let len := 32768 * (chainQuarters h).length
      let (s0, bad) := eccRead s x.core at_ len
      if bad then
        mniEnd (freeChain s0 x.core n) x ((eccBads s.ecc at_ len).head?.map x.memErr) 72
      else
        let (s1, ge) := writeRanges s0 x gs (rows ++ if b.flag 0 then [bits] else [])
        let e := ge.or (if b.flag 1 && !outs.isEmpty then some (plainErr 0x36 outs.length) else none)
        mniEnd (freeChain s1 x.core n) x e (72 + farDelay x (!gs.all (segsLocal x.core)))

/-- The record of CHSTAT (R300). -/
def chainRecord (h : Chain) : List Byte :=
  leBytes 1 h.st ++ leBytes 1 ((if h.fix then 1 else 0) + h.look * 2 + h.qtr * 8) ++ leBytes 1 h.gen.toNat ++
    leBytes 1 h.csem ++ leBytes 2 h.n ++ leBytes 2 h.joined.length ++ leBytes 2 h.done ++ leBytes 2 h.admitTo ++
    leBytes 2 (ofInt 16 h.base).toNat ++ leBytes 2 h.asid ++ leBytes 4 (chainOuts h).length ++
    leBytes 4 (h.rows.foldl (fun a r => a + r.2) 0) ++ leBytes 8 0

/-- CHSTAT at its start (R300). -/
def startChstat (s : State) (x : Cmd) : State :=
  let n := fld x.x.w5 3 0
  let h := chainOf s x.core n
  let r : VRange := { addr := x.a, bad := x.aBad, use := .write, bytes := 32, align := 32 }
  if h.st ≠ 0 && h.asid ≠ x.asid then mniEnd s x (some (x.fault 0x20 (BitVec.ofNat 64 n) 4)) 8
  else match preChecks s x [r] with
    | .error e => mniEnd s x (some e) 8
    | .ok gs =>
      let (s1, e) := writeRanges s x gs [chainRecord h]
      mniEnd s1 x e (9 + farDelay x (!gs.all (segsLocal x.core)))

/-- CHEVICT at its start: the request to the receiver (R304). -/
def startChevict (s : State) (x : Cmd) : State :=
  match coreOfLogical s (partOfCore s x.core) (twCore x.a.toNat) with
  | none => mniEnd s x (some (x.fault 0x20 x.a 2)) 8
  | some d => mortarMsg (mniWait s x) x.core d x.asid (.chevictReq (twSlot x.a.toNat) x.uid)

/-- Whether the MNI runs a command (R287). -/
def mniRuns (k : Core) : Bool := k.active.any fun x => (cmdCode x.op).1 == 4

/-- MNI_COMMAND_START (R287 to R304). -/
def execMniCommandStart (core : Nat) (s : State) : Host.Outcome State Fault Refusal :=
  event s <| match (coreOf s core).mniq with
    | [] => none
    | x :: rest =>
      if !mayStart s x || mniRuns (coreOf s core) || decide (s.cycle < (coreOf s core).mniFree) then none
      else
        let s1 := wakeQueue (modCore s core fun k => { k with mniq := rest }) x
        some (match x.op with
          | .chopen _ => startChopen s1 x
          | .chjoin _ => startChjoin s1 x
          | .chclose _ => startChclose s1 x
          | .chstat _ => startChstat s1 x
          | _ => startChevict s1 x)

/-! ## Joining and admission -/

/-- Why a join is refused: 1 not open, 2 position, 3 taken, 4 no staging (R289). -/
def joinRefusal (h : Chain) (asid pos : Nat) (stg : Bool) : Option Nat :=
  if h.st ≠ 1 || h.asid ≠ asid then some 1
  else if h.n ≤ pos then some 2
  else if h.joined.any fun j => j.1 == pos then some 3
  else if !h.fix && !stg then some 4
  else none

/-- A join accepted by the receiver (R289, R293). -/
def joinChain (h : Chain) (pos core bind : Nat) : Chain :=
  { h with joined := h.joined ++ [(pos, core, bind, h.fix || decide (pos < h.admitTo))],
           admitTo := if h.fix then max h.admitTo (pos + 1) else h.admitTo }

/-- JOIN_REQUEST_ARRIVAL (R289, R293): handled outside the MNI queue, whether or not the core is held (R302). -/
def execJoinRequestArrival (msg : Nat) (s : State) : Host.Outcome State Fault Refusal :=
  event s <| (arrived s msg).bind fun m => match m.body with
    | .joinReq bind n pos stg =>
      let h := chainOf s m.dcore n
      let s1 := dropMsg s m.uid
      match joinRefusal h m.asid pos stg with
      | some d => some (mortarMsg s1 m.dcore m.score m.asid (.joinReply bind h.gen.toNat (some d) false h.fix))
      | none =>
        let s2 := putChain s1 m.dcore n (joinChain h pos m.score bind)
        some (mortarMsg s2 m.dcore m.score m.asid
          (.joinReply bind h.gen.toNat none (h.fix || decide (pos < h.admitTo)) h.fix))
    | _ => none

/-- The CHJOIN that a core's MNI runs for a binding. -/
def joinCmd (s : State) (c bind : Nat) : Option Cmd :=
  (coreOf s c).active.find? fun x => match x.op with
    | .chjoin b => fld b.w5 13 8 == bind
    | _ => false

/-- The binding that a join sets (R286): its staging quarter is kept under SEQ. -/
def boundBy (x : Cmd) (core gen : Nat) (admitted fix : Bool) : Binding :=
  { core := core, chain := twSlot x.a.toNat, pos := x.b.toNat, gen := gen, asid := x.asid, admitted := admitted,
    stg := if x.x.flag 0 && !fix then some (fld x.x.w5 1 0) else none, evicted := false }

/-- JOIN_REPLY_ARRIVAL (R289). -/
def execJoinReplyArrival (msg : Nat) (s : State) : Host.Outcome State Fault Refusal :=
  event s <| (arrived s msg).bind fun m => match m.body with
    | .joinReply bind gen refused admitted fix =>
      let c := m.dcore
      let s1 := dropMsg s m.uid
      match joinCmd s c bind with
      | none => some s1
      | some x =>
        let sq := fld x.x.w5 1 0
        let free (u : State) : State := if x.x.flag 0 then setQuarters u c [sq] false else u
        match refused with
        | some d => some (mniFinish (free s1) x (some (plainErr 0x34 d)))
        | none =>
          let s2 := modCore s1 c fun k => { k with binds := mapSet k.binds bind (boundBy x m.score gen admitted fix) }
          some (mniFinish (if fix then free s2 else s2) x none)
    | _ => none

/-- Whether a binding is the one that a receiver's message names. -/
def isBinding (b : Binding) (core chain pos gen : Nat) : Bool :=
  b.core == core && b.chain == chain && b.pos == pos && b.gen == gen

/-- ADMISSION_ARRIVAL (R292). -/
def execAdmissionArrival (msg : Nat) (s : State) : Host.Outcome State Fault Refusal :=
  event s <| (arrived s msg).bind fun m => match m.body with
    | .admission chain pos gen =>
      let hit (b : Binding) : Bool := isBinding b m.score chain pos gen
      some (modCore (dropMsg s m.uid) m.dcore fun k =>
        { k with binds := k.binds.map fun b => if hit b.2 then (b.1, { b.2 with admitted := true }) else b,
                 sends := k.sends.map fun d =>
                   if hit d.2.bind then (d.1, { d.2 with bind := { d.2.bind with admitted := true },
                                                         next := max d.2.next s.cycle }) else d })
    | _ => none

/-! ## Beats -/

/-- Commands that a hold stops after the row in progress (R246 step 2). -/
def stopsAtRow : Instr → Bool
  | .ald _ | .ast _ | .acvt _ | .achk _ | .msum _ => true
  | _ => false

/-- Rows that a started row command has finished, that of this cycle among them (R220, R221, R246). -/
def rowsDone (s : State) (rot : Bool) (y : Cmd) : Nat :=
  if y.stop then y.rows
  else if y.retired then 64
  else if rot then y.steps
  else min 64 (65 - (y.retireAt - s.cycle))

/-- The MSUM named `uid`, running or saved. -/
def msumCmd (s : State) (c uid : Nat) : Option Cmd :=
  ((coreOf s c).active ++ (coreOf s c).savedCmds).find? fun y => y.uid == uid

/-- A command replaced where it is, running or saved. -/
def putEverywhere (s : State) (x : Cmd) : State :=
  modCore (putActive s x) x.core fun k => { k with savedCmds := k.savedCmds.map fun y => if y.uid = x.uid then x else y }

/-- Rows that the MSUM named `uid` has read (R292, R303). -/
def msumRows (s : State) (c uid : Nat) : Nat :=
  match msumCmd s c uid with
  | some x => rowsDone s (coreOf s c).rot x
  | none => 64

/-- Whether the next row of a send may leave now (R292, R303): once the MXE has read it; `next` keeps a staged row to the cycle
after its copy. -/
def sendReady (s : State) (c : Nat) (uid : Nat) (d : Send) : Bool :=
  d.bind.admitted && decide (d.next ≤ s.cycle) &&
    (match d.rows with
      | [] => false
      | (r, _) :: _ => decide (r < msumRows s c uid))

/-- A send that is over: its staging quarter is free (R286). -/
def dropSend (s : State) (c uid : Nat) (d : Send) : State :=
  setQuarters (modCore s c fun k => { k with sends := mapErase k.sends uid }) c d.bind.stg.toList false

/-- An MSUM that sends no more rows and ends with an error once the tile is read (R233, R292). DEDUCED, log 72. -/
def endSend (s : State) (c : Nat) (uid : Nat) (d : Send) (e : Cmd → DefErr) : State :=
  let s1 := dropSend s c uid d
  match msumCmd s1 c uid with
  | none => s1
  | some x =>
    let going := x.stop || (x.steps < 64 && (coreOf s c).rot)
    putEverywhere s1 { x with err := some (e x), due := if going then x.due else max (s.cycle + 1) (x.retireAt + 8) }

/-- An MSUM whose chain is evicted: its rows that have not been accepted are discarded (R233, R292). -/
def evictSend (s : State) (c : Nat) (uid : Nat) (d : Send) : State :=
  endSend s c uid d fun _ => plainErr 0x2A d.bind.chain

/-- STAGED_BEAT_SEND (R292): the next row of the send that consumed binding `bind` leaves; one that is uncorrectable in its staging
quarter ends the MSUM with a memory error (R345). -/
def execStagedBeatSend (core bind : Nat) (s : State) : Host.Outcome State Fault Refusal :=
  event s <| match (coreOf s core).sends.find? fun d => d.2.num == bind && sendReady s core d.1 d.2 with
    | none => none
    | some (uid, d) => match d.rows with
      | [] => none
      | (r, vals) :: rest =>
        let at_ := (if d.direct then none else d.bind.stg).map fun q => mortarKey core (32768 * q + 512 * r)
        let (s0, bad) := match at_ with
          | some k => eccRead s core k 512
          | none => (s, false)
        let s1 := modCore s0 core fun k =>
          { k with sends := mapSet k.sends uid { d with rows := rest, next := s.cycle + 1 } }
        if bad then some (endSend s0 core uid d fun x => x.memErr (at_.getD 0))
        else some (mortarMsg s1 core d.bind.core d.bind.asid (.beat d.bind.chain d.bind.pos d.bind.gen r vals))

/-- A beat that its receiver accepts: applied, or stored for its position (R293, R294). -/
def acceptBeat (s : State) (c n pos row : Nat) (vals : List Nat) : State :=
  let h := chainOf s c n
  let h1 := { h with accepted := mapSet h.accepted pos (mapGet 0 h.accepted pos + 1) }
  if h.fix || rowReady h pos row then applyRow (putChain s c n h1) c n pos row vals
  else putChain s c n { h1 with stored := h1.stored ++ [(pos, row, vals)] }

/-- BEAT_ARRIVAL (R292, R294): at most one is accepted per cycle; a beat of another generation is discarded and answered with
an eviction notice. -/
def execBeatArrival (msg : Nat) (s : State) : Host.Outcome State Fault Refusal :=
  event s <| (arrived s msg).bind fun m => match m.body with
    | .beat n pos gen row vals =>
      let c := m.dcore
      let h := chainOf s c n
      if h.st ≠ 1 || h.gen.toNat ≠ gen then
        some (mortarMsg (dropMsg s m.uid) c m.score m.asid (.evictNotice n pos gen))
      else if (coreOf s c).lastBeat = some s.cycle then none
      else
        let s1 := modCore (dropMsg s m.uid) c fun k => { k with lastBeat := some s.cycle }
        let s2 := acceptBeat s1 c n pos row vals
        some (if mapGet 0 h.accepted pos + 1 = 64 then mortarMsg s2 c m.score m.asid (.beatAck n pos gen) else s2)
    | _ => none

/-- STORED_ROW_APPLY (R294, R301): at most one per cycle, by the rows applied up to the last cycle, so before any beat of
this one; a chain whose rows were all applied by the last cycle is COMPLETE. DEDUCED, log 91. -/
def execStoredRowApply (core chain : Nat) (s : State) : Host.Outcome State Fault Refusal :=
  let k := coreOf s core
  let h := chainOf s core chain
  event s <|
    if k.lastApply = some s.cycle || k.lastBeat = some s.cycle || h.st ≠ 1 then none
    else if h.done = h.n then some (chainComplete s core chain)
    else match h.stored.find? fun r => rowReady h r.1 r.2.1 with
      | none => none
      | some r =>
        let s1 := modCore s core fun k => { k with lastApply := some s.cycle }
        some (applyRow (putChain s1 core chain { h with stored := h.stored.filter (· != r) }) core chain r.1 r.2.1 r.2.2)

/-- BEAT_ACK_ARRIVAL (R292): the MSUM signals, or its signal is diverted (R303). -/
def execBeatAckArrival (msg : Nat) (s : State) : Host.Outcome State Fault Refusal :=
  event s <| (arrived s msg).bind fun m => match m.body with
    | .beatAck chain pos gen =>
      let c := m.dcore
      let s1 := dropMsg s m.uid
      match (coreOf s c).sends.find? fun d => isBinding d.2.bind m.score chain pos gen with
      | none => some s1
      | some (uid, d) =>
        let s2 := dropSend s1 c uid d
        match activeCmd s2 c uid with
        | none => some s2
        | some x => some (divertSignal (dropActive s2 c uid) c x.asid x.x.sigSem.toNat x.x.inc.toNat none)
    | _ => none

/-! ## Eviction -/

/-- The reply to the CHEVICT of a core, or nothing where a kill evicts (R304). -/
def evictDone (s : State) (c : Nat) (issuer : Option (Nat × Nat)) : State :=
  match issuer with
  | some (d, cmd) => mortarMsg s c d 0 (.chevictDone cmd)
  | none => s

/-- A chain evicted (R304, R305): stored rows and quarters go, bound senders are told, CSEM holds the error. -/
def evictChain (s : State) (c n : Nat) (issuer : Option (Nat × Nat)) : State :=
  let h := chainOf s c n
  if h.st = 0 then evictDone s c issuer
  else
    let told := h.joined.filter fun j => decide (mapGet 0 h.accepted j.1 < 64)
    let s1 := freeChain s c n
    let s2 := told.foldl (fun a j => mortarMsg a c j.2.1 h.asid (.evictNotice n j.1 h.gen.toNat)) s1
    let s3 := divertSignal s2 c h.asid h.csem (if h.st = 1 then 1 else 0) (some (plainErr 0x2A n))
    if told.isEmpty then evictDone s3 c issuer
    else modCore s3 c fun k =>
      { k with evictions := k.evictions ++ [⟨n, h.gen.toNat, h.asid, issuer, told.map (·.1)⟩] }

/-- CHEVICT_REQUEST_ARRIVAL (R304). -/
def execChevictRequestArrival (msg : Nat) (s : State) : Host.Outcome State Fault Refusal :=
  event s <| (arrived s msg).bind fun m => match m.body with
    | .chevictReq n cmd => some (evictChain (dropMsg s m.uid) m.dcore n (some (m.score, cmd)))
    | _ => none

/-- A binding that an eviction notice reaches (R304). -/
def evictBinding (s : State) (c : Nat) (hit : Binding → Bool) : State :=
  let gone := (coreOf s c).binds.filter fun b => hit b.2
  setQuarters (modCore s c fun k =>
    { k with binds := k.binds.map fun b => if hit b.2 then (b.1, { b.2 with evicted := true, stg := none }) else b })
    c (gone.flatMap fun b => b.2.stg.toList) false

/-- EVICTION_NOTICE_ARRIVAL (R304). -/
def execEvictionNoticeArrival (msg : Nat) (s : State) : Host.Outcome State Fault Refusal :=
  event s <| (arrived s msg).bind fun m => match m.body with
    | .evictNotice chain pos gen =>
      let c := m.dcore
      let hit (b : Binding) : Bool := isBinding b m.score chain pos gen
      let s1 := evictBinding (dropMsg s m.uid) c hit
      let s2 := ((coreOf s c).sends.filter fun d => hit d.2.bind).foldl (fun a d => evictSend a c d.1 d.2) s1
      some (mortarMsg s2 c m.score m.asid (.evictAck chain pos gen))
    | _ => none

/-- An acknowledgement at the receiver: the first of a position counts, those of notices that answer its late beats do not; the
last one ends the eviction (R304). -/
def ackEviction (s : State) (c chain pos gen : Nat) : State :=
  let mine (e : Eviction) : Bool := e.chain == chain && e.gen == gen
  match (coreOf s c).evictions.find? mine with
  | none => s
  | some e =>
    let left := e.left.filter (· != pos)
    let rest := (coreOf s c).evictions.filter fun f => !mine f
    if left.isEmpty then evictDone (modCore s c fun k => { k with evictions := rest }) c e.issuer
    else modCore s c fun k => { k with evictions := rest ++ [{ e with left }] }

/-- EVICTION_ACK_ARRIVAL (R304): at the receiver an acknowledgement is counted; at the issuing core the receiver's last
word ends CHEVICT. -/
def execEvictionAckArrival (msg : Nat) (s : State) : Host.Outcome State Fault Refusal :=
  event s <| (arrived s msg).bind fun m => match m.body with
    | .evictAck chain pos gen => some (ackEviction (dropMsg s m.uid) m.dcore chain pos gen)
    | .chevictDone cmd =>
      let s1 := dropMsg s m.uid
      match activeCmd s m.dcore cmd with
      | some x => some (mniFinish s1 x none)
      | none => some s1
    | _ => none

end Sys2Proof.Machine
end

