-- ==== Sys2Proof/Machine/Mxe.lean ====
section
/-! DEFINITION. The matrix engine (R220 to R235, R243 to R248): the accumulator tiles, the passes of R76 to R81, the
accumulator commands, issue, start, steps and completion. -/

namespace Sys2Proof.Machine

/-! ## Accumulator tiles -/

/-- `n` entries of a sparse map from key `i` on, 0 where none is listed. -/
def denseFrom : Nat → Nat → SMap Nat → List Nat
  | 0, _, _ => []
  | n + 1, i, [] => 0 :: denseFrom n (i + 1) []
  | n + 1, i, (k, v) :: m => if k = i then v :: denseFrom n (i + 1) m else 0 :: denseFrom n (i + 1) ((k, v) :: m)

/-- The 4,096 codes of a tile, row by row; an entry that is not listed is +0 (R86). -/
def acmTile (k : Core) (t : Nat) : List Nat := denseFrom 4096 (4096 * t) (k.acm.filter fun e => e.1 / 4096 == t)

/-- The listed entries of codes from key `i` on. -/
def listFrom : Nat → List Nat → SMap Nat
  | _, [] => []
  | i, v :: vs => if v = 0 then listFrom (i + 1) vs else (i, v) :: listFrom (i + 1) vs

/-- A core with the codes of a tile replaced. -/
def putAcm (k : Core) (t : Nat) (vs : List Nat) : Core :=
  { k with acm := k.acm.filter (fun e => decide (e.1 < 4096 * t)) ++ listFrom (4096 * t) vs ++
      k.acm.filter fun e => decide (4096 * (t + 1) ≤ e.1) }

/-- The codes of an accumulator: a tile, or the FP64 values of a pair (R227). -/
def accCodes (k : Core) (t : Nat) (d64 : Bool) : List Nat :=
  if d64 then ((acmTile k t).zip (acmTile k (t + 1))).map fun p => p.1 % 2 ^ 32 + p.2 % 2 ^ 32 * 2 ^ 32
  else acmTile k t

/-- A core with an accumulator replaced (R227). -/
def putAcc (k : Core) (t : Nat) (d64 : Bool) (vs : List Nat) : Core :=
  if d64 then putAcm (putAcm k t (vs.map (· % 2 ^ 32))) (t + 1) (vs.map (· / 2 ^ 32)) else putAcm k t vs

/-- The format of an accumulator. -/
def accFmt (d64 : Bool) : FF := if d64 then ffF64 else ffA34

/-- The values of an accumulator. -/
def accValues (k : Core) (t : Nat) (d64 : Bool) : List EV := (accCodes k t d64).map (accFmt d64).value

/-- The codewords of rows `lo` to `hi − 1` of an accumulator (R344). -/
def accSpan (c t : Nat) (d64 : Bool) (lo hi : Nat) : List (Nat × Nat) :=
  (if d64 then [t, t + 1] else [t]).map fun u => (acmKey c u lo 0, 512 * (hi - lo))

/-- The soft errors that a read of rows of an accumulator meets (R345, R346). -/
def acmMeets (s : State) (x : Cmd) (t : Nat) (d64 : Bool) (lo hi : Nat) : State × Option DefErr :=
  let (s1, bad) := eccReads s x.core (accSpan x.core t d64 lo hi)
  (s1, if bad then some (x.fault 0x28 (BitVec.ofNat 64 t) 3) else none)

/-- The state with rows `lo` to `hi − 1` of an accumulator replaced by those of a whole accumulator, the marks of their
codewords gone (R345). -/
def setAccRows (s : State) (c t : Nat) (d64 : Bool) (lo hi : Nat) (vs : List Nat) : State :=
  modCore ((accSpan c t d64 lo hi).foldl (fun a r => clearMark a r.1 r.2) s) c fun k =>
    let old := accCodes k t d64
    putAcc k t d64 (old.take (64 * lo) ++ vs ++ old.drop (64 * hi))

/-- The state with an accumulator replaced. -/
def setAcc (s : State) (c t : Nat) (d64 : Bool) (vs : List Nat) : State :=
  modCore ((accSpan c t d64 0 64).foldl (fun a r => clearMark a r.1 r.2) s) c fun k => putAcc k t d64 vs

/-- The state with an accumulator cleared where CLR asks for it. -/
def clearIf (b : Bool) (s : State) (c t : Nat) (d64 : Bool) : State := if b then setAcc s c t d64 [] else s

/-- A list cut into `n` pieces of `k` elements. -/
def rowsOfList {α : Type} (k : Nat) : Nat → List α → List (List α)
  | 0, _ => []
  | n + 1, l => l.take k :: rowsOfList k n (l.drop k)

/-- The transpose of a list of rows of `n` elements. -/
def transposeRows {α : Type} (n : Nat) (rows : List (List α)) : List (List α) :=
  (List.range n).map fun j => rows.filterMap fun r => r[j]?

/-! ## The command's fields -/

/-- Accumulator tile C (R225 to R233). -/
def Cmd.tileC (x : Cmd) : Nat := fld x.x.w5 3 0

/-- Operand formats of a pass (R225). -/
def passFmts (b : Bundle) (fmt : Word32) : Nat × Nat :=
  if b.w7.getLsbD 31 then (fld b.w7 30 26, fld b.w7 25 21) else (fld fmt 30 26, fld fmt 25 21)

/-- Kp, bytes per row and scale bytes per row of a valid pair (R76, R224). -/
def passShape (fa fb : Nat) : Option (Nat × Nat × Nat) :=
  let both (p : Nat → Bool) : Bool := p fa && p fb
  if both fun f => f == 3 || f == 4 then some (64, 64, 0)
  else if both (· == 5) then some (64, 64, 0)
  else if both (· == 1) || both (· == 2) then some (32, 64, 0)
  else if both fun f => f == 6 || f == 7 then some (64, 64, 2)
  else if both fun f => f == 8 || f == 9 then some (128, 96, 4)
  else if both (· == 0x0A) then some (256, 128, 8)
  else if both (· == 0x0B) then some (64, 72, 0)
  else if both (· == 0x0C) then some (128, 96, 0)
  else if both (· == 0x0D) then some (256, 128, 0)
  else if both (· == 0x0E) then some (4, 32, 0)
  else none

/-- Tile operands of a pass in the order of R223. -/
def passRings (b : Bundle) (sparse : Bool) (fa fb : Nat) (ia ib : Word) : List (Nat × BitVec 32 × Bool) :=
  let a : BitVec 32 := BitVec.setWidth 32 ia
  let i : BitVec 32 := BitVec.setWidth 32 ib
  let bs (r : Nat) : List (Nat × BitVec 32 × Bool) :=
    (r, i, b.popB) :: if sparse then [(r, i + 1#32, b.popB)] else []
  (if b.flag 0 then []
   else (fld b.w5 31 26, a, b.popA) :: (if isMx fa then [(fld b.w5 19 14, a, b.popA)] else []) ++
     if sparse then [(fld b.w6 31 26, a, b.popA)] else []) ++
  if b.flag 1 then [] else bs (fld b.w5 25 20) ++ if isMx fb then bs (fld b.w5 13 8) else []

/-! ## A pass -/

/-- The values of the rows of an operand (R224). -/
def operandRows (f kp rb sc : Nat) (els scales : List Byte) : List (List EV) :=
  ((piecesOf rb 64 els).zip (piecesOf sc 64 scales)).map fun p => (valuesOf f kp p.1 p.2).map (·.1)

/-- Nibble `g` of a row's metadata: the two positions of its group (R226). -/
def sparsePos (row : List Byte) (g : Nat) : Nat × Nat :=
  let v := (row.getD (g / 2) 0#8).toNat / 16 ^ (g % 2) % 16
  (v % 4, v / 4)

/-- The value that a skipped position has: +0, or NaN in a NaN block (R81). -/
def skippedValue (f rb kp : Nat) (els scales : List Byte) (k : Nat) : EV :=
  if isMx f then (if scales.getD (k / 32) 0#8 = 0xFF#8 then .nan else .fin false 0 0)
  else if isLb f then (if els.getD (k / 16 * (rb * 16 / kp)) 0#8 = 0xFF#8 then .nan else .fin false 0 0)
  else .fin false 0 0

/-- The dense equivalent of a stored row (R81, R226). -/
def denseRow (f kp rb : Nat) (els scales md : List Byte) (vs : List EV) : List EV :=
  (List.range (kp / 2)).flatMap fun g =>
    let (p0, p1) := sparsePos md g
    let z := skippedValue f rb kp els scales (2 * g)
    (List.range 4).map fun p =>
      if p = p0 then vs.getD (2 * g) .nan else if p = p1 then vs.getD (2 * g + 1) .nan else z

/-- The first illegal nibble of the metadata: row and group (R226). -/
def badSparse (kp : Nat) (md : List Byte) : Option (Nat × Nat) :=
  ((piecesOf (kp / 4) 64 md).zipIdx).findSome? fun p =>
    ((List.range (kp / 2)).find? fun g => decide ((sparsePos p.1 g).2 ≤ (sparsePos p.1 g).1)).map fun g => (p.2, g)

/-- One pass: every accumulator entry is the exact sum of its products and, without ZA, of itself, rounded once (R77, R79,
R80). -/
def mxePass (f : FF) (acc : List Nat) (a b : List (List EV)) (g : Int) (za : Bool) : List Nat :=
  ((a.flatMap fun row => b.map fun col => List.zipWith (fun x y => evMul x y g) row col).zip acc).map fun p =>
    roundRne (exactSum (if za then p.1 else f.value p.2 :: p.1)) f

/-- The armed injection of site 0x1 at the first pass on its tile that starts; `wrote` says that the pass wrote its result
(R312, R348). -/
def passInject (s : State) (c t : Nat) (d64 wrote : Bool) : State :=
  match (coreOf s c).inject with
  | some w =>
    let n := w.toNat
    if injSite n = 1 && (injTile n == t || (d64 && t % 2 == 0 && injTile n == t + 1)) then
      let i := 4096 * injTile n + 64 * (injPos n / 64) + injPos n % 64
      let flip (k : Core) : SMap Nat := if wrote then mapSet k.acm i (Nat.xor (mapGet 0 k.acm i) (2 ^ injBit n)) else k.acm
      countSoft (modCore s c fun k => { k with inject := none, acm := flip k }) c 0x12B
    else s
  | none => s

/-- An address operand of an MXE command (R235). -/
def mxRange (a : Word) (bad : Bool) (u : AccUse) (n : Nat) : VRange :=
  { addr := a, bad := bad, use := u, bytes := n, align := 8 }

/-- Byte ranges of the tiles that a pass names, in the order of its references (R224). -/
def passTiles (x : Cmd) (sparse : Bool) (fa fb kp rb sc : Nat) : List Nat :=
  let two (n : Nat) : List Nat := if sparse then [n, n] else [n]
  (if x.x.flag 0 then []
   else 64 * rb :: (if isMx fa then [64 * sc] else []) ++ if sparse then [16 * kp] else []) ++
  if x.x.flag 1 then [] else two (64 * rb) ++ if isMx fb then two (64 * sc) else []

/-- The shape of a pass: none where the format pair breaks R76 or an FP64 pair begins at an odd tile (R226, R227). -/
def Cmd.shape (x : Cmd) : Option (Nat × Nat × Nat) :=
  let (fa, fb) := passFmts x.x x.fmt
  if fa == 0x0E && x.tileC % 2 == 1 then none else passShape fa fb

/-- The operands of a pass that lie in memory; without a valid format pair their first byte counts (R224, R226). -/
def Cmd.passMem (x : Cmd) (sparse : Bool) : List VRange :=
  let (na, nb) := match x.shape with
    | none => (1, 1)
    | some (kp, rb, sc) => (64 * (rb + sc) + (if sparse then 16 * kp else 0), 64 * (rb + sc))
  (if x.x.flag 0 then [mxRange x.a x.aBad .read na] else []) ++
    if x.x.flag 1 then mxRange x.b x.bBad .read nb ::
      if sparse && x.shape.isSome then [mxRange (x.b + 0x2000#64) x.bBad .read nb] else [] else []

/-- MMA and MMAS (R226), the injection apart. -/
def passOut (s : State) (x : Cmd) (sparse : Bool) : CmdEnd :=
  let b := x.x
  let (fa, fb) := passFmts b x.fmt
  let d64 := fa == 0x0E
  let c := x.tileC
  let aadr := b.flag 0
  let badr := b.flag 1
  match preChecks s x (x.passMem sparse), x.shape with
  | .error e, _ => .refuse s e
  | .ok _, none => .refuse s (x.fault 0x25 0#64 0)
  | .ok gs, some (kp, rb, sc) =>
    let tiles := (x.refs.zip (passTiles x sparse fa fb kp rb sc)).map fun p => tileSegs x.core p.1 0 p.2
    let ka := if aadr then 1 else 0
    let ta := if aadr then 0 else 1 + (if isMx fa then 1 else 0) + if sparse then 1 else 0
    let src := gs.take ka ++ tiles.take ta ++ gs.drop ka ++ tiles.drop ta
    match guardErr s x src with
    | some e => .fail s e
    | none =>
      let (s0, bs, bad) := readRanges s x src
      let (s1, worn) := if b.flag 2 then (s0, none) else acmMeets s0 x c d64 0 64
      let at_ (i : Nat) : List Byte := bs.getD i []
      let mx := sc != 0
      let ea := if aadr then (at_ 0).take (64 * rb) else at_ 0
      let sa := if aadr then ((at_ 0).drop (64 * rb)).take (64 * sc) else if mx then at_ 1 else []
      let md := if aadr then (at_ 0).drop (64 * (rb + sc)) else at_ (if mx then 2 else 1)
      let o := ka + ta
      let nB := if sparse then 2 else 1
      let eb (i : Nat) : List Byte := if badr then (at_ (o + i)).take (64 * rb) else at_ (o + i)
      let sb (i : Nat) : List Byte := if badr then (at_ (o + i)).drop (64 * rb) else if mx then at_ (o + nB + i) else []
      match (if sparse then badSparse kp md else none), bad.or worn with
      | some (i, g), _ => .fail s1 (x.fault 0x26 (BitVec.ofNat 64 i) g)
      | none, some e => .fail s1 e
      | none, none =>
        let rows := operandRows fa kp rb sc ea sa
        let a := if sparse then
            ((rows.zip (piecesOf rb 64 ea)).zip ((piecesOf sc 64 sa).zip (piecesOf (kp / 4) 64 md))).map fun p =>
              denseRow fa kp rb p.1.2 p.2.1 p.2.2 p.1.1
          else rows
        let b0 := operandRows fb kp rb sc (eb 0) (sb 0)
        let bt := if sparse then List.zipWith (· ++ ·) b0 (operandRows fb kp rb sc (eb 1) (sb 1)) else b0
        let g := signedOf 7 x.sca.toNat + signedOf 7 x.scb.toNat
        .done (setAcc s1 x.core c d64 (mxePass (accFmt d64) (accCodes (coreOf s1 x.core) c d64) a bt g (b.flag 2))) 0#5 false

/-- MMA and MMAS (R226): the first pass on the tile of an armed injection consumes it, whatever it ends with (R312, R348). -/
def passEffect (s : State) (x : Cmd) (sparse : Bool) : CmdEnd :=
  let e := passOut s x sparse
  { e with s := passInject e.s x.core x.tileC ((passFmts x.x x.fmt).1 == 0x0E) e.err.isNone }

/-! ## Accumulator commands -/

/-- ACLR (R228). -/
def aclrEffect (s : State) (x : Cmd) : CmdEnd :=
  let m := fld x.x.w5 15 0
  .done ((List.range 16).foldl (fun a t => clearIf (m.testBit t) a x.core t false) s) 0#5 false

/-- Elements `lo` to `hi − 1` of a list. -/
def midRows {α : Type} (lo hi : Nat) (l : List α) : List α := (l.drop lo).take (hi - lo)

/-- The 64 rows of a command at a stride. -/
def strideRows (a : Word) (bad : Bool) (u : AccUse) (stride n : Nat) : List VRange :=
  (List.range 64).map fun i => mxRange (a + BitVec.ofNat 64 (i * stride)) bad u n

/-- Whether strided rows stay in the region and the store of their first byte (R17). -/
def rowsStay (a : Word) (stride n : Nat) : Bool :=
  let lim := if bits a.toNat 63 60 = 0 then 60 else 32
  decide (a.toNat % 2 ^ lim + 63 * stride + n ≤ 2 ^ lim)

/-- The stride and the bytes of a row of a command whose rows stand at a stride (R229 to R231). -/
def Cmd.rowShape (x : Cmd) (fd : Nat) : Nat × Nat :=
  let n := match x.op with
    | .ald _ => 64 * (fmtBits (fld x.x.w5 8 4) / 8)
    | .ast _ => 512
    | _ => Bundle.acvtRow fd
  (if x.x.w6 = 0#32 then n else x.x.w6.toNat, n)

/-- The format that an ACVT writes (R231). -/
def acvtFmt (b : Bundle) (fmt : Word32) : Nat := if fld b.w5 8 4 = 0x1F then fld fmt 20 16 else fld b.w5 8 4

/-- The rows of ALD, AST and ACVT in memory (R229 to R231). -/
def Cmd.rowRanges (x : Cmd) : List VRange :=
  let (stride, n) := x.rowShape (acvtFmt x.x x.fmt)
  strideRows x.a x.aBad (match x.op with
    | .ald _ => .read
    | _ => .write) stride n

/-- What a row command names besides its rows: the scales of an MX encode (R231). -/
def Cmd.rowMore (x : Cmd) : List VRange :=
  match x.op with
  | .acvt _ => if isMx (acvtFmt x.x x.fmt) then [mxRange x.b x.bBad .write 128] else []
  | _ => []

/-- The output of an ACHK and the references that it compares with (R232). -/
def Cmd.chkRanges (x : Cmd) : List VRange :=
  mxRange x.a x.aBad .write (if x.x.flag 0 then 1040 else 1024) ::
    if x.x.flag 0 then [mxRange x.b x.bBad .read 1024] else []

/-- The start of ALD, AST, ACVT and ACHK: the checks before any read (R220, R229 to R232). Their rows follow. -/
def rowsStart (s : State) (x : Cmd) : CmdEnd :=
  let (stride, n) := x.rowShape (acvtFmt x.x x.fmt)
  let r := match x.op with
    | .achk _ => preChecks s x x.chkRanges
    | _ =>
      if refusedBy x 0x20 = none && !rowsStay x.a stride n then .error (x.fault 0x20 x.a 1)
      else preChecks s x (x.rowRanges ++ x.rowMore)
  match r with
  | .error e => .refuse s e
  | .ok gs => .done s 0#5 (!gs.all (segsLocal x.core))

/-- What a part of a row command comes to: the state, its error, its flags. -/
structure RowsEnd where
  s : State
  err : Option DefErr
  flags : BitVec 5

/-- Rows of an ALD (R229): a guarded granule or an uncorrectable error in any row to come leaves the tile unchanged (R104). -/
def aldRows (s : State) (x : Cmd) (lo hi : Nat) : RowsEnd :=
  let fs := fld x.x.w5 8 4
  let d64 := x.x.flag 2
  let f := accFmt d64
  if x.err.isSome then { s := s, err := none, flags := 0#5 }
  else match rangesOf s x (midRows lo 64 x.rowRanges) with
  | .error e => { s := s, err := some e, flags := 0#5 }
  | .ok gs => match guardErr s x gs with
    | some e => { s := s, err := some e, flags := 0#5 }
    | none =>
      let (s0, bs, bad) := readRanges s x gs
      let (s1, worn) := if x.x.flag 0 then acmMeets s0 x x.tileC d64 lo 64 else (s0, none)
      match bad.or worn with
      | some e => { s := s1, err := some e, flags := 0#5 }
      | none =>
        let vs := (bs.take (hi - lo)).flatMap fun r => (codesOf fs 64 r).map (valueOf fs)
        let acc := midRows (64 * lo) (64 * hi) (accValues (coreOf s1 x.core) x.tileC d64)
        let out := if x.x.flag 0 then (vs.zip acc).map fun p => roundRne (exactSum [p.2, p.1]) f
          else vs.map fun v => roundRne v f
        { s := setAccRows s1 x.core x.tileC d64 lo hi out, err := none, flags := 0#5 }

/-- Rows written from an accumulator, the tile cleared after the last where CLR asks for it (R230, R231, R104). -/
def accStore (s : State) (x : Cmd) (lo hi : Nat) (rs : List VRange) (bs : List (List Byte)) (flags : BitVec 5) : RowsEnd :=
  let d64 := x.x.flag 2
  let (s1, worn) := acmMeets s x x.tileC d64 lo 64
  match worn, rangesOf s x rs with
  | some e, _ => { s := s1, err := some e, flags := 0#5 }
  | none, .error e => { s := s1, err := some e, flags := 0#5 }
  | none, .ok gs =>
    let (s2, e) := writeRanges s1 x gs bs
    { s := clearIf (x.x.flag 0 && hi == 64) s2 x.core x.tileC d64, err := e, flags := flags }

/-- Rows of an AST (R230). -/
def astRows (s : State) (x : Cmd) (lo hi : Nat) : RowsEnd :=
  let rows := (rowsOfList 64 64 (accCodes (coreOf s x.core) x.tileC (x.x.flag 2))).map fun r => r.flatMap (leBytes 8)
  accStore s x lo hi (midRows lo hi x.rowRanges) (midRows lo hi rows) 0#5

/-- One row of an ACVT: bytes, scales, flags; a signalling NaN in the tile is invalid (R60, R69, R73, R231). -/
def acvtRowOut (fd : Nat) (rm : Rm) (sat : Bool) (maxf : EV) (seed r : Nat) (vs : List (EV × Bool)) : VOut :=
  let draw (e : Nat) : Nat := if rm = .sr then srWord seed 0 e else 0
  if isBlock fd then
    let n := 64 / blockElems fd
    encodeBlocks fd rm sat maxf draw n (n * r) vs
  else
    let (cs, fl) := encodeElems fd rm sat draw (64 * r) (vs.map (·.1))
    { bytes := bytesOf fd cs, scales := [], flags := fl ||| nvIf (vs.any (·.2)) }

/-- Rows of an ACVT with their scales (R231). -/
def acvtRows (s : State) (x : Cmd) (lo hi : Nat) : RowsEnd :=
  let b := x.x
  let d64 := b.flag 2
  let fd := acvtFmt b x.fmt
  let f := accFmt d64
  let se := signedOf 7 (fld b.w5 15 9)
  let rows := rowsOfList 64 64 ((accCodes (coreOf s x.core) x.tileC d64).map fun c => (evScale se (f.value c), f.isSnan c))
  let vs := if b.flag 1 then transposeRows 64 rows else rows
  let outs := (midRows lo hi vs.zipIdx).map fun p =>
    acvtRowOut fd x.rmOf x.satOf (evScale se (f.value f.maxc)) b.w7.toNat p.2 p.1
  let scales := x.rowMore.map fun r => { r with addr := r.addr + BitVec.ofNat 64 (2 * lo), bytes := 2 * (hi - lo) }
  accStore s x lo hi (midRows lo hi x.rowRanges ++ scales) (outs.map (·.bytes) ++ [outs.flatMap (·.scales)])
    (outs.foldl (fun a o => a ||| o.flags) 0#5)

/-- The sums of an ACHK once its last row is read (R232). -/
def achkSums (s : State) (x : Cmd) : RowsEnd :=
  let b := x.x
  let d64 := b.flag 2
  let cmp := b.flag 0
  let f := accFmt d64
  match rangesOf s x x.chkRanges with
  | .error e => { s := s, err := some e, flags := 0#5 }
  | .ok gs => match guardErr s x (gs.drop 1) with
    | some e => { s := s, err := some e, flags := 0#5 }
    | none =>
      let (s0, bs, bad) := readRanges s x (gs.drop 1)
      let (s1, worn) := acmMeets s0 x x.tileC d64 0 64
      match bad.or worn with
      | some e => { s := s1, err := some e, flags := 0#5 }
      | none =>
        let rows := rowsOfList 64 64 (accValues (coreOf s1 x.core) x.tileC d64)
        let sums := rows.map exactSum ++ (transposeRows 64 rows).map exactSum
        let refs := (piecesOf 8 128 (bs.headD [])).map fun r => evNeg (f.value (leNat r))
        let outs := if cmp then List.zipWith (fun v r => roundRne (exactSum [v, r]) f) sums refs
          else sums.map fun v => roundRne v f
        let tol : EV := .fin false 1 (signedOf 11 (fld b.w6 10 0))
        let beyond (c : Nat) : Bool := f.value c == .nan || evLt tol (evAbs (f.value c))
        let mask (l : List Nat) : Nat := leNat (bytesOfBits 64 (l.map beyond))
        let rm := mask (outs.take 64)
        let cm := mask (outs.drop 64)
        let bytes := outs.flatMap (leBytes 8) ++ if cmp then leBytes 8 rm ++ leBytes 8 cm else []
        let (s2, e) := writeRanges s1 x (gs.take 1) [bytes]
        let chk : Option DefErr := if cmp && b.flag 1 && decide (0 < rm + cm) then
          some { cause := 0x2B, tval := BitVec.ofNat 64 rm, detail := BitVec.ofNat 64 cm } else none
        { s := s2, err := e.or chk, flags := 0#5 }

/-- Rows up to `hi` of a started row command done, from its resume point on (R229 to R232, R246). -/
def rowsTo (s : State) (x : Cmd) (hi : Nat) : State × Cmd :=
  if !stopsAtRow x.op || hi ≤ x.rows then (s, x)
  else
    let e := match x.op with
      | .ald _ => aldRows s x x.rows hi
      | .ast _ => astRows s x x.rows hi
      | .acvt _ => acvtRows s x x.rows hi
      | .msum _ => { s := if hi = 64 then clearIf (x.x.flag 0) s x.core x.tileC false else s, err := none, flags := 0#5 }
      | _ => if hi = 64 then achkSums s x else { s := s, err := none, flags := 0#5 }
    (e.s, { x with rows := hi, err := x.err.or e.err, flags := x.flags ||| e.flags })

/-- MSUM (R233, R292): the binding is consumed and the rows of the tile leave or are staged; CLR is applied once they are
read. One that meets an uncorrectable error sends nothing and frees its staging quarter (R244, R286). -/
def msumEffect (s : State) (x : Cmd) : CmdEnd :=
  let n := fld x.x.w5 13 8
  match mapFind (coreOf s x.core).binds n with
  | none => .refuse s (plainErr 0x29 n)
  | some d =>
    let s1 := modCore s x.core fun k => { k with binds := mapErase k.binds n }
    if d.evicted then .refuse s1 (plainErr 0x2A d.chain)
    else
      let (s2, worn) := acmMeets s1 x x.tileC false 0 64
      match worn with
      | some e => .fail (setQuarters s2 x.core d.stg.toList false) e
      | none =>
        let rows := (rowsOfList 64 64 (acmTile (coreOf s2 x.core) x.tileC)).zipIdx.map fun p => (p.2, p.1)
        let snd : Send :=
          { num := n, bind := d, direct := d.admitted, next := if d.admitted then s.cycle else s.cycle + 1, rows := rows }
        let s3 := if d.admitted then s2 else d.stg.toList.foldl (fun a q => clearMark a (mortarKey x.core (32768 * q)) 32768) s2
        .done (modCore s3 x.core fun k => { k with sends := mapSet k.sends x.uid snd }) 0#5 false

/-- ATRN (R234). -/
def atrnEffect (s : State) (x : Cmd) : CmdEnd :=
  let d64 := x.x.flag 2
  let (s1, worn) := acmMeets s x x.tileC d64 0 64
  match worn with
  | some e => .fail s1 e
  | none =>
    .done (setAcc s1 x.core (fld x.x.w5 7 4) d64
      (transposeRows 64 (rowsOfList 64 64 (accCodes (coreOf s1 x.core) x.tileC d64))).flatten) 0#5 false

/-- The effect of the start of an MXE command. -/
def mxeEffect (s : State) (x : Cmd) : CmdEnd :=
  match x.op with
  | .mma _ => passEffect s x false
  | .mmas _ => passEffect s x true
  | .aclr _ => aclrEffect s x
  | .msum _ => msumEffect s x
  | .atrn _ => atrnEffect s x
  | _ => rowsStart s x

/-- Occupancy in cycles or steps (R220, R221). -/
def mxeOccupancy (op : Instr) (b : Bundle) : Nat :=
  match op with
  | .aclr _ => 4 * bitCount (fld b.w5 15 0)
  | _ => 64

/-! ## Issue -/

/-- Whether a bundle selects FP64 (R235). -/
def mxeFp64 (op : Instr) (b : Bundle) (fmt : Word32) : Bool :=
  match op with
  | .mma _ | .mmas _ => (passFmts b fmt).1 == 0x0E || (passFmts b fmt).2 == 0x0E
  | .aclr _ | .msum _ => false
  | _ => b.flag 2

/-- The checks of R243 that depend on fmt: scale rings of a pass without MX formats, the format that an ACVT takes from
fmt.FO. -/
def mxeFmtOk (op : Instr) (b : Bundle) (fmt : Word32) : Bool :=
  let (fa, fb) := passFmts b fmt
  match op with
  | .mma _ | .mmas _ =>
    (b.flag 0 || isMx fa || fld b.w5 19 14 == 0) && (b.flag 1 || isMx fb || fld b.w5 13 8 == 0)
  | .acvt _ => fld b.w5 8 4 != 0x1F || b.acvtFd (acvtFmt b fmt)
  | _ => true

/-- What fields A and B are (R225 to R235). -/
def mxeKinds (op : Instr) (b : Bundle) (fmt : Word32) : FieldKind × FieldKind :=
  match op with
  | .mma _ | .mmas _ => (if b.flag 0 then .addr else .tile, if b.flag 1 then .addr else .tile)
  | .ald _ | .ast _ => (.addr, .none)
  | .acvt _ => (.addr, if isMx (acvtFmt b fmt) then .addr else .none)
  | .achk _ => (.addr, if b.flag 0 then .addr else .none)
  | _ => (.none, .none)

/-- Address operands whose data an MXE command fetches before it starts; an ALD's rows are written as their data arrives
(R220). -/
def Cmd.fetched (x : Cmd) : List VRange :=
  match x.op with
  | .mma _ => x.passMem false
  | .mmas _ => x.passMem true
  | .achk _ => x.chkRanges.drop 1
  | _ => []

/-- The command with the first cycle in which its operand data has arrived; an operand that fails its access or alignment
check is not fetched (R220; log 7). -/
def awaitData (s : State) (x : Cmd) : Cmd :=
  if x.fetched.any fun r => !r.bad && r.addr.toNat % r.align == 0 && (match x.segs s .read r.addr 0 r.bytes with
      | .ok g => !segsLocal x.core g
      | .error _ => false)
  then { x with due := x.due + Config.latency x.uid } else x

/-- The issue of an MXE command (R141, R220, R243). -/
def Ctx.mxe (x : Ctx) (op : Instr) (b : Bundle) : Body :=
  if !mxeFmtOk op b x.t.fmt then x.illegal 0
  else x.bundleCore (mxeFp64 op b x.t.fmt) <|
    let (ka, kb) := mxeKinds op b x.t.fmt
    let (fa, fb) := passFmts b x.t.fmt
    x.issueCmd op b ka kb (fun ia ib => match op with
      | .mma _ => passRings b false fa fb ia ib
      | .mmas _ => passRings b true fa fb ia ib
      | _ => []) fun s c => (s, awaitData s c)

/-- MMA (R225, R226). -/
def execMma (b : Bundle) (s : State) : Host.Outcome State Fault Refusal := runInstr s fun x => x.mxe (.mma b) b
/-- MMAS (R225, R226). -/
def execMmas (b : Bundle) (s : State) : Host.Outcome State Fault Refusal := runInstr s fun x => x.mxe (.mmas b) b
/-- ACLR (R228). -/
def execAclr (b : Bundle) (s : State) : Host.Outcome State Fault Refusal := runInstr s fun x => x.mxe (.aclr b) b
/-- ALD (R229). -/
def execAld (b : Bundle) (s : State) : Host.Outcome State Fault Refusal := runInstr s fun x => x.mxe (.ald b) b
/-- AST (R230). -/
def execAst (b : Bundle) (s : State) : Host.Outcome State Fault Refusal := runInstr s fun x => x.mxe (.ast b) b
/-- ACVT (R231). -/
def execAcvt (b : Bundle) (s : State) : Host.Outcome State Fault Refusal := runInstr s fun x => x.mxe (.acvt b) b
/-- ACHK (R232). -/
def execAchk (b : Bundle) (s : State) : Host.Outcome State Fault Refusal := runInstr s fun x => x.mxe (.achk b) b
/-- MSUM (R233). -/
def execMsum (b : Bundle) (s : State) : Host.Outcome State Fault Refusal := runInstr s fun x => x.mxe (.msum b) b
/-- ATRN (R234). -/
def execAtrn (b : Bundle) (s : State) : Host.Outcome State Fault Refusal := runInstr s fun x => x.mxe (.atrn b) b

/-! ## Start, steps and completion -/

/-- A started MXE command; an MSUM signals when its last beat is acknowledged, or at once where it has nothing to send, and an
ALD's occupancy lasts until its last row is written (R220). -/
def startedMxe (s : State) (x : Cmd) (e : CmdEnd) (occ : Nat) : Cmd :=
  let y := startedCmd s x e occ
  match x.op with
  | .msum _ => if e.early then y else if e.err.isSome then { y with rows := 64 } else { y with due := never }
  | .ald _ => if e.early then y else { y with retireAt := y.retireAt + farDelay x e.far }
  | _ => y

/-- Whether a row command stands at its resume point: it goes on before any later command starts (R116, R246). -/
def rowsStopped (k : Core) : Bool := k.active.any fun y => stopsAtRow y.op && y.stop

/-- MXE_COMMAND_START in ready mode (R220). DESIGN CHOICE, log 26. -/
def execMxeCommandStart (core : Nat) (s : State) : Host.Outcome State Fault Refusal :=
  let k := coreOf s core
  event s <| match k.mxeq with
    | [] => none
    | x :: rest =>
      if k.rot || rowsStopped k || !mayStart s x || decide (s.cycle < k.mxeFree) then none
      else
        let occ := mxeOccupancy x.op x.x
        let e := mxeEffect s x
        let y := startedMxe s x e occ
        let s1 := modCore e.s core fun k =>
          { k with mxeq := rest, active := k.active ++ [y], mxeFree := if e.early then s.cycle + 1 else y.retireAt }
        some (wakeQueue (retireEarly s1 y) y)

/-- ACM tiles that a command names (R222). -/
def mxeTiles (x : Cmd) : List Nat :=
  let pair (t : Nat) (d : Bool) : List Nat := if d then [t, t + 1] else [t]
  match x.op with
  | .aclr _ => (List.range 16).filter fun t => x.x.w5.getLsbD t
  | .atrn _ => pair (fld x.x.w5 7 4) (x.x.flag 2) ++ pair x.tileC (x.x.flag 2)
  | .mma _ | .mmas _ => pair x.tileC ((passFmts x.x x.fmt).1 == 0x0E)
  | .msum _ => [x.tileC]
  | _ => pair x.tileC (x.x.flag 2)

/-- Whether an earlier command of another lane that names a common tile has not completed, or one of the own lane, an ALD whose
last row is to come, still occupies it (R221, R222). -/
def laneBlocked (k : Core) (x : Cmd) : Bool :=
  (k.mxeq ++ k.active).any fun y => (cmdCode y.op).1 == 0 && decide (y.uid < x.uid) &&
    if y.slot = x.slot then y.started && !y.retired else (mxeTiles y).any fun t => (mxeTiles x).contains t

/-- Whether a started command has steps to come (R221). -/
def stepsLeft (y : Cmd) : Bool :=
  (cmdCode y.op).1 == 0 && y.started && !y.retired && decide (y.steps < mxeOccupancy y.op y.x)

/-- Commands that a hold runs to their end: passes, ACLR and ATRN (R246 step 1). -/
def runsOut (y : Cmd) : Bool :=
  match y.op with
  | .mma _ | .mmas _ | .aclr _ | .atrn _ => true
  | _ => false

/-- A step of a started command; after the last the times of R221 count from its cycle. -/
def stepCmd (cycle : Nat) (y : Cmd) : Cmd :=
  let n := y.steps + 1
  if n < mxeOccupancy y.op y.x then { y with steps := n }
  else
    { y with steps := n,
             retireAt := cycle + 1 + (match y.op with
               | .ald _ => farDelay y y.far
               | _ => 0),
             due := (match y.op with
               | .msum _ => if y.err.isSome then cycle + 9 else never
               | _ => cycle + 9 + farDelay y y.far) }

/-- The first step of a lane's next command, or its failure before its reads (R220, R221). -/
def laneStart (s : State) (core : Nat) (x : Cmd) : State :=
  let e := mxeEffect s x
  let y := startedMxe s x e 0
  let z := if e.early then y else stepCmd s.cycle { y with retireAt := never, due := never }
  let s1 := modCore e.s core fun k =>
    { k with mxeq := k.mxeq.filter fun q => q.uid != x.uid, active := k.active ++ [z], mxeFree := s.cycle + 1 }
  wakeQueue (retireEarly s1 z) z

/-- A row command stopped by a hold: the finished rows are written (R246 step 2). -/
def holdRows (s : State) (rot : Bool) (y : Cmd) : State :=
  let (s1, z) := rowsTo s y (rowsDone s rot y)
  putActive (modCore s1 y.core fun k => { k with mxeFree := s.cycle + 1 })
    { z with stop := true, retireAt := never, due := never }

/-- A stopped row command that goes on from its resume point (R246 step 2). -/
def resumeRows (s : State) (rot : Bool) (y : Cmd) : State :=
  if rot then putActive s { y with stop := false }
  else
    let t := s.cycle + (64 - y.rows) + (match y.op with
      | .ald _ => farDelay y y.far
      | _ => 0)
    let later (d : Send) : Send := if d.direct then d else { d with next := max d.next (s.cycle + 1) }
    putActive (modCore s y.core fun k =>
      { k with mxeFree := max k.mxeFree t, sends := k.sends.map fun d => if d.1 = y.uid then (d.1, later d.2) else d })
      { y with stop := false, retireAt := t, due := (match y.op with
        | .ald _ => t + 8
        | .msum _ => if y.err.isSome then t + 8 else never
        | _ => t + 8 + farDelay y y.far) }

/-- A row command of a core that a hold stops now, or that goes on now (R246). -/
def rowsHeld (s : State) (k : Core) : Option State :=
  if isHeldMode k.mode then
    (k.active.find? fun y => stopsAtRow y.op && y.started && !y.retired && !y.stop && decide (rowsDone s k.rot y < 64)).map
      (holdRows s k.rot)
  else (k.active.find? fun y => stopsAtRow y.op && y.stop && (k.rot || decide (k.mxeFree ≤ s.cycle))).map (resumeRows s k.rot)

/-- MXE_STEP: in rotation mode a step of the turn's lane (R221, R222), and in both modes the stop of a row command at a hold and
its resumption (R246). -/
def execMxeStep (core : Nat) (s : State) : Host.Outcome State Fault Refusal :=
  let k := coreOf s core
  let e := rotEntry k (turnOf s)
  let n := bits e.toNat 7 0
  let step (y : Cmd) : State :=
    let later (d : Send) : Send := if d.direct then d else { d with next := max d.next (s.cycle + 1) }
    putActive (modCore s core fun k =>
      { k with mxeFree := s.cycle + 1, sends := k.sends.map fun d => if d.1 = y.uid then (d.1, later d.2) else d })
      (stepCmd s.cycle y)
  event s <| match rowsHeld s k with
    | some s1 => some s1
    | none =>
      if !k.rot || decide (s.cycle < k.mxeFree) then none
      else if isHeldMode k.mode then (k.active.find? fun y => stepsLeft y && runsOut y).map step
      else if !e.getLsbD 15 then none
      else match k.active.find? fun y => stepsLeft y && y.slot == n with
        | some y => some (step y)
        | none => match k.mxeq.find? fun y => y.slot == n with
          | some x => if mayStart s x && !laneBlocked k x then some (laneStart s core x) else none
          | none => none

/-- READER_RETIRE (R101): an engine command releases its references in its retirement cycle, the last rows of a row command
written (R246). A GCE command is found by the core that issued it. DEDUCED, log 27. -/
def execReaderRetire (core cmd : Nat) (s : State) : Host.Outcome State Fault Refusal :=
  let mine (y : Cmd) : Bool := y.uid == cmd && y.core == core && y.started && !y.retired && decide (y.retireAt ≤ s.cycle)
  event s <| match (coreOf s core).active.find? mine with
    | some x =>
      let (s1, y) := rowsTo s x 64
      some (releaseRefs (putActive s1 { y with retired := true }) y)
    | none => match (clusterOf s (clusterOfCore core)).active.find? mine with
      | some x =>
        some (releaseRefs (modCluster s (clusterOfCore core) fun k =>
          { k with active := k.active.map fun y => if mine y then { y with retired := true } else y }) x)
      | none => none

/-- MXE_COMMAND_COMPLETE (R220, R245). -/
def execMxeCommandComplete (core cmd : Nat) (s : State) : Host.Outcome State Fault Refusal :=
  event s (completeCmd s core cmd 0)

end Sys2Proof.Machine
end

