-- ==== Sys2Proof/Machine/Gce.lean ====
section
/-! DEFINITION. The grid engine (R249 to R270): records, values of elements, checks, issue, start, steps, ring fills and
completion; and the claims and ends of every fill of a ring (R89, R91, R96). -/

namespace Sys2Proof.Machine

/-! ## Records -/

/-- A grid command's records as read (R253 to R255). Lists have four entries; `offs` are the offsets of a stencil with
their weights, those of weight 0 left out. -/
structure Grid where
  nd : Nat
  bnd : Nat
  crs : Nat
  add : Bool
  lvl : Bool
  fs : Nat
  fd : Nat
  exts : List Nat
  extd : List Nat
  strs : List Int
  strd : List Int
  exps : Int
  expd : Int
  rm : Rm
  sat : Bool
  seed : Nat
  offs : List (List Int × EV)

/-- Formats that the GCE computes with (R258). -/
def gceFmt (f : Nat) : Bool := f ≤ 5 || f == 0x0E || f == 0x10 || f == 0x11 || f == 0x12

/-- Bytes of an element; a block format is copied as bytes (R258). -/
def gceBytes (f : Nat) : Nat := if isBlock f then 1 else fmtBits f / 8

/-- Dimension `n` of a list of four. -/
def dimNat (l : List Nat) (n : Nat) : Nat := l.getD n 0
def dimInt (l : List Int) (n : Nat) : Int := l.getD n 0

/-- Extents and strides of a descriptor from a byte on (R253). -/
def descExts (d : List Byte) (at_ : Nat) : List Nat := (List.range 4).map fun n => fieldAt d (at_ + 2 * n) 2
def descStrides (d : List Byte) (at_ : Nat) : List Int :=
  (List.range 4).map fun n => signedOf 32 (fieldAt d (at_ + 4 * n) 4)

/-- Mode of a dimension at its edge (R253): 0 zero, 1 clamp, 2 periodic. -/
def bndOf (bnd n : Nat) : Nat := bnd / 4 ^ n % 4

/-- Whether a descriptor keeps the conditions of R253 that need no format. -/
def descOk (d : List Byte) : Bool :=
  let b (i : Nat) : Nat := fieldAt d i 1
  let nd := b 0 % 8
  b 0 < 8 && decide (1 ≤ nd) && decide (nd ≤ 4) && b 1 < 32 && b 2 < 32 && b 7 == 0 && b 5 < 4 && b 4 < 16 &&
    !(nd == 4 && (b 4).testBit 3) &&
    (List.range 4).all fun n =>
      let es := dimNat (descExts d 16) n
      let ed := dimNat (descExts d 24) n
      if n < nd then es != 0 && ed != 0 && bndOf (b 3) n != 3
      else es == 0 && ed == 0 && dimInt (descStrides d 32) n == 0 && dimInt (descStrides d 48) n == 0 &&
        bndOf (b 3) n == 0

/-- An entry of a level table: format, rounding mode, saturation, exponent (R254). -/
def levelEntry (t : List Byte) (n : Nat) : Option (Nat × Rm × Bool × Int) :=
  let w := fieldAt t (8 * n) 8
  let e := signedOf 8 (bits w 23 16)
  match Rm.ofCode (bits w 7 5) with
  | none => none
  | some rm =>
    if bits w 63 24 ≠ 0 || bits w 15 9 ≠ 0 || !decide (-64 ≤ e) || !decide (e ≤ 63) then none
    else some (bits w 4 0, rm, w.testBit 8, e)

/-- Bytes of a stencil table by its first three (R255). -/
def tableBytes (t : List Byte) : Nat := min 258 (8 + 2 * (fieldAt t 0 1 * fieldAt t 1 1 * fieldAt t 2 1))

/-- The offsets of a stencil table with their weights, or none where it is not one (R255). -/
def stencilOf (t : List Byte) (nd : Nat) : Option (List (List Int × EV)) :=
  let b (i : Nat) : Nat := fieldAt t i 1
  let width (n : Nat) : Bool := n == 1 || n == 3 || n == 5
  let (sx, sy, sz) := (b 0, b 1, b 2)
  if !width sx || !width sy || !width sz || 31 < b 3 || fieldAt t 4 4 ≠ 0 || t.length < tableBytes t ||
      (nd < 2 && sy != 1) || (nd < 3 && sz != 1) then none
  else
    some ((List.range (sx * sy * sz)).filterMap fun i =>
      let w := signedOf 16 (fieldAt t (8 + 2 * i) 2)
      let (x, y, z) := (i % sx, i / sx % sy, i / (sx * sy))
      if w = 0 then none
      else some ([(x : Int) - (sx / 2 : Nat), (y : Int) - (sy / 2 : Nat), (z : Int) - (sz / 2 : Nat), 0],
        .fin (decide (w < 0)) w.natAbs (-(b 3 : Int))))

/-- Kinds of grid commands. -/
def isStencil : Instr → Bool
  | .rstr _ | .prlg _ => true
  | _ => false
def isIndexed : Instr → Bool
  | .gath _ | .scat _ => true
  | _ => false
def isScat : Instr → Bool
  | .scat _ => true
  | _ => false
def isMcast : Instr → Bool
  | .mcast _ => true
  | _ => false

/-- Whether a grid command fills rings (R263, R266). -/
def Cmd.fills (x : Cmd) : Bool := isMcast x.op || x.x.flag 1

/-- Formats, scaling and rounding of a command (R254). -/
def gridFormats (x : Cmd) : Option (Nat × Nat × Int × Int × Rm × Bool) :=
  let d := x.desc
  if (fieldAt d 5 1).testBit 1 then
    let w := fieldAt d 8 4
    if !(bits w 31 28 == 8 || bits w 31 28 == 9) || w % 8 != 0 then none
    else match levelEntry x.ltab (fieldAt d 6 1 % 16), levelEntry x.ltab (fieldAt d 6 1 / 16) with
      | some (fs, _, _, es), some (fd, rm, sat, ed) => some (fs, fd, es, ed, rm, sat)
      | _, _ => none
  else if fieldAt d 8 4 ≠ 0 then none
  else some (fieldAt d 1 1, fieldAt d 2 1, 0, 0, x.rmOf, x.satOf)

/-- Elements of a list of extents (R253). -/
def extCount (nd : Nat) (e : List Nat) : Nat := (e.take nd).foldl (· * ·) 1

/-- Bytes from the lowest to the highest that a grid of elements takes, from its element 0 (R262). -/
def gridSpan (nd : Nat) (e : List Nat) (st : List Int) (es : Nat) : Int × Int :=
  let off (n : Nat) : Int := ((dimNat e n : Int) - 1) * dimInt st n
  (((List.range nd).map fun n => min 0 (off n)).sum, ((List.range nd).map fun n => max 0 (off n)).sum + es)

/-- Whether the fields of a descriptor that need no format fit a command (R253, R261, R266). -/
def shapeOk (x : Cmd) : Bool :=
  let d := x.desc
  let flags := fieldAt d 5 1
  decide (extCount (fieldAt d 0 1) (descExts d 24) ≤ 2 ^ 32) &&
  (!x.x.flag 1 || (descStrides d 48).all (· == 0)) &&
  (match x.op with
    | .mcast _ => fieldAt d 4 1 == 0 && !flags.testBit 0 && !flags.testBit 1
    | .gath _ | .scat _ => fieldAt d 0 1 == 2 && fieldAt d 4 1 == 0 && dimNat (descExts d 16) 0 == dimNat (descExts d 24) 0
    | _ => true)

/-- Whether formats and the descriptor's other fields fit a command (R253, R258, R261, R266). -/
def gridOk (x : Cmd) (g : Grid) : Bool :=
  let es := gceBytes g.fs
  let ed := gceBytes g.fd
  let span := gridSpan g.nd g.exts g.strs es
  (if isBlock g.fs || isBlock g.fd then g.fs == g.fd && !g.add && !g.lvl && !isStencil x.op
    else gceFmt g.fs && gceFmt g.fd) &&
  (List.range 4).all (fun n => dimInt g.strs n % es == 0 && dimInt g.strd n % ed == 0) &&
  (!x.x.flag 0 || (decide (0 ≤ span.1) && decide (span.2 ≤ 8192))) && shapeOk x

/-- What a grid command computes, its stencil apart, or the cause of its format error (R256). -/
def gridBase (x : Cmd) : Except Nat Grid :=
  let d := x.desc
  if !descOk d then .error 0x25
  else match gridFormats x with
    | none => .error 0x25
    | some (fs, fd, exps, expd, rm, sat) =>
      let g : Grid :=
        { nd := fieldAt d 0 1, bnd := fieldAt d 3 1, crs := fieldAt d 4 1, add := (fieldAt d 5 1).testBit 0,
          lvl := (fieldAt d 5 1).testBit 1, fs := fs, fd := fd, exts := descExts d 16, extd := descExts d 24,
          strs := descStrides d 32, strd := descStrides d 48, exps := exps, expd := expd, rm := rm, sat := sat,
          seed := fieldAt d 12 4, offs := [([0, 0, 0, 0], .fin false 1 0)] }
      if gridOk x g then .ok g else .error 0x25

/-- What a grid command computes, or the cause of its format or stencil-table error (R256). -/
def gridOf (x : Cmd) : Except Nat Grid :=
  match gridBase x with
  | .error c => .error c
  | .ok g =>
    if !isStencil x.op then .ok g
    else if x.tabBad then .error 0x2C
    else match stencilOf x.tab g.nd with
      | none => .error 0x2C
      | some o => .ok { g with offs := o }

/-- The destination format of a command where its records give one (R253, R254). -/
def gridFd (x : Cmd) : Option Nat :=
  if (fieldAt x.desc 5 1).testBit 1 then
    if x.ltab.length = 128 then some (bits (fieldAt x.ltab (8 * (fieldAt x.desc 6 1 / 16)) 8) 4 0) else none
  else some (fieldAt x.desc 2 1 % 32)

/-- Elements that a command steps through, and those of one destination tile of 8 KiB (R263, R268). A command whose size
cannot be computed counts as one tile (R264): DESIGN CHOICE, log 107. -/
def gridCount (x : Cmd) : Nat × Nat :=
  let d := x.desc
  let nd := fieldAt d 0 1 % 8
  let n := extCount nd (descExts d (if isScat x.op then 16 else 24))
  match gridFd x with
  | none => (1, 1)
  | some fd =>
    if !decide (1 ≤ nd) || !decide (nd ≤ 4) || n = 0 || decide (2 ^ 32 < n) || !(gceFmt fd || isBlock fd) then (1, 1)
    else (n, 8192 / gceBytes fd)

/-! ## Operands -/

/-- The range of an operand from its element 0: virtual addresses of region 0x0, or keys of the store it lies in, or the
detail of the access error (R17, R262). -/
def gridRange (s : State) (x : Cmd) (u : AccUse) (a : Word) (lo hi : Int) : Except Nat (Int × Int) :=
  let lim : Nat := if bits a.toNat 63 60 = 0 then 2 ^ 60 else 2 ^ 32
  if (a.toNat % lim : Nat) + lo < 0 || (lim : Int) < (a.toNat % lim : Nat) + hi then .error 1
  else if bits a.toNat 63 60 = 0 then
    if (2 ^ 57 : Int) < (a.toNat : Int) + hi then .error 0 else .ok ((5 * 2 ^ 60 + a.toNat : Nat) + lo, hi - lo)
  else match rangeSegs s (some x.core) (partOfCore s x.core) x.asid x.user u (a + ofInt 64 lo) 0 (hi - lo).toNat with
    | .error e => .error e
    | .ok g => .ok ((g.headD (0, 0)).1, hi - lo)

/-- The address of field A: the tile that the command names, or the operand (R251). -/
def Cmd.gridA (x : Cmd) : Word :=
  if x.x.flag 0 then BitVec.ofNat 64 (9 * 2 ^ 60 + (x.refs.headD default).slot * 8192) else x.a

/-- The place of an element from element 0 (R253). -/
def elemOff (st : List Int) (i : List Nat) : Int := ((i.zip st).map fun p => (p.1 : Int) * p.2).sum

/-- The index of an element, dimension 0 fastest (R253). -/
def elemIndex (e : List Nat) : Nat → Nat → List Nat
  | 0, _ => []
  | n + 1, i => i % e.headD 1 :: elemIndex (e.drop 1) n (i / e.headD 1)

/-- Runs of bytes of a grid: rows of dimension 0 whole where its elements are packed. -/
def gridRuns (nd : Nat) (e : List Nat) (st : List Int) (es : Nat) : List (Int × Nat) :=
  let rows := (List.range (extCount nd e / dimNat e 0)).map fun r => elemOff (st.drop 1) (elemIndex (e.drop 1) (nd - 1) r)
  if dimInt st 0 = es then rows.map fun o => (o, es * dimNat e 0)
  else rows.flatMap fun o => (List.range (dimNat e 0)).map fun (i : Nat) => (o + (i : Int) * dimInt st 0, es)

/-- The ranges of an operand's runs, or the address and detail of the first access error. -/
def runSegs (s : State) (x : Cmd) (u : AccUse) (a : Word) :
    List (Int × Nat) → Except (Word × Nat) (List (List (Nat × Nat)))
  | [] => .ok []
  | (o, n) :: r =>
    match x.segs s u (a + ofInt 64 o) 0 n with
    | .error d => .error (a + ofInt 64 o, d)
    | .ok g => match runSegs s x u a r with
      | .error e => .error e
      | .ok gs => .ok (g :: gs)

/-- Runs of the source and of the destination. -/
def Grid.srcRuns (g : Grid) : List (Int × Nat) := gridRuns g.nd g.exts g.strs (gceBytes g.fs)
def Grid.dstRuns (g : Grid) : List (Int × Nat) := gridRuns g.nd g.extd g.strd (gceBytes g.fd)

/-- Bytes of the index list (R261). -/
def Grid.listBytes (g : Grid) (op : Instr) : Nat := 4 * dimNat (if isScat op then g.exts else g.extd) 1

/-- An access error of an operand at an address. -/
def Cmd.accErr (x : Cmd) (a : Word) (d : Nat) : DefErr := x.fault 0x20 a d

/-- The access check of an operand: its span, then its runs (R14 to R17). -/
def gridAccess (s : State) (x : Cmd) (u : AccUse) (a : Word) (bad : Bool) (span : Int × Int) (runs : List (Int × Nat)) :
    Except DefErr ((Int × Int) × List (List (Nat × Nat))) :=
  if bad then .error (x.accErr a 0)
  else match gridRange s x u a span.1 span.2 with
    | .error d => .error (x.accErr a d)
    | .ok r => match runSegs s x u a runs with
      | .error (v, d) => .error (x.accErr v d)
      | .ok g => .ok (r, g)

/-- A register-free record as a range of `n` bytes (R252). -/
def recSegs (s : State) (x : Cmd) (u : AccUse) (w : Word32) (n : Nat) : Except DefErr (List (Nat × Nat)) :=
  match x.segs s u (freeAddr w) 0 n with
  | .error d => .error (x.accErr (freeAddr w) d)
  | .ok g => .ok g

/-- Whether two spans meet (R262). -/
def spansMeet (a b : Int × Int) : Bool := decide (a.1 < b.1 + b.2) && decide (b.1 < a.1 + a.2)

/-- What the checks of a command's start find: the source and destination as keys, the index list; an error, and whether
the command then claims nothing (R264, R268). -/
inductive GridCheck where
  | ok (src dst : List (List (Nat × Nat))) (list : List (Nat × Nat))
  | bad (s : State) (e : DefErr) (early nothing : Bool)

/-- The uncorrectable codewords of some ranges and of the tile table entries that a command names (R345): the state with the
soft errors met, and the deferred memory error. DESIGN CHOICE, log 78. -/
def segBad (s : State) (x : Cmd) (gs : List (List (Nat × Nat))) : State × Option DefErr :=
  let cl := clusterOfCore x.core
  let own := gs.flatten.filter fun g => keyStore g.1 != 8
  let tile := x.refs.find? fun t => eccBad s.ecc (tileKey cl t.slot) 8
  let low := (own.flatMap fun g => eccBads s.ecc g.1 g.2).head?
  let e := (tile.map fun t => x.fault 0x28 (BitVec.ofNat 64 t.idx) 9).or (low.map x.memErr)
  if e.isNone then (s, none)
  else ((eccReads s x.core (own ++ x.refs.map fun t => (tileKey cl t.slot, 8))).1, e)

/-- The checks of R268 in their order, format and stencil table apart. What a ring will hold is not compared with the source
(R262). DESIGN CHOICE, log 106. -/
def gridCheck (s : State) (x : Cmd) (g : Grid) : GridCheck :=
  let es := gceBytes g.fs
  let ed := gceBytes g.fd
  let tile := x.x.flag 0
  let none_ : (Int × Int) × List (List (Nat × Nat)) := ((0, 0), [])
  let src := if tile && x.refused.isSome then .ok none_
    else gridAccess s x .read x.gridA (x.aBad && !tile) (gridSpan g.nd g.exts g.strs es) g.srcRuns
  let dst := if x.fills then .ok none_
    else gridAccess s x .write x.b x.bBad (gridSpan g.nd g.extd g.strd ed) g.dstRuns
  let list := if isIndexed x.op then recSegs s x .read x.x.w6 (g.listBytes x.op)
    else if isMcast x.op then recSegs s x .write x.x.w6 144 else .ok []
  match refusedBy x 0x20, src, dst, list with
  | some e, _, _, _ => .bad s e true false
  | none, .error e, _, _ => .bad s e true false
  | none, _, .error e, _ => .bad s e true false
  | none, _, _, .error e => .bad s e true false
  | none, .ok (sr, sg), .ok (dr, dg), .ok lg =>
    if !tile && x.a.toNat % es ≠ 0 then .bad s (x.fault 0x21 x.a es) true false
    else if !x.fills && x.b.toNat % ed ≠ 0 then .bad s (x.fault 0x21 x.b ed) true false
    else if x.x.flag 1 && !ringOwned (ringOf (clusterOf s (clusterOfCore x.core)) (fld x.x.w7 25 20)) x.asid then
      .bad s (x.fault 0x20 (BitVec.ofNat 64 (fld x.x.w7 25 20)) 4) true true
    else match x.refused, poisonedRef s x with
      | some e, _ => .bad s e true false
      | none, some e => .bad s e true false
      | none, none =>
        if !x.fills && spansMeet dr sr then .bad s (x.fault 0x27 x.b 0) true false
        else
          let read := sg ++ (if isIndexed x.op then [lg] else []) ++ if g.add then dg else []
          match guardErr s x read, segBad s x read with
          | some e, _ => .bad s e false false
          | none, (s1, some e) => .bad s1 ((guardErr s x dg).getD e) false false
          | none, (_, none) => .ok sg dg lg

/-! ## Values -/

/-- An index brought into range along a dimension (R259). -/
def Grid.bring (g : Grid) (n : Nat) (i : Int) : Option Nat :=
  let e : Int := dimNat g.exts n
  if 0 ≤ i && i < e then some i.toNat
  else match bndOf g.bnd n with
    | 0 => none
    | 1 => some (if i < 0 then 0 else (e - 1).toNat)
    | _ => some (i % e).toNat

/-- A source index brought into range along every dimension (R259). -/
def Grid.source (g : Grid) (i : List Int) : Option (List Nat) :=
  ((i.take g.nd).zipIdx).mapM fun p => g.bring p.2 p.1

/-- F of a dimension (R259). -/
def Grid.factor (g : Grid) (n : Nat) : Int := if g.crs.testBit n then 2 else 1

/-- The source index of an offset for a destination index: RSTR F·d + o, PRLG the c with F·c + o = d (R260). -/
def Grid.tap (g : Grid) (op : Instr) (d : List Nat) (o : List Int) : Option (List Int) :=
  ((d.zip o).zipIdx).mapM fun p =>
    let f := g.factor p.2
    match op with
    | .prlg _ => if ((p.1.1 : Int) - p.1.2) % f = 0 then some (((p.1.1 : Int) - p.1.2) / f) else none
    | .rstr _ => some (f * p.1.1 + p.1.2)
    | _ => some (p.1.1 : Int)

/-- An index of the index list (R261). -/
def Cmd.listAt (x : Cmd) (r : Nat) : Int := (fieldAt x.tab (4 * r) 4 : Nat)

/-- The source elements of a destination element with their weights (R260, R261). -/
def Grid.taps (g : Grid) (x : Cmd) (d : List Nat) : List (List Nat × EV) :=
  let d' := match x.op with
    | .gath _ => [(dimNat d 0 : Int), x.listAt (dimNat d 1)]
    | _ => []
  match x.op with
  | .gath _ => ((g.source d').map fun i => (i, EV.fin false 1 0)).toList
  | _ => g.offs.filterMap fun o => ((g.tap x.op d o.1).bind g.source).map fun i => (i, o.2)

/-- Whether a command copies codes unchanged (R258, R260). -/
def Grid.raw (g : Grid) (op : Instr) : Bool := g.fs == g.fd && !g.lvl && !g.add && !isStencil op

/-- An element read: its code, or the error that its read met (R17, R345). -/
def elemRead (s : State) (x : Cmd) (u : AccUse) (a : Word) (n : Nat) : State × Except DefErr Nat :=
  match x.segs s u a 0 n with
  | .error d => (s, .error (x.accErr a d))
  | .ok k =>
    let (s1, bs, bad) := segRead s x.core k
    (s1, if bad then .error (((k.flatMap fun r => eccBads s.ecc r.1 r.2).head?.map x.memErr).getD (x.fault 0x28 a 7))
         else .ok (leNat bs))

/-- Codes of several source elements. -/
def srcCodes (s : State) (x : Cmd) (g : Grid) : List (List Nat × EV) → State × Except DefErr (List (Nat × EV))
  | [] => (s, .ok [])
  | (i, w) :: r =>
    match elemRead s x .read (x.gridA + ofInt 64 (elemOff g.strs i)) (gceBytes g.fs) with
    | (s1, .error e) => (s1, .error e)
    | (s1, .ok c) => match srcCodes s1 x g r with
      | (s2, .error e) => (s2, .error e)
      | (s2, .ok cs) => (s2, .ok ((c, w) :: cs))

/-- The exact value of a code of the GCE (R258). -/
def gceValue (f c : Nat) : EV := if isBlock f then evInt (signedOf 8 c) else valueOf f c

/-- The code that a destination element receives (R260): from codes with weights and the old code under ADD. -/
def Grid.code (g : Grid) (op : Instr) (e : Nat) (cs : List (Nat × EV)) (old : Option Nat) : Nat :=
  if g.raw op then (cs.map (·.1)).headD 0
  else
    let terms := cs.map fun p => evMul (gceValue g.fs p.1) p.2 (-g.exps)
    let prev := (old.map fun c => evScale (-g.expd) (gceValue g.fd c)).toList
    let draw := if g.rm = .sr then srWord g.seed 0 e else 0
    (roundFmt (evScale g.expd (exactSum (terms ++ prev))) g.fd g.rm g.sat draw).1

/-- A destination element written outside rings; under ADD its old code is read (R260). -/
def putElem (s : State) (x : Cmd) (g : Grid) (d : List Nat) (e : Nat) (cs : List (Nat × EV)) : State × Except DefErr Unit :=
  let a := x.b + ofInt 64 (elemOff g.strd d)
  let n := gceBytes g.fd
  match (if g.add then elemRead s x .write a n else (s, .ok 0)), x.segs s .write a 0 n with
  | (s1, .error f), _ => (s1, .error f)
  | (s1, .ok _), .error d => (s1, .error (x.accErr a d))
  | (s1, .ok old), .ok k =>
    (segWrite s1 x.core x.asid (cmdTid s x) k (leBytes n (g.code x.op e cs (if g.add then some old else none))), .ok ())

/-- The destination row of a source row of SCAT (R261): BND of dimension 1 applies to its extent at the destination. -/
def Grid.row (g : Grid) (x : Cmd) (r : Nat) : Option Nat := { g with exts := g.extd }.bring 1 (x.listAt r)

/-- Source rows of SCAT that name a destination row. -/
def Grid.rowsTo (g : Grid) (x : Cmd) (j : Nat) : List Nat :=
  (List.range (dimNat g.exts 1)).filter fun q => g.row x q == some j

/-- The destination element of step element `e`: every one but of SCAT, where the largest row that names a destination row
writes it, with ADD the first (R261). -/
def Grid.dest (g : Grid) (x : Cmd) (e : Nat) : Option (List Nat) :=
  if !isScat x.op then some (elemIndex g.extd g.nd e)
  else match elemIndex g.exts 2 e with
    | [i, r] =>
      match g.row x r with
      | none => none
      | some j =>
        let same := g.rowsTo x j
        if (if g.add then same.headD r else same.getLastD r) = r then some [i, j] else none
    | _ => none

/-- One source element of SCAT (R261): with ADD the sum of all rows that name its destination row. -/
def scatElem (s : State) (x : Cmd) (g : Grid) (e : Nat) : State × Except DefErr Unit :=
  match g.dest x e, elemIndex g.exts 2 e with
  | some [i, j], [_, r] =>
    let rows := if g.add then g.rowsTo x j else [r]
    match srcCodes s x g (rows.map fun q => ([i, q], EV.fin false 1 0)) with
    | (s1, .error f) => (s1, .error f)
    | (s1, .ok cs) => putElem s1 x g [i, j] (i + dimNat g.extd 0 * j) cs
  | _, _ => (s, .ok ())

/-- One destination element computed, and written outside rings; its code, or the error met. -/
def gridElem (s : State) (x : Cmd) (g : Grid) (e : Nat) : State × Except DefErr Nat :=
  if isScat x.op then
    let (s1, r) := scatElem s x g e
    (s1, r.map fun _ => 0)
  else
    let d := elemIndex g.extd g.nd e
    match srcCodes s x g (g.taps x d) with
    | (s1, .error f) => (s1, .error f)
    | (s1, .ok cs) =>
      if x.fills then (s1, .ok (g.code x.op e cs (if g.add then some 0 else none)))
      else
        let (s2, r) := putElem s1 x g d e cs
        (s2, r.map fun _ => 0)

/-- Elements `e` to `e + n - 1`: their codes in order, or the error met. -/
def gridElems (x : Cmd) (g : Grid) : Nat → State → Nat → State × Except DefErr (List Nat)
  | 0, s, _ => (s, .ok [])
  | n + 1, s, e =>
    match gridElem s x g e with
    | (s1, .error f) => (s1, .error f)
    | (s1, .ok c) => match gridElems x g n s1 (e + 1) with
      | (s2, .error f) => (s2, .error f)
      | (s2, .ok cs) => (s2, .ok (c :: cs))

/-- Ranges with those that follow one another joined. -/
def joinSegs (l : List (Nat × Nat)) : List (Nat × Nat) :=
  l.foldr (fun g acc => match acc with
    | (b, m) :: r => if g.1 + g.2 = b then (g.1, g.2 + m) :: r else g :: (b, m) :: r
    | [] => [g]) []

/-- The bytes that a step of `n` elements writes outside rings, in whole runs. -/
def stepSegs (s : State) (x : Cmd) (g : Grid) (n : Nat) : List (Nat × Nat) :=
  joinSegs ((List.range n).flatMap fun i => match g.dest x (x.steps + i) with
    | none => []
    | some d => match x.segs s .write (x.b + ofInt 64 (elemOff g.strd d)) 0 (gceBytes g.fd) with
      | .ok k => k
      | .error _ => [])

/-! ## Issue -/

/-- A record read at acceptance: its bytes, or the error that the command then starts with (R249, R256), and the soft errors
met (R345). -/
def copyRecord (s : State) (x : Cmd) (a : Word) (n : Nat) : State × Except DefErr (List Byte) :=
  match x.segs s .read a 0 n with
  | .error d => (s, .error (x.accErr a d))
  | .ok g => match segGuard s g, segBad s { x with refs := [] } [g] with
    | some o, _ => (s, .error (x.fault 0x24 (BitVec.ofNat 64 o) (spadBank o)))
    | none, (s1, some e) => (s1, .error e)
    | none, (_, none) => ((segRead s x.core g).1, .ok (segRead s x.core g).2.1)

/-- A stencil table read at acceptance: its first 8 bytes say its length (R255). -/
def copyTable (s : State) (x : Cmd) (a : Word) : State × Except DefErr (List Byte) :=
  match copyRecord s x a 8 with
  | (s1, .error e) => (s1, .error e)
  | (s1, .ok h) => copyRecord s1 x a (tableBytes h)

/-- Whether what the start finds comes after the refusals and the overlap in R268's list: a guard or a memory error. -/
def isLate (e : DefErr) : Bool := e.cause == 0x24 || e.cause == 0x28

/-- Of the error that a record met at acceptance and one that the start finds, the first of R268's list; of two guard errors the
lower granule. -/
def firstError (e f : DefErr) : DefErr :=
  if f.cause = 0x25 || f.cause = 0x2C then f
  else if e.cause = 0x20 then e
  else if !isLate f then f
  else if e.cause ≠ f.cause then (if e.cause = 0x24 then e else f)
  else if e.cause = 0x24 && decide (f.tval.toNat < e.tval.toNat) then f
  else e

/-- A record put into a queue entry, or its error noted; of several the first of R268's list is kept. -/
def noteRecord (y : Cmd) (r : State × Except DefErr (List Byte)) (put : Cmd → List Byte → Cmd) : State × Cmd :=
  match r.2 with
  | .ok bs => (r.1, put y bs)
  | .error e => (r.1, { y with err := some (match y.err with
      | some f => firstError f e
      | none => e) })

/-- The records of a command copied into its queue entry at acceptance (R249, R256). DEDUCED, log 54. -/
def copyRecords (s : State) (x : Cmd) : State × Cmd :=
  let (s1, y1) := noteRecord x (copyRecord s x (freeAddr x.x.w5) 64) fun y bs => { y with desc := bs }
  let (s2, y2) := if (fieldAt y1.desc 5 1).testBit 1 then
      noteRecord y1 (copyRecord s1 x (freeAddr (BitVec.ofNat 32 (fieldAt y1.desc 8 4))) 128) fun y bs => { y with ltab := bs }
    else (s1, y1)
  if !isStencil x.op then (s2, y2)
  else if fld x.x.w6 31 28 = 0xE then
    match mapFind (clusterOf s (clusterOfCore x.core)).pins (fld x.x.w6 3 0) with
    | some p => (s2, if p.asid = x.asid then { y2 with tab := p.bytes } else { y2 with tabBad := true })
    | none => (s2, { y2 with tabBad := true })
  else noteRecord y2 (copyTable s2 x (freeAddr x.x.w6)) fun y bs => { y with tab := bs }

/-- Whether LTAB names a table at all; otherwise the start finds a format error and nothing is read (R254). -/
def dropBadLtab (y : Cmd) : Cmd :=
  let w := fieldAt y.desc 8 4
  if (fieldAt y.desc 5 1).testBit 1 && !((bits w 31 28 == 8 || bits w 31 28 == 9) && w % 8 == 0) then
    { y with err := none }
  else y

/-- The issue of a grid command: the thread's earlier stores come first, for the copies (R249, R251). -/
def Ctx.gce (x : Ctx) (op : Instr) (b : Bundle) : Body :=
  x.atHome <| x.released <|
    x.issueCmd op b (if b.flag 0 then .tile else .addr)
      (match op with
        | .mcast _ => .none
        | _ => if b.flag 1 then .none else .addr)
      (fun a _ => if b.flag 0 then [(fld b.w7 31 26, BitVec.setWidth 32 a, b.popA)] else [])
      fun s c => ((copyRecords s c).1, dropBadLtab (copyRecords s c).2)

/-- COPY (R260). -/
def execCopy (b : Bundle) (s : State) : Host.Outcome State Fault Refusal := runInstr s fun x => x.gce (.copy b) b
/-- RSTR (R260). -/
def execRstr (b : Bundle) (s : State) : Host.Outcome State Fault Refusal := runInstr s fun x => x.gce (.rstr b) b
/-- PRLG (R260). -/
def execPrlg (b : Bundle) (s : State) : Host.Outcome State Fault Refusal := runInstr s fun x => x.gce (.prlg b) b
/-- GATH (R261). -/
def execGath (b : Bundle) (s : State) : Host.Outcome State Fault Refusal := runInstr s fun x => x.gce (.gath b) b
/-- SCAT (R261). -/
def execScat (b : Bundle) (s : State) : Host.Outcome State Fault Refusal := runInstr s fun x => x.gce (.scat b) b
/-- MCAST (R266). -/
def execMcast (b : Bundle) (s : State) : Host.Outcome State Fault Refusal := runInstr s fun x => x.gce (.mcast b) b

/-- The effect of TABPIN at acceptance (R257): the state, and the error that is held against its semaphore. DEDUCED, log 56. -/
def pinTable (s : State) (x : Cmd) : State × Option DefErr :=
  let cl := clusterOfCore x.core
  let n := fld x.x.w5 3 0
  match mapFind (clusterOf s cl).pins n with
  | some p => if p.asid ≠ x.asid then (s, some (x.fault 0x20 (BitVec.ofNat 64 n) 4)) else pin cl n
  | none => pin cl n
where
  /-- The table of field A copied into a slot. -/
  pin (cl n : Nat) : State × Option DefErr :=
    if x.aBad || !(bits x.a.toNat 63 60 == 8 || bits x.a.toNat 63 60 == 9) then (s, some (x.accErr x.a 0))
    else match copyTable s x x.a with
      | (s1, .error e) => (s1, some e)
      | (s1, .ok bs) => (modCluster s1 cl fun k => { k with pins := mapSet k.pins n { asid := x.asid, bytes := bs } }, none)

/-- The effect of TABINV at acceptance (R257). -/
def unpinTable (s : State) (x : Cmd) : State × Option DefErr :=
  let cl := clusterOfCore x.core
  let n := fld x.x.w5 3 0
  if x.x.w5.getLsbD 4 then
    (modCluster s cl fun k => { k with pins := k.pins.filter fun p => p.2.asid != x.asid }, none)
  else match mapFind (clusterOf s cl).pins n with
    | none => (s, none)
    | some p =>
      if p.asid = x.asid then (modCluster s cl fun k => { k with pins := mapErase k.pins n }, none)
      else (s, some (x.fault 0x20 (BitVec.ofNat 64 n) 4))

/-- TABPIN and TABINV take effect as they are accepted and signal 8 cycles later (R257). -/
def Ctx.table (x : Ctx) (op : Instr) (b : Bundle) (ka : FieldKind) (f : State → Cmd → State × Option DefErr) : Body :=
  x.atHome <| x.released <| x.needRegs (bundleRegs b) <|
    x.needRes (queueRoom x.s x.c x.n 2) .gceq <|
      let cmd := x.newCmd op b (formField x.t ka b.substA.toNat b.fieldA) (0#64, false)
      if asidKilling x.s cmd.asid then x.finish x.s x.t 32
      else
      let (s1, e) := f x.s cmd
      let done := { cmd with started := true, retired := true, due := x.s.cycle + 8, err := e }
      x.finish (modCluster { s1 with uid := s1.uid + 1 } (clusterOfCore x.c) fun k => { k with active := k.active ++ [done] })
        x.t 32

/-- TABPIN (R257). -/
def execTabpin (b : Bundle) (s : State) : Host.Outcome State Fault Refusal :=
  runInstr s fun x => x.table (.tabpin b) b .addr pinTable

/-- TABINV (R257). -/
def execTabinv (b : Bundle) (s : State) : Host.Outcome State Fault Refusal :=
  runInstr s fun x => x.table (.tabinv b) b .none unpinTable

/-! ## Start -/

/-- Whether a started command has steps to come (R268). -/
def gceStepping (x : Cmd) : Bool := x.started && x.due == never

/-- An active command of a GCE replaced. -/
def putGce (s : State) (cl : Nat) (x : Cmd) : State :=
  modCluster s cl fun k => { k with active := k.active.map fun y => if y.uid = x.uid then x else y }

/-- The CAUSE with which a failed command poisons its tiles (R91, R264, R268). DEDUCED, log 55. -/
def fillCause (e : DefErr) : Nat :=
  match e.cause with
  | 0x20 => 2
  | 0x23 => bits e.detail.toNat 7 0
  | 0x24 => 3
  | 0x28 => 1
  | _ => 5

/-- Members of a multicast group: pairs of cluster and ring in order (R265). -/
def mcastMembers (s : State) (x : Cmd) : List (Nat × Nat) :=
  let tag := clusterOfCore x.core * 512 + fld x.x.w7 8 0
  (List.range 128).flatMap fun cl =>
    let rings := (List.range 8).filterMap fun i =>
      (((coreOf s (cl * 8 + i)).matchTab.find? fun e => e.1 == tag).map (·.2))
    ((List.range 64).filter fun r => rings.contains r).map fun r => (cl, r)

/-- A command with its last step done in a cycle: the reference retires in the next, and it signals at least 8 cycles
later, after its writes are performed (R101, R268). -/
def lastStep (x : Cmd) (cycle : Nat) : Cmd :=
  { x with retireAt := cycle + 1, due := cycle + 9 + farDelay x x.far }

/-- A command that ends at its start without steps (R268). -/
def endAtStart (s : State) (x : Cmd) (e : Option DefErr) (early : Bool) : Cmd :=
  { lastStep x s.cycle with started := true, err := e, retired := early }

/-- What the start finds for a command whose formats are unknown, in R268's order: the access of each operand's element 0, the
record of MCAST, the rings and the tiles; and whether it then claims nothing. -/
def blindError (s : State) (x : Cmd) : Option (DefErr × Bool) :=
  let tile := x.x.flag 0
  let place (u : AccUse) (a : Word) (bad : Bool) : Option DefErr :=
    if bad then some (x.accErr a 0)
    else match x.segs s u a 0 1 with
      | .error d => some (x.accErr a d)
      | .ok _ => none
  let list := if isMcast x.op then (match recSegs s x .write x.x.w6 144 with
      | .error e => some e
      | .ok _ => none)
    else none
  let src := if tile && x.refused.isSome then none else place .read x.gridA (x.aBad && !tile)
  let dst := if x.fills then none else place .write x.b x.bBad
  match (((refusedBy x 0x20).or src).or dst).or list with
  | some e => some (e, false)
  | none =>
    if x.x.flag 1 && !ringOwned (ringOf (clusterOf s (clusterOfCore x.core)) (fld x.x.w7 25 20)) x.asid then
      some (x.fault 0x20 (BitVec.ofNat 64 (fld x.x.w7 25 20)) 4, true)
    else (x.refused.or (poisonedRef s x)).map fun e => (e, false)

/-- Whether the stencil table of a command is none of the issuing ASID or, as far as it could be read, no table for `nd`
dimensions (R255 to R257). -/
def tableBad (x : Cmd) (nd : Nat) : Bool :=
  isStencil x.op && (x.tabBad || (!x.tab.isEmpty && (stencilOf x.tab nd).isNone))

/-- The cause of a format or stencil-table error that a command's records show although its level table could not be read. -/
def blindCause (x : Cmd) : Option Nat :=
  if !descOk x.desc || !shapeOk x then some 0x25 else if tableBad x (fieldAt x.desc 0 1) then some 0x2C else none

/-- The outcome of the checks of a command's start (R256, R268). The error of a record that could not be read comes in the
order of R268 among those that can be judged without it. DEDUCED, log 54. -/
def startCheck (s : State) (x : Cmd) : GridCheck :=
  let table (c : Nat) : DefErr := x.fault c (if c = 0x2C then BitVec.setWidth 64 x.x.w6 else 0#64) 0
  let blind (e : DefErr) : GridCheck :=
    match blindError s x with
    | some (f, nothing) => .bad s (firstError e f) true (nothing && e.cause != 0x20)
    | none => .bad s e true false
  match x.err with
  | none => match gridOf x with
    | .error c => .bad s (table c) true false
    | .ok g => gridCheck s x g
  | some e =>
    if x.desc.length ≠ 64 then
      if tableBad x 4 then .bad s (table 0x2C) true false else blind e
    else if (fieldAt x.desc 5 1).testBit 1 && x.ltab.length ≠ 128 then
      match blindCause x with
      | some c => .bad s (table c) true false
      | none => blind e
    else match gridBase x with
      | .error c => .bad s (table c) true false
      | .ok g => match gridCheck s x g with
        | .bad s1 f _ nothing => .bad s1 (firstError e f) true (nothing && e.cause != 0x20)
        | .ok _ dg _ => .bad s (((guardErr s x dg).map (firstError e)).getD e) true false

/-- A command started: what it fills, and the outcome of its checks (R250, R256, R264, R265, R268). One that goes on to fill
after its last read releases its tile (R101). -/
def startGrid (s : State) (x : Cmd) : Cmd × State :=
  let y := { x with members := if isMcast x.op then mcastMembers s x
                               else if x.x.flag 1 then [(clusterOfCore x.core, fld x.x.w7 25 20)] else [] }
  let failed (e : DefErr) (early nothing : Bool) : Cmd :=
    if !x.fills || nothing then endAtStart s y (some e) early
    else { y with started := true, err := some e, poison := some (fillCause e), retireAt := s.cycle + 1, retired := early,
                  due := never }
  match startCheck s x with
  | .bad s1 e early nothing => (failed e early nothing, s1)
  | .ok sg dg lg =>
    let (s1, bs, _) := if isIndexed x.op then segRead s x.core lg else (s, x.tab, false)
    if isMcast x.op && y.members.isEmpty then (endAtStart s y none false, s1)
    else ({ y with started := true, tab := bs, retireAt := never, due := never, err := guardErr s x dg,
                   far := !(sg ++ dg).all (segsLocal x.core) }, s1)

/-- The command that a GCE takes next: the first of a core that is not held (R249, R269). -/
def nextGce (s : State) (cl : Nat) : Option Cmd :=
  (clusterOf s cl).gceq.find? fun x => !isHeldMode (coreOf s x.core).mode

/-- GCE_COMMAND_START (R250); a command that a pre-emption stopped goes on where it was (R269). -/
def execGceCommandStart (cluster : Nat) (s : State) : Host.Outcome State Fault Refusal :=
  let k := clusterOf s cluster
  event s <| match nextGce s cluster with
    | none => none
    | some x =>
      if k.active.any gceStepping || decide (s.cycle < k.gceFree) || (!x.started && !mayStart s x) then none
      else
        let (y, s1) := if x.started then (x, s) else startGrid s x
        let s2 := modCluster s1 cluster fun k =>
          { k with gceq := k.gceq.filter fun q => q.uid != x.uid, active := k.active ++ [y],
                   gceFree := s.cycle + if gceStepping y then 0 else 1 }
        let s3 := if y.retired && !x.started then releaseRefs s2 y else s2
        some (wakeQueue s3 y)

/-! ## Fills of a ring -/

/-- A fill of a grid command's tile for a member. -/
def gridFill (x : Cmd) (uid tile : Nat) (m : Nat × Nat) : Fill :=
  { uid := uid, byHod := false, unit := clusterOfCore x.core, prog := 0, cmd := x.uid, tile := tile, cluster := m.1,
    ring := m.2, index := none, asid := x.asid, rows := 0, rb := 0, stride := 0#64, src := 0#64, idx := none,
    entry := 0#64, claimedAt := 0, due := never, cause := x.poison }

/-- Fills of a command. -/
def fillsOf (s : State) (uid : Nat) : List Fill := s.fills.filter fun f => !f.byHod && f.cmd == uid

/-- The state with a fill replaced or removed. -/
def putFill (s : State) (f : Fill) : State := { s with fills := s.fills.map fun g => if g.uid = f.uid then f else g }
def dropFill (s : State) (uid : Nat) : State := { s with fills := s.fills.filter fun g => g.uid != uid }

/-- How a branch of the mesh toward a member behaves for a tile: 1 it fails before the claim, 2 after it, else it works. A
ring of the own cluster has no branch (R267; log 77). -/
def branchOf (s : State) (x : Cmd) (m : (Nat × Nat) × Nat) : Nat :=
  if isMcast x.op && m.1.1 != clusterOfCore x.core then Config.branchFails (s.fresh + m.2) % 4 else 0

/-- Whether a fill belongs to a member of a command. -/
def fillOf (x : Cmd) (m : Nat × Nat) (f : Fill) : Bool :=
  !f.byHod && f.cmd == x.uid && f.cluster == m.1 && f.ring == m.2

/-- The fills of a member that fails: claimed tiles that are not READY are poisoned, the others are given up (R267). -/
def failFills (s : State) (x : Cmd) (m : Nat × Nat) (cause : Nat) : State :=
  { s with fills := (s.fills.filter fun f => !fillOf x m f || f.index.isSome).map fun f =>
      if fillOf x m f then { f with cause := f.cause.or (some cause) } else f }

/-- The fills of a tile for every member that has not failed; a member whose branch fails has failed (R267). The tiles opened
so far are counted. -/
def openTile (s : State) (x : Cmd) (tile : Nat) : State :=
  let ms := x.members.zipIdx.filter fun p => !x.fail.testBit p.2
  let lost := ms.filter fun p => branchOf s x p == 1 || branchOf s x p == 2
  let fs := (ms.filter fun p => branchOf s x p != 1).zipIdx.map fun p =>
    let f := gridFill x (s.uid + p.2) tile p.1.1
    if branchOf s x p.1 = 2 then { f with cause := some 4 } else f
  let y := { x with fail := lost.foldl (fun a p => Nat.lor a (2 ^ p.2)) x.fail, rows := tile + 1 }
  let s1 := lost.foldl (fun a p => failFills a x p.1 4) s
  modCluster { s1 with fills := s1.fills ++ fs, uid := s.uid + ms.length,
                       fresh := s.fresh + if isMcast x.op then x.members.length else 0 } (clusterOfCore x.core) fun k =>
    { k with active := k.active.map fun z => if z.uid = y.uid then y else z }

/-- The key of the tile that a fill has claimed. -/
def fillKey (s : State) (f : Fill) : Nat :=
  spadKey f.cluster (slotOfIdx (ringOf (clusterOf s f.cluster) f.ring) (BitVec.ofNat 32 (f.index.getD 0)) * 8192)

/-- Members whose ring a fill names, as bits. -/
def memberBits (x : Cmd) (f : Fill) : Nat :=
  (x.members.zipIdx.filter fun p => p.1 == (f.cluster, f.ring)).foldl (fun a p => Nat.lor a (2 ^ p.2)) 0

/-- The command of a GCE by name. -/
def gceCmd (s : State) (cl uid : Nat) : Option Cmd := (clusterOf s cl).active.find? fun y => y.uid == uid

/-- A member of a multicast that fails with the fills that it has (R267). -/
def failMember (s : State) (x : Cmd) (f : Fill) (cause : Nat) : State :=
  failFills (putGce s f.unit { x with fail := Nat.lor x.fail (memberBits x f) }) x (f.cluster, f.ring) cause

/-- A ring fill of a grid command refused under R99 (R263, R267). -/
def refuseFill (s : State) (f : Fill) : State :=
  match gceCmd s f.unit f.cmd with
  | none => dropFill s f.uid
  | some x =>
    if isMcast x.op then failMember s x f 4
    else
      let e := x.err.or (some (x.fault 0x20 (BitVec.ofNat 64 f.ring) 4))
      putGce (dropFill s f.uid) f.unit { lastStep x s.cycle with err := e }

/-- The program of a fill and its hod, changed. -/
def modProg (s : State) (h p : Nat) (f : Prog → Prog) : State :=
  modHod s h fun k => { k with progs := k.progs.map fun e => if e.1 = p then (e.1, f e.2) else e }

/-- The deferred hod-program error of an entry (R282), with the bank of a guarded granule where one is its cause (R104, R332).
DEDUCED, log 92. -/
def hodErrorAt (x : Cmd) (entry : Word) (bank : Nat) : DefErr := x.fault 0x30 entry bank
def hodError (x : Cmd) (entry : Word) : DefErr := hodErrorAt x entry 0

/-- A program that a failing command ends (R282). -/
def failProgAt (p : Prog) (entry : Word) (bank : Nat) : Prog :=
  { p with ended := true, err := p.err.or (some (hodErrorAt p.cmd entry bank)), wwait := none, fillWait := none,
           sigWait := false }
def failProg (p : Prog) (entry : Word) : Prog := failProgAt p entry 0

/-- The first cycle in which a fill's last byte may be performed (log 7). -/
def fillDue (s : State) (f : Fill) : Nat := s.cycle + 1 + Config.latency f.uid

/-- A partition by number, 64 for none. -/
def partNum (n : Nat) : Option Nat := if n < 64 then some n else none

/-- Whether a partition's hod programs pause: it is not RUNNING, or a HALT or RESET is under way (R362). -/
def hodPaused (s : State) (part : Nat) : Bool :=
  match partNum part with
  | none => false
  | some q => (partOf s q).st != 1 || (match (partOf s q).cmd with
      | some c => c.phase != 0
      | none => false)

/-- FILLER_CLAIM (R96, R99): one index per ring and cycle of a filler; a command that a hold has stopped claims nothing
(R269), nor does a program that is paused (R362, R364). A ring refusal is the program error of its entry. DESIGN CHOICE,
log 104. -/
def execFillerClaim (fill : Nat) (s : State) : Host.Outcome State Fault Refusal :=
  event s <| match s.fills.find? fun f => f.uid == fill with
    | none => none
    | some f =>
      let again := s.fills.any fun g =>
        g.byHod == f.byHod && g.unit == f.unit && g.cluster == f.cluster && g.ring == f.ring && g.index.isSome &&
          g.claimedAt == s.cycle
      let idle := if f.byHod then (mapFind (hodOf s f.unit).progs f.prog).any fun p => hodPaused s p.part
        else (gceCmd s f.unit f.cmd).isNone
      if f.index.isSome || again || idle then none
      else if !ringOwned (ringOf (clusterOf s f.cluster) f.ring) f.asid then
        some (if f.byHod then modProg (dropFill s f.uid) f.unit f.prog fun p => failProg p f.entry else refuseFill s f)
      else match claimTile s f.cluster f.ring with
        | none => none
        | some (i, s1) =>
          let g := { f with index := some i.toNat, claimedAt := s.cycle,
                            due := if f.byHod then fillDue s f else if f.cause.isSome then s.cycle + 1 else f.due }
          let s2 := putFill s1 g
          some (if f.byHod then modProg s2 f.unit f.prog fun p => { p with pc := p.pc + 16#64, fillWait := none } else s2)

/-- Undefined bytes of a poisoned tile (R91; log 9); guarded granules stay as they are (R104). -/
def scramble (s : State) (k : Nat) : State :=
  spadWrite { s with fresh := s.fresh + 8192 } k ((List.range 8192).map fun i => Config.freeByte (s.fresh + i))

/-- A fill published: READY, or with POISON and a CAUSE (R89, R91). -/
def publishFill (s : State) (f : Fill) (cause : Nat) : State :=
  let s1 := if cause = 0 then s else scramble s (fillKey s f)
  fillEnd (dropFill s1 f.uid) f.cluster f.ring (BitVec.ofNat 32 (f.index.getD 0)) cause

/-- FILL_FAILURE (R91, R264, R273): a claimed fill that has failed or was stopped. -/
def execFillFailure (fill : Nat) (s : State) : Host.Outcome State Fault Refusal :=
  event s <| match s.fills.find? fun f => f.uid == fill with
    | none => none
    | some f => match f.index, f.cause with
      | some _, some c => if f.claimedAt < s.cycle then some (publishFill s f c) else none
      | _, _ => none

/-- The ranges that a hod reads, in region 0x0 or 0xA, the ASID table by programs of slot 0 only; or the CAUSE of a failure with
the bank of a guarded granule (R91, R104, R278, R350). -/
def hodSegs (s : State) (p : Prog) (a : Word) (n : Nat) : Except (Nat × Nat) (List (Nat × Nat)) :=
  if !(bits a.toNat 63 60 == 0 || bits a.toNat 63 60 == 0xA) then .error (2, 0)
  else match rangeSegs s none (partNum p.part) p.asid p.user .read a 0 n with
    | .error _ => .error (2, 0)
    | .ok g =>
      if p.cmd.slot ≠ 0 && g.any fun e => inAsidTable s e.1 e.2 then .error (2, 0)
      else match segGuard s g with
        | some o => .error (3, spadBank o)
        | none => .ok g

/-- Bytes that a hod reads: the state, and the bytes or the CAUSE of a failure (R91, R278, R345). -/
def hodRead (s : State) (p : Prog) (a : Word) (n : Nat) : State × Except (Nat × Nat) (List Byte) :=
  match hodSegs s p a n with
  | .error c => (s, .error c)
  | .ok g =>
    let (s1, bs, bad) := segRead s p.core g
    (s1, if bad then .error (1, 0) else .ok bs)

/-- The address of row `i` of a fill (R278). -/
def hodRowAt (s : State) (p : Prog) (f : Fill) (i : Nat) : State × Except (Nat × Nat) Word :=
  match f.idx with
  | none => (s, .ok (f.src + BitVec.ofNat 64 i * f.stride))
  | some l => match hodRead s p (l + BitVec.ofNat 64 (4 * i)) 4 with
    | (s1, .error c) => (s1, .error c)
    | (s1, .ok bs) => (s1, .ok (f.src + BitVec.ofNat 64 (leNat bs) * f.stride))

/-- Row `i` of a fill (R278). -/
def hodRow (s : State) (p : Prog) (f : Fill) (i : Nat) : State × Except (Nat × Nat) (List Byte) :=
  match hodRowAt s p f i with
  | (s1, .error c) => (s1, .error c)
  | (s1, .ok a) => hodRead s1 p a f.rb

/-- The lowest guarded granule of `n` bytes that a hod reads (R104). -/
def hodGuard (s : State) (p : Prog) (a : Word) (n : Nat) : Option Nat :=
  match rangeSegs s none (partNum p.part) p.asid p.user .read a 0 n with
  | .error _ => none
  | .ok g => segGuard s g

/-- The lowest guarded granule that the rows and the index list of a fill touch (R104). -/
def fillGuard (s : State) (p : Prog) (f : Fill) : Option Nat :=
  (List.range f.rows).foldl (fun b i =>
    let list := f.idx.bind fun l => hodGuard s p (l + BitVec.ofNat 64 (4 * i)) 4
    let row := match (hodRowAt s p f i).2 with
      | .ok a => hodGuard s p a f.rb
      | .error _ => none
    lowerOf b (lowerOf list row)) none

/-- `n` rows of a fill from row `i` on. -/
def hodRows (p : Prog) (f : Fill) : Nat → State → Nat → State × Except (Nat × Nat) (List Byte)
  | 0, s, _ => (s, .ok [])
  | n + 1, s, i =>
    match hodRow s p f i with
    | (s1, .error c) => (s1, .error c)
    | (s1, .ok bs) => match hodRows p f n s1 (i + 1) with
      | (s2, .error c) => (s2, .error c)
      | (s2, .ok r) => (s2, .ok (bs ++ r))

/-- Bytes written into a tile, and whether the write met an uncorrectable codeword that it covers in part (R91, R104, R345). -/
def tileWrite (s : State) (c k : Nat) (bs : List Byte) : State × Bool :=
  let (s1, bad) := eccPart s c k bs.length
  (spadWrite s1 k bs, bad)

/-- Several pieces written into a tile, each a write of its own (R91, R345); one of no bytes is none. -/
def tileWrites (s : State) (c : Nat) (l : List (Nat × List Byte)) : State × Bool :=
  (l.filter fun e => !e.2.isEmpty).foldl (fun a e =>
    let (s1, bad) := tileWrite a.1 c e.1 e.2
    (s1, a.2 || bad)) (s, false)

/-- The rows of a fill at their places in the tile at a key, and the zeros behind them (R278). -/
def fillPieces (f : Fill) (k : Nat) (bs : List Byte) : List (Nat × List Byte) :=
  (List.range f.rows).map (fun i => (k + i * f.rb, (bs.drop (i * f.rb)).take f.rb)) ++
    [(k + bs.length, List.replicate (8192 - bs.length) 0#8)]

/-- The data of a hod's fill written into its tile row by row, the rest of the tile as zeros; or the fill with the CAUSE of its
failure, that of its destination before those of its source, and a fill of the program that has not claimed given up (R91, R104,
R278, R282). DESIGN CHOICE, log 105. -/
def landFill (s : State) (f : Fill) (p : Prog) : State :=
  let bad (u : State) (c : Nat × Nat) : State :=
    let waits (g : Fill) : Bool := g.byHod && g.unit == f.unit && g.prog == f.prog && g.index.isNone
    let u1 := { u with fills := u.fills.filter fun g => !waits g }
    modProg (putFill u1 { f with cause := some c.1 }) f.unit f.prog fun q => failProgAt q f.entry c.2
  let k := fillKey s f
  match segGuard s [(k, 8192)] with
  | some o => bad s (3, spadBank o)
  | none => match hodRows p f f.rows s 0 with
    | (s1, .error (3, b)) => bad s1 (3, ((fillGuard s p f).map spadBank).getD b)
    | (s1, .error c) => bad s1 c
    | (s1, .ok bs) => match tileWrites s1 p.core (fillPieces f k bs) with
      | (s2, true) => bad s2 (7, 0)
      | (s2, false) => publishFill s2 f 0

/-- FILL_COMPLETE (R89): the last byte of a claimed fill is performed; a hod's data has moved by then (R278). -/
def execFillComplete (fill : Nat) (s : State) : Host.Outcome State Fault Refusal :=
  event s <| match s.fills.find? fun f => f.uid == fill with
    | none => none
    | some f =>
      if f.index.isNone || f.cause.isSome || decide (s.cycle < f.due) then none
      else if f.byHod then (mapFind (hodOf s f.unit).progs f.prog).map (landFill s f)
      else some (publishFill s f 0)

/-! ## Steps -/

/-- Cycles of a step (R268). -/
def stepCycles (x : Cmd) (g : Grid) : Nat := max 1 (((if isStencil x.op then g.offs.length else 1) + 7) / 8)

/-- A command stopped by a cancel at a tile boundary: its claimed tiles are poisoned with CAUSE 0x06, the others are
given up (R270). -/
def stopGrid (s : State) (x : Cmd) : State :=
  let s1 := { s with fills := (s.fills.filter fun f => f.byHod || f.cmd != x.uid || f.index.isSome).map fun f =>
    if !f.byHod && f.cmd == x.uid && f.due == never then { f with cause := some 6 } else f }
  putGce s1 (clusterOfCore x.core) { lastStep x s.cycle with err := some x.cancelErr, retireAt := s.cycle }

/-- A command of a held core put back into the queue at a tile boundary, ahead of the core's later ones (R269). -/
def parkGrid (s : State) (x : Cmd) : State :=
  modCluster s (clusterOfCore x.core) fun k =>
    { k with active := k.active.filter (fun y => y.uid != x.uid),
             gceq := k.gceq.takeWhile (fun y => y.core != x.core) ++ x :: k.gceq.dropWhile fun y => y.core != x.core }

/-- Fills of the tile that a command is about to write or writes. -/
def tileFills (s : State) (x : Cmd) (tile : Nat) : List Fill := (fillsOf s x.uid).filter fun f => f.tile == tile

/-- A command that failed, with the tile it was writing and the CAUSE of its tiles; outside rings it ends. It reads its source
no more (R101, R264, R268). -/
def failGridAs (s : State) (x : Cmd) (e : DefErr) (c tile : Nat) : State :=
  let cl := clusterOfCore x.core
  let y := { x with err := x.err.or (some e) }
  if !x.fills then putGce s cl (lastStep y s.cycle)
  else
    let s1 := (tileFills s x tile).foldl (fun a f => putFill a { f with cause := some c, due := s.cycle + 1 }) s
    let next := (tile + 1) * (gridCount x).2
    let z := { y with poison := some c, steps := next, retireAt := s.cycle + 1 }
    putGce s1 cl (if (gridCount x).1 ≤ next then lastStep z s.cycle else z)

/-- A command that failed, with the tile it was writing. -/
def failGrid (s : State) (x : Cmd) (e : DefErr) (tile : Nat) : State := failGridAs s x e (fillCause e) tile

/-- The bytes of a step written into the tiles of a fill, then the zeros behind the last element (R263); with the first fill
whose write met an uncorrectable codeword (R345). -/
def writeTiles (s : State) (c : Nat) (fs : List Fill) (off : Nat) (bs : List Byte) (last : Bool) : State × Option Fill :=
  let rest := if last then List.replicate (8192 - off - bs.length) 0#8 else []
  fs.foldl (fun a f =>
    let (s1, bad) := tileWrites a.1 c [(fillKey a.1 f + off, bs), (fillKey a.1 f + off + bs.length, rest)]
    (s1, a.2.or (if bad then some f else none))) (s, none)

/-- Members whose tile holds a guarded granule fail (R104, R267). -/
def guardTiles (s : State) (x : Cmd) (fs : List Fill) : State × Option DefErr :=
  match fs.find? fun f => (segGuard s [(fillKey s f, 8192)]).isSome with
  | none => (s, none)
  | some f =>
    let g := (segGuard s [(fillKey s f, 8192)]).getD 0
    if isMcast x.op then (failMember s x f 3, some (x.fault 0x24 (BitVec.ofNat 64 g) (spadBank g)))
    else (s, some (x.fault 0x24 (BitVec.ofNat 64 g) (spadBank g)))

/-- The marks of the codewords that a step outside rings covers whole removed, and the error of one that it covers in part
(R345); under ADD the old elements have been read. -/
def stepMarks (s : State) (x : Cmd) (segs : List (Nat × Nat)) : State × Option DefErr :=
  let (s1, e) := writeMeets s x segs
  (segs.foldl (fun a g => clearMark a g.1 g.2) s1, e)

/-- One step: up to 64 elements from `x.steps` on (R268). -/
def gridStep (s : State) (x : Cmd) (g : Grid) : State :=
  let cl := clusterOfCore x.core
  let (total, per) := gridCount x
  let tile := x.steps / per
  let n := min 64 (min (total - x.steps) (per - x.steps % per))
  let end_ := s.cycle + stepCycles x g
  match gridElems x g n s x.steps with
  | (s1, .error e) => failGrid s1 x e tile
  | (s1, .ok cs) =>
    let done := x.steps + n
    let last := done % per == 0 || done == total
    let fs := tileFills s1 x tile
    let bs := cs.flatMap (leBytes (gceBytes g.fd))
    let (s2, hurt) := if x.fills then writeTiles s1 x.core fs (x.steps % per * gceBytes g.fd) bs last else (s1, none)
    match hurt with
    | some f =>
      if isMcast x.op then failMember s2 x f 7 else failGridAs s2 x (x.memErr (fillKey s2 f)) 7 tile
    | none =>
      let (s3, e) := if x.fills then (s2, none) else stepMarks s2 x (stepSegs s x g n)
      let s4 := if last then
          fs.foldl (fun a f => if f.cause.isSome then a
            else putFill a { f with due := end_ + if f.cluster = cl then 0 else Config.latency f.uid }) s3
        else s3
      let y := { x with steps := done, err := x.err.or e }
      modCluster (putGce s4 cl (if done = total then lastStep y (end_ - 1) else y)) cl fun k => { k with gceFree := end_ }

/-- What the GCE does for its stepping command now: at a tile boundary it may stop, and opens the next tile; a tile to
be poisoned is left to its fills; else it steps once the tile's indices are claimed (R263, R264, R268 to R270). -/
def gridTurn (s : State) (x : Cmd) : Option State :=
  let (total, per) := gridCount x
  let tile := x.steps / per
  let mine := tileFills s x tile
  let atEdge := x.steps % per == 0
  if x.stop && atEdge then some (stopGrid s x)
  else if atEdge && isHeldMode (coreOf s x.core).mode then some (parkGrid s x)
  else if x.fills && atEdge && decide (x.rows ≤ tile) && x.members.zipIdx.any (fun p => !x.fail.testBit p.2) then
    some (openTile s x tile)
  else if mine.any fun f => f.index.isNone then none
  else if x.poison.isSome then
    let next := (tile + 1) * per
    let y := { x with steps := next }
    some (modCluster (putGce s (clusterOfCore x.core) (if total ≤ next then lastStep y s.cycle else y))
      (clusterOfCore x.core) fun k => { k with gceFree := s.cycle + 1 })
  else match gridOf x with
    | .error c => some (failGrid s x (x.fault c 0#64 0) tile)
    | .ok g =>
      if x.fills && atEdge then
        match guardTiles s x mine with
        | (s1, some e) => if isMcast x.op then some s1 else some (failGrid s1 x e tile)
        | (_, none) => some (gridStep s x g)
      else some (gridStep s x g)

/-- GCE_STEP (R263, R264, R268 to R270). -/
def execGceStep (cluster : Nat) (s : State) : Host.Outcome State Fault Refusal :=
  let k := clusterOf s cluster
  event s <| match k.active.find? gceStepping with
    | none => none
    | some x => if s.cycle < k.gceFree then none else gridTurn s x

/-! ## Completion -/

/-- The status record of a multicast (R266). -/
def mcastRecord (x : Cmd) : List Byte :=
  let ms := x.members.flatMap fun m => leBytes 2 (m.1 * 64 + m.2)
  leBytes 8 x.fail ++ leBytes 8 x.members.length ++ ms ++ List.replicate (128 - ms.length) 0#8

/-- The status record written, and the error that the command then has (R104, R266, R267). -/
def mcastEnd (s : State) (x : Cmd) : State × Option DefErr :=
  let e := x.err.or (if x.fail = 0 then none else some (x.fault 0x2D (BitVec.ofNat 64 x.fail) 0))
  match recSegs s x .write x.x.w6 144 with
  | .error d => (s, e.or (some d))
  | .ok g =>
    let (s1, d) := writeRanges s x [g] [mcastRecord x]
    (s1, e.or d)

/-- GCE_COMMAND_COMPLETE (R257, R266, R268). -/
def execGceCommandComplete (cluster cmd : Nat) (s : State) : Host.Outcome State Fault Refusal :=
  event s <| match gceCmd s cluster cmd with
    | none => none
    | some x =>
      if gceStepping x || !x.retired || decide (s.cycle < x.due) || !(fillsOf s x.uid).isEmpty || writesOut s (cmdTid s x) then
        none
      else
        let s1 := modCluster s cluster fun k => { k with active := k.active.filter fun y => y.uid != x.uid }
        let (s2, e) := if isMcast x.op then mcastEnd s1 x else (s1, x.err)
        some (x.signalHeld s2 e)

end Sys2Proof.Machine
end

