-- ==== Sys2Proof/Machine/Hod.lean ====
section
/-! DEFINITION. The hods (R271 to R283): HODRUN and HODSTOP, the hod interface, programs and hod commands. -/

namespace Sys2Proof.Machine

/-! ## HODRUN and HODSTOP -/

/-- HODRUN (R272). -/
def execHodrun (b : Bundle) (s : State) : Host.Outcome State Fault Refusal :=
  runInstr s fun x => x.atHome <| x.issueCmd (.hodrun b) b .addr .value (fun _ _ => []) fun s c => (s, c)

/-- HODSTOP (R273). -/
def execHodstop (b : Bundle) (s : State) : Host.Outcome State Fault Refusal :=
  runInstr s fun x => x.atHome <| x.issueCmd (.hodstop b) b .none .none (fun _ _ => []) fun s c => (s, c)

/-- TAG and HOD of a command (R272, R273). -/
def Cmd.hodTag (x : Cmd) : Nat := fld x.x.w5 31 16
def Cmd.hodNum (x : Cmd) : Nat := fld x.x.w5 5 0

/-- The access error of a HODRUN's program address: region 0x0, 16-byte aligned, readable (R272). -/
def progAddrErr (s : State) (x : Cmd) : Option DefErr :=
  if x.aBad || bits x.a.toNat 63 60 ≠ 0 || x.a.toNat % 16 ≠ 0 then some (x.accErr x.a 0)
  else match rangeSegs s none (partOfCore s x.core) x.asid x.user .read x.a 0 16 with
    | .error d => some (x.accErr x.a d)
    | .ok _ => none

/-- Programs and requests that a HODSTOP names (R273). -/
def stopNames (x q : Cmd) : Bool :=
  (x.hodNum == 63 || q.hodNum == x.hodNum) &&
    (if x.hodTag = 0xFFFF then q.thread == x.thread else q.asid == x.asid && q.hodTag == x.hodTag)

/-- HOD_INTERFACE_START (R272, R273): commands start in issue order; a HODRUN keeps the cycle of its start (R281). DEDUCED,
log 40. -/
def execHodInterfaceStart (core : Nat) (s : State) : Host.Outcome State Fault Refusal :=
  event s <| match (coreOf s core).hodq with
    | [] => none
    | x :: rest =>
      if !mayStart s x then none
      else
        let s1 := wakeQueue (modCore s core fun k => { k with hodq := rest }) x
        match x.op with
        | .hodstop _ => some (x.signalMsg (stopHods s1 (stopNames x)) none)
        | _ => match progAddrErr s1 x with
          | some e => some (x.signalMsg s1 (some e))
          | none =>
            some (modHod s1 x.hodNum fun h =>
              { h with queue := h.queue ++ [{ cmd := { x with retireAt := s.cycle }, part := (partOfCore s core).getD 64,
                                              due := s.cycle + 1 + Config.latency x.uid }] })

/-! ## Programs -/

/-- Programs that run on a hod (R272). -/
def runningProgs (h : Hod) : List (Nat × Prog) := h.progs.filter fun p => !p.2.ended

/-- The lowest place of a hod without an entry. -/
def freePlace (h : Hod) : Nat :=
  ((List.range (h.progs.length + 1)).find? fun i => (mapFind h.progs i).isNone).getD h.progs.length

/-- The program that a request begins (R271, R272). -/
def newProg (q : HodReq) : Prog :=
  let x := q.cmd
  { pc := x.a,
    h := #v[x.b, BitVec.ofNat 64 (x.x.w7.toNat * 2 ^ 32 + x.x.w6.toNat), 0#64, 0#64, 0#64, 0#64, 0#64, 0#64],
    stack := [], asid := x.asid, part := q.part, user := x.user, core := x.core, tag := x.hodTag, cmd := x,
    ended := false, err := none, wwait := none, fillWait := none, sigWait := false, sigs := [] }

/-- HOD_PROGRAM_BEGIN (R272): the oldest request that has come, once fewer than 32 programs run. -/
def execHodProgramBegin (hod : Nat) (s : State) : Host.Outcome State Fault Refusal :=
  let h := hodOf s hod
  event s <| match h.queue.find? fun q => decide (q.due ≤ s.cycle) with
    | none => none
    | some q =>
      if availHods s ≤ hod || Config.hodPrograms ≤ (runningProgs h).length then none
      else
        let x := q.cmd
        let s1 := modHod s hod fun k => { k with queue := k.queue.filter fun r => r.cmd.uid != x.uid }
        if (runningProgs h).any fun p => p.2.asid == x.asid && p.2.tag == x.hodTag then
          some (x.signalMsg s1 (some (x.fault 0x2E (BitVec.ofNat 64 x.hodTag) 0)))
        else some (modHod s1 hod fun k => { k with progs := mapSet k.progs (freePlace k) (newProg q) })

/-- Whether an HSIG's raise is still on its way (R272, R280); to another device it is until it is acknowledged. -/
def sigPending (s : State) (uid : Nat) : Bool :=
  s.net.any (fun m => m.uid == uid) || s.cores.any (fun k => k.2.spill.any fun m => m.uid == uid) ||
    s.pkg.conns.any fun c =>
      c.2.waiting.any (fun k => k.srcSlot == 1024 + uid) ||
        c.2.classes.toList.any fun q => q.unacked.any fun k => k.1.srcSlot == 1024 + uid

/-- Fills of a program that are claimed and not yet READY. -/
def progFills (s : State) (h p : Nat) : Bool := s.fills.any fun f => f.byHod && f.unit == h && f.prog == p

/-- HODRUN_COMPLETE (R272): the program has ended, its tiles are READY and its HSIGs applied. -/
def execHodrunComplete (hod prog : Nat) (s : State) : Host.Outcome State Fault Refusal :=
  event s <| match mapFind (hodOf s hod).progs prog with
    | none => none
    | some p =>
      if !p.ended || progFills s hod prog || p.sigs.any (fun g => sigPending s g.1) then none
      else some (p.cmd.signalMsg (modHod s hod fun k => { k with progs := mapErase k.progs prog }) p.err)

/-- Whether the window of an HWWAIT holds (R279). -/
def windowHolds (s : State) (w : Nat × Nat × Nat) : Bool :=
  let r := ringOf (clusterOf s w.1) w.2.1
  decide (idxDist r.tail r.head + w.2.2 ≤ ringW r)

/-- Whether a program's next command may start. -/
def progReady (s : State) (h : Nat) (e : Nat × Prog) : Bool :=
  let p := e.2
  !p.ended && p.fillWait.isNone && !hodPaused s p.part && (match p.wwait with
    | some w => windowHolds s w
    | none => true) && (!p.sigWait || !progFills s h e.1)

/-- The program of a hod that starts a command now: from the place whose turn it is (R271). -/
def pickProg (s : State) (h : Nat) : Option (Nat × Prog) :=
  let k := hodOf s h
  if s.cycle < k.next then none
  else match k.progs.find? fun e => decide (k.turn ≤ e.1) && progReady s h e with
    | some e => some e
    | none => k.progs.find? (progReady s h)

/-- The versions of a 16-byte entry that an execution may use: those that writes have replaced since the HODRUN's issue, back to
a write that the issuing thread made before it, and the present one (R281). -/
def entryVersions (s : State) (p : Prog) (k : Nat) (now : List Byte) : List (List Byte) :=
  let late (v : Older) : Bool := decide (p.cmd.issued ≤ v.cycle) && !(v.tid == p.cmd.thread && decide (v.ord < p.cmd.uid))
  ((mapGet [] s.older k).reverse.takeWhile late).reverse.map (·.bytes) ++ [now]

/-- A 16-byte entry fetched afresh, one version of it whole: a free choice where there are several (R281; log 93). -/
def fetchUnit (s : State) (p : Prog) (a : Word) : State × Option Nat :=
  match hodSegs s p a 16, hodRead s p a 16 with
  | .ok [(k, _)], (s1, .ok bs) =>
    match entryVersions s p k bs with
    | [v] => (s1, some (leNat v))
    | l => ({ s1 with fresh := s1.fresh + 1 }, some (leNat (l.getD (Config.entryVersion s1.fresh % l.length) bs)))
  | _, (s1, .ok bs) => (s1, some (leNat bs))
  | _, (s1, .error _) => (s1, none)

/-- The entry at a program's PC (R281). -/
def fetchEntry (s : State) (p : Prog) : State × Option Nat := fetchUnit s p p.pc

/-- A hod after it has started a command of a program (R271). -/
def hodStarted (s : State) (h p : Nat) : State :=
  { modHod s h (fun k => { k with turn := p + 1, next := s.cycle + 1 }) with hodCur := (h, p) }

/-! ## Hod commands -/

/-- A command of the current program of the current hod. -/
def runHod (s : State) (f : Nat → Nat → Prog → State) : Host.Outcome State Fault Refusal :=
  event s <| match mapFind (hodOf s s.hodCur.1).progs s.hodCur.2 with
    | none => none
    | some p => if p.ended then none else some (f s.hodCur.1 s.hodCur.2 p)

/-- The state with the current program replaced. -/
def putProg (s : State) (h n : Nat) (p : Prog) : State := modProg s h n fun _ => p

/-- A program past its command. -/
def nextEntry (p : Prog) : Prog := { p with pc := p.pc + 16#64, wwait := none, sigWait := false }

/-- A register of a program. -/
def hReg (p : Prog) (r : Fin 8) : Word := p.h[r]
def putHReg (p : Prog) (r : Fin 8) (v : Word) : Prog := { p with h := p.h.set r v }

/-- The entry after the HEND that matches an HLOOP of count 0, from address `a` on at a nesting depth (R276). -/
def skipLoop (p : Prog) : Nat → State → Word → Nat → State × Option Word
  | 0, s, _, _ => (s, none)
  | fuel + 1, s, a, depth =>
    match fetchUnit s p a with
    | (s1, none) => (s1, none)
    | (s1, some w) =>
      let op := w % 256
      if op = 0x01 then skipLoop p fuel s1 (a + 16#64) (depth + 1)
      else if op = 0x02 then
        if depth = 0 then (s1, some (a + 16#64)) else skipLoop p fuel s1 (a + 16#64) (depth - 1)
      else skipLoop p fuel s1 (a + 16#64) depth

/-- HLOOP (R276). One that stands inside four others is an error whatever its count. DESIGN CHOICE, log 108. -/
def execHloop (n : BitVec 32) (s : State) : Host.Outcome State Fault Refusal :=
  runHod s fun h k p =>
    if 4 ≤ p.stack.length then putProg s h k (failProg p p.pc)
    else if n ≠ 0#32 then putProg s h k { nextEntry p with stack := (n.toNat, p.pc + 16#64) :: p.stack }
    else match skipLoop p 65536 s (p.pc + 16#64) 0 with
      | (s1, some a) => putProg s1 h k { nextEntry p with pc := a }
      | (s1, none) => putProg s1 h k (failProg p p.pc)

/-- HEND (R276). -/
def execHend (s : State) : Host.Outcome State Fault Refusal :=
  runHod s fun h k p =>
    match p.stack with
    | [] => putProg s h k (failProg p p.pc)
    | (n, a) :: rest =>
      if n - 1 ≠ 0 then putProg s h k { nextEntry p with pc := a, stack := (n - 1, a) :: rest }
      else putProg s h k { nextEntry p with stack := rest }

/-- HSETA (R277). -/
def execHseta (a : Fin 8) (i : BitVec 64) (s : State) : Host.Outcome State Fault Refusal :=
  runHod s fun h k p => putProg s h k (nextEntry (putHReg p a i))

/-- HSETA with LD (R277): an 8-byte aligned load from region 0x0 or 0xA. -/
def execHsetaLd (a b : Fin 8) (i : BitVec 64) (s : State) : Host.Outcome State Fault Refusal :=
  runHod s fun h k p =>
    let v := hReg p b + i
    if v.toNat % 8 ≠ 0 then putProg s h k (failProg p p.pc)
    else match hodRead s p v 8 with
      | (s1, .error _) => putProg s1 h k (failProg p p.pc)
      | (s1, .ok bs) => putProg s1 h k (nextEntry (putHReg p a (BitVec.ofNat 64 (leNat bs))))

/-- HADDA (R277). -/
def execHadda (a b : Fin 8) (i : BitVec 64) (s : State) : Host.Outcome State Fault Refusal :=
  runHod s fun h k p => putProg s h k (nextEntry (putHReg p a (hReg p b + i)))

/-- A fill command (R278): a fill that waits for its claim, which lets the program go on (R274); a ring refusal is a
program error (R282). -/
def startFill (s : State) (h k : Nat) (p : Prog) (cl ring rows rb : Nat) (src stride : Word) (idx : Option Word) :
    State :=
  if 8192 < rows * rb || !ringOwned (ringOf (clusterOf s cl) ring) p.asid then putProg s h k (failProg p p.pc)
  else
    let f : Fill :=
      { uid := s.uid, byHod := true, unit := h, prog := k, cmd := p.cmd.uid, tile := 0, cluster := cl, ring := ring,
        index := none, asid := p.asid, rows := rows, rb := rb, stride := stride, src := src, idx := idx, entry := p.pc,
        claimedAt := 0, due := never, cause := none }
    putProg { s with fills := s.fills ++ [f], uid := s.uid + 1 } h k { p with fillWait := some f.uid }

/-- HFILL (R278). -/
def execHfill (a : Fin 8) (rows : BitVec 10) (ring : BitVec 6) (cl : BitVec 7) (rb : BitVec 10) (st : BitVec 64)
    (s : State) : Host.Outcome State Fault Refusal :=
  runHod s fun h k p =>
    startFill s h k p cl.toNat ring.toNat (rows.toNat + 1) (8 * (rb.toNat + 1)) (hReg p a) st none

/-- HSFILL (R278). -/
def execHsfill (a : Fin 8) (rows : BitVec 10) (ring : BitVec 6) (cl : BitVec 7) (rb : BitVec 6) (st : BitVec 64)
    (s : State) : Host.Outcome State Fault Refusal :=
  runHod s fun h k p =>
    startFill s h k p cl.toNat ring.toNat (rows.toNat + 1) (rb.toNat + 1) (hReg p a) st none

/-- HGATH (R278). -/
def execHgath (a b : Fin 8) (rows : BitVec 10) (ring : BitVec 6) (cl : BitVec 7) (rb : BitVec 10) (st : BitVec 64)
    (s : State) : Host.Outcome State Fault Refusal :=
  runHod s fun h k p =>
    startFill s h k p cl.toNat ring.toNat (rows.toNat + 1) (8 * (rb.toNat + 1)) (hReg p a) st (some (hReg p b))

/-- HWWAIT (R279). -/
def execHwwait (ring : BitVec 6) (cl : BitVec 7) (n : BitVec 12) (s : State) : Host.Outcome State Fault Refusal :=
  runHod s fun h k p =>
    let w := (cl.toNat, ring.toNat, n.toNat + 1)
    let r := ringOf (clusterOf s cl.toNat) ring.toNat
    if !ringOwned r p.asid || decide (ringW r < n.toNat + 1) then putProg s h k (failProg p p.pc)
    else if windowHolds s w then putProg s h k (nextEntry p)
    else putProg s h k { p with wwait := some w }

/-- The message of an HSIG (R280): as SIGR, with the program's ASID and partition and its name as the sender. -/
def hsigMsg (s : State) (p : Prog) (d core sem inc : Nat) : Msg :=
  { mkMsg s p.core (1024 + s.uid) d core .request false (.sigr sem inc) with
      asid := p.asid, part := p.part, thread := cmdTid s p.cmd }

/-- HSIG (R280): after the program's tiles are READY the raise is sent; the core is a logical number of the partition
(log 21). -/
def execHsig (core : BitVec 10) (dev : BitVec 16) (sem inc : BitVec 8) (s : State) : Host.Outcome State Fault Refusal :=
  runHod s fun h k p =>
    let sent (u : State) (n : Nat) : State := putProg u h k { nextEntry p with sigs := p.sigs ++ [(n, p.pc)] }
    if progFills s h k then putProg s h k { p with sigWait := true }
    else if dev.toNat = s.pkg.dev.toNat then
      match coreOfLogical s (partNum p.part) core.toNat with
      | none => putProg s h k (failProg p p.pc)
      | some c => sent (putMsg s (hsigMsg s p dev.toNat c sem.toNat inc.toNat)) s.uid
    else
      let m := hsigMsg s p dev.toNat core.toNat sem.toNat inc.toNat
      if !peerBound s (partNum p.part) dev.toNat || (routePort s (partNum p.part) p.core core.toNat dev.toNat).isNone then
        putProg s h k (failProg p p.pc)
      else match linkSend s m 0 with
        | some u => sent { u with uid := s.uid + 1 } s.uid
        | none => putProg s h k { nextEntry p with err := p.err.or (some (hodError p.cmd p.pc)) }

/-- HJMP (R276). -/
def execHjmp (o : BitVec 32) (s : State) : Host.Outcome State Fault Refusal :=
  runHod s fun h k p => putProg s h k { nextEntry p with pc := p.pc + 16#64 * BitVec.signExtend 64 o }

/-- HNOP (R276). -/
def execHnop (s : State) : Host.Outcome State Fault Refusal := runHod s fun h k p => putProg s h k (nextEntry p)

/-- HSTOP (R276). -/
def execHstop (s : State) : Host.Outcome State Fault Refusal :=
  runHod s fun h k p => putProg s h k { p with ended := true }

end Sys2Proof.Machine
end

