-- ==== Sys2Proof/Machine/Preempt.lean ====
section
/-! DEFINITION. Pre-emption, resumption and debug halt (R343, R347, R380 to R387), the quiescence watchdog (R388), patrol
scrub (R338, R346), thermal trips (R416) and the stopping of a clock (R336). -/

namespace Sys2Proof.Machine

/-! ## Requests -/

/-- The answer to a request: bytes moved and STATUS (R343). -/
def answerOp (s : State) (m : Msg) (bytes status : Nat) : State :=
  let to_ := match m.body with
    | .preempt n r _ _ => (n, r)
    | .resume n r _ _ => (n, r)
    | .debugHalt n r => (n, r)
    | _ => (256, 16)
  answer s m (.reply to_.1 to_.2 (BitVec.ofNat 64 (bytes * 2 ^ 32 + status)) false)

/-- A control request that has come to a core: it wakes IDLE, and is taken once no other operation runs there (R336,
R380). -/
def controlArrival (s : State) (uid : Nat) (f : State → Msg → State) : Option State :=
  (arrived s uid).bind fun m =>
    if (coreOf s m.dcore).op.isSome then none else some (f (wakeIdle (dropMsg s uid) m.dcore) m)

/-- Whether a request comes from the partition of the core that it names (R343, R362). -/
def samePart (s : State) (m : Msg) : Bool := m.sdev == s.pkg.dev.toNat && m.part == (partOfCore s m.dcore).getD 64

/-- Whether a core counts as HELD (R343, R380). -/
def isHeldCore (k : Core) : Bool := k.mode != .running

/-- Whether the descriptor of 64 bytes can be read and written, and where it lies (R343). -/
def descKey (s : State) (c asid : Nat) (v : Word) : Option Nat :=
  match transNow s (partOfCore s c) asid false .write v.toNat 64, transNow s (partOfCore s c) asid false .read v.toNat 64 with
  | .ok k, .ok _ => some k
  | _, _ => none

/-- Matrix lanes of a core: slots with a valid turn (R221, R382). -/
def matrixLanes (k : Core) : List Nat :=
  (List.range 256).filter fun n => (List.range 128).any fun t =>
    let e := rotEntry k t
    e.getLsbD 15 && bits e.toNat 7 0 == n

/-- SIZE of a save image (R382). -/
def imageSize (k : Core) (tiles blocks : Nat) : Nat :=
  57344 + 32768 * bitCount tiles + 4096 * bitCount blocks + if k.rot then 256 + 256 * (matrixLanes k).length else 0

/-- The pages of a save image (R381). -/
def imageSegs (s : State) (c asid : Nat) (u : AccUse) (image bytes : Nat) : Option (List (Nat × Nat)) :=
  match pageSegs s (partOfCore s c) asid false u image bytes with
  | .ok g => some g
  | .error _ => none

/-- The soft errors that a core meets where it reads a descriptor and, for a PREEMPT, the attribute record that it names (R345,
R346). -/
def descMeets (s : State) (c asid : Nat) (v : Word) (attr : Bool) : State :=
  match descKey s c asid v with
  | none => s
  | some k =>
    let s1 := (eccRead s c k 64).1
    if attr then attrMeets s1 c (memNat s1.mem (k + 16) 2) else s1

/-- The operation that a PREEMPT starts, or none where its descriptor is rejected (R381). DEDUCED, log 57. -/
def preemptOp (s : State) (m : Msg) (desc : Word) (asid : Nat) : Option CoreOp :=
  let c := m.dcore
  let k := coreOf s c
  match descKey s c asid desc with
  | none => none
  | some key =>
    let f (lo n : Nat) : Nat := memNat s.mem (key + lo) n
    let image := f 0 8
    let flags := f 18 1
    match attrOf s c (f 16 2) with
    | none => none
    | some a =>
      let tiles := if flags = 1 then 0xFFFF else a.acmSave
      let blocks := if flags = 1 then 2 ^ 64 - 1 else a.tcmSave
      let size := imageSize k tiles blocks
      if eccBad s.ecc key 64 || 1 < flags || f 19 5 ≠ 0 || f 38 26 ≠ 0 || image % 4096 ≠ 0 || f 8 8 < size ||
          (k.slots.any fun p => isUserSlot p.1 && p.2.st != .free && p.2.asid.toNat == a.asid) ||
          (imageSegs s c asid .write image size).isNone then none
      else some { req := m, launchAsid := a.asid, tiles := tiles, blocks := blocks, image := image,
                  seq := (k.savedSeq + 1) % 2 ^ 32, bytes := size, due := s.cycle + 8 }

/-- User slots of a core HELD or not (R26). -/
def holdUsers (b : Bool) (k : Core) : Core :=
  { k with slots := k.slots.map fun p => if isUserSlot p.1 then (p.1, { p.2 with isHeld := b }) else p }

/-- PREEMPT_ARRIVAL (R343, R381, R383 steps 1 and 2). -/
def execPreemptArrival (msg : Nat) (s : State) : Host.Outcome State Fault Refusal :=
  event s <| (findMsg s msg).bind fun e => match e.body with
    | .preempt _ _ desc asid => controlArrival s msg fun u m =>
      if !samePart u m then answerOp u m 0 2
      else if isHeldCore (coreOf u m.dcore) then answerOp u m 0 1
      else
        let u1 := descMeets u m.dcore asid desc true
        match preemptOp u1 m desc asid with
        | none => answerOp u1 m 0 2
        | some op => modCore u1 m.dcore fun k => holdUsers true { k with mode := .stopping, op := some op }
    | _ => none

/-! ## Saving -/

/-- An MSUM that has read its rows, whose rows leave during a hold (R303). -/
def msumLeaves (y : Cmd) : Bool :=
  match y.op with
  | .msum _ => y.retired && y.err.isNone
  | _ => false

/-- Whether a save must wait: for what has started, but for the row commands that have stopped, the parked commands of
the GCE and an MSUM whose rows are leaving (R246, R269, R302, R303). -/
def saveWaits (s : State) (c : Nat) : Bool :=
  (coreOf s c).active.any (fun y => !(y.stop || msumLeaves y)) ||
    (clusterOf s (clusterOfCore c)).active.any fun y => y.core == c

/-- SAVE_BEGIN (R380, R383 step 3): the drains have ended; commands leave their queues (R246, R269, R302). -/
def execSaveBegin (core : Nat) (s : State) : Host.Outcome State Fault Refusal :=
  let k := coreOf s core
  event s <| match k.op with
    | none => none
    | some op =>
      if k.mode ≠ .stopping || decide (s.cycle < op.due) || saveWaits s core then none
      else
        let cl := clusterOfCore core
        let rows := k.active.filter (·.stop)
        let mine := (clusterOf s cl).gceq.filter fun y => y.core == core
        let s1 := modCore s core fun k =>
          { k with mode := .saving, savedCmds := rows ++ k.mxeq ++ k.vxeq ++ k.hodq ++ k.mniq ++ mine,
                   active := k.active.filter fun y => !y.stop, mxeq := [], vxeq := [], hodq := [], mniq := [],
                   op := some { op with due := s.cycle + (op.bytes + 127) / 128 + 1 + Config.latency s.uid } }
        some { modCluster s1 cl (fun g => { g with gceq := g.gceq.filter fun y => y.core != core }) with uid := s.uid + 1 }

/-- The header of a save image (R382; log 22). -/
def imageHead (s : State) (c : Nat) (k : Core) (op : CoreOp) : List Byte :=
  let h := leBytes 4 0x56455250 ++ leBytes 4 op.seq ++ leBytes 2 (logicalOfCore s c) ++ leBytes 8 op.bytes ++
    leBytes 2 op.tiles ++ leBytes 8 op.blocks ++ leBytes 1 (if k.rot then 1 else 0) ++
    leBytes 2 (if k.rot then (matrixLanes k).length else 0)
  h ++ List.replicate (64 - h.length) 0#8

/-- An entry of the slot table (R382; log 22). -/
def slotEntry (x : Slot) : List Byte :=
  let st := match x.st with
    | .free => 0
    | .ready => 1
    | .waiting => 2
    | .visiting => 3
  leBytes 1 st ++ leBytes 1 x.age ++ leBytes 1 (if x.egt then 1 else 0) ++ leBytes 4 x.limit.toNat ++
    leBytes 4 x.waitCount ++ leBytes 2 x.asid.toNat ++ leBytes 3 0

/-- The semaphore file of a save image: values, overflow bits, error bits (R382). -/
def semFile (k : Core) : List Byte :=
  let sems := (List.range 256).map (semOf k)
  (sems.flatMap fun x => leBytes 4 x.val.toNat) ++ leBytes 32 (boolBits (sems.map (·.ovf))) ++
    leBytes 32 (boolBits (sems.map fun x => x.err.isSome))

/-- The deferred error record of a semaphore in a save image (R382; log 22). -/
def semErrBytes (n : Nat) (x : Sem) : List Byte :=
  match x.err with
  | none => List.replicate 32 0#8
  | some (e, more) =>
    recBytes { cause := e.cause, flags := 3, sem := n, more := more, epc := 0, tval := e.tval, detail := e.detail }

/-- ACM tiles and TCM blocks of a save set, in rising order. -/
def setTiles (op : CoreOp) : List Nat := (List.range 16).filter fun t => op.tiles.testBit t
def setBlocks (op : CoreOp) : List Nat := (List.range 64).filter fun b => op.blocks.testBit b

/-- A thread parted from its ENQ: the PC follows it, by the loop-back test (R169, R219). A target that cannot be fetched is the
trap of the fetch there. -/
def afterEnq (t : Thread) : Thread :=
  if t.lpc ≠ 0#32 && t.pc = t.lpe then
    if 1 < t.lpc.toNat then { t with lpc := t.lpc - 1#32, pc := t.lps } else { t with lpc := 0#32, pc := t.pc + 4#48 }
  else { t with pc := t.pc + 4#48 }

/-- A slot as it is saved: of an ENQ whose claim is made the PC follows it, and its reply is awaited (R219). -/
def savedSlot (x : Slot) : Slot :=
  match x.wait with
  | .enq _ _ _ true => { x with isHeld := false, wait := .enqAway, thread := x.thread.map afterEnq }
  | _ => { x with isHeld := false }

/-- A list of bytes cut or filled with zeros to a length. -/
def padTo (n : Nat) (bs : List Byte) : List Byte := (bs ++ List.replicate (n - bs.length) 0#8).take n

/-- The entry of a command in a save image: its bundle, fields A and B as formed, fmt, sca, scb, slot, resume row, ASID
(R246, R382; log 22). -/
def cmdEntry (y : Cmd) : List Byte :=
  (y.x.words (cmdCode y.op).1 (cmdCode y.op).2).flatMap (leBytes 4) ++ leBytes 8 y.a.toNat ++ leBytes 8 y.b.toNat ++
    leBytes 4 y.fmt.toNat ++ leBytes 4 y.sca.toNat ++ leBytes 4 y.scb.toNat ++ leBytes 1 y.slot ++ leBytes 1 y.rows ++
    leBytes 2 y.asid

/-- The entry of a grid command: its bundle and fields, its resume point, references and copied records (R269, R382;
log 22). -/
def gceEntry (y : Cmd) : List Byte :=
  padTo 512 (cmdEntry y ++ leBytes 8 y.steps ++
    padTo 16 (y.refs.flatMap fun r => leBytes 1 r.ring ++ leBytes 4 r.idx ++ leBytes 1 r.slot) ++ y.desc ++ y.ltab ++ y.tab)

/-- A queue of a save image: a fixed number of entries, those not used zero (R382). -/
def queueArea (size n : Nat) (entry : Cmd → List Byte) (l : List Cmd) : List Byte := padTo (size * n) (l.flatMap entry)

/-- Saved commands of an engine, those of the MXE in ready mode only (R382). -/
def savedOf (k : Core) (e : Nat) : List Cmd :=
  if e = 0 && k.rot then [] else k.savedCmds.filter fun y => (cmdCode y.op).1 == e

/-- The command areas of a save image: 16 MXE, 16 VXE, 8 hod-interface and 8 MNI entries, then the 8 of the GCE (R382). -/
def cmdAreas (k : Core) : List Byte :=
  queueArea 64 16 cmdEntry (savedOf k 0) ++ queueArea 64 16 cmdEntry (savedOf k 1) ++ queueArea 64 8 cmdEntry (savedOf k 3) ++
    queueArea 64 8 cmdEntry (savedOf k 4) ++ queueArea 512 8 gceEntry (savedOf k 2)

/-- The commands saved from the matrix lane of a slot. -/
def laneCmds (k : Core) (n : Nat) : List Cmd := k.savedCmds.filter fun y => (cmdCode y.op).1 == 0 && y.slot == n

/-- The lane area: the directory, then 256 bytes for each matrix lane (R382). -/
def laneArea (k : Core) : List Byte :=
  if k.rot then
    ((List.range 256).flatMap fun n => leBytes 1 (laneCmds k n).length) ++
      (matrixLanes k).flatMap fun n => queueArea 64 4 cmdEntry (laneCmds k n)
  else []

/-- The save image (R382). -/
def imageBytes (s : State) (c : Nat) (op : CoreOp) : List Byte :=
  let k := coreOf s c
  let slots := (List.range 256).map fun n => if isUserSlot n then savedSlot (slotIn k n) else slotIn k n
  imageHead s c k op ++ slots.flatMap slotEntry ++ slots.flatMap slotContext ++ semFile k ++
    ((List.range 256).flatMap fun n => semErrBytes n (semOf k n)) ++ padTo (57344 - 0xB480) (cmdAreas k) ++
    ((setTiles op).flatMap fun t => (acmTile k t).flatMap (leBytes 8)) ++
    ((setBlocks op).flatMap fun b => memBytes s.mem (tcmKey c (4096 * b)) 4096) ++ laneArea k

/-- The parts of a save image that hold codewords of other stores as they are: the contexts of user slots, tiles and blocks of the
save set; each by its key, its bytes and its offset (R382). -/
def imageParts (c : Nat) (op : CoreOp) : List (Nat × Nat × Nat) :=
  ((List.range 256).filter isUserSlot).map (fun n => (regKey c n 0, 128, 0x1040 + 128 * n)) ++
    (setTiles op).zipIdx.map (fun p => (acmKey c p.1 0 0, 32768, 57344 + 32768 * p.2)) ++
    (setBlocks op).zipIdx.map fun p => (tcmKey c (4096 * p.1), 4096, 57344 + 32768 * (setTiles op).length + 4096 * p.2)

/-- `n` bytes from byte `off` on of some ranges. -/
def cutSegs : List (Nat × Nat) → Nat → Nat → List (Nat × Nat)
  | [], _, _ => []
  | (k, m) :: r, off, n =>
    if n = 0 then []
    else if m ≤ off then cutSegs r (off - m) n
    else (k + off, min n (m - off)) :: cutSegs r 0 (n - (m - off))

/-- The codeword that a byte belongs to. -/
def codewordOf (k : Nat) : Nat := k - k % 2 ^ 60 % codewordSize k

/-- A save reads what it saves: the soft errors that this meets, and the poison that the image takes over from it (R345, R346).
`g` are the image's ranges; the codewords of contexts leave with their threads. -/
def saveMarks (s : State) (c : Nat) (op : CoreOp) (g : List (Nat × Nat)) : State :=
  let parts := imageParts c op
  let s1 := (eccReads s c (parts.map fun p => (p.1, p.2.1))).1
  let bad := parts.flatMap fun p => (eccBads s1.ecc p.1 p.2.1).map fun k => p.2.2 + (k - p.1)
  let to_ := bad.flatMap fun o => (cutSegs g o 8).map fun e => codewordOf e.1
  let kept := s1.ecc.filter fun e => !(keyStore e.1 == 5 && parts.any fun p => decide (p.1 ≤ e.1) && decide (e.1 < p.1 + p.2.1))
  { s1 with ecc := to_.foldl (fun m k => mapSet m k true) kept }

/-- The codewords of other stores that a restore poisons: those whose bytes in the image's ranges `g` have an uncorrectable error
(R345). -/
def restoreMarks (s : State) (c : Nat) (op : CoreOp) (g : List (Nat × Nat)) : List Nat :=
  (imageParts c op).flatMap fun p =>
    if !(cutSegs g p.2.2 p.2.1).any fun e => eccBad s.ecc e.1 e.2 then []
    else ((List.range (p.2.1 / 8)).filter fun j =>
      (cutSegs g (p.2.2 + 8 * j) 8).any fun e => eccBad s.ecc e.1 e.2).map fun j => p.1 + 8 * j

/-- Whether an image has an uncorrectable error outside what it holds codeword by codeword: it cannot be restored (R345).
DEDUCED, log 86. -/
def imageTorn (s : State) (g : List (Nat × Nat)) : Bool :=
  (cutSegs g 0 0x1040 ++ cutSegs g 0x9040 (57344 - 0x9040)).any fun e => eccBad s.ecc e.1 e.2

/-- Bytes of a save or a restore placed over ranges: no party's access (R119). -/
def placeSegs (s : State) : List (Nat × Nat) → List Byte → State
  | [], _ => s
  | (k, n) :: r, bs => placeSegs (placeBytes s k (bs.take n)) r (bs.drop n)

/-- The save image and SIZE, SEQ and CORE of the descriptor written (R381, R383 step 4). -/
def writeImage (s : State) (c : Nat) (op : CoreOp) : State :=
  let asid := op.req.asid
  let s1 := match imageSegs s c asid .write op.image op.bytes with
    | some g => saveMarks (placeSegs s g (imageBytes s c op)) c op g
    | none => s
  match op.req.body with
  | .preempt _ _ desc a => match descKey s1 c a desc with
    | some key => storeBytes s1 (key + 24) (leBytes 8 op.bytes ++ leBytes 4 op.seq ++ leBytes 2 (logicalOfCore s c))
    | none => s1
  | _ => s1

/-- The claims that the ENQs of a core have made and not published (R219, R369). -/
def enqJobs (s : State) (c : Nat) : List EnqJob :=
  (coreOf s c).slots.filterMap fun p => match p.2.wait with
    | .enq pd q claim true =>
      if isUserSlot p.1 then
        some { core := c, slot := p.1, asid := p.2.asid.toNat, tid := tidOf s c p.1, pd := pd, qcb := q, claim := claim }
      else none
    | _ => none

/-- Whether a kept message is for a user slot. -/
def forUserSlot (m : Msg) : Bool := (bodySlot m.body).any isUserSlot

/-- A core whose context is saved: user slots FREE, the semaphore file cleared, what is kept for visiting threads put
away (R38, R383 step 5, R387). -/
def savedCore (s : State) (c : Nat) (op : CoreOp) (k : Core) : Core :=
  { k with mode := .preempted, op := none, guestAsid := some op.launchAsid,
           savedSlots := (k.slots.filter fun p => isUserSlot p.1).map fun p => (p.1, savedSlot p.2),
           savedVisit := k.visitBox.filter forUserSlot, visitBox := k.visitBox.filter fun m => !forUserSlot m,
           savedSems := k.sems, sems := [], savedSeq := op.seq, savedHead := imageHead s c k op,
           slots := k.slots.map fun p =>
             if isUserSlot p.1 then (p.1, { emptySlot p.2 with lastIssue := p.2.lastIssue }) else p }

/-- SAVE_COMPLETE (R383 steps 4 and 5). -/
def execSaveComplete (core : Nat) (s : State) : Host.Outcome State Fault Refusal :=
  let k := coreOf s core
  event s <| match k.op with
    | none => none
    | some op =>
      if k.mode ≠ .saving || decide (s.cycle < op.due) then none
      else
        let s0 := writeImage s core op
        let s1 := modCore { s0 with enqs := s0.enqs ++ enqJobs s core } core (savedCore s core op)
        let s2 := traceAdd s1 core 0x06 0 0 0 0 (BitVec.ofNat 64 op.bytes) 0#64
        some (answerOp s2 op.req op.bytes 0)

/-! ## Resumption -/

/-- The GCE commands of a core accepted again in their order, the stopped one first, at the back of the queue (R269). -/
def reacceptGce (s : State) (c : Nat) : State :=
  modCluster s (clusterOfCore c) fun g =>
    { g with gceq := g.gceq.filter (fun y => y.core != c) ++ g.gceq.filter fun y => y.core == c }

/-- A restored slot (R219): what it waited for is tested again; a WATCH completes with a fresh read; what hardware has begun
for it goes on. DEDUCED, log 43. -/
def restoredSlot (cycle : Nat) (x : Slot) : Slot :=
  match x.wait with
  | .watch k va r _ => { x with wait := .watch k va r true }
  | .enq _ _ _ true | .enqAway | .abort _ | .cancel | .window _ | .yield _ => x
  | _ => if x.st = .waiting then readySlot cycle x else x

/-- A debug halt ended: every slot's saved state is current again, with what was written to it, and a waiting slot tests again
(R219, R347). User slots that a pre-emption holds beside it stay HELD. -/
def endHalt (s : State) (c : Nat) : State :=
  reacceptGce (modCore s c fun k =>
    let slot (p : Nat × Slot) : Nat × Slot :=
      if isUserSlot p.1 && k.haltMode = .restoring then p
      else (p.1, restoredSlot s.cycle { p.2 with isHeld := false })
    { k with mode := k.haltMode, draining := k.draining || !k.spill.isEmpty, slots := k.slots.map slot }) c

/-- RESUME_ARRIVAL (R343, R347, R386). -/
def execResumeArrival (msg : Nat) (s : State) : Host.Outcome State Fault Refusal :=
  event s <| (findMsg s msg).bind fun e => match e.body with
    | .resume _ _ desc _ => controlArrival s msg fun u m =>
      let k := coreOf u m.dcore
      if !samePart u m then answerOp u m 0 2
      else if !isHeldCore k then answerOp u m 0 1
      else if desc = 0#64 then
        if k.mode = .debugHalt then answerOp (endHalt u m.dcore) m 0 0 else answerOp u m 0 2
      else if k.mode ≠ .preempted then answerOp u m 0 2
      else modCore u m.dcore fun k =>
        { k with op := some { req := m, launchAsid := k.guestAsid.getD 0, tiles := 0, blocks := 0, image := 0,
                              seq := k.savedSeq, bytes := 0, due := u.cycle } }
    | _ => none

/-- Whether the pre-empting launch has left a core (R386). DEDUCED, log 58. -/
def guestGone (s : State) (c : Nat) : Bool :=
  let k := coreOf s c
  let guest (y : Cmd) : Bool := some y.asid == k.guestAsid
  k.slots.all (fun p => !isUserSlot p.1 || p.2.st = .free) &&
    !(k.mxeq ++ k.vxeq ++ k.hodq ++ k.mniq ++ k.active).any guest &&
    !((clusterOf s (clusterOfCore c)).gceq ++ (clusterOf s (clusterOfCore c)).active).any (fun y => y.core == c && guest y) &&
    !s.hods.any fun h => h.2.queue.any (fun q => q.cmd.core == c && guest q.cmd) ||
      h.2.progs.any fun p => p.2.core == c && guest p.2.cmd

/-- The image that a resumption's descriptor names, if SEQ, CORE and the header match (R386): image and SIZE. -/
def resumeImage (s : State) (c : Nat) (req : Msg) : Option (Nat × Nat) :=
  match req.body with
  | .resume _ _ desc asid =>
    let k := coreOf s c
    match descKey s c asid desc with
    | none => none
    | some key =>
      let f (lo n : Nat) : Nat := memNat s.mem (key + lo) n
      let image := f 0 8
      let size := fieldAt k.savedHead 10 8
      match imageSegs s c asid .read image size with
      | none => none
      | some g =>
        let head := (g.flatMap fun e => memBytes s.mem e.1 (min e.2 64)).take 64
        if eccBad s.ecc key 64 || imageTorn s g then none
        else if f 32 4 = k.savedSeq && f 36 2 = logicalOfCore s c && f 24 8 = size && head = k.savedHead then some (image, size)
        else none
  | _ => none

/-- RESTORE_BEGIN (R386). -/
def execRestoreBegin (core : Nat) (s : State) : Host.Outcome State Fault Refusal :=
  let k := coreOf s core
  event s <| match k.op with
    | none => none
    | some op =>
      if k.mode ≠ .preempted || !guestGone s core then none
      else
        let s0 := match op.req.body with
          | .resume _ _ desc asid => descMeets s core asid desc false
          | _ => s
        match resumeImage s0 core op.req with
        | none => some (answerOp (modCore s0 core fun k => { k with op := none }) op.req 0 2)
        | some (image, size) =>
          some { modCore s0 core (fun k =>
            { holdUsers true k with
                     mode := .restoring,
                     op := some { op with image := image, bytes := size, tiles := fieldAt k.savedHead 18 2,
                                          blocks := fieldAt k.savedHead 20 8,
                                          due := s.cycle + (size + 127) / 128 + 1 + Config.latency s.uid } }) with
              uid := s.uid + 1 }

/-- A semaphore restored from the image's file (R386). -/
def restoredSem (file : List Byte) (n : Nat) (old : Sem) : Sem :=
  { old with val := BitVec.ofNat 32 (fieldAt file (4 * n) 4), ovf := (fieldAt file 1024 32).testBit n }

/-- A core restored from the bytes of its image (R386). -/
def restoredCore (s : State) (op : CoreOp) (bs : List Byte) (k : Core) : Core :=
  let file := (bs.drop 0x9040).take 1088
  let slot (p : Nat × Slot) : Nat × Slot :=
    let x := restoredSlot s.cycle p.2
    (p.1, { x with thread := x.thread.map fun t => contextOf t ((bs.drop (0x1040 + 128 * p.1)).take 128) })
  let rows := k.savedCmds.filter fun y => y.started && (cmdCode y.op).1 == 0
  let queue (e : Nat) : List Cmd := k.savedCmds.filter fun y => !y.started && (cmdCode y.op).1 == e
  let k1 : Core :=
    { k with mode := .running, op := none, guestAsid := none, draining := !k.spill.isEmpty, savedVisit := [],
             visitBox := k.visitBox ++ k.savedVisit,
             slots := (k.slots.filter fun p => (mapFind k.savedSlots p.1).isNone).foldl
               (fun m p => mapSet m p.1 { p.2 with isHeld := false }) (k.savedSlots.map slot),
             sems := (List.range 256).foldl (fun m n =>
               let x := restoredSem file n (mapGet Sem.zero k.savedSems n)
               if x = Sem.zero then m else mapSet m n x) [],
             savedSlots := [], savedSems := [], savedCmds := [], mxeq := k.mxeq ++ queue 0, vxeq := k.vxeq ++ queue 1,
             hodq := k.hodq ++ queue 3, mniq := k.mniq ++ queue 4, active := k.active ++ rows }
  (setTiles op).zipIdx.foldl (fun a p =>
    putAcm a p.1 ((piecesOf 8 4096 (bs.drop (57344 + 32768 * p.2))).map leNat)) k1

/-- RESTORE_COMPLETE (R386); what is poisoned in the image is poisoned where it goes (R345). -/
def execRestoreComplete (core : Nat) (s : State) : Host.Outcome State Fault Refusal :=
  let k := coreOf s core
  event s <| match k.op with
    | none => none
    | some op =>
      if k.mode ≠ .restoring || decide (s.cycle < op.due) then none
      else
        let asid := match op.req.body with
          | .resume _ _ _ a => a
          | _ => 0
        let g := (imageSegs s core asid .read op.image op.bytes).getD []
        let bs := g.flatMap fun e => memBytes s.mem e.1 e.2
        let worn := restoreMarks s core op g
        let gce := k.savedCmds.filter fun y => (cmdCode y.op).1 == 2
        let s1 := modCore (eccReads s core g).1 core (restoredCore s op bs)
        let s2 := modCluster s1 (clusterOfCore core) fun g => { g with gceq := g.gceq ++ gce }
        let base := 57344 + 32768 * (setTiles op).length
        let s3 := (setBlocks op).zipIdx.foldl (fun a p =>
          placeBytes a (tcmKey core (4096 * p.1)) ((bs.drop (base + 4096 * p.2)).take 4096)) s2
        let fresh := (imageParts core op).foldl (fun m p => eccWrite m p.1 p.2.1) s3.ecc
        let s4 := traceAdd { s3 with ecc := worn.foldl (fun m k => mapSet m k true) fresh } core 0x07 0 0 0 0
          (BitVec.ofNat 64 op.bytes) 0#64
        some (answerOp s4 op.req op.bytes 0)

/-! ## Debug halt -/

/-- DEBUG_HALT_ARRIVAL (R347). -/
def execDebugHaltArrival (msg : Nat) (s : State) : Host.Outcome State Fault Refusal :=
  event s <| (findMsg s msg).bind fun e => match e.body with
    | .debugHalt _ _ => (arrived s msg).map fun m =>
      let u := wakeIdle (dropMsg s msg) m.dcore
      if !samePart u m then answerOp u m 0 2
      else if isHeldCore (coreOf u m.dcore) then answerOp u m 0 1
      else answerOp (haltCore u m.dcore) m 0 0
    | _ => none

/-! ## Watchdog, scrub, islands -/

/-- QUIESCENCE_WATCHDOG_FIRE (R367, R388). -/
def execQuiescenceWatchdogFire (core : Nat) (s : State) : Host.Outcome State Fault Refusal :=
  let k := coreOf s core
  event s <|
    if k.qwd = 0#64 || k.wdFired || decide (k.wdCount < k.qwd.toNat) then none
    else
      let waiters := (k.slots.filter fun p => isUserSlot p.1 && p.2.st = .waiting).length
      let fires := (satSucc (mapGet 0#64 k.traceKinds 0x08)).toNat
      let w : Word := BitVec.ofNat 64 (fires % 2 ^ 32 * 2 ^ 32 + waiters)
      let s1 := modCore s core fun k => { k with wdFired := true }
      some (wakeIdle (notice (traceAdd s1 core 0x08 0 0 0 0 w 0#64) core 3 w 14) core)

/-- The key of a granule of a core that patrol scrub reads: the 32,768 of its TCM, then the 65,536 of its ACM (R338). -/
def scrubKey (core granule : Nat) : Nat :=
  if granule < 32768 then tcmKey core (8 * granule) else acmKey core 0 0 0 + 8 * (granule - 32768)

/-- PATROL_SCRUB (R338, R345, R346): a granule of the core's TCM or ACM is checked as a read checks it. DEDUCED, log 61. -/
def execPatrolScrub (core granule : Nat) (s : State) : Host.Outcome State Fault Refusal :=
  event s <|
    if (coreOf s core).scrub = 0#32 || 98304 ≤ granule then none
    else some (eccRead s core (scrubKey core granule) 8).1

/-- THERMAL_TRIP (R336, R416): a trip on a fixed island raises an alert to slot 0 of its core, or of the cluster's
first. DESIGN CHOICE, log 60. -/
def execThermalTrip (island : Nat) (s : State) : Host.Outcome State Fault Refusal :=
  event s <|
    if islandFixed s island then
      let c := if island < 1024 then island else (island - 1024) * 8
      some (wakeIdle (modPkg s fun p => { p with alerts := p.alerts ++ [c] }) c)
    else none

/-- ISLAND_CLOCK_STOP (R336): allowed while no slot of the core is READY; never in rotation mode. -/
def execIslandClockStop (core : Nat) (s : State) : Host.Outcome State Fault Refusal :=
  let k := coreOf s core
  event s <|
    if k.rot || k.clockStopped || !k.slots.all (fun p => p.2.st = .free || p.2.st = .waiting) then none
    else some (modCore s core fun k => { k with clockStopped := true })

end Sys2Proof.Machine
end

