-- ==== Sys2Proof/Machine/Kill.lean ====
section
/-! DEFINITION. Kill fences (R305, R342, R366). -/

namespace Sys2Proof.Machine

/-! ## Messages of a killed ASID -/

/-- Messages of the hardware itself: credits (R44), notices (R367), the messages of an eviction (R304). -/
def isHardwareMsg (m : Msg) : Bool :=
  match m.body with
  | .credit | .evictNotice _ _ _ | .evictAck _ _ _ | .chevictDone _ => true
  | .send _ _ _ _ => m.sslot == 256
  | _ => false

/-- Whether a message is one of a killed ASID (R366 step 4): sent under it, an answer to such a message, or a packet or
thread of its launches. -/
def killsMsg (s : State) (q : Kill) (m : Msg) : Bool :=
  !isHardwareMsg m &&
    ((m.part == q.part && m.asid == q.asid && (m.sdev == s.pkg.dev.toNat || isAnswer m.body)) ||
      (bodyQueues m.body && m.ddev == s.pkg.dev.toNat && (partOfCore s m.dcore).getD 64 == q.part &&
        arrivalAsid s m == q.asid))

/-- Accesses that raise the count of outstanding requests (R185). -/
def countsOutstanding (a : Access) : Bool :=
  match a.kind with
  | .ldn | .stn | .amo => true
  | _ => false

/-- What a discarded message leaves behind: the counts of its sender (R185) and the credit of its item (R44). -/
def discardMsg (s : State) (m : Msg) : State :=
  let here := m.sdev == s.pkg.dev.toNat
  let away := m.ddev != s.pkg.dev.toNat
  let s1 := if here && away && countsRemote m.body then
      wakeRes (settleAsk s m.score m.uid) m.score .egress
    else if here && m.egress then wakeRes s m.score .egress else s
  match m.body with
  | .packet p => returnCredit s1 (if away then m.score else m.dcore) p.credit
  | .access a => if here then lowerOutstanding s1 m.score (countsOutstanding a) else s1
  | .reply _ _ _ dec => noteAnswer (lowerOutstanding s1 m.dcore dec) m.dcore m
  | .farFault _ _ dec _ _ => noteAnswer (lowerOutstanding s1 m.dcore dec) m.dcore m
  | .stnAck _ => noteAnswer (lowerOutstanding s1 m.dcore true) m.dcore m
  | .ldData _ _ _ _ _ => noteAnswer s1 m.dcore m
  | b => match carriedThread b with
    | some t => returnCredit s1 (if away then m.score else m.dcore) t.item
    | none => s1

/-- Every message in flight, in an inbox or in a spill queue that a kill discards (R366 step 4). -/
def killedMsgs (s : State) (q : Kill) : List Msg :=
  (s.net ++ s.cores.flatMap fun k => k.2.inbox ++ k.2.visitBox ++ k.2.savedVisit ++ k.2.spill).filter (killsMsg s q)

/-- The messages of a killed ASID discarded. -/
def purgeMsgs (s : State) (q : Kill) : State :=
  let gone := killedMsgs s q
  let keep (m : Msg) : Bool := !gone.any fun g => g.uid == m.uid && g.sdev == m.sdev
  let s1 := { s with
    net := s.net.filter keep,
    cores := s.cores.map fun k =>
      (k.1, { k.2 with inbox := k.2.inbox.filter keep, visitBox := k.2.visitBox.filter keep,
                       savedVisit := k.2.savedVisit.filter keep, spill := k.2.spill.filter keep }) }
  gone.foldl discardMsg s1

/-! ## Contexts and commands of a killed ASID -/

/-- Cores of the partition of a kill. -/
def killCores (s : State) (q : Kill) : List Nat :=
  (s.cores.map (·.1)).filter fun c => (partOfCore s c).getD 64 == q.part

/-- Slots of a core that hold a context of an ASID, at home or on a visit (R366 step 2). -/
def killedSlots (k : Core) (asid : Nat) : List (Nat × Slot) :=
  k.slots.filter fun p => p.2.asid.toNat == asid && (p.2.thread.isSome || p.2.st == .visiting)

/-- The killed contexts of a core removed (R366 step 2). -/
def killThreads (s : State) (c asid : Nat) : State :=
  let k := coreOf s c
  let gone := killedSlots k asid
  let saved := k.savedSlots.filter fun p => p.2.asid.toNat == asid
  let s1 := modCore s c fun k =>
    { k with slots := gone.foldl (fun m p => mapSet m p.1 (emptySlot p.2)) k.slots,
             savedSlots := k.savedSlots.filter fun p => p.2.asid.toNat != asid,
             forkQ := k.forkQ.filter fun e => e.asid != asid }
  let s2 := { s1 with enqs := s1.enqs.filter fun j => !(j.core == c && j.asid == asid) }
  (gone ++ saved).foldl (fun a p => match p.2.thread with
    | some t => returnCredit a c t.item
    | none => a) s2

/-- Thread contexts that a kill removes (R342): in slots, in save images, on their way. -/
def killCount (s : State) (q : Kill) : Nat :=
  ((killCores s q).flatMap fun c =>
    ((killedSlots (coreOf s c) q.asid) ++ (coreOf s c).savedSlots.filter fun p => p.2.asid.toNat == q.asid).filter
      fun p => p.2.thread.isSome).length +
    ((killedMsgs s q).filter fun m => (carriedThread m.body).isSome).length

/-- Started commands that a kill ends: those that stop after a row (R246), MSUM and the commands of the MNI. -/
def killEnds (x : Cmd) : Bool :=
  stopsAtRow x.op || (cmdCode x.op).1 == 4 || (match x.op with
    | .msum _ => true
    | _ => false)

/-- What a discarded command gives back: references, rows and quarters; no signal is applied (R366 step 3). -/
def dropCmd (s : State) (x : Cmd) : State :=
  let s1 := if x.retired then s else releaseRefs s x
  let s2 := match mapFind (coreOf s1 x.core).sends x.uid with
    | some d => dropSend s1 x.core x.uid d
    | none => s1
  match x.op with
  | .chjoin b => if x.started && x.due = never && b.flag 0 then setQuarters s2 x.core [fld b.w5 1 0] false else s2
  | _ => s2

/-- A started command that a kill ends: a row command stops after the row in progress, its finished rows written (R246,
R366 step 3). -/
def endCmd (s : State) (x : Cmd) : State :=
  if x.started && stopsAtRow x.op && !x.retired && !x.stop then
    let s1 := (rowsTo s x (rowsDone s (coreOf s x.core).rot x)).1
    dropCmd (modCore s1 x.core fun k => { k with mxeFree := s.cycle + 1 }) x
  else dropCmd s x

/-- The commands of a killed ASID on a core discarded (R366 step 3). -/
def killCmds (s : State) (c asid : Nat) : State :=
  let mine (x : Cmd) : Bool := x.asid == asid
  let k := coreOf s c
  let queued := (k.mxeq ++ k.vxeq ++ k.hodq ++ k.mniq).filter mine
  let saved := k.savedCmds.filter mine
  let ended := k.active.filter fun x => mine x && killEnds x
  let s1 := modCore s c fun k =>
    { k with mxeq := k.mxeq.filter (!mine ·), vxeq := k.vxeq.filter (!mine ·), hodq := k.hodq.filter (!mine ·),
             mniq := k.mniq.filter (!mine ·), savedCmds := k.savedCmds.filter (!mine ·),
             active := k.active.filter fun x => !(mine x && killEnds x) }
  let s2 := queued.foldl (fun a x => wakeQueue (dropCmd a x) x) s1
  (saved ++ ended).foldl endCmd s2

/-- The grid commands of a killed ASID: those that have not started go, the others stop (R270, R366 step 3). -/
def killGrid (s : State) (cl asid : Nat) : State :=
  let mine (x : Cmd) : Bool := x.asid == asid
  let gone := (clusterOf s cl).gceq.filter fun x => mine x && !x.started
  let s1 := modCluster s cl (stopQueue mine)
  let s2 := { s1 with fills := s1.fills.filter fun f => f.index.isSome || !gone.any fun x => x.uid == f.cmd }
  gone.foldl (fun a x => wakeQueue (dropCmd a x) x) s2

/-- The bindings and chains of a killed ASID on a core (R305). -/
def killMortar (s : State) (c asid : Nat) : State :=
  let k := coreOf s c
  let gone := k.binds.filter fun b => b.2.asid == asid
  let s1 := setQuarters (modCore s c fun k => { k with binds := k.binds.filter fun b => b.2.asid != asid }) c
    (gone.flatMap fun b => b.2.stg.toList) false
  (k.chains.filter fun h => h.2.st != 0 && h.2.asid == asid).foldl (fun a h => evictChain a c h.1 none) s1

/-- The hod programs of a killed ASID: waiting requests go without a signal, programs stop (R283, R366 step 3). -/
def killHods (s : State) (asid : Nat) : State :=
  let s1 := { s with hods := s.hods.map fun h => (h.1, { h.2 with queue := h.2.queue.filter fun r => r.cmd.asid != asid }) }
  stopHods s1 fun x => x.asid == asid

/-- Steps 2 to 4 of a kill fence begun, whose messages wake IDLE (R336, R366). DEDUCED, log 31. -/
def killBegin (s : State) (q : Kill) : State :=
  let n := killCount s q
  let cores := killCores s q
  let s1 := cores.foldl wakeIdle (purgeMsgs s q)
  let s2 := cores.foldl (fun a c => killMortar (killCmds (killThreads a c q.asid) c q.asid) c q.asid) s1
  let s3 := (s.clusters.map (·.1)).foldl (fun a cl =>
    if (partOfCore s (cl * 8)).getD 64 == q.part then killGrid a cl q.asid else a) s2
  let s4 := killHods s3 q.asid
  { s4 with kills := s4.kills.map fun k => if k.uid = q.uid then { k with begun := true, count := n } else k,
            walks := s4.walks.filter fun w => !(w.asid == q.asid && cores.contains w.core) }

/-! ## The end of a kill fence -/

/-- Packets of an ASID that another device has not acknowledged. -/
def unackedOf (s : State) (q : Kill) : Bool :=
  s.pkg.conns.any fun x =>
    x.2.waiting.any (fun k => k.srcAsid == q.asid && k.srcPart == q.part) ||
      x.2.classes.toList.any fun h => h.unacked.any fun k => k.1.srcAsid == q.asid && k.1.srcPart == q.part && k.1.cls != 1

/-- Whether commands, fills, evictions and writes of a killed ASID are still under way (R366 steps 3 and 4). -/
def killWaits (s : State) (q : Kill) : Bool :=
  let cores := killCores s q
  let mine (x : Cmd) : Bool := x.asid == q.asid
  cores.any (fun c =>
      let k := coreOf s c
      k.active.any mine || k.evictions.any (fun e => e.asid == q.asid && e.issuer.isNone) ||
        k.remote.any fun e => e.asid == q.asid) ||
    s.clusters.any (fun k => k.2.active.any mine) ||
    s.fills.any (fun f => f.asid == q.asid) ||
    s.hods.any (fun h => h.2.progs.any fun p => mine p.2.cmd) || unackedOf s q

/-- The rings of an ASID in a cluster invalid (R93, R366 step 3). -/
def killRings (asid : Nat) (k : Cluster) : Cluster :=
  (k.rings.filter fun r => ringOwned r.2 asid).foldl (fun a r =>
    putRing (leaveRing a r.2) r.1 { r.2 with cfg := putBit r.2.cfg 63 false }) k

/-- An ASID no longer live (R359). -/
def clearLive (s : State) (asid : Nat) : State :=
  let e := asidEntry s asid
  if e.testBit 63 then storeBytes s (asidKey s asid) (leBytes 8 (e - 2 ^ 63)) else s

/-- Steps 5 and 6 of a kill fence (R366): rd of a KILL is filled with the count (R342). -/
def killEnd (s : State) (q : Kill) : State :=
  let s1 := { s with
    kills := s.kills.filter fun k => k.uid != q.uid,
    clusters := s.clusters.map fun k =>
      if (partOfCore s (k.1 * 8)).getD 64 == q.part then (k.1, killRings q.asid k.2) else k }
  let s2 := discardTlb s1 (if q.part < 64 then some q.part else none) 1 q.asid 0
  let s3 := if s2.kills.any fun k => k.asid == q.asid then s2 else setKilling s2 q.asid false
  let s4 := if q.unlive then clearLive s3 q.asid else s3
  match q.issuer with
  | some (c, n, r) => settle (fillReg s4 c n r (BitVec.ofNat 64 q.count)) c
  | none => s4

/-- KILL_FENCE (R305, R342, R366): its contexts and messages go; it ends once nothing of the ASID is under way. -/
def execKillFence (kill : Nat) (s : State) : Host.Outcome State Fault Refusal :=
  event s <| match s.kills.find? fun q => q.uid == kill with
    | none => none
    | some q =>
      if s.cycle < q.due then none
      else if !q.begun then some (killBegin s q)
      else if !(killedMsgs s q).isEmpty then some (purgeMsgs s q)
      else if killWaits s q then none
      else some (killEnd s q)

end Sys2Proof.Machine
end

