-- ==== Sys2Proof/Machine/Partition.lean ====
section
/-! DEFINITION. Partition commands (R357 to R365, R367): BIND, HALT, CONT, SWAPOUT, SWAPIN, RESET, UNBIND. -/

namespace Sys2Proof.Machine

/-! ## The partition record -/

/-- The key of the partition record that partrec names (R358; log 16). -/
def recordKey (s : State) : Option Nat :=
  let v := s.pkg.partrec.toNat
  if bits v 63 60 ≠ 0xA || bits v 59 44 ≠ s.pkg.dev.toNat || bits v 33 32 ≠ 2 || Config.sramBytes < bits v 31 0 + 256 || v % 256 ≠ 0
  then none else some (sramKey (dieOfCore s (bits v 43 34)) (bits v 31 0))

/-- The partition that a record describes (R357), UNBOUND so far. -/
def recordPart (bs : List Byte) : Part :=
  let f (lo n : Nat) : Nat := fieldAt bs lo n
  { Part.unbound with
    clus := f 0 16, sentry := BitVec.ofNat 64 (f 16 8), hbmw := f 24 1, srw := f 25 1, fabw := f 26 1,
    fport := f 32 3, tdFirst := f 36 2, tdCount := f 38 2,
    hbmwin := (List.range 4).map fun i => (f (48 + 16 * i) 8, f (56 + 16 * i) 8),
    srwin := (List.range 4).map fun d => (f (112 + 8 * d) 4, f (116 + 8 * d) 4),
    ctab := BitVec.ofNat 64 (f 144 8) }

/-- Whether every reserved field of a record is zero (R357). -/
def recordClean (bs : List Byte) : Bool :=
  fieldAt bs 27 5 == 0 && fieldAt bs 35 1 == 0 && fieldAt bs 40 8 == 0 && fieldAt bs 152 104 == 0

/-- Whether the windows have the form of R357: 64 KiB units below 2^49 for HBM, up to 128 MiB for shared SRAM. -/
def windowsOk (p : Part) : Bool :=
  p.hbmwin.all (fun w => w.1 % 65536 == 0 && w.2 % 65536 == 0 && decide (w.1 < 2 ^ 49) && decide (w.2 < 2 ^ 49) &&
    decide (w.1 ≤ w.2)) &&
    p.srwin.all fun w => w.1 % 65536 == 0 && w.2 % 65536 == 0 && decide (w.2 ≤ Config.sramBytes) && decide (w.1 ≤ w.2)

/-- Whether two windows have an address in common. -/
def windowsMeet (a b : Nat × Nat) : Bool := decide (max a.1 b.1 < min a.2 b.2)

/-- The counter table of a partition: die and window (R357). -/
def ctabWindow (s : State) (p : Part) : Nat × (Nat × Nat) :=
  let v := p.ctab.toNat
  (dieOfCore s (bits v 43 34), (bits v 31 0, bits v 31 0 + 524288))

/-- Whether CTAB is an aligned space 0b10 address of the own device (R360). -/
def ctabOk (s : State) (p : Part) : Bool :=
  let v := p.ctab.toNat
  bits v 63 60 == 0xA && bits v 59 44 == s.pkg.dev.toNat && bits v 33 32 == 2 && v % 524288 == 0 &&
    decide (bits v 31 0 + 524288 ≤ Config.sramBytes)

/-- Whether two partitions have a window in common (R360). -/
def shareWindow (a b : Part) : Bool :=
  a.hbmwin.any (fun x => b.hbmwin.any (windowsMeet x)) ||
    (a.srwin.zip b.srwin).any fun e => windowsMeet e.1 e.2

/-- Whether a counter table meets a window or the counter table of another partition (R360). -/
def ctabMeets (s : State) (a b : Part) : Bool :=
  let x := ctabWindow s a
  let y := ctabWindow s b
  (b.srwin[x.1]?).any (windowsMeet x.2) || (x.1 == y.1 && windowsMeet x.2 y.2)

/-- Whether two partitions have a time-division slot in common (R360). -/
def shareSlot (a b : Part) : Bool :=
  windowsMeet (a.tdFirst, a.tdFirst + a.tdCount) (b.tdFirst, b.tdFirst + b.tdCount)

/-- Clusters that the package does not have or that a RUNNING or HALTED partition other than `p` holds (R360). -/
def clusterTaken (s : State) (p cl : Nat) : Bool :=
  decide (availClusters s ≤ cl) ||
    s.parts.any fun q => q.1 != p && holdsClusters q.2 && q.2.clus.testBit cl

/-- Whether BIND accepts a record for partition `p` (R360, R401). DEDUCED, log 29 and log 75. -/
def recordOk (s : State) (p : Nat) (bs : List Byte) : Bool :=
  let x := recordPart bs
  let others := (s.parts.filter fun q => q.1 != p && q.2.st != 0).map (·.2)
  recordClean bs && (x.tdCount == 0 || (x.tdFirst % 256 == 0 && x.tdCount % 256 == 0 && decide (x.tdFirst + x.tdCount ≤ 4096))) &&
    x.hbmw != 0 && x.srw != 0 && x.fabw != 0 && x.clus != 0 &&
    (List.range 128).all (fun cl => !(x.clus.testBit cl && clusterTaken s p cl)) && windowsOk x && ctabOk s x &&
    others.all fun o => !(shareWindow x o || shareSlot x o || ctabMeets s x o || ctabMeets s o x)

/-! ## Clearing and spawning -/

/-- Bytes of a store set to zero, with valid check bits (R363, R410). -/
def zeroBytes (s : State) (k n : Nat) : State :=
  { s with mem := memClear s.mem k n, ecc := eccWrite s.ecc k n,
           injected := s.injected.filter fun g => !(decide (k ≤ g.1) && decide (g.1 + 8 ≤ k + n)) }

/-- A chain slot cleared: a move to FREE adds 1 to GEN (R284). -/
def clearedChain (h : Chain) : Chain := { Chain.free with gen := if h.st = 0 then h.gen else h.gen + 1#8 }

/-- A core cleared by BIND or RESET (R363): its other CSRs keep their values. DEDUCED, log 28. -/
def clearedCore (k : Core) : Core :=
  { k with mode := .running, slots := k.slots.map (fun p => (p.1, emptySlot p.2)), remote := [], sems := [], rot := false, lanes := [],
           inject := none, mxeq := [], vxeq := [], hodq := [], mniq := [], active := [], mxeFree := 0, vxeFree := 0,
           mniFree := 0, acm := [], chains := k.chains.map (fun h => (h.1, clearedChain h.2)),
           binds := [], sends := [], evictions := [], quarters := [], clockStopped := false, op := none,
           visitBox := [], savedSlots := [], savedSems := [], savedVisit := [], savedCmds := [], guestAsid := none,
           outstanding := 0, forkQ := [],
           wdCount := 0, wdFired := false, tlb := [] }

/-- A core of a partition that is cleared, with its TCM (R363); RESET and UNBIND empty its spill queue (R365). -/
def clearCore (s : State) (c : Nat) (spill : Bool) : State :=
  zeroBytes (modCore s c fun k =>
    { clearedCore k with spill := (if spill then [] else k.spill), draining := !spill && !k.spill.isEmpty }) (tcmKey c 0)
    Config.tcmBytes

/-- What State keeps by key for a cluster's stores and by core for its threads: soft-error marks, old bytes of code, page
walks, parted ENQs. -/
def dropMarks (s : State) (cl : Nat) : State :=
  let here (k : Nat) : Bool := keyCluster k == some cl
  { s with ecc := s.ecc.filter (fun e => !here e.1), injected := s.injected.filter (fun e => !here e.1),
           stale := s.stale.filter (fun e => !here e.1), walks := s.walks.filter (fun w => clusterOfCore w.core != cl),
           enqs := s.enqs.filter fun j => clusterOfCore j.core != cl }

/-- A cluster that is cleared, with its scratchpad and cores (R363). -/
def clearCluster (s : State) (cl : Nat) (spill : Bool) : State :=
  let s1 := zeroBytes (modCluster (dropMarks s cl) cl fun _ => Cluster.fresh) (spadKey cl 0) Config.spadBytes
  (List.range 8).foldl (fun a i => clearCore a (cl * 8 + i) spill) s1

/-- The clearing of R363 for a partition. -/
def clearPart (s : State) (p : Nat) (spill : Bool) : State :=
  let cls := clustersOf (partOf s p).clus
  let s1 := { s with fills := s.fills.filter fun f => !cls.contains f.cluster }
  modPart (cls.foldl (fun a cl => clearCluster a cl spill) s1) p fun q => { q with eie := false }

/-- The thread of a slot of the micro-kernel or of the platform at its spawn: a0 and a1, every register FULL (R367, R410). -/
def lowThread (s : State) (c : Nat) (pc : Nat) (a0 a1 : Nat) : Thread :=
  let full (v : Nat) : Reg := { val := BitVec.ofNat 64 v, full := true, rsv := false }
  { freshThread (logicalOfCore s c) with
    regs := vec10 fun i => full (if i = 0 then a0 else if i = 1 then a1 else 0),
    pc := BitVec.ofNat 48 pc, tid := threadName s s.uid }

/-- A thread spawned in one of slots 0 to 3 (R367, R410): the check of its first address is that of a transfer (R126). -/
def spawnLow (s : State) (c n pc a0 a1 : Nat) : State :=
  let s1 := setSlot { s with uid := s.uid + 1 } c n
    { emptySlot (slotOf s c n) with st := .ready, thread := some (lowThread s c pc a0 a1), readyAt := s.cycle }
  match checkTarget s1 c n (BitVec.ofNat 48 pc) pc with
  | .ok _ => s1
  | .error r => takeTrap s1 c n r none

/-- The supervisors of a partition spawned in slots 1 to 3 of its cores (R367). -/
def spawnSupervisors (s : State) (p : Nat) : State :=
  (coresOfPart s p).foldl (fun a c =>
    [1, 2, 3].foldl (fun b n => spawnLow b c n (partOf s p).sentry.toNat 0 n) a) s

/-! ## Halt -/

/-- Whether HALT can hold a core now: no pre-emption or resumption moves bytes there (R362, R380). -/
def holdable (k : Core) : Bool :=
  match k.mode with
  | .running | .preempted | .debugHalt => true
  | _ => false

/-- A core held by HALT (R362). -/
def heldCore (k : Core) : Core :=
  { k with mode := .partHalt, backMode := k.mode, slots := k.slots.map fun p => (p.1, { p.2 with isHeld := true }) }

/-- The cores of a partition that can be held now held; the command wakes IDLE (R336). -/
def holdCores (s : State) (p : Nat) : State :=
  (coresOfPart s p).foldl (fun a c => if holdable (coreOf a c) then modCore (wakeIdle a c) c heldCore else a) s

/-- Messages that HALT waits for: beats, replies, signals, writes and accesses of the partition (R362). -/
def haltWaitsFor (s : State) (p : Nat) (m : Msg) : Bool :=
  m.part == p && m.ddev == s.pkg.dev.toNat &&
    (m.net == .reply || m.net == .mortar || (match m.body with
      | .access _ | .signal _ _ _ _ | .sigr _ _ => true
      | _ => false))

/-- Whether a partition's signals, writes and answers to other devices are on their way, or answers that these owe it (R362). -/
def linkOwes (s : State) (p : Nat) : Bool :=
  let counts (k : LinkPkt) : Bool := k.srcPart == p && (k.cls == 1 || (match k.body with
    | .access _ | .signal _ _ _ _ | .sigr _ _ => true
    | _ => false))
  s.pkg.conns.any (fun c => c.2.waiting.any counts || (c.2.classes.toList.any fun q => q.unacked.any fun k => counts k.1) ||
    c.2.asked.any fun k => k.srcPart == p) ||
    (coresOfPart s p).any fun c => !(coreOf s c).remote.isEmpty

/-- Whether the HALT of a partition is complete (R362). -/
def halted (s : State) (p : Nat) : Bool :=
  (coresOfPart s p).all (fun c => (coreOf s c).mode == .partHalt && !saveWaits s c) &&
    !s.net.any (haltWaitsFor s p) && !linkOwes s p &&
    !s.fills.any fun f => f.index.isSome && (match mapFind (hodOf s f.unit).progs f.prog with
      | some q => f.byHod && q.part == p
      | none => false)

/-- A core that CONT resumes (R359): a debug halt and a pre-emption that HALT found go on; what was diverted is delivered in
its order (R364). -/
def continuedCore (k : Core) : Core :=
  if k.mode = .partHalt then
    { k with draining := k.draining || (k.backMode == .running && !k.spill.isEmpty),
             mode := k.backMode, slots := k.slots.map fun p => (p.1, { p.2 with isHeld := k.backMode == .debugHalt }) }
  else k

/-- The cores of a partition resumed (R359). -/
def continueCores (s : State) (p : Nat) : State :=
  (coresOfPart s p).foldl (fun a c => reacceptGce (modCore a c continuedCore) c) s

/-! ## Swap -/

/-- The cells of a cluster's scratchpad and of its cores' TCMs. -/
def clusterCells (s : State) (cl : Nat) : List Host.Cell :=
  s.mem.filter fun e => keyStore e.1 == 2 && (keySpad e.1).1 == cl ||
    keyStore e.1 == 1 && e.1 % 2 ^ 60 / 2 ^ 20 / 8 == cl

/-- A core whose state has left for the shadow storage: slots FREE (R359, R364). -/
def vacantCore : Core := { Core.fresh with mode := .running }

/-- A cluster moved to its shadow image (R364); messages still on their way to it join the spill queues. -/
def swapOutCluster (s : State) (p cl : Nat) : State :=
  let cores := (List.range 8).map (cl * 8 + ·)
  let late (c : Nat) : List Msg := s.net.filter fun m => m.ddev == s.pkg.dev.toNat && m.dcore == c && !m.egress && m.part == p
  let image : Shadow :=
    { part := p, cluster := clusterOf s cl, cells := clusterCells s cl,
      ecc := s.ecc.filter (fun e => keyCluster e.1 == some cl),
      injected := s.injected.filter (fun e => keyCluster e.1 == some cl),
      stale := s.stale.filter (fun e => keyCluster e.1 == some cl), walks := s.walks.filter (fun w => clusterOfCore w.core == cl),
      enqs := s.enqs.filter (fun j => clusterOfCore j.core == cl),
      cores := cores.map fun c => let k := coreOf s c; { k with spill := k.spill ++ late c } }
  let s1 := { s with shadows := mapSet s.shadows cl image,
                     net := s.net.filter fun m => !cores.any fun c => (late c).any fun e => e.uid == m.uid && e.sdev == m.sdev }
  let s2 := zeroBytes (modCluster (dropMarks s1 cl) cl fun _ => Cluster.fresh) (spadKey cl 0) Config.spadBytes
  cores.foldl (fun a c => zeroBytes (setCore a c vacantCore) (tcmKey c 0) Config.tcmBytes) s2

/-- A cluster restored from its shadow image (R364). -/
def swapInCluster (s : State) (cl : Nat) : State :=
  match mapFind s.shadows cl with
  | none => s
  | some x =>
    let s1 := (List.range 8).foldl (fun a i => zeroBytes a (tcmKey (cl * 8 + i) 0) Config.tcmBytes)
      (zeroBytes { s with shadows := mapErase s.shadows cl } (spadKey cl 0) Config.spadBytes)
    let s2 := { modCluster s1 cl (fun _ => x.cluster) with
      mem := x.cells.foldl (fun m e => memWrite m e.1 [e.2]) s1.mem,
      ecc := x.ecc.foldl (fun m e => mapSet m e.1 e.2) s1.ecc,
      injected := x.injected.foldl (fun m e => mapSet m e.1 e.2) s1.injected,
      stale := x.stale.foldl (fun m e => mapSet m e.1 e.2) s1.stale, walks := s1.walks ++ x.walks, enqs := s1.enqs ++ x.enqs }
    x.cores.zipIdx.foldl (fun a k => setCore a (cl * 8 + k.2) k.1) s2

/-! ## Reset -/

/-- ASIDs of a partition that are live (R350). -/
def liveAsids (s : State) (p : Nat) : List Nat :=
  let base := asidKey s 0
  ((s.mem.filterMap fun e => if base ≤ e.1 ∧ e.1 < base + 131072 then some ((e.1 - base) / 8) else none).dedup).filter
    (asidLive s (some p))

/-- A kill fence begun for every live ASID of a partition (R365). -/
def killPart (s : State) (p : Nat) (unlive : Bool) : State :=
  (liveAsids s p).foldl (fun a i => beginKill a i p none unlive) s

/-- The counters of a partition's launches ended CANCELLED (R365). -/
def settleCounters (s : State) (p : Nat) : State :=
  (counterIds s p).foldl (fun a i =>
    let w := counterRead a (some p) i
    if cntLevel w = 0 || cntState w = cntDone || cntState w = cntCancelled then a
    else counterEnd a (some p) i (cntWord (cntErr w) (cntLevel w) cntCancelling (cntParent w) 0)) s

/-! ## Start and end of a command -/

/-- The STATUS with which a command ends that cannot run from the state of its partition, or for whose units there is no
place (R358 to R360, R364). -/
def refusalStatus (s : State) (p op : Nat) : Nat :=
  let x := partOf s p
  let from_ : List Nat := match op with
    | 1 => [0]
    | 2 => [1]
    | 3 => [2]
    | 4 => [2]
    | 5 => [3]
    | 6 => [1, 2]
    | _ => [2]
  if !from_.contains x.st then 1
  else match op with
    | 1 => match recordKey s with
      | none => 2
      | some k => if eccBad s.ecc k 256 || !recordOk s p (memBytes s.mem k 256) then 2 else 0
    | 4 => if (clustersOf x.clus).any fun cl => (mapFind s.shadows cl).isSome then 3 else 0
    | 5 => if (clustersOf x.clus).any (clusterTaken s p) then 4 else 0
    | _ => 0

/-- How long a command takes at least: a swap at most 80,000 cycles (R364; log 7). -/
def partDelay (s : State) (op : Nat) : Nat :=
  if op = 4 || op = 5 then Config.latency s.uid % 79999 + 1 else Config.latency s.uid + 1

/-- What the start of a command does beside the checks: BIND takes its record, HALT and RESET hold the cores. -/
def partBegin (s : State) (p op : Nat) : State :=
  match op with
  | 1 => match recordKey s with
    | none => s
    | some k => modPart s p fun q =>
      { recordPart (memBytes s.mem k 256) with cmd := q.cmd, partrec := s.pkg.partrec, lastRec := s.pkg.partrec }
  | 2 => holdCores s p
  | 6 => holdCores s p
  | _ => s

/-- The soft errors that BIND's read of its record meets: corrected ones written back, uncorrectable ones logged (R345,
R346). -/
def recordMeets (s : State) : State :=
  match recordKey s with
  | none => s
  | some k => devMeets s k 256

/-- A partition command started (R358). -/
def startPart (s : State) (p op : Nat) : State :=
  let st := refusalStatus s p op
  let s0 := if op = 1 && st != 1 then recordMeets s else s
  let s1 := if st = 0 then partBegin s0 p op else s0
  { modPart s1 p (fun q => { q with cmd := some { op := op, phase := 1, due := s.cycle + partDelay s op, status := st } }) with
    uid := s.uid + 1 }

/-- Whether a partition command runs or waits to start: BUSY (R358). -/
def partBusy (s : State) : Bool := s.parts.any fun q => q.2.cmd.isSome

/-- The row of a partition command: the one that a write to partcmd has asked for starts, or, while none runs, the
platform's write and the start are one. -/
def partCommand (s : State) (p op : Nat) : Host.Outcome State Fault Refusal :=
  event s <| match (partOf s p).cmd with
    | some c => if c.op = op && c.phase = 0 && decide (c.due ≤ s.cycle) then some (startPart s p op) else none
    | none =>
      if partBusy s then none
      else some (startPart (modPkg s fun k => { k with partSel := BitVec.ofNat 6 p, partOp := BitVec.ofNat 3 op }) p op)

/-- BIND (R359, R360). -/
def execBind (part : BitVec 6) (s : State) : Host.Outcome State Fault Refusal := partCommand s part.toNat 1

/-- HALT (R359, R362). -/
def execHalt (part : BitVec 6) (s : State) : Host.Outcome State Fault Refusal := partCommand s part.toNat 2

/-- CONT (R359). -/
def execCont (part : BitVec 6) (s : State) : Host.Outcome State Fault Refusal := partCommand s part.toNat 3

/-- SWAPOUT (R359, R364). -/
def execSwapout (part : BitVec 6) (s : State) : Host.Outcome State Fault Refusal := partCommand s part.toNat 4

/-- SWAPIN (R359, R364). -/
def execSwapin (part : BitVec 6) (s : State) : Host.Outcome State Fault Refusal := partCommand s part.toNat 5

/-- RESET (R359, R365). -/
def execReset (part : BitVec 6) (s : State) : Host.Outcome State Fault Refusal := partCommand s part.toNat 6

/-- UNBIND (R359). -/
def execUnbind (part : BitVec 6) (s : State) : Host.Outcome State Fault Refusal := partCommand s part.toNat 7

/-- A partcmd write with OP 0 (R358): PART is selected; nothing changes while a command runs. -/
def execSelectOnly (part : BitVec 6) (s : State) : Host.Outcome State Fault Refusal :=
  event s <| if partBusy s then none else some (modPkg s fun k => { k with partSel := part, partOp := 0#3 })

/-- A partition in a state (R359). -/
def setPartState (s : State) (p st : Nat) : State := modPart s p fun q => { q with st := st }

/-- A command ended: STATUS written, BUSY clear (R358). -/
def finishPart (s : State) (p status : Nat) : State :=
  modPkg (modPart s p fun q => { q with cmd := none }) fun k => { k with partStatus := BitVec.ofNat 8 status }

/-- A command whose kill fences run now. -/
def fencePhase (s : State) (p : Nat) : State :=
  modPart s p fun q => { q with cmd := q.cmd.map fun c => { c with phase := 2 } }

/-- Whether a kill fence of a partition command runs. -/
def fencing (s : State) (p : Nat) : Bool := s.kills.any fun q => q.part == p && q.issuer.isNone

/-- The end of BIND: the counter table is zero, the clusters are cleared, the supervisors spawned (R359, R363, R367).
DEDUCED, log 30. -/
def endBind (s : State) (p : Nat) : State :=
  let s1 := zeroBytes (setPartState s p 1) (counterKey s p 0) 524288
  finishPart (spawnSupervisors (clearPart s1 p false) p) p 0

/-- What a command that has started does now, or nothing while it must wait. -/
def partStep (s : State) (p : Nat) (c : PartCmd) : Option State :=
  let cls := clustersOf (partOf s p).clus
  let hold (next : State → State) : Option State :=
    if (coresOfPart s p).any fun k => holdable (coreOf s k) then some (holdCores s p)
    else if halted s p then some (next s) else none
  match c.op with
  | 1 => some (endBind s p)
  | 2 => hold fun u => finishPart (setPartState u p 2) p 0
  | 3 => some (finishPart (setPartState (continueCores s p) p 1) p 0)
  | 4 => some (finishPart (setPartState (cls.foldl (fun a cl => swapOutCluster a p cl) s) p 3) p 0)
  | 5 => some (finishPart (setPartState (cls.foldl swapInCluster s) p 2) p 0)
  | 6 =>
    if c.phase = 1 then hold fun u => fencePhase (killPart u p false) p
    else if fencing s p then none
    else
      let s1 := clearPart (settleCounters (setPartState s p 1) p) p true
      some (finishPart (spawnSupervisors s1 p) p 0)
  | _ =>
    if c.phase = 1 then some (fencePhase (killPart s p true) p)
    else if fencing s p then none
    else
      let s1 := clearPart (settleCounters s p) p true
      some (finishPart (modPart s1 p fun q => { Part.unbound with cmd := q.cmd, lastRec := q.lastRec }) p 0)

/-- PARTITION_COMMAND_COMPLETE (R358, R359): STATUS and PSTATE are written and BUSY clears; a RESET or UNBIND goes through its
kill fences first, a HALT waits for what R362 names. -/
def execPartitionCommandComplete (part : Nat) (s : State) : Host.Outcome State Fault Refusal :=
  event s <| match (partOf s part).cmd with
    | none => none
    | some c =>
      if c.phase = 0 || decide (s.cycle < c.due) then none
      else if c.status ≠ 0 then some (finishPart s part c.status)
      else partStep s part c

end Sys2Proof.Machine
end

