-- ==== Sys2Proof/Machine/Fabric.lean ====
section
/-! DEFINITION. The receiving side of the reliable connections and their failures (R391 to R395) and the fabric ports
(R389, R409). -/

namespace Sys2Proof.Machine

/-! ## Delivery -/

/-- The network of a link packet's message (R118, R393). -/
def linkNet (k : LinkPkt) : Net :=
  match k.cls, k.body with
  | 1, _ => .reply
  | 2, _ => .timediv
  | _, .credit | _, .preempt _ _ _ _ | _, .resume _ _ _ _ | _, .debugHalt _ _ => .control
  | _, _ => .request

/-- The message that a link packet brings to a core. A time-division packet is due in the device cycle that it carries; 0
says that this cycle is over (R404). -/
def linkMsg (s : State) (k : LinkPkt) (core : Nat) : Msg :=
  { uid := s.uid, sdev := k.srcDev, score := k.srcCore, sslot := k.srcSlot,
    thread := if isAnswer k.body then 0 else k.srcThread, towards := if isAnswer k.body then k.srcThread else 0,
    ddev := s.pkg.dev.toNat, dcore := core,
    net := linkNet k, asid := k.srcAsid, part := k.dstPart, rpart := k.srcPart, ask := k.ask, egress := false,
    due := if k.cls = 2 then (if k.tdCycle < deviceCycle s then 0 else k.tdCycle) else s.cycle + 1 + Config.latency s.uid,
    body := k.body }

/-- The refusal of a message at its far end: a far-end access fault of its sender (R392); a refused thread goes back with
it. -/
def refuseLink (s : State) (m : Msg) : State :=
  let word := wordOfMsg m
  match m.body with
  | .access a => failAccess s m a { cause := 0x06, addr := a.addr, detail := 2#64 }
  | .packet p => answer s m (.farFault m.sslot (lostStatus m.ask p) false 0x06 word)
  | .send _ _ _ _ | .sigr _ _ =>
    if m.sslot < 256 || 1024 ≤ m.sslot then answer s m (.farFault m.sslot none false 0x06 word) else s
  | .migrate t =>
    let back := mkMsg s m.dcore 256 m.sdev t.home.toNat .request false (.migrate (holdError t 0x06 word))
    putMsg s { back with asid := m.asid, part := m.part, rpart := m.rpart }
  | .preempt _ _ _ _ | .resume _ _ _ _ | .debugHalt _ _ => answerOp s m 0 2
  | _ => s

/-- Whether the binding of a partition names the peer and its partition (R392). -/
def bindingNames (s : State) (k : LinkPkt) : Bool :=
  peerBound s (some k.dstPart) k.srcDev && peerPart s (some k.dstPart) k.srcDev == k.srcPart

/-- A message for a core of a SWAPPED partition, kept in its spill queue (R364). -/
def spillShadow (s : State) (c : Nat) (m : Msg) : State :=
  match mapFind s.shadows (clusterOfCore c) with
  | none => s
  | some x =>
    let cores := x.cores.zipIdx.map fun k => if k.2 = c % 8 then { k.1 with spill := k.1.spill ++ [m] } else k.1
    { s with shadows := mapSet s.shadows (clusterOfCore c) { x with cores := cores } }

/-- An HSIG whose raise is refused or lost, by the name of its sender: its HODRUN will end with the program error of its entry
(R280). -/
def lostSig (s : State) (slot : Nat) : State :=
  if slot < 1024 then s
  else
    let hit (p : Prog) : Prog :=
      match p.sigs.find? fun g => g.1 == slot - 1024 with
      | some g => { p with err := p.err.or (some (hodError p.cmd g.2)) }
      | none => p
    { s with hods := s.hods.map fun h => (h.1, { h.2 with progs := h.2.progs.map fun p => (p.1, hit p.2) }) }

/-- An answer of another device to a request of this one: the request is outstanding no more (R395), and what a slot waits
for goes to its core. -/
def deliverAnswer (s : State) (k : LinkPkt) (place : State → State) : State :=
  let x := connOf s k.srcDev
  let s1 := setConn s k.srcDev { x with asked := x.asked.filter fun e => e.ask != k.ask }
  match (x.asked.find? fun e => e.ask == k.ask), k.body with
  | some e, .farFault _ _ _ _ _ => if 256 ≤ e.srcSlot then failNamed s1 e.srcThread else place s1
  | some e, _ => if 256 ≤ e.srcSlot then s1 else place s1
  | none, .farFault slot _ _ _ _ => if slot < 1024 then place s1 else lostSig s1 slot
  | none, _ => place s1

/-- A packet delivered in sequence: unwrapped and sent on to its core (R391, R392), or kept in the spill queue of a SWAPPED
partition's core (R364). -/
def deliverLink (s : State) (k : LinkPkt) : State :=
  let place (u : State) (c : Nat) : State :=
    if k.dstPart < 64 && (partOf u k.dstPart).st = 3 then { spillShadow u c (linkMsg u k c) with uid := u.uid + 1 }
    else { u with net := u.net ++ [linkMsg u k c], uid := u.uid + 1 }
  if isAnswer k.body then deliverAnswer s k fun u => place u k.dstCore
  else match coreOfLogical s (some k.dstPart) k.dstCore, bindingNames s k with
    | some c, true => place s c
    | c, _ => refuseLink { s with uid := s.uid + 1 } (linkMsg s k (c.getD 0))

/-- Packets of a class delivered in sequence, over at most `fuel` packets (R393). -/
def deliverSeq : Nat → State → Nat → Nat → LinkPkt → State
  | 0, s, _, _, _ => s
  | fuel + 1, s, d, cls, k =>
    let s1 := deliverLink s k
    let x := connOf s1 d
    let q := connClass x cls
    let next := (q.recvSeq + 1) % 2 ^ 32
    let q1 := { q with recvSeq := next, early := q.early.filter fun e => e.seq != next }
    let s2 := setConn s1 d (putClass x cls q1)
    match q.early.find? fun e => e.seq == next with
    | some e => deliverSeq fuel s2 d cls e
    | none => s2

/-- LINK_PACKET_ARRIVAL (R390, R391, R393): a packet for another device is forwarded and leaves no trace; one for this
device is delivered in the sequence of its class, held while it is early, or discarded. -/
def execLinkPacketArrival (k : LinkPkt) (s : State) : Host.Outcome State Fault Refusal :=
  event s <|
    if s.pkg.dev = 0xFFFF#16 || k.dstDev ≠ s.pkg.dev.toNat || linkDown s k.srcDev || 3 ≤ k.cls then none
    else (holdPeer s k.srcDev).map fun s1 =>
      let x := connOf s1 k.srcDev
      let q := connClass x k.cls
      let d := (k.seq + 2 ^ 32 - q.recvSeq) % 2 ^ 32
      if d = 0 then deliverSeq linkWindow s1 k.srcDev k.cls k
      else if d < linkWindow && !q.early.any fun e => e.seq == k.seq then
        setConn s1 k.srcDev (putClass x k.cls { q with early := q.early ++ [k] })
      else s1

/-! ## Acknowledgement, retransmission, failure -/

/-- Packets that the window admits and that have not been sent are sent now (R393). -/
def openWindow (cycle : Nat) (l : List (LinkPkt × Nat × Nat)) : List (LinkPkt × Nat × Nat) :=
  l.zipIdx.map fun e => if e.2 < linkWindow && e.1.2.1 = 0 then (e.1.1, 1, cycle) else e.1

/-- LINK_ACK_ARRIVAL (R393): every packet of the class up to number `seq` is acknowledged. DESIGN CHOICE, log 32. -/
def execLinkAckArrival (peer cls seq : Nat) (s : State) : Host.Outcome State Fault Refusal :=
  let x := connOf s peer
  let q := connClass x cls
  event s <|
    if !(q.unacked.any fun e => e.1.seq == seq && e.2.1 != 0) then none
    else
      let rest := q.unacked.filter fun e => decide (2 ^ 31 ≤ (seq + 2 ^ 32 - e.1.seq) % 2 ^ 32)
      some (setConn s peer (putClass { x with lastUse := s.cycle } cls { q with unacked := openWindow s.cycle rest }))

/-- Cycles of 20 µs (R393). -/
def resendCycles : Nat := 40000

/-- Whether a packet has gone 20 µs without acknowledgement (R393). -/
def unanswered (s : State) (e : LinkPkt × Nat × Nat) : Bool := e.2.1 != 0 && decide (e.2.2 + resendCycles ≤ s.cycle)

/-- A resend counted at the port that it takes (R417). -/
def countResend (s : State) (k : LinkPkt) : State :=
  match routePort s (if k.srcPart < 64 then some k.srcPart else none) k.srcCore k.dstCore k.dstDev with
  | none => s
  | some p => modPkg s fun g =>
    match mapFind g.ports p with
    | none => g
    | some x =>
      let n := if x.resends = BitVec.allOnes 32 then x.resends else x.resends + 1#32
      { g with ports := mapSet g.ports p { x with resends := n } }

/-- RETRANSMIT_TIMEOUT (R393): the packets of a class that are due are sent again, up to nine times in all (R395). -/
def execRetransmitTimeout (peer cls : Nat) (s : State) : Host.Outcome State Fault Refusal :=
  let x := connOf s peer
  let q := connClass x cls
  let due (e : LinkPkt × Nat × Nat) : Bool := unanswered s e && decide (e.2.1 < 9)
  event s <|
    if !q.unacked.any due then none
    else
      let s1 := setConn s peer (putClass x cls
        { q with unacked := q.unacked.map fun e => if due e then (e.1, e.2.1 + 1, s.cycle) else e })
      some ((q.unacked.filter due).foldl (fun a e => countResend a e.1) s1)

/-- The answer that an outstanding access of a peer that is lost gets from its own gateway (R395). -/
def lostAnswer (s : State) (peer : Nat) (k : LinkPkt) : State :=
  match k.body with
  | .access a =>
    let m : Msg :=
      { uid := s.uid, sdev := peer, score := k.dstCore, sslot := k.srcSlot, thread := 0, ddev := s.pkg.dev.toNat,
        dcore := k.srcCore, net := .reply, asid := k.srcAsid, part := k.srcPart, rpart := 64, ask := k.ask, towards := k.srcThread,
        egress := false, due := s.cycle + 1, body := k.body }
    let body := if faultsWhenDown a then failBody m a { cause := 0x06, addr := a.addr, detail := 2#64 }
      else .reply k.srcSlot 16 0#64 false
    if 256 ≤ k.srcSlot then s else { s with net := s.net ++ [{ m with body := body }], uid := s.uid + 1 }
  | _ => s

/-- A posted send that is lost with its connection: a held error of its sender (R184, R208, R395). -/
def lostSend (s : State) (peer : Nat) (k : LinkPkt) : State :=
  let fault (reg : Option (Nat × Word)) : State :=
    let word := BitVec.ofNat 64 ((bodySlot k.body).getD 0 + k.dstCore * 2 ^ 8 + peer * 2 ^ 18)
    let m : Msg :=
      { uid := s.uid, sdev := peer, score := k.dstCore, sslot := 256, thread := 0, ddev := s.pkg.dev.toNat,
        dcore := k.srcCore, net := .reply, asid := k.srcAsid, part := k.srcPart, rpart := 64, ask := k.ask, towards := k.srcThread,
        egress := false, due := s.cycle + 1, body := .farFault k.srcSlot reg false 0x06 word }
    if 256 ≤ k.srcSlot then s else { s with net := s.net ++ [m], uid := s.uid + 1 }
  match k.body with
  | .send _ _ _ _ | .sigr _ _ => fault none
  | .packet p => returnCredit (fault (lostStatus k.ask p)) k.srcCore p.credit
  | _ => s

/-- A 32-bit count raised, saturating (R397). -/
def satAdd32 (x : BitVec 32) (n : Nat) : BitVec 32 :=
  if 2 ^ 32 ≤ x.toNat + n then BitVec.allOnes 32 else x + BitVec.ofNat 32 n

/-- CONNECTION_DOWN (R395): a packet has been sent nine times and not acknowledged. DEDUCED, log 33. -/
def execConnectionDown (peer : Nat) (s : State) : Host.Outcome State Fault Refusal :=
  let x := connOf s peer
  event s <|
    if !x.up || !(x.classes.toList.any fun q => q.unacked.any fun e => unanswered s e && decide (9 ≤ e.2.1)) then none
    else
      let lost := (x.classes.toList.flatMap fun q => q.unacked.map (·.1)) ++ x.waiting
      let s1 := setConn s peer { Conn.fresh with up := false, lastUse := x.lastUse }
      let s2 := x.asked.foldl (fun a k => lostAnswer a peer k) s1
      let s3 := lost.foldl (fun a k => lostSend (lostSig a k.srcSlot) peer k) s2
      some (modPkg s3 fun p => { p with tdlost := satAdd32 p.tdlost ((lost.filter fun k => k.cls == 2).length) })

/-- CONNECTION_REOPEN (R395): the peer answers and there is a route; sequence numbers start afresh. -/
def execConnectionReopen (peer : Nat) (s : State) : Host.Outcome State Fault Refusal :=
  event s <|
    if linkDown s peer && (routePort s none 0 0 peer).isSome then some (setConn s peer { Conn.fresh with lastUse := s.cycle })
    else none

/-- PEER_STATE_LOAD (R394): the state of a peer for which packets wait comes from HBM. -/
def execPeerStateLoad (peer : Nat) (s : State) : Host.Outcome State Fault Refusal :=
  let x := connOf s peer
  event s <| if x.resident || !x.up || x.waiting.isEmpty then none else some (loadPeer s peer)

/-! ## Ports -/

/-- A fabric port (R389). -/
def portOf (s : State) (p : Nat) : Port := mapGet { lanes := 0#8, st := 0, resends := 0#32 } s.pkg.ports p

/-- A port with a state, in or out of PLIVE (R389, R409). -/
def setPort (s : State) (p st : Nat) : State :=
  modPkg s fun k => { k with ports := mapSet k.ports p { portOf s p with st := st }, plive := putBit k.plive p (st == 2) }

/-- PORT_FAILURE (R409): the port leaves PLIVE; its unacknowledged packets are sent again by other ports (R393). -/
def execPortFailure (port : Nat) (s : State) : Host.Outcome State Fault Refusal :=
  event s <| if (portOf s port).st = 2 then some (setPort s port 3) else none

/-- FABRIC_PORT_TRAINED (R389, R409): a port with a live lane enters PLIVE. -/
def execFabricPortTrained (port : Nat) (s : State) : Host.Outcome State Fault Refusal :=
  event s <| if port < 24 && (portOf s port).st = 1 && (portOf s port).lanes ≠ 0#8 then some (setPort s port 2) else none

end Sys2Proof.Machine
end

