-- ==== Sys2Proof/Machine/Time.lean ====
section
/-! DEFINITION. The time discipline (R397, R398) and the delivery of time-division packets (R402 to R404). -/

namespace Sys2Proof.Machine

/-! ## The discipline -/

/-- The upstream of the discipline (R397): a fabric port, the time port or the own oscillator, while the discipline is
enabled. DEDUCED, log 36. -/
def hasUpstream (s : State) : Bool := s.pkg.tctl.getLsbD 0 && decide (bits s.pkg.tctl.toNat 15 8 ≤ 25)

/-- OFFS of an offset in 2^−8 ns: free where 32 bits do not hold it (log 11). -/
def offsOf (s : State) (offs : Int) : State × BitVec 32 :=
  if -(2 ^ 31 : Int) ≤ offs ∧ offs < 2 ^ 31 then (s, ofInt 32 offs)
  else
    let r := freeBytes s 4
    (r.1, BitVec.ofNat 32 (leNat r.2))

/-- The correction in force after a sync: free within ±100 ppm, in units of 2^−40 (R397, R398; log 11). -/
def trateOf (s : State) : Word :=
  ofInt 64 (((Config.servoRate s.fresh).toNat % 219902325 : Nat) - (109951162 : Int))

/-- 1 ms in 2^−8 ns, and in 2^−16 ns. -/
def msOffs : Int := 256000000
def msUnits : Nat := 65536000000

/-- The forward step that the servo takes at a sync: none or, where the upstream is ahead by more than 1 ms and LOCK = 0,
one that leaves at most 1 ms; whether this is the sync is open (R398; log 11). -/
def servoStep (s : State) (offs : Int) (lock : Bool) : Nat :=
  let r := Config.servoResidue s.fresh
  if lock || decide (-msOffs ≤ offs) || r % 2 = 1 then 0 else (-offs).toNat * 256 - r / 2 % (msUnits + 1)

/-- LOCK and the count of good syncs after an offset (R398): 4 ns and 100 ns in 2^−8 ns. -/
def lockAfter (lock : Bool) (good : Nat) (offs : Int) : Bool × Nat :=
  let g := if offs.natAbs ≤ 1024 then min 16 (good + 1) else 0
  (if 25600 < offs.natAbs then false else lock || decide (16 ≤ g), g)

/-- PTP_SYNC_RECEIPT (R398): the offset of device time from the upstream, in 2^−8 ns, positive where device time is
ahead. -/
def execPtpSyncReceipt (offs : Int) (s : State) : Host.Outcome State Fault Refusal :=
  event s <|
    if !hasUpstream s then none
    else
      let (s1, o) := offsOf s offs
      let (lock, good) := lockAfter s.pkg.lock s.pkg.good offs
      let step := servoStep s1 offs lock
      some { modPkg s1 (fun p => { p with offs := o, missed := 0, lock := lock, good := good, trate := trateOf s1,
                                          tstep := p.tstep + step,
                                          tsteps := p.tsteps + (if step = 0 then 0 else 1) }) with fresh := s1.fresh + 1 }

/-- SYNC_MISSED (R398): after three missed syncs LOCK is 0. -/
def execSyncMissed (s : State) : Host.Outcome State Fault Refusal :=
  event s <|
    if !hasUpstream s then none
    else
      let n := s.pkg.missed + 1
      some (modPkg s fun p => { p with missed := n, good := if n < 3 then p.good else 0, lock := p.lock && decide (n < 3) })

/-- Whether the upstream is the package's own oscillator, a grandmaster's (R397). -/
def ownOscillator (s : State) : Bool := s.pkg.tctl.getLsbD 0 && bits s.pkg.tctl.toNat 15 8 == 25

/-- A sync with the own oscillator: its offset is 0 (R397, R398). DEDUCED, log 36. -/
def ownSync (s : State) : State :=
  if ownOscillator s then
    let (lock, good) := lockAfter s.pkg.lock s.pkg.good 0
    modPkg s fun p => { p with offs := 0#32, missed := 0, lock := lock, good := good }
  else s

/-- SYNC_INTERVAL_EXPIRY (R397): a boundary clock sends its sync messages, which leave the package, a grandmaster syncs with
its own oscillator, and the next interval begins. -/
def execSyncIntervalExpiry (s : State) : Host.Outcome State Fault Refusal :=
  event s <|
    if s.pkg.tctl.getLsbD 0 && (s.pkg.tctl.getLsbD 1 || ownOscillator s) && decide (s.pkg.nextSync ≤ s.cycle) then
      some (modPkg (ownSync s) fun p => { p with nextSync := s.cycle + syncCycles s })
    else none

/-! ## Time-division packets -/

/-- A slot that waits for the window of a send, made READY in the next cycle (R402). -/
def windowSlot (cycle uid : Nat) (x : Slot) : Slot := if x.wait == .window uid then readySlot (cycle + 1) x else x

/-- The sender of a time-division packet goes on (R402); a saved context does when it is resumed. -/
def windowOpen (s : State) (c uid : Nat) : State :=
  modCore s c fun k =>
    { k with slots := k.slots.map fun p => (p.1, windowSlot s.cycle uid p.2),
             savedSlots := k.savedSlots.map fun p => (p.1, windowSlot s.cycle uid p.2) }

/-- FDL (R397). -/
def deliveryAllowance (s : State) : Nat := bits s.pkg.tdcfg.toNat 31 16

/-- TD_WINDOW_DEPART (R402 to R404): the packet leaves in its window; for the own package it is due 256 cycles later, for
another device the allowance later. Without a route it is a far-end fault (R390); where the connection is down it is lost
and counted too (R208, R395). DEDUCED, log 37. -/
def execTdWindowDepart (msg : Nat) (s : State) : Host.Outcome State Fault Refusal :=
  event s <| (findMsg s msg).bind fun m =>
    if m.net ≠ .timediv || !m.egress || decide (deviceCycle s < m.due) then none
    else
      let s1 := windowOpen s m.score msg
      if m.ddev = s.pkg.dev.toNat then
        some { s1 with net := s1.net.map fun e => if e.uid = msg then { e with egress := false, due := m.due + 256 } else e }
      else
        match linkSend (dropMsg s1 msg) m (m.due + 256 + deliveryAllowance s) with
        | some s2 => some s2
        | none =>
          let down := linkDown s m.ddev
          let s2 := if down then downRequest s1 m else failRequest s1 m
          let s3 := if countsRemote m.body then settleAsk s2 m.score msg else s2
          some (if down then modPkg s3 fun p => { p with tdlost := satAdd32 p.tdlost 1 } else s3)

/-- Whether a time-division packet at a core comes before another one of the same cycle (R403). -/
def tdBefore (a b : Msg) : Bool :=
  decide (a.sdev < b.sdev) || (a.sdev == b.sdev && (decide (a.score < b.score) || (a.score == b.score && decide (a.uid < b.uid))))

/-- Time-division packets that are to be applied at a core by this device cycle; 0 marks a late one (R404). -/
def tdDue (s : State) (c : Nat) : List Msg :=
  s.net.filter fun m => m.net == .timediv && !m.egress && m.ddev == s.pkg.dev.toNat && m.dcore == c && m.due != 0 &&
    decide (m.due ≤ deviceCycle s)

/-- How many packets of a list come before one. -/
def tdRank (l : List Msg) (m : Msg) : Nat := (l.filter fun e => tdBefore e m).length

/-- Packets past the first 16 of a core moved to the next cycle (R403). -/
def tdPostpone (s : State) (c : Nat) : State :=
  let l := tdDue s c
  let late := l.filter fun m => decide (16 ≤ tdRank l m)
  { s with net := s.net.map fun m => if late.any fun e => e.uid == m.uid then { m with due := deviceCycle s + 1 } else m }

/-- What a time-division packet does at its core (R211 to R213, R403). -/
def tdDeliver (s : State) (m : Msg) : Option State :=
  match m.body with
  | .packet p => acceptPacket s m p
  | .access a => putArrives s m a
  | _ => deliverBy s m applyBody

/-- TD_PACKET_APPLY (R403): the first of the packets that a core has for this cycle. -/
def execTdPacketApply (msg : Nat) (s : State) : Host.Outcome State Fault Refusal :=
  event s <| (findMsg s msg).bind fun m =>
    let l := tdDue s m.dcore
    if !(l.any fun e => e.uid == msg) || tdRank l m ≠ 0 then none
    else
      let s1 := tdPostpone s m.dcore
      match tdDeliver s1 m with
      | some s2 => some s2
      | none => some { s1 with net := s1.net.map fun e => if e.uid = msg then { e with due := deviceCycle s + 1 } else e }

/-- TD_LATE_ARRIVAL (R404): a packet that came after its cycle is applied on arrival and counted. -/
def execTdLateArrival (msg : Nat) (s : State) : Host.Outcome State Fault Refusal :=
  event s <| (findMsg s msg).bind fun m =>
    if m.net ≠ .timediv || m.egress || m.due ≠ 0 || m.ddev ≠ s.pkg.dev.toNat then none
    else (tdDeliver s m).map fun s1 => modPkg s1 fun p => { p with tdlate := satAdd32 p.tdlate 1 }

end Sys2Proof.Machine
end

