-- ==== Sys2Proof/Machine/Host.lean ====
section
/-! DEFINITION. The host: aperture A1 (R406, R407), host appends (R369), the mailbox (R408) and the resynchronisation summary
(R417). -/

namespace Sys2Proof.Machine

/-! ## Aperture A1 -/

/-- Whether a range of HBM lies in one that hacl enables (R406). -/
def haclAllows (s : State) (a n : Nat) : Bool :=
  decide (a + n ≤ hbmSize s) && s.pkg.hacl.any fun h =>
    h.2.getLsbD 63 && decide (bits h.2.toNat 27 0 * 2 ^ 21 ≤ a) && decide (a + n ≤ bits h.2.toNat 55 28 * 2 ^ 21)

/-- The host's last access: what it read, and whether the adapter reports an error (R406). -/
def hostSees (s : State) (bs : List Byte) (err : Bool) : State := modPkg s fun p => { p with hostData := bs, hostErr := err }

/-- HOST_STORE (R406, R407). -/
def execHostStore (addr : Nat) (data : List Byte) (s : State) : Host.Outcome State Fault Refusal :=
  event s <| some (if haclAllows s addr data.length then hostSees (storeBytes s addr data) [] false else hostSees s [] true)

/-- HOST_READ (R345, R406): zeros outside the ranges. -/
def execHostRead (addr n : Nat) (s : State) : Host.Outcome State Fault Refusal :=
  event s <| some (if haclAllows s addr n then hostSees s (memBytes s.mem addr n) (eccBad s.ecc addr n)
    else hostSees s (List.replicate n 0#8) true)

/-! ## Host append -/

/-- HOST_APPEND (R369): the QCB, its ring and its side ring are given by their HBM addresses; the result is what the host
reads, and a claim that is not yet next in line is published later. -/
def execHostAppend (qcb ring side : Nat) (words : Vector Word 8) (a0 a1 : Word) (s : State) :
    Host.Outcome State Fault Refusal :=
  event s <|
    let q := qcbAt s qcb (fieldAt (memBytes s.mem qcb 16) 12 2)
    let pos := q.claim % q.cap
    let place : Nat × Option Nat := (ring + 64 * pos, if q.side = 0 then none else some (side + 16 * pos))
    let inside := haclAllows s qcb 256 && haclAllows s place.1 64 && (place.2.all fun k => haclAllows s k 16)
    some (if !inside || !q.ok then hostSees s (leBytes 8 0) true
    else if qcbClosed q || qcbFull q then
      hostSees (qcbSet s q.key 200 ((memNat s.mem (q.key + 200) 8 + 1) % 2 ^ 64)) (leBytes 8 0) false
    else
      let s1 := qcbWrite (qcbSet s q.key 128 ((q.claim + 1) % 2 ^ 64)) place words a0 a1
      let s2 := modPkg s1 fun p => { p with hostAppends := p.hostAppends ++ [{ qcb := qcb, claim := q.claim }] }
      hostSees s2 (leBytes 8 1) false)

/-- The host appends whose turn it is (R369). -/
def hostTurn (s : State) : Option HostClaim :=
  s.pkg.hostAppends.find? fun h => memNat s.mem (h.qcb + 64) 8 == h.claim

/-- TAIL published for a host append whose turn it is (R369, R407). -/
def hostPublish (s : State) : Option State :=
  (hostTurn s).map fun h =>
    let s1 := storeBytes s (h.qcb + 64) (leBytes 8 ((h.claim + 1) % 2 ^ 64))
    modPkg s1 fun p => { p with hostAppends := p.hostAppends.erase h }

/-! ## The mailbox -/

/-- What a command answers: STATUS and results (R408). -/
abbrev Answer := Nat × List Byte

/-- A command that has started: its effects are made, and its response of OP, TAG, STATUS and 56 bytes of results is written
later (R408). DESIGN CHOICE, log 38. -/
def respond (s : State) (op tag : Nat) (r : Answer) : State :=
  let bs := leBytes 2 op ++ leBytes 2 tag ++ leBytes 4 r.1 ++ (r.2 ++ List.replicate (56 - r.2.length) 0#8)
  { modPkg s (fun p => { p with busy := true, mbox := some (bs, s.cycle + 1 + Config.latency s.uid) }) with uid := s.uid + 1 }

/-- The end of a command: the response is written, BUSY cleared, the adapter's interrupt signalled (R408). -/
def mailboxEnd (s : State) : Option State :=
  match s.pkg.mbox with
  | none => none
  | some (bs, due) =>
    if s.cycle < due then none
    else some (modPkg s fun p => { p with resp := bs, busy := false, mbox := none, irqs := p.irqs + 1 })

/-- A command written whole with its doorbell: discarded while BUSY = 1 (R408, R410). -/
def mailbox (s : State) (op tag : Nat) (args : List Byte) (f : State → State × Answer) : Host.Outcome State Fault Refusal :=
  event s <| some (if s.pkg.busy then modPkg s fun p => { p with ovr := true }
    else
      let cmd := leBytes 2 op ++ leBytes 2 tag ++ leBytes 4 0 ++ (args ++ List.replicate (56 - args.length) 0#8)
      let r := f (modPkg s fun p => { p with cmdArea := cmd })
      respond r.1 op tag r.2)

/-- IDENT (R408). -/
def identNow (s : State) : State × Answer := (s, 0, leBytes 8 (fabcfgRead s).toNat ++ leBytes 8 (tstatRead s).toNat)

/-- CHALT (R347, R408): STATUS 1 where the core is already HELD. DEDUCED, log 38. -/
def chaltNow (core : Nat) (s : State) : State × Answer :=
  let k := coreOf s core
  if !k.dbgctl.getLsbD 1 then (s, 2, []) else if isHeldCore k then (s, 1, []) else (haltCore s core, 0, [])

/-- CRESUME (R347, R408). DEDUCED, log 38. -/
def cresumeNow (core : Nat) (s : State) : State × Answer :=
  let k := coreOf s core
  if !k.dbgctl.getLsbD 1 then (s, 2, []) else if k.mode ≠ .debugHalt then (s, 1, []) else (endHalt s core, 0, [])

/-- TIMEGET (R396, R408): the doorbell is written in the cycle of the command. -/
def timegetNow (s : State) : State × Answer :=
  (s, 0, leBytes 8 (timeNs s) ++ leBytes 2 (s.devTime % 65536) ++ leBytes 6 0 ++ leBytes 8 (s.devTime / 8192))

/-- COUNTER (R373, R408): a counter command block for a partition. -/
def counterNow (part lo hi : Nat) (s : State) : State × Answer :=
  let block (st : Nat) : List Byte := leBytes 6 lo ++ leBytes 2 st ++ leBytes 8 hi
  if 64 ≤ part || (partOf s part).st = 0 then (s, 0xFE, block (bits lo 63 48))
  else
    let (s1, st) := if bits hi 63 32 ≠ 0 then (s, 4)
      else counterCommand s (some part) (bits lo 7 0) (bits lo 15 8) (bits lo 31 16) (bits lo 47 32) (bits hi 31 0)
    (s1, st, block st)

/-- IDENT (R408). -/
def execIdent (tag : BitVec 16) (s : State) : Host.Outcome State Fault Refusal := mailbox s 1 tag.toNat [] identNow

/-- CHALT (R347, R408). -/
def execChalt (tag core : BitVec 16) (s : State) : Host.Outcome State Fault Refusal :=
  mailbox s 3 tag.toNat (leBytes 2 core.toNat) (chaltNow core.toNat)

/-- CRESUME (R347, R408). -/
def execCresume (tag core : BitVec 16) (s : State) : Host.Outcome State Fault Refusal :=
  mailbox s 4 tag.toNat (leBytes 2 core.toNat) (cresumeNow core.toNat)

/-- TIMEGET (R396, R408). -/
def execTimeget (tag : BitVec 16) (s : State) : Host.Outcome State Fault Refusal := mailbox s 5 tag.toNat [] timegetNow

/-- COUNTER (R373, R408). -/
def execCounter (tag : BitVec 16) (part : BitVec 8) (lo hi : Word) (s : State) : Host.Outcome State Fault Refusal :=
  mailbox s 6 tag.toNat (leBytes 8 part.toNat ++ leBytes 8 lo.toNat ++ leBytes 8 hi.toNat) (counterNow part.toNat lo.toNat hi.toNat)

/-- A doorbell with an OP that R408 does not list. -/
def execUnlistedMailboxOp (op tag : BitVec 16) (s : State) : Host.Outcome State Fault Refusal :=
  if 1 ≤ op.toNat && op.toNat ≤ 6 then event s none else mailbox s op.toNat tag.toNat [] fun u => (u, 0xFF, [])

/-! ## The resynchronisation summary -/

/-- A counter of the summary: partition, id, record. -/
def openCounters (s : State) : List (Nat × Nat × Nat) :=
  (s.parts.filter fun q => q.2.st != 0).flatMap fun q =>
    let ids := (counterIds s q.1).filter fun i =>
      let w := counterRead s (some q.1) i
      cntLevel w != 0 && (cntState w == cntOpen || cntState w == cntCancelling)
    (ids.mergeSort fun a b => decide (a ≤ b)).map fun i => (q.1, i, counterRead s (some q.1) i)

/-- Cores of a partition as they stand, in the clusters or in their shadow images. -/
def partCores (s : State) (p : Nat) : List Core :=
  if (partOf s p).st = 3 then (s.shadows.filter fun x => x.2.part == p).flatMap fun x => x.2.cores
  else if (partOf s p).st = 0 then [] else (coresOfPart s p).map (coreOf s)

/-- Address, TAIL, CLAIM and HEAD of the QCB that a launch's attribute record names, zeros where none is found (R371,
R417). -/
def counterQcb (s : State) (p id : Nat) : List Byte :=
  let none_ : List Byte := leBytes 32 0
  match (partCores s p).head? with
  | none => none_
  | some k => match attrAt s (attrKeyBy s (some p) k.lattr id) with
    | none => none_
    | some a => if a.qcb = 0 then none_
      else match transNow s (some p) a.asid false .read a.qcb 256 with
        | .error _ => none_
        | .ok k => leBytes 8 a.qcb ++ memBytes s.mem (k + 64) 8 ++ memBytes s.mem (k + 128) 8 ++ memBytes s.mem (k + 192) 8

/-- A counter entry (R417). -/
def counterEntry (s : State) (e : Nat × Nat × Nat) : List Byte :=
  let (p, id, w) := e
  let cause := match mapFind (partOf s p).errRecs id with
    | some r => r.cause
    | none => 0
  leBytes 1 p ++ leBytes 1 (cntLevel w) ++ leBytes 1 (cntState w) ++ leBytes 1 (if cntErr w then 1 else 0) ++ leBytes 2 id ++
    leBytes 2 0 ++ leBytes 4 (cntCount w) ++ leBytes 2 (cntParent w) ++ leBytes 2 0 ++ leBytes 2 cause ++ leBytes 6 0 ++
    counterQcb s p id ++ leBytes 8 0

/-- A partition entry (R417). -/
def partEntry (s : State) (p : Nat) : List Byte :=
  let q := partOf s p
  let ks := partCores s p
  leBytes 1 q.st ++ leBytes 1 0 ++ leBytes 2 (liveAsids s p).length ++ leBytes 2 (ks.filter isHeldCore).length ++ leBytes 2 0 ++
    leBytes 8 (ks.foldl (fun a k => a + k.spill.length) 0) ++
    leBytes 4 (ks.foldl (fun a k => a + (k.sems.filter fun x => x.2.err.isSome).length) 0) ++ leBytes 12 0 ++
    leBytes 16 q.clus ++ leBytes 8 q.lastRec.toNat ++ leBytes 8 0

/-- A port entry (R417). -/
def portEntry (s : State) (p : Nat) : List Byte :=
  let x := portOf s p
  leBytes 1 x.lanes.toNat ++ leBytes 1 x.st ++ leBytes 4 x.resends.toNat ++ leBytes 2 0

/-- The summary record (R417). -/
def summary (s : State) : List Byte :=
  let cs := openCounters s
  let size := 0x1200 + 64 * cs.length
  leBytes 4 0x434E5953 ++ leBytes 4 1 ++ leBytes 4 size ++ leBytes 4 cs.length ++ leBytes 8 (timeNs s) ++
    leBytes 2 (s.devTime % 65536) ++ leBytes 2 s.pkg.dev.toNat ++ leBytes 4 0 ++ leBytes 8 (fabcfgRead s).toNat ++
    leBytes 8 (tstatRead s).toNat ++ leBytes 8 s.pkg.trate.toNat ++ leBytes 8 (tdcountRead s).toNat ++
    (List.range 24).flatMap (portEntry s) ++ (List.range 256).map (fun i => (s.pkg.inventory[64 + i]?).getD 0#8) ++
    (List.range 64).flatMap (partEntry s) ++ cs.flatMap (counterEntry s)

/-- RESYNC (R408, R417): the record is written to host memory, or STATUS 1 with the size that it needs. -/
def resyncNow (addr len : Nat) (s : State) : State × Answer :=
  let bs := summary s
  if len < bs.length then (s, 1, leBytes 4 bs.length) else (storeBytes s (hostKey addr) bs, 0, [])

/-- RESYNC (R408, R417). -/
def execResync (tag : BitVec 16) (addr : Word) (len : BitVec 32) (s : State) : Host.Outcome State Fault Refusal :=
  mailbox s 2 tag.toNat (leBytes 8 addr.toNat ++ leBytes 4 len.toNat) (resyncNow addr.toNat len.toNat)

/-! ## The mailbox's aperture -/

/-- What the doorbell starts: the command in the command area (R408). -/
def areaCommand (s : State) : State × Answer :=
  let f (lo n : Nat) : Nat := fieldAt s.pkg.cmdArea lo n
  match f 0 2 with
  | 1 => identNow s
  | 2 => resyncNow (f 8 8) (f 16 4) s
  | 3 => chaltNow (f 8 2) s
  | 4 => cresumeNow (f 8 2) s
  | 5 => timegetNow s
  | 6 => counterNow (f 8 1) (f 16 8) (f 24 8) s
  | _ => (s, 0xFF, [])

/-- Eight bytes of the command area written (R408). -/
def areaWrite (s : State) (ofs : Nat) (value : Word) : State :=
  modPkg s fun p =>
    let a := p.cmdArea ++ List.replicate (64 - p.cmdArea.length) 0#8
    { p with cmdArea := a.take ofs ++ (leBytes 8 value.toNat).take (64 - ofs) ++ a.drop (ofs + 8) }

/-- A host write of 8 bytes in aperture A0 (R408, R410): the command and the doorbell, which are discarded and set OVR while
BUSY = 1; to offset 0xFC0 a 1 in bit 1 clears OVR. -/
def execMailboxOverrun (ofs : BitVec 12) (value : Word) (s : State) : Host.Outcome State Fault Refusal :=
  event s <|
    if ofs.toNat < 0x48 && s.pkg.busy then some (modPkg s fun p => { p with ovr := true })
    else if ofs.toNat < 0x40 then some (areaWrite s ofs.toNat value)
    else if ofs.toNat < 0x48 then
      let r := areaCommand s
      some (respond r.1 (fieldAt s.pkg.cmdArea 0 2) (fieldAt s.pkg.cmdArea 2 2) r.2)
    else if ofs.toNat = 0xFC0 then some (modPkg s fun p => { p with ovr := p.ovr && !value.getLsbD 1 })
    else none

/-- A byte that the host reads in aperture A0: command, response, the boot status word, BUSY and OVR (R408, R410). -/
def a0Byte (s : State) (ofs : Nat) : Byte :=
  let p := s.pkg
  if ofs < 0x40 then (p.cmdArea[ofs]?).getD 0#8
  else if 0x800 ≤ ofs && ofs < 0x840 then (p.resp[ofs - 0x800]?).getD 0#8
  else if 0xF80 ≤ ofs && ofs < 0xF88 then BitVec.ofNat 8 (p.bootStatus.toNat / 256 ^ (ofs - 0xF80))
  else if ofs = 0xFC0 then BitVec.ofNat 8 ((if p.busy then 1 else 0) + if p.ovr then 2 else 0)
  else 0#8

end Sys2Proof.Machine
end

