-- ==== Sys2Proof/Machine/Boot.lean ====
section
/-! DEFINITION. Boot (R410): the platform image (R149, R150, R152), signatures (R411), the inventory record (R412, R413) and
the measurement registers (R414). -/

namespace Sys2Proof.Machine

/-! ## Signatures -/

/-- Bytes `lo` to `lo + n - 1` of a list. -/
def cutBytes (bs : List Byte) (lo n : Nat) : List Byte := (bs.drop lo).take n

/-- Whether a signature block is accepted for the bytes that stand before it (R411). -/
def blockAccepted (s : State) (before block : List Byte) : Bool :=
  let msg := before ++ cutBytes block 0 16
  let keys := cutBytes block 16 1984
  let fuse := match s.pkg.fuses[fieldAt block 6 1]? with
    | some f => f.programmed && !f.revoked && Config.sha384 keys == f.hash
    | none => false
  block.length == 5376 && fieldAt block 0 4 == 0x53474E4C && fieldAt block 4 2 == 1 && decide (fieldAt block 6 1 < 4) &&
    fieldAt block 7 1 == 0 && fieldAt block 12 4 == 0 && fieldAt block 5373 3 == 0 && fuse &&
    decide (s.pkg.minSvn ≤ fieldAt block 8 4) && Config.edVerify (cutBytes block 16 32) msg (cutBytes block 2000 64) &&
    Config.mlVerify (cutBytes block 48 1952) msg (cutBytes block 2064 3309)

/-! ## The platform image -/

/-- A segment of a load image (R150). -/
structure Segment where
  ty : Nat
  flags : Nat
  align_ : Nat
  foff : Nat
  size : Nat
  place : Nat
  deriving DecidableEq, Repr

/-- The segments of a load image (R149, R150). -/
def segments (img : List Byte) : List Segment :=
  (List.range (fieldAt img 12 4)).map fun i =>
    let o := fieldAt img 16 8 + 32 * i
    { ty := fieldAt img o 2, flags := fieldAt img (o + 2) 2, align_ := fieldAt img (o + 4) 4, foff := fieldAt img (o + 8) 8,
      size := fieldAt img (o + 16) 8, place := fieldAt img (o + 24) 8 }

/-- A TCM segment that a loader accepts (R150, R152). -/
def segmentOk (img : List Byte) (g : Segment) : Bool :=
  g.ty == 3 && g.flags / 8 == 0 && decide (2 ≤ g.align_) && decide (g.align_ ≤ 21) && g.place % 2 ^ g.align_ == 0 &&
    decide (g.place + g.size ≤ Config.tcmBytes) && (g.flags.testBit 2 || decide (g.foff + g.size ≤ img.length))

/-- Whether two segments overlap (R152). -/
def segmentsMeet (a b : Segment) : Bool := windowsMeet (a.place, a.place + a.size) (b.place, b.place + b.size)

/-- Whether every record of the entry table has a handler PC of the form of R28 (R151, R152). -/
def entriesOk (img : List Byte) : Bool :=
  (List.range (fieldAt img 32 4)).all fun i =>
    let pc := fieldAt img (fieldAt img 24 8 + 16 * i) 8
    bits pc 63 48 == 0 && pc % 4 == 0

/-- A platform image that the loader accepts: a load image whose segments are all TCM segments (R149, R152, R410). -/
def imageOk (img : List Byte) : Bool :=
  let gs := segments img
  fieldAt img 0 4 == 0x49544E4C && fieldAt img 4 2 == 1 && decide (1 ≤ fieldAt img 12 4) && decide (fieldAt img 12 4 ≤ 256) &&
    fieldAt img 16 8 % 8 == 0 && fieldAt img 36 4 / 2 == 0 && fieldAt img 56 8 == 0 && gs.all (segmentOk img) && entriesOk img &&
    (List.range gs.length).all fun i => (gs.drop (i + 1)).all fun b => match gs[i]? with
      | some a => !segmentsMeet a b
      | none => true

/-- Whether the image carries an accepted block (R149, R411). -/
def imageSigned (s : State) : Bool :=
  let img := s.pkg.image
  let off := fieldAt img 40 8
  off != 0 && blockAccepted s (cutBytes img 0 off) (cutBytes img off 5376)

/-- The bytes of a segment (R150). -/
def segmentBytes (img : List Byte) (g : Segment) : List Byte :=
  if g.flags.testBit 2 then List.replicate g.size 0#8 else cutBytes img g.foff g.size

/-! ## The inventory record -/

/-- The numbers of the set bits of a field of `n` bytes. -/
def marks (bs : List Byte) (lo n : Nat) : List Nat := (List.range (8 * n)).filter fun i => (fieldAt bs lo n).testBit i

/-- Clusters that the record leaves unavailable, those with an unavailable core among them (R413). -/
def inventoryClusters (inv : List Byte) : List Nat :=
  let cores := marks inv 64 128
  let own := marks inv 192 16
  (List.range Config.clusters).filter fun c => own.contains c || cores.any fun k => k / 8 == c

/-- Stacks with no available pseudo-channel (R412). -/
def deadStacks (inv : List Byte) : List Nat :=
  let ch := marks inv 208 48
  (List.range 12).filter fun t => (List.range 32).all fun p => ch.contains (32 * t + p)

/-- Whether the record has the form of R412. -/
def inventoryForm (inv : List Byte) : Bool :=
  fieldAt inv 0 4 == 0x564E494C && fieldAt inv 4 4 == 1 && fieldAt inv 16 48 == 0 && fieldAt inv 286 34 == 0

/-- Whether the record leaves what boot needs (R413): a cluster, and on every die with one a stack. -/
def inventoryEnough (inv : List Byte) : Bool :=
  let bad := inventoryClusters inv
  let dead := deadStacks inv
  decide (bad.length < Config.clusters) && (List.range 4).all fun d =>
    (List.range 32).all (fun c => bad.contains (32 * d + c)) || !((List.range 3).all fun t => dead.contains (3 * d + t))

/-- Whether the inventory record is accepted (R411 to R413). -/
def inventoryOk (s : State) : Bool :=
  let inv := s.pkg.inventory
  inventoryForm inv && inventoryEnough inv && blockAccepted s (cutBytes inv 0 320) (cutBytes inv 320 5376)

/-- The record with the marks that boot has extended (R413). -/
def appliedInventory (inv : List Byte) : List Byte :=
  cutBytes inv 0 192 ++ leBytes 16 ((inventoryClusters inv).foldl (fun a c => a + 2 ^ c) 0) ++ inv.drop 208

/-- The live lanes of a port (R409, R412). -/
def inventoryLanes (inv : List Byte) (p : Nat) : BitVec 8 := ~~~(BitVec.ofNat 8 (fieldAt inv (256 + p) 1))

/-! ## Boot -/

/-- Boot stopped with a failure code (R410). -/
def bootFails (s : State) (code : Nat) : State := modPkg s fun p => { p with bootStatus := BitVec.ofNat 64 code }

/-- SHA-384 extension of a measurement register (R414). -/
def extendMeas (m : BitVec 384) (d : BitVec 384) : BitVec 384 := Config.sha384 (leBytes 48 m.toNat ++ leBytes 48 d.toNat)

/-- Step 3: HBM zero with valid check bits (R410). -/
def hbmClear (s : State) : State :=
  { s with mem := cellsFrom s.mem (tcmKey 0 0), ecc := s.ecc.filter (fun e => keyStore e.1 != 0),
           injected := s.injected.filter fun e => keyStore e.1 != 0 }

/-- Steps 3 and 4: HBM and every store of the package zero, every partition UNBOUND, no ASID live (R410). Host memory is not
the package's. -/
def bootClear (s : State) : State :=
  { s with mem := cellsFrom s.mem (hostKey 0), ecc := [], injected := [], parts := [], clusters := [], shadows := [],
           fills := [], walks := [], kills := [], stale := [], enqs := [], older := [] }

/-- The segments of the platform image written into a core's TCM, and entry 0 spawned in slot 0 (R410 step 5). -/
def bootCore (s : State) (c : Nat) : State :=
  let img := s.pkg.image
  let s1 := (segments img).foldl (fun a g => storeBytes a (tcmKey c g.place) (segmentBytes img g))
    (setCore s c { Core.fresh with mode := .running })
  spawnLow s1 c 0 (fieldAt img (fieldAt img 24 8) 8) 0 (logicalOfCore s c)

/-- Steps 6 and 7 and the measurements: lanes in training, the status word, the mailbox ready (R410, R414). DEDUCED, log 39. -/
def bootEnd (s : State) : State :=
  modPkg s fun p =>
    let m0 := extendMeas (p.meas.toList.getD 0 0#384) (Config.sha384 p.image)
    let m1 := extendMeas (p.meas.toList.getD 1 0#384) (Config.sha384 (cutBytes p.inventory 0 320))
    { p with
      ports := (List.range 24).map fun k =>
        let l := inventoryLanes p.inventory k
        (k, { lanes := l, st := if l = 0#8 then 0 else 1, resends := 0#32 }),
      meas := (p.meas.setIfInBounds 0 m0).setIfInBounds 1 m1, svn := fieldAt p.image (fieldAt p.image 40 8 + 8) 4,
      inventory := appliedInventory p.inventory, bootStatus := 1#64, busy := p.mbox.isSome, booted := true }

/-- The inventory's units taken into account before cores are spawned (R413). -/
def bootUnits (s : State) : State :=
  modPkg s fun p => { p with badClusters := inventoryClusters p.inventory, badHods := marks p.inventory 280 6,
                             badChans := marks p.inventory 208 48 }

/-- BOOT (R410): steps 2 to 7 after package reset; a step that fails stops it with its code. DESIGN CHOICE, log 3. -/
def execBoot (s : State) : Host.Outcome State Fault Refusal :=
  event s <|
    if s.pkg.booted || s.pkg.bootStatus ≠ 0#64 then none
    else if !(imageOk s.pkg.image && imageSigned s) then some (bootFails s 0x10)
    else if !inventoryOk s then some (bootFails s 0x11)
    else
      let s1 := { s with fresh := s.fresh + 2 }
      if !Config.trainOk s.fresh then some (bootFails s1 0x12)
      else if !Config.trainOk (s.fresh + 1) then some (bootFails (hbmClear (bootUnits s1)) 0x13)
      else if fieldAt s.pkg.image 32 4 = 0 then some (bootFails (bootUnits (bootClear s1)) 0x14)
      else
        let s2 := bootUnits (bootClear s1)
        some (bootEnd ((List.range (availCores s2)).foldl bootCore s2))

end Sys2Proof.Machine
end

