-- ==== Sys2Proof/Machine/Control.lean ====
section
/-! DEFINITION. Branches, calls, returns and the hardware loop (R165 to R170), and the illegal instruction (R134,
R135). -/

namespace Sys2Proof.Machine

/-- PC + 4 · sext(off) modulo 2^64 (R131). -/
def pcRel {w : Nat} (pc : Pc) (o : BitVec w) : Nat := (BitVec.setWidth 64 pc + BitVec.signExtend 64 o <<< 2).toNat

/-- B (R165): a branch always taken. -/
def execBr (o : BitVec 21) (s : State) : Host.Outcome State Fault Refusal :=
  runInstr s fun x => x.jump x.t (pcRel x.t.pc o)

/-- A branch under a condition (R165). -/
def Ctx.branch (x : Ctx) (taken : Bool) (o : BitVec 21) : Body :=
  if taken then x.jump x.t (pcRel x.t.pc o) else x.done x.t

/-- BP (R165). -/
def execBp (p : Fin 16) (o : BitVec 21) (s : State) : Host.Outcome State Fault Refusal :=
  runInstr s fun x => do
    let c ← x.readPred p
    x.branch c o

/-- BP.n (R165). -/
def execBpN (p : Fin 16) (o : BitVec 21) (s : State) : Host.Outcome State Fault Refusal :=
  runInstr s fun x => do
    let c ← x.readPred p
    x.branch (!c) o

/-- BTAG (R165): it reads no predicate. -/
def execBtag (t : BitVec 4) (o : BitVec 21) (s : State) : Host.Outcome State Fault Refusal :=
  runInstr s fun x => x.branch (tagOf x.t == t) o

/-- BTAG.n (R165). -/
def execBtagN (t : BitVec 4) (o : BitVec 21) (s : State) : Host.Outcome State Fault Refusal :=
  runInstr s fun x => x.branch (tagOf x.t != t) o

/-- CALL (R166). -/
def execCall (d : Fin 10) (o : BitVec 22) (s : State) : Host.Outcome State Fault Refusal :=
  runInstr s fun x => x.jump (writeReg x.t d (BitVec.setWidth 64 x.t.pc + 4#64)) (pcRel x.t.pc o)

/-- JR (R167). -/
def execJr (a : Fin 10) (p : Fin 16) (i : BitVec 14) (s : State) : Host.Outcome State Fault Refusal :=
  runInstr s fun x => x.guarded p <| x.needRegs [a] <|
    x.jump x.t (valOf x.t a + BitVec.signExtend 64 i <<< 2).toNat

/-- RET (R167). -/
def execRet (a : Fin 10) (p : Fin 16) (s : State) : Host.Outcome State Fault Refusal :=
  runInstr s fun x => x.guarded p <| x.needRegs [a] <| x.jump x.t (valOf x.t a).toNat

/-- The loop registers of a LOOP with count `n` and the skip of its body when n = 0 (R168). -/
def Ctx.startLoop (x : Ctx) (n : Nat) (e : BitVec 16) : Body :=
  let t := { x.t with lps := x.t.pc + 4#48, lpe := x.t.pc + BitVec.ofNat 48 (4 * e.toNat), lpc := BitVec.ofNat 32 n }
  if n = 0 then
    match fetchCode x.s x.c x.n t.lpe.toNat 4 with
    | .error r => .error (.trap x.s r none)
    | .ok b => x.jump t (t.lpe.toNat + 4 * wordCount (leNat b))
  else x.done t

/-- LOOP (R168). -/
def execLoop (a : Fin 10) (e : BitVec 16) (s : State) : Host.Outcome State Fault Refusal :=
  runInstr s fun x =>
    if e = 0#16 then x.illegal 0
    else x.needRegs [a] <|
      if 2 ^ 32 ≤ (valOf x.t a).toNat then x.illegalOperand (valOf x.t a) a
      else x.startLoop (valOf x.t a).toNat e

/-- LOOPX (R168). -/
def execLoopx (c : BitVec 10) (e : BitVec 16) (s : State) : Host.Outcome State Fault Refusal :=
  runInstr s fun x => if e = 0#16 then x.illegal 0 else x.startLoop c.toNat e

/-- A word that decodes to no instruction: the illegal-instruction trap; DETAIL 3 for the majors of extensions that
no core lists (R134, R135). -/
def execIllegalInstruction (w : BitVec 32) (s : State) : Host.Outcome State Fault Refusal :=
  runInstr s fun x =>
    let m := bits w.toNat 31 26
    x.trap 0x01 (BitVec.setWidth 64 w) (if 0x32 ≤ m && m ≤ 0x39 then 3#64 else 0#64)

end Sys2Proof.Machine
end

