-- ==== Sys2Proof/Machine/Float.lean ====
section
/-! DEFINITION. Scalar floating point (R171 to R177); the FP64 forms execute on a D core (R176). -/

namespace Sys2Proof.Machine

/-- The low bits of a register as a code of a format (R154). -/
def fpIn (f : FF) (v : Word) : Nat := v.toNat % 2 ^ f.width

/-- A floating-point result and its flags written (R154, R177). -/
def Ctx.fpOut (x : Ctx) (d : Nat) (r : Nat × BitVec 5) : Body :=
  x.done (addFlags (writeReg x.t d (BitVec.ofNat 64 r.1)) r.2)

/-- An operation on two registers. -/
def Ctx.fpTwo (x : Ctx) (f : FF) (d a b : Fin 10) (p : Fin 16) (g : Nat → Nat → Nat × BitVec 5) : Body :=
  x.guarded p <| x.needRegs [a, b] <| x.fpOut d (g (fpIn f (valOf x.t a)) (fpIn f (valOf x.t b)))

/-- FFMA reads its destination too (R172). -/
def Ctx.fpThree (x : Ctx) (f : FF) (d a b : Fin 10) (p : Fin 16) (m : Rm) : Body :=
  x.guarded p <| x.needRegs [a, b, d] <|
    x.fpOut d (fpFma f m (fpIn f (valOf x.t a)) (fpIn f (valOf x.t b)) (fpIn f (valOf x.t d)))

/-- FCMP (R174): a predicate and flags; the guard alone can taint (R155). -/
def Ctx.fpCompare (x : Ctx) (f : FF) (d : Fin 16) (a b : Fin 10) (p : Fin 16) (c : Cc) : Body :=
  x.guarded p <| x.needRegs [a, b] <|
    let r := fpCmp f c (fpIn f (valOf x.t a)) (fpIn f (valOf x.t b))
    { x with t := addFlags x.t r.2 }.writePred d r.1 (taintOf x.t p)

/-- FCVT (R175): under SR the draw takes its key from rb. -/
def Ctx.fpConvert (x : Ctx) (d a b : Fin 10) (p : Fin 16) (f t : CFmt) (m : Rm) : Body :=
  x.guarded p <| x.needRegs (if m = .sr then [a, b] else [a]) <|
    let draw := if m = .sr then srWord (valOf x.t b).toNat 0 0 else 0
    let r := fpCvt f t m (x.t.fmt.getLsbD 12) draw (valOf x.t a)
    x.done (addFlags (writeReg x.t d r.1) r.2)

/-- FADD (R171, R172). -/
def execFadd (d a b : Fin 10) (p : Fin 16) (m : Rm) (f : AFmt) (s : State) : Host.Outcome State Fault Refusal :=
  runInstr s fun x => x.fpTwo (ffArith f) d a b p (fpAdd (ffArith f) m)

/-- FADD.f64 (R176). -/
def execFaddF64 (d a b : Fin 10) (p : Fin 16) (m : Rm) (s : State) : Host.Outcome State Fault Refusal :=
  runInstr s fun x => x.onD <| x.fpTwo ffF64 d a b p (fpAdd ffF64 m)

/-- FMUL (R171, R172). -/
def execFmul (d a b : Fin 10) (p : Fin 16) (m : Rm) (f : AFmt) (s : State) : Host.Outcome State Fault Refusal :=
  runInstr s fun x => x.fpTwo (ffArith f) d a b p (fpMul (ffArith f) m)

/-- FMUL.f64 (R176). -/
def execFmulF64 (d a b : Fin 10) (p : Fin 16) (m : Rm) (s : State) : Host.Outcome State Fault Refusal :=
  runInstr s fun x => x.onD <| x.fpTwo ffF64 d a b p (fpMul ffF64 m)

/-- FFMA (R171, R172). -/
def execFfma (d a b : Fin 10) (p : Fin 16) (m : Rm) (f : AFmt) (s : State) : Host.Outcome State Fault Refusal :=
  runInstr s fun x => x.fpThree (ffArith f) d a b p m

/-- FFMA.f64 (R176). -/
def execFfmaF64 (d a b : Fin 10) (p : Fin 16) (m : Rm) (s : State) : Host.Outcome State Fault Refusal :=
  runInstr s fun x => x.onD <| x.fpThree ffF64 d a b p m

/-- FMIN (R173). -/
def execFmin (d a b : Fin 10) (p : Fin 16) (f : AFmt) (s : State) : Host.Outcome State Fault Refusal :=
  runInstr s fun x => x.fpTwo (ffArith f) d a b p (fpMin (ffArith f))

/-- FMIN.f64 (R173, R176). -/
def execFminF64 (d a b : Fin 10) (p : Fin 16) (s : State) : Host.Outcome State Fault Refusal :=
  runInstr s fun x => x.onD <| x.fpTwo ffF64 d a b p (fpMin ffF64)

/-- FCMP.cc (R174). -/
def execFcmp (d : Fin 16) (a b : Fin 10) (p : Fin 16) (c : Cc) (f : AFmt) (s : State) :
    Host.Outcome State Fault Refusal :=
  runInstr s fun x => x.fpCompare (ffArith f) d a b p c

/-- FCMP.cc.f64 (R174, R176). -/
def execFcmpF64 (d : Fin 16) (a b : Fin 10) (p : Fin 16) (c : Cc) (s : State) : Host.Outcome State Fault Refusal :=
  runInstr s fun x => x.onD <| x.fpCompare ffF64 d a b p c

/-- FCVT (R175). -/
def execFcvt (d a b : Fin 10) (p : Fin 16) (f t : CFmt) (m : Rm) (s : State) : Host.Outcome State Fault Refusal :=
  runInstr s fun x => x.fpConvert d a b p f t m

/-- FCVT with FP64 on a side (R175, R176). -/
def execFcvtF64 (d a b : Fin 10) (p : Fin 16) (f t : CFmt) (m : Rm) (s : State) : Host.Outcome State Fault Refusal :=
  runInstr s fun x => x.onD <| x.fpConvert d a b p f t m

end Sys2Proof.Machine
end

