-- ==== Sys2Proof/Machine/Integer.lean ====
section
/-! DEFINITION. Integer arithmetic, compares, predicate logic, SEL and random numbers (R157 to R164, R180, R181). -/

namespace Sys2Proof.Machine

/-- A result of two registers (R157). -/
def aluReg (s : State) (d a b : Fin 10) (p : Fin 16) (f : Word → Word → Word) : Host.Outcome State Fault Refusal :=
  runInstr s fun x => x.guarded p <| x.needRegs [a, b] <| x.done (writeReg x.t d (f (valOf x.t a) (valOf x.t b)))

/-- A result of one register (R157, R159). -/
def aluOne (s : State) (d a : Fin 10) (p : Fin 16) (f : Word → Word) : Host.Outcome State Fault Refusal :=
  runInstr s fun x => x.guarded p <| x.needRegs [a] <| x.done (writeReg x.t d (f (valOf x.t a)))

/-- A result of the division group: the slot then waits 32 cycles (R158). -/
def divReg (s : State) (d a b : Fin 10) (p : Fin 16) (f : Word → Word → Word) : Host.Outcome State Fault Refusal :=
  runInstr s fun x => x.guarded p <| x.needRegs [a, b] <|
    (x.done (writeReg x.t d (f (valOf x.t a) (valOf x.t b)))).map fun s1 =>
      waitSlot s1 x.c x.n (.divide (x.s.cycle + 32))

/-- Bits 127 to 64 of a product (R157). -/
def mulHigh (x y : Int) : Word := ofInt 64 (x * y / 2 ^ 64)

/-- DIV (R157): truncated toward zero; −1 for a zero divisor. -/
def divSigned (x y : Word) : Word := if y = 0#64 then BitVec.allOnes 64 else ofInt 64 (x.toInt.tdiv y.toInt)

/-- DIVU (R157). -/
def divUnsigned (x y : Word) : Word := if y = 0#64 then BitVec.allOnes 64 else BitVec.ofNat 64 (x.toNat / y.toNat)

/-- REM (R157): x − y · q with the quotient of DIV. -/
def remSigned (x y : Word) : Word := if y = 0#64 then x else x - y * divSigned x y

/-- REMU (R157). -/
def remUnsigned (x y : Word) : Word := if y = 0#64 then x else x - y * divUnsigned x y

/-- The shift amount y[5:0] (R157). -/
def shiftAmount (y : Word) : Nat := y.toNat % 64

/-- Leading zero bits (R157 CLZ). -/
def leadingZeros (x : Word) : Word := BitVec.ofNat 64 (if x = 0#64 then 64 else 63 - Nat.log2 x.toNat)

/-- One bits of the low `n` bits. -/
def onesBelow (x : Word) : Nat → Nat
  | 0 => 0
  | n + 1 => onesBelow x n + if x.getLsbD n then 1 else 0

/-- Number of one bits (R157 POPC). -/
def popCount (x : Word) : Word := BitVec.ofNat 64 (onesBelow x 64)

/-- ADD (R157). -/
def execAdd (d a b : Fin 10) (p : Fin 16) (s : State) : Host.Outcome State Fault Refusal :=
  aluReg s d a b p fun x y => x + y

/-- SUB (R157). -/
def execSub (d a b : Fin 10) (p : Fin 16) (s : State) : Host.Outcome State Fault Refusal :=
  aluReg s d a b p fun x y => x - y

/-- MUL (R157). -/
def execMul (d a b : Fin 10) (p : Fin 16) (s : State) : Host.Outcome State Fault Refusal :=
  aluReg s d a b p fun x y => x * y

/-- MULH (R157). -/
def execMulh (d a b : Fin 10) (p : Fin 16) (s : State) : Host.Outcome State Fault Refusal :=
  aluReg s d a b p fun x y => mulHigh x.toInt y.toInt

/-- MULHU (R157). -/
def execMulhu (d a b : Fin 10) (p : Fin 16) (s : State) : Host.Outcome State Fault Refusal :=
  aluReg s d a b p fun x y => mulHigh x.toNat y.toNat

/-- AND (R157). -/
def execAnd (d a b : Fin 10) (p : Fin 16) (s : State) : Host.Outcome State Fault Refusal :=
  aluReg s d a b p fun x y => x &&& y

/-- OR (R157). -/
def execOr (d a b : Fin 10) (p : Fin 16) (s : State) : Host.Outcome State Fault Refusal :=
  aluReg s d a b p fun x y => x ||| y

/-- XOR (R157). -/
def execXor (d a b : Fin 10) (p : Fin 16) (s : State) : Host.Outcome State Fault Refusal :=
  aluReg s d a b p fun x y => x ^^^ y

/-- SHL (R157). -/
def execShl (d a b : Fin 10) (p : Fin 16) (s : State) : Host.Outcome State Fault Refusal :=
  aluReg s d a b p fun x y => x <<< shiftAmount y

/-- SHR (R157). -/
def execShr (d a b : Fin 10) (p : Fin 16) (s : State) : Host.Outcome State Fault Refusal :=
  aluReg s d a b p fun x y => x >>> shiftAmount y

/-- SAR (R157). -/
def execSar (d a b : Fin 10) (p : Fin 16) (s : State) : Host.Outcome State Fault Refusal :=
  aluReg s d a b p fun x y => x.sshiftRight (shiftAmount y)

/-- MIN (R157). -/
def execMin (d a b : Fin 10) (p : Fin 16) (s : State) : Host.Outcome State Fault Refusal :=
  aluReg s d a b p fun x y => if x.slt y then x else y

/-- MAX (R157). -/
def execMax (d a b : Fin 10) (p : Fin 16) (s : State) : Host.Outcome State Fault Refusal :=
  aluReg s d a b p fun x y => if x.slt y then y else x

/-- MINU (R157). -/
def execMinu (d a b : Fin 10) (p : Fin 16) (s : State) : Host.Outcome State Fault Refusal :=
  aluReg s d a b p fun x y => if x.ult y then x else y

/-- MAXU (R157). -/
def execMaxu (d a b : Fin 10) (p : Fin 16) (s : State) : Host.Outcome State Fault Refusal :=
  aluReg s d a b p fun x y => if x.ult y then y else x

/-- DIV (R157, R158). -/
def execDiv (d a b : Fin 10) (p : Fin 16) (s : State) : Host.Outcome State Fault Refusal :=
  divReg s d a b p divSigned

/-- DIVU (R157, R158). -/
def execDivu (d a b : Fin 10) (p : Fin 16) (s : State) : Host.Outcome State Fault Refusal :=
  divReg s d a b p divUnsigned

/-- REM (R157, R158). -/
def execRem (d a b : Fin 10) (p : Fin 16) (s : State) : Host.Outcome State Fault Refusal :=
  divReg s d a b p remSigned

/-- REMU (R157, R158). -/
def execRemu (d a b : Fin 10) (p : Fin 16) (s : State) : Host.Outcome State Fault Refusal :=
  divReg s d a b p remUnsigned

/-- CLZ (R157). -/
def execClz (d a : Fin 10) (p : Fin 16) (s : State) : Host.Outcome State Fault Refusal := aluOne s d a p leadingZeros

/-- POPC (R157). -/
def execPopc (d a : Fin 10) (p : Fin 16) (s : State) : Host.Outcome State Fault Refusal := aluOne s d a p popCount

/-- ADDI (R159). -/
def execAddi (d a : Fin 10) (p : Fin 16) (i : BitVec 14) (s : State) : Host.Outcome State Fault Refusal :=
  aluOne s d a p fun x => x + BitVec.signExtend 64 i

/-- ANDI (R159). -/
def execAndi (d a : Fin 10) (p : Fin 16) (i : BitVec 14) (s : State) : Host.Outcome State Fault Refusal :=
  aluOne s d a p fun x => x &&& BitVec.signExtend 64 i

/-- ORI (R159). -/
def execOri (d a : Fin 10) (p : Fin 16) (i : BitVec 14) (s : State) : Host.Outcome State Fault Refusal :=
  aluOne s d a p fun x => x ||| BitVec.signExtend 64 i

/-- XORI (R159). -/
def execXori (d a : Fin 10) (p : Fin 16) (i : BitVec 14) (s : State) : Host.Outcome State Fault Refusal :=
  aluOne s d a p fun x => x ^^^ BitVec.signExtend 64 i

/-- SHLI (R159). -/
def execShli (d a : Fin 10) (p : Fin 16) (n : BitVec 6) (s : State) : Host.Outcome State Fault Refusal :=
  aluOne s d a p fun x => x <<< n.toNat

/-- SHRI (R159). -/
def execShri (d a : Fin 10) (p : Fin 16) (n : BitVec 6) (s : State) : Host.Outcome State Fault Refusal :=
  aluOne s d a p fun x => x >>> n.toNat

/-- SARI (R159). -/
def execSari (d a : Fin 10) (p : Fin 16) (n : BitVec 6) (s : State) : Host.Outcome State Fault Refusal :=
  aluOne s d a p fun x => x.sshiftRight n.toNat

/-- LUI (R160). -/
def execLui (d : Fin 10) (p : Fin 16) (i : BitVec 18) (s : State) : Host.Outcome State Fault Refusal :=
  runInstr s fun x => x.guarded p <| x.done (writeReg x.t d (BitVec.signExtend 64 i <<< 14))

/-- LIX, a two-word instruction (R137, R161). -/
def execLix (d : Fin 10) (p : Fin 16) (i : BitVec 32) (s : State) : Host.Outcome State Fault Refusal :=
  runInstr s fun x => x.guardedN 8 p <| x.finish x.s (writeReg x.t d (BitVec.signExtend 64 i)) 8

/-- CMP.cc (R162): the guard alone can taint (R155). -/
def execCmp (d : Fin 16) (a b : Fin 10) (p : Fin 16) (c : Cc) (s : State) : Host.Outcome State Fault Refusal :=
  runInstr s fun x => x.guarded p <| x.needRegs [a, b] <|
    x.writePred d (ccInt c (valOf x.t a) (valOf x.t b)) (taintOf x.t p)

/-- CMPI.cc (R162). -/
def execCmpi (d : Fin 16) (a : Fin 10) (p : Fin 16) (c : Cc) (i : BitVec 10) (s : State) :
    Host.Outcome State Fault Refusal :=
  runInstr s fun x => x.guarded p <| x.needRegs [a] <|
    x.writePred d (ccInt c (valOf x.t a) (BitVec.signExtend 64 i)) (taintOf x.t p)

/-- A predicate of two predicates (R155, R163). -/
def predTwo (s : State) (d a b p : Fin 16) (f : Bool → Bool → Bool) : Host.Outcome State Fault Refusal :=
  runInstr s fun x => x.guarded p <| do
    let u ← x.readPred a
    let v ← x.readPred b
    x.writePred d (f u v) (taintOf x.t p || taintOf x.t a || taintOf x.t b)

/-- A predicate of one predicate (R155, R163). -/
def predOne (s : State) (d a p : Fin 16) (f : Bool → Bool) : Host.Outcome State Fault Refusal :=
  runInstr s fun x => x.guarded p <| do
    let u ← x.readPred a
    x.writePred d (f u) (taintOf x.t p || taintOf x.t a)

/-- PAND (R163). -/
def execPand (d a b p : Fin 16) (s : State) : Host.Outcome State Fault Refusal := predTwo s d a b p fun u v => u && v

/-- POR (R163). -/
def execPor (d a b p : Fin 16) (s : State) : Host.Outcome State Fault Refusal := predTwo s d a b p fun u v => u || v

/-- PXOR (R163). -/
def execPxor (d a b p : Fin 16) (s : State) : Host.Outcome State Fault Refusal := predTwo s d a b p fun u v => u != v

/-- PNOT (R163). -/
def execPnot (d a p : Fin 16) (s : State) : Host.Outcome State Fault Refusal := predOne s d a p fun u => !u

/-- PMOV (R163). -/
def execPmov (d a p : Fin 16) (s : State) : Host.Outcome State Fault Refusal := predOne s d a p fun u => u

/-- SEL (R164): both registers are read whatever the selector. -/
def execSel (d a b : Fin 10) (p c : Fin 16) (s : State) : Host.Outcome State Fault Refusal :=
  runInstr s fun x => x.guarded p <| x.needRegs [a, b] <| do
    let u ← x.readPred c
    x.done (writeReg x.t d (if u then valOf x.t a else valOf x.t b))

/-- The word that RND writes (R72, R180). -/
def rndWord (key ctr : Word) : Word :=
  let (w0, w1, _, _) := philox (bits ctr.toNat 31 0) (bits ctr.toNat 63 32) 0 0 (bits key.toNat 31 0) (bits key.toNat 63 32)
  BitVec.ofNat 64 (w1 * 2 ^ 32 + w0)

/-- RND (R180). -/
def execRnd (d a b : Fin 10) (p : Fin 16) (s : State) : Host.Outcome State Fault Refusal :=
  aluReg s d a b p rndWord

/-- SEED (R181): the determinism trap under STRICT, else a request to the entropy source; it names core-local state
(R209). -/
def execSeed (d : Fin 10) (p : Fin 16) (s : State) : Host.Outcome State Fault Refusal :=
  runInstr s fun x => x.atHome <| x.guarded p <|
    if strictOf x.t then x.trap 0x09 (BitVec.setWidth 64 x.t.pw) 0#64
    else
      let m := mkMsg x.s x.c x.n x.s.pkg.dev.toNat x.c .request false (.seedReq x.n d)
      x.finish (putMsg x.s { m with due := x.s.cycle + 1 + seedDelay x.s }) (reserveReg x.t d) 4

end Sys2Proof.Machine
end

