-- ==== Sys2Proof/Machine/Sched.lean ====
section
/-! DEFINITION. What the hardware does next: events, hod programs, issue (R120). An event that its meaning finds not due
leaves the state as it is and is passed over. The order is that of R120: signals of engines, then messages (phase 1), the tile
table's fills, retirements and claims (phase 2, R90), then what starts. -/

namespace Sys2Proof.Machine

/-- What an event of the hardware comes to, if it changes the state. -/
def happened (s : State) (o : Host.Outcome State Fault Refusal) : Option (Host.Outcome State Fault Refusal) :=
  match o with
  | .next t => if t = s then none else some o
  | _ => some o

/-- The first candidate of a list that gives an event. DESIGN CHOICE, log 25. -/
def firstEvent {α : Type} (l : List α) (f : α → Option (Host.Outcome State Fault Refusal)) :
    Option (Host.Outcome State Fault Refusal) := l.findSome? f

/-! ## Messages -/

/-- The event of a time-division packet (R402 to R404). -/
def tdEvent (s : State) (m : Msg) : Host.Outcome State Fault Refusal :=
  if m.egress then execTdWindowDepart m.uid s
  else if m.due = 0 then execTdLateArrival m.uid s
  else execTdPacketApply m.uid s

/-- The event of an access (R184, R213, R33). -/
def accessEvent (s : State) (m : Msg) (a : Access) : Host.Outcome State Fault Refusal :=
  match a.kind with
  | .put => execPutArrival m.uid s
  | .join => execJoinDecrement m.uid s
  | _ => execFarEndAccess m.uid s

/-- The arrival of a message. -/
def arrivalEvent (s : State) (m : Msg) : Host.Outcome State Fault Refusal :=
  match m.body with
  | .send _ _ _ _ => execSendArrival m.uid s
  | .sigr _ _ => execSigrArrival m.uid s
  | .signal _ _ _ _ => execSigrArrival m.uid s
  | .packet _ => execWorkPacketArrival m.uid s
  | .access a => accessEvent s m a
  | .reply _ _ _ _ => execReplyArrival m.uid s
  | .enqReply _ _ _ => execReplyArrival m.uid s
  | .ldData _ _ _ _ _ => execLdDataArrival m.uid s
  | .stnAck _ => execStnAcknowledgement m.uid s
  | .farFault _ _ _ _ _ => execFarEndFault m.uid s
  | .seedReq _ _ => execSeedService m.uid s
  | .seedReply _ _ _ => execSeedReply m.uid s
  | .migrate _ => execMigrationArrival m.uid s
  | .visit _ _ _ _ => execMigrationArrival m.uid s
  | .visitReturn _ _ _ _ => execVisitReturn m.uid s
  | .credit => execChannelCreditReturn m.uid s
  | .joinReq _ _ _ _ => execJoinRequestArrival m.uid s
  | .joinReply _ _ _ _ _ => execJoinReplyArrival m.uid s
  | .admission _ _ _ => execAdmissionArrival m.uid s
  | .beat _ _ _ _ _ => execBeatArrival m.uid s
  | .beatAck _ _ _ => execBeatAckArrival m.uid s
  | .evictNotice _ _ _ => execEvictionNoticeArrival m.uid s
  | .evictAck _ _ _ => execEvictionAckArrival m.uid s
  | .chevictReq _ _ => execChevictRequestArrival m.uid s
  | .chevictDone _ => execEvictionAckArrival m.uid s
  | .preempt _ _ _ _ => execPreemptArrival m.uid s
  | .resume _ _ _ _ => execResumeArrival m.uid s
  | .debugHalt _ _ => execDebugHaltArrival m.uid s

/-- The event of a message in flight. -/
def msgEvent (s : State) (m : Msg) : Option (Host.Outcome State Fault Refusal) :=
  if m.net = .timediv then happened s (tdEvent s m)
  else if s.cycle < m.due then none
  else if m.egress then happened s (execEgressQueueDeparture m.uid s)
  else happened s (arrivalEvent s m)

/-- Whether a message brings the end of a command of its core's MNI: an engine signal of R120. -/
def endsMni (s : State) (m : Msg) : Bool :=
  match m.body with
  | .signal _ _ _ cmd => (activeCmd s m.dcore cmd).any fun x => (cmdCode x.op).1 == 4
  | .joinReply _ _ _ _ _ | .beatAck _ _ _ | .chevictDone _ => true
  | _ => false

/-- The place of a message among those of a cycle: signals of the MNI's own commands, hod signals and beats, then joins and
everything else, then evictions (R120, R291). Those of one rank follow in the order of their sending, which stands for the order
of ports. DESIGN CHOICE, log 25. -/
def msgRank (s : State) (m : Msg) : Nat :=
  if endsMni s m then 0
  else match m.body with
    | .signal _ _ _ _ | .beat _ _ _ _ _ => 1
    | .evictNotice _ _ _ | .chevictReq _ _ => 3
    | _ => 2

/-- The next message event of a cycle among those of the given places (R120, R291). -/
def netEvent (s : State) (ranks : List Nat) : Option (Host.Outcome State Fault Refusal) :=
  firstEvent ranks fun r => firstEvent (s.net.filter fun m => msgRank s m == r) (msgEvent s)

/-! ## Slots -/

/-- The event that ends the wait of a slot (R31, R193 to R201, R214, R216, R340). -/
def waitEvent (s : State) (c n : Nat) (x : Slot) : Option (Host.Outcome State Fault Refusal) :=
  match x.wait with
  | .fence _ => happened s (execFenceComplete c n s)
  | .exit => happened s (execExitRetire c n s)
  | .abort _ => happened s (execExitRetire c n s)
  | .cancel => happened s (execExitRetire c n s)
  | .fork => happened s (execForkAppend c n s)
  | .enq _ _ _ _ => happened s (execEnqAppend c n s)
  | .subs _ _ _ => happened s (execSubsComplete c n s)
  | .tlbi _ => happened s (execTlbiComplete c n s)
  | .watch _ _ _ _ => happened s (execWatchWake c n s)
  | .time _ => happened s (execWaittReady c n s)
  | .divide _ => happened s (execDivideWaitEnd c n s)
  | .yield _ => happened s (execYieldWaitEnd c n s)
  | _ => none

/-- The event of a slot: a cancel (R41), the end of a wait, the wait limit (R218). -/
def slotEvent (s : State) (c n : Nat) (x : Slot) : Option (Host.Outcome State Fault Refusal) :=
  (if x.cancelled then happened s (execThreadCancelStop c n s) else none).or
    (if x.st = .waiting then
      (waitEvent s c n x).or
        (if x.limit ≠ 0#32 && decide (x.limit.toNat ≤ x.waitCount) then happened s (execWaitLimitReached c n s) else none)
    else none)

/-! ## Cores -/

/-- The end of a command that a core's engine has started: its signal applies (R120, R244). -/
def endEvent (s : State) (c : Nat) (x : Cmd) : Option (Host.Outcome State Fault Refusal) :=
  match (cmdCode x.op).1 with
  | 0 => happened s (execMxeCommandComplete c x.uid s)
  | 1 => happened s (execVxeCommandComplete c x.uid s)
  | _ => none

/-- The signals of engines in phase 1 (R120). -/
def signalEvent (s : State) : Option (Host.Outcome State Fault Refusal) :=
  (firstEvent s.cores fun e => firstEvent e.2.active (endEvent s e.1)).or <|
    firstEvent s.clusters fun e => firstEvent e.2.active fun x => happened s (execGceCommandComplete e.1 x.uid s)

/-- A retirement of readers in phase 2 (R90 step 2, R101). -/
def retireEvent (s : State) : Option (Host.Outcome State Fault Refusal) :=
  let retire (l : List Cmd) : Option (Host.Outcome State Fault Refusal) :=
    firstEvent l fun x => if x.retired || !x.started then none else happened s (execReaderRetire x.core x.uid s)
  (firstEvent s.cores fun e => retire e.2.active).or <| firstEvent s.clusters fun e => retire e.2.active

/-- The chains of a core's MNI that are complete, then those that have a row to apply: before the beats of the cycle (R294;
log 91). -/
def chainEvent (s : State) (e : Nat × Core) : Option (Host.Outcome State Fault Refusal) :=
  let at_ (f : Chain → Bool) : Option (Host.Outcome State Fault Refusal) :=
    firstEvent e.2.chains fun h => if h.2.st = 1 && f h.2 then happened s (execStoredRowApply e.1 h.1 s) else none
  (at_ fun h => h.done == h.n).or (at_ fun h => !h.stored.isEmpty)

/-- The event of the engines of a core (R220, R221, R236, R246, R272, R287, R292). -/
def engineEvent (s : State) (c : Nat) (k : Core) : Option (Host.Outcome State Fault Refusal) :=
  (firstEvent k.sends fun d => if d.2.rows.isEmpty then none else happened s (execStagedBeatSend c d.2.num s)).or <|
    (if k.mxeq.isEmpty then none else happened s (execMxeCommandStart c s)).or <|
    (if k.mxeq.isEmpty && k.active.isEmpty then none else happened s (execMxeStep c s)).or <|
    (if k.vxeq.isEmpty then none else happened s (execVxeCommandStart c s)).or <|
    (if k.hodq.isEmpty then none else happened s (execHodInterfaceStart c s)).or <|
    if k.mniq.isEmpty then none else happened s (execMniCommandStart c s)

/-- Slots that a watch entry lacked made READY once one is free (R45, R194). -/
def watchRoom (s : State) (c : Nat) (k : Core) : Option (Host.Outcome State Fault Refusal) :=
  if decide (watchCount k < Config.watchEntries) && k.slots.any (fun p => p.2.st = .waiting && p.2.wait == .res .watch) then
    happened s (.next (wakeRes s c .watch))
  else none

/-- The event of a pre-emption or resumption (R380), and the watchdog (R388). -/
def phaseEvent (s : State) (c : Nat) (k : Core) : Option (Host.Outcome State Fault Refusal) :=
  (if k.op.isNone then none
    else (happened s (execSaveBegin c s)).or <| (happened s (execSaveComplete c s)).or <|
      (happened s (execRestoreBegin c s)).or <| happened s (execRestoreComplete c s)).or <|
    if k.qwd = 0#64 then none else happened s (execQuiescenceWatchdogFire c s)

/-- The event that brings a thread to a slot: spilled entries, published forks, the inbox, the deque (R30, R197, R376,
R386). -/
def spawnEvent (s : State) (c : Nat) (k : Core) : Option (Host.Outcome State Fault Refusal) :=
  (if k.spill.isEmpty then none else happened s (execSpillQueueDelivery c s)).or <|
    (if k.forkQ.isEmpty then none else happened s (execForkPublish c s)).or <|
    (if k.inbox.isEmpty then none else happened s (execPacketSpawn c s)).or <|
    if k.dqb = 0#64 then none else happened s (execDequePop c s)

/-- The event of a core. -/
def coreEvent (s : State) (e : Nat × Core) : Option (Host.Outcome State Fault Refusal) :=
  (firstEvent e.2.slots fun p =>
      if p.2.st = .waiting || p.2.cancelled then slotEvent s e.1 p.1 p.2 else none).or <|
    (watchRoom s e.1 e.2).or <|
    (engineEvent s e.1 e.2).or <| (phaseEvent s e.1 e.2).or <| spawnEvent s e.1 e.2

/-! ## Clusters, fills, hods -/

/-- The event of a cluster's GCE (R249, R268). -/
def clusterEvent (s : State) (e : Nat × Cluster) : Option (Host.Outcome State Fault Refusal) :=
  (if e.2.active.isEmpty then none else happened s (execGceStep e.1 s)).or <|
    if e.2.gceq.isEmpty then none else happened s (execGceCommandStart e.1 s)

/-- The end of a fill (R89, R90 step 1, R91). -/
def fillEvent (s : State) (f : Fill) : Option (Host.Outcome State Fault Refusal) :=
  if f.index.isNone then none else (happened s (execFillFailure f.uid s)).or (happened s (execFillComplete f.uid s))

/-- The claim of a fill (R90 step 3, R96). -/
def claimEvent (s : State) (f : Fill) : Option (Host.Outcome State Fault Refusal) :=
  if f.index.isNone then happened s (execFillerClaim f.uid s) else none

/-- The event of a hod (R272). -/
def hodEvent (s : State) (e : Nat × Hod) : Option (Host.Outcome State Fault Refusal) :=
  (firstEvent e.2.progs fun p => if p.2.ended then happened s (execHodrunComplete e.1 p.1 s) else none).or <|
    if e.2.queue.isEmpty then none else happened s (execHodProgramBegin e.1 s)

/-- The next entry of a hod with its fetch: the hod, the place, the state after the fetch, and the command, or none where
the fetch or the encoding is a program error (R275, R281, R282). -/
def hodNext (s : State) (h : Nat) : Option (Nat × Prog × State × Option Instr) :=
  (pickProg s h).map fun e =>
    let f := fetchEntry s e.2
    let i := f.2.bind fun w => match decodeHod w with
      | .ok i => some i
      | .error _ => none
    (e.1, e.2, f.1, i)

/-- The program error of a hod whose next entry cannot be fetched or decoded (R282). -/
def hodFault (s : State) (h : Nat) : Option (Host.Outcome State Fault Refusal) :=
  match hodNext s h with
  | some (n, p, s1, none) => some (.next (modProg (hodStarted s1 h n) h n fun _ => failProg p p.pc))
  | _ => none

/-! ## Package -/

/-- The event of a partition command: its start, then its steps (R358). -/
def partEvent (s : State) (e : Nat × Part) : Option (Host.Outcome State Fault Refusal) :=
  match e.2.cmd with
  | none => none
  | some c =>
    let p := BitVec.ofNat 6 e.1
    if c.phase ≠ 0 then happened s (execPartitionCommandComplete e.1 s)
    else match c.op with
      | 1 => happened s (execBind p s)
      | 2 => happened s (execHalt p s)
      | 3 => happened s (execCont p s)
      | 4 => happened s (execSwapout p s)
      | 5 => happened s (execSwapin p s)
      | 6 => happened s (execReset p s)
      | _ => happened s (execUnbind p s)

/-- The event of a connection (R393 to R395). -/
def connEvent (s : State) (e : Nat × Conn) : Option (Host.Outcome State Fault Refusal) :=
  (if e.2.resident then none else happened s (execPeerStateLoad e.1 s)).or <|
    (happened s (execConnectionDown e.1 s)).or <|
    firstEvent [0, 1, 2] fun cls => happened s (execRetransmitTimeout e.1 cls s)

/-- The events of the package: boot (R410), sync messages (R397), the mailbox (R408), host appends and parted ENQs (R219,
R369), connections, partition commands, kill fences, page walks. -/
def pkgEvent (s : State) : Option (Host.Outcome State Fault Refusal) :=
  (if s.pkg.booted then none else happened s (execBoot s)).or <|
    (if s.pkg.tctl.getLsbD 1 then happened s (execSyncIntervalExpiry s) else none).or <|
    ((mailboxEnd s).map .next).or <|
    ((hostPublish s).map .next).or <|
    (firstEvent s.enqs fun j => happened s (execEnqAppend j.core j.slot s)).or <|
    (firstEvent s.kills fun q => happened s (execKillFence q.uid s)).or <|
    (firstEvent s.parts (partEvent s)).or <|
    (firstEvent s.pkg.conns (connEvent s)).or <|
    firstEvent s.walks fun w => if s.cycle < w.due then none else happened s (execPageWalk w.uid s)

/-- The event that is due, carried out (R120 phases 1 and 2, R90). -/
def runEvent (s : State) : Option (Host.Outcome State Fault Refusal) :=
  (pkgEvent s).or <| (signalEvent s).or <| (netEvent s [0]).or <| (firstEvent s.cores (chainEvent s)).or <|
    (netEvent s [1, 2, 3]).or <|
    (firstEvent s.fills (fillEvent s)).or <| (retireEvent s).or <| (firstEvent s.fills (claimEvent s)).or <|
    (firstEvent s.cores (coreEvent s)).or <| (firstEvent s.clusters (clusterEvent s)).or <|
    (firstEvent s.hods (hodEvent s)).or <| firstEvent s.hods fun e => hodFault s e.1

/-- The command of a hod program that starts now, with the state after its fetch (R271, R281). -/
def nextHod (s : State) : Option (State × Instr) :=
  s.hods.findSome? fun e =>
    match hodNext s e.1 with
    | some (n, _, s1, some i) => some (hodStarted s1 e.1 n, i)
    | _ => none

end Sys2Proof.Machine
end

