-- ==== Sys2Proof/Machine/Dispatch.lean ====
section
/-! DEFINITION. The meaning of every instruction, command and step: one arm per constructor. -/

namespace Sys2Proof.Machine

/-- What an instruction, command or step does. -/
def exec (i : Instr) (s : State) : Host.Outcome State Fault Refusal :=
  match i with
  | .add d a b p => Sys2Proof.Machine.execAdd d a b p s
  | .sub d a b p => Sys2Proof.Machine.execSub d a b p s
  | .mul d a b p => Sys2Proof.Machine.execMul d a b p s
  | .mulh d a b p => Sys2Proof.Machine.execMulh d a b p s
  | .mulhu d a b p => Sys2Proof.Machine.execMulhu d a b p s
  | .div d a b p => Sys2Proof.Machine.execDiv d a b p s
  | .divu d a b p => Sys2Proof.Machine.execDivu d a b p s
  | .rem d a b p => Sys2Proof.Machine.execRem d a b p s
  | .remu d a b p => Sys2Proof.Machine.execRemu d a b p s
  | .and d a b p => Sys2Proof.Machine.execAnd d a b p s
  | .or d a b p => Sys2Proof.Machine.execOr d a b p s
  | .xor d a b p => Sys2Proof.Machine.execXor d a b p s
  | .shl d a b p => Sys2Proof.Machine.execShl d a b p s
  | .shr d a b p => Sys2Proof.Machine.execShr d a b p s
  | .sar d a b p => Sys2Proof.Machine.execSar d a b p s
  | .min d a b p => Sys2Proof.Machine.execMin d a b p s
  | .max d a b p => Sys2Proof.Machine.execMax d a b p s
  | .minu d a b p => Sys2Proof.Machine.execMinu d a b p s
  | .maxu d a b p => Sys2Proof.Machine.execMaxu d a b p s
  | .clz d a p => Sys2Proof.Machine.execClz d a p s
  | .popc d a p => Sys2Proof.Machine.execPopc d a p s
  | .addi d a p imm => Sys2Proof.Machine.execAddi d a p imm s
  | .andi d a p imm => Sys2Proof.Machine.execAndi d a p imm s
  | .ori d a p imm => Sys2Proof.Machine.execOri d a p imm s
  | .xori d a p imm => Sys2Proof.Machine.execXori d a p imm s
  | .shli d a p n => Sys2Proof.Machine.execShli d a p n s
  | .shri d a p n => Sys2Proof.Machine.execShri d a p n s
  | .sari d a p n => Sys2Proof.Machine.execSari d a p n s
  | .lui d p imm => Sys2Proof.Machine.execLui d p imm s
  | .lix d p imm => Sys2Proof.Machine.execLix d p imm s
  | .cmp d a b p c => Sys2Proof.Machine.execCmp d a b p c s
  | .cmpi d a p c imm => Sys2Proof.Machine.execCmpi d a p c imm s
  | .pand d a b p => Sys2Proof.Machine.execPand d a b p s
  | .por d a b p => Sys2Proof.Machine.execPor d a b p s
  | .pxor d a b p => Sys2Proof.Machine.execPxor d a b p s
  | .pnot d a p => Sys2Proof.Machine.execPnot d a p s
  | .pmov d a p => Sys2Proof.Machine.execPmov d a p s
  | .sel d a b p c => Sys2Proof.Machine.execSel d a b p c s
  | .rnd d a b p => Sys2Proof.Machine.execRnd d a b p s
  | .seed d p => Sys2Proof.Machine.execSeed d p s
  | .csrr d p c => Sys2Proof.Machine.execCsrr d p c s
  | .csrw a p c => Sys2Proof.Machine.execCsrw a p c s
  | .br o => Sys2Proof.Machine.execBr o s
  | .bp p o => Sys2Proof.Machine.execBp p o s
  | .bpN p o => Sys2Proof.Machine.execBpN p o s
  | .btag t o => Sys2Proof.Machine.execBtag t o s
  | .btagN t o => Sys2Proof.Machine.execBtagN t o s
  | .call d o => Sys2Proof.Machine.execCall d o s
  | .jr a p imm => Sys2Proof.Machine.execJr a p imm s
  | .ret a p => Sys2Proof.Machine.execRet a p s
  | .loop a e => Sys2Proof.Machine.execLoop a e s
  | .loopx c e => Sys2Proof.Machine.execLoopx c e s
  | .fadd d a b p m f => Sys2Proof.Machine.execFadd d a b p m f s
  | .fmul d a b p m f => Sys2Proof.Machine.execFmul d a b p m f s
  | .ffma d a b p m f => Sys2Proof.Machine.execFfma d a b p m f s
  | .fmin d a b p f => Sys2Proof.Machine.execFmin d a b p f s
  | .fcmp d a b p c f => Sys2Proof.Machine.execFcmp d a b p c f s
  | .fcvt d a b p f t m => Sys2Proof.Machine.execFcvt d a b p f t m s
  | .faddF64 d a b p m => Sys2Proof.Machine.execFaddF64 d a b p m s
  | .fmulF64 d a b p m => Sys2Proof.Machine.execFmulF64 d a b p m s
  | .ffmaF64 d a b p m => Sys2Proof.Machine.execFfmaF64 d a b p m s
  | .fminF64 d a b p => Sys2Proof.Machine.execFminF64 d a b p s
  | .fcmpF64 d a b p c => Sys2Proof.Machine.execFcmpF64 d a b p c s
  | .fcvtF64 d a b p f t m => Sys2Proof.Machine.execFcvtF64 d a b p f t m s
  | .ld d a p z x imm => Sys2Proof.Machine.execLd d a p z x imm s
  | .st y a p z imm => Sys2Proof.Machine.execSt y a p z imm s
  | .ldAcq d a p z x c imm => Sys2Proof.Machine.execLdAcq d a p z x c imm s
  | .stRel y a p z c imm => Sys2Proof.Machine.execStRel y a p z c imm s
  | .ldn d a b p z => Sys2Proof.Machine.execLdn d a b p z s
  | .stn y a b p z => Sys2Proof.Machine.execStn y a b p z s
  | .amo d a b p n c w o => Sys2Proof.Machine.execAmo d a b p n c w o s
  | .fence p c => Sys2Proof.Machine.execFence p c s
  | .watch d a b p => Sys2Proof.Machine.execWatch d a b p s
  | .spawn d a b p => Sys2Proof.Machine.execSpawn d a b p s
  | .fork a b p => Sys2Proof.Machine.execFork a b p s
  | .join a p => Sys2Proof.Machine.execJoin a p s
  | .exit p => Sys2Proof.Machine.execExit p s
  | .yield p => Sys2Proof.Machine.execYield p s
  | .prio a p => Sys2Proof.Machine.execPrio a p s
  | .enq d a b p => Sys2Proof.Machine.execEnq d a b p s
  | .go a p => Sys2Proof.Machine.execGo a p s
  | .waitImm y imm => Sys2Proof.Machine.execWaitImm y imm s
  | .waitReg a y => Sys2Proof.Machine.execWaitReg a y s
  | .sig y imm => Sys2Proof.Machine.execSig y imm s
  | .sigr a y imm => Sys2Proof.Machine.execSigr a y imm s
  | .semsetImm y imm => Sys2Proof.Machine.execSemsetImm y imm s
  | .semsetReg a y => Sys2Proof.Machine.execSemsetReg a y s
  | .semrd a y => Sys2Proof.Machine.execSemrd a y s
  | .test d y imm => Sys2Proof.Machine.execTest d y imm s
  | .waita a k imm => Sys2Proof.Machine.execWaita a k imm s
  | .testa d a k => Sys2Proof.Machine.execTesta d a k s
  | .rtail a k => Sys2Proof.Machine.execRtail a k s
  | .rtailGet a k => Sys2Proof.Machine.execRtailGet a k s
  | .rhead a k => Sys2Proof.Machine.execRhead a k s
  | .rheadGet a k => Sys2Proof.Machine.execRheadGet a k s
  | .ringdef a k => Sys2Proof.Machine.execRingdef a k s
  | .send d a b p t => Sys2Proof.Machine.execSend d a b p t s
  | .sendm d a b p => Sys2Proof.Machine.execSendm d a b p s
  | .put d a b p => Sys2Proof.Machine.execPut d a b p s
  | .subs a b p => Sys2Proof.Machine.execSubs a b p s
  | .time d f p => Sys2Proof.Machine.execTime d f p s
  | .waitt a b p => Sys2Proof.Machine.execWaitt a b p s
  | .waitlim a p => Sys2Proof.Machine.execWaitlim a p s
  | .trap a p => Sys2Proof.Machine.execTrap a p s
  | .tret p => Sys2Proof.Machine.execTret p s
  | .ecall d a p => Sys2Proof.Machine.execEcall d a p s
  | .ebreak p => Sys2Proof.Machine.execEbreak p s
  | .idle p => Sys2Proof.Machine.execIdle p s
  | .dbghalt d a p => Sys2Proof.Machine.execDbghalt d a p s
  | .csrrp d p c => Sys2Proof.Machine.execCsrrp d p c s
  | .csrwp a p c => Sys2Proof.Machine.execCsrwp a p c s
  | .tlbi a b p => Sys2Proof.Machine.execTlbi a b p s
  | .asidset a p => Sys2Proof.Machine.execAsidset a p s
  | .kill d a p => Sys2Proof.Machine.execKill d a p s
  | .preempt d a b p => Sys2Proof.Machine.execPreempt d a b p s
  | .resume d a b p => Sys2Proof.Machine.execResume d a b p s
  | .errinj a p => Sys2Proof.Machine.execErrinj a p s
  | .mma x => Sys2Proof.Machine.execMma x s
  | .mmas x => Sys2Proof.Machine.execMmas x s
  | .aclr x => Sys2Proof.Machine.execAclr x s
  | .ald x => Sys2Proof.Machine.execAld x s
  | .ast x => Sys2Proof.Machine.execAst x s
  | .acvt x => Sys2Proof.Machine.execAcvt x s
  | .achk x => Sys2Proof.Machine.execAchk x s
  | .msum x => Sys2Proof.Machine.execMsum x s
  | .atrn x => Sys2Proof.Machine.execAtrn x s
  | .vadd x => Sys2Proof.Machine.execVadd x s
  | .vsub x => Sys2Proof.Machine.execVsub x s
  | .vmul x => Sys2Proof.Machine.execVmul x s
  | .vfma x => Sys2Proof.Machine.execVfma x s
  | .vmax x => Sys2Proof.Machine.execVmax x s
  | .vmin x => Sys2Proof.Machine.execVmin x s
  | .vabs x => Sys2Proof.Machine.execVabs x s
  | .vneg x => Sys2Proof.Machine.execVneg x s
  | .vexp2 x => Sys2Proof.Machine.execVexp2 x s
  | .vlog2 x => Sys2Proof.Machine.execVlog2 x s
  | .vrcp x => Sys2Proof.Machine.execVrcp x s
  | .vrsq x => Sys2Proof.Machine.execVrsq x s
  | .vtanh x => Sys2Proof.Machine.execVtanh x s
  | .vcvt x => Sys2Proof.Machine.execVcvt x s
  | .vcmp x => Sys2Proof.Machine.execVcmp x s
  | .vsel x => Sys2Proof.Machine.execVsel x s
  | .vred x => Sys2Proof.Machine.execVred x s
  | .vscan x => Sys2Proof.Machine.execVscan x s
  | .vtrn x => Sys2Proof.Machine.execVtrn x s
  | .vbcst x => Sys2Proof.Machine.execVbcst x s
  | .vrng x => Sys2Proof.Machine.execVrng x s
  | .vcpy x => Sys2Proof.Machine.execVcpy x s
  | .copy x => Sys2Proof.Machine.execCopy x s
  | .rstr x => Sys2Proof.Machine.execRstr x s
  | .prlg x => Sys2Proof.Machine.execPrlg x s
  | .gath x => Sys2Proof.Machine.execGath x s
  | .scat x => Sys2Proof.Machine.execScat x s
  | .mcast x => Sys2Proof.Machine.execMcast x s
  | .tabpin x => Sys2Proof.Machine.execTabpin x s
  | .tabinv x => Sys2Proof.Machine.execTabinv x s
  | .hodrun x => Sys2Proof.Machine.execHodrun x s
  | .hodstop x => Sys2Proof.Machine.execHodstop x s
  | .chopen x => Sys2Proof.Machine.execChopen x s
  | .chjoin x => Sys2Proof.Machine.execChjoin x s
  | .chclose x => Sys2Proof.Machine.execChclose x s
  | .chstat x => Sys2Proof.Machine.execChstat x s
  | .chevict x => Sys2Proof.Machine.execChevict x s
  | .illegalInstruction w => Sys2Proof.Machine.execIllegalInstruction w s
  | .hloop n => Sys2Proof.Machine.execHloop n s
  | .hend => Sys2Proof.Machine.execHend s
  | .hseta a imm => Sys2Proof.Machine.execHseta a imm s
  | .hsetaLd a b imm => Sys2Proof.Machine.execHsetaLd a b imm s
  | .hadda a b imm => Sys2Proof.Machine.execHadda a b imm s
  | .hfill a rows ring cl rb st => Sys2Proof.Machine.execHfill a rows ring cl rb st s
  | .hsfill a rows ring cl rb st => Sys2Proof.Machine.execHsfill a rows ring cl rb st s
  | .hgath a b rows ring cl rb st => Sys2Proof.Machine.execHgath a b rows ring cl rb st s
  | .hwwait ring cl n => Sys2Proof.Machine.execHwwait ring cl n s
  | .hsig core dev sem inc => Sys2Proof.Machine.execHsig core dev sem inc s
  | .hjmp o => Sys2Proof.Machine.execHjmp o s
  | .hnop => Sys2Proof.Machine.execHnop s
  | .hstop => Sys2Proof.Machine.execHstop s
  | .bind part => Sys2Proof.Machine.execBind part s
  | .halt part => Sys2Proof.Machine.execHalt part s
  | .cont part => Sys2Proof.Machine.execCont part s
  | .swapout part => Sys2Proof.Machine.execSwapout part s
  | .swapin part => Sys2Proof.Machine.execSwapin part s
  | .reset part => Sys2Proof.Machine.execReset part s
  | .unbind part => Sys2Proof.Machine.execUnbind part s
  | .selectOnly part => Sys2Proof.Machine.execSelectOnly part s
  | .create part level id parent count => Sys2Proof.Machine.execCreate part level id parent count s
  | .cancel part id => Sys2Proof.Machine.execCancel part id s
  | .free part id => Sys2Proof.Machine.execFree part id s
  | .dispatch v => Sys2Proof.Machine.execDispatch v s
  | .dtrecAppend v => Sys2Proof.Machine.execDtrecAppend v s
  | .tstepWrite v => Sys2Proof.Machine.execTstepWrite v s
  | .attest v => Sys2Proof.Machine.execAttest v s
  | .chanWrite v => Sys2Proof.Machine.execChanWrite v s
  | .rotationTableWrite turn v => Sys2Proof.Machine.execRotationTableWrite turn v s
  | .modeWrite v => Sys2Proof.Machine.execModeWrite v s
  | .spqWrite v => Sys2Proof.Machine.execSpqWrite v s
  | .dqbWrite v => Sys2Proof.Machine.execDqbWrite v s
  | .fabcfgWrite v => Sys2Proof.Machine.execFabcfgWrite v s
  | .eieWrite v => Sys2Proof.Machine.execEieWrite v s
  | .csrRegisterWrite c v => Sys2Proof.Machine.execCsrRegisterWrite c v s
  | .ident tag => Sys2Proof.Machine.execIdent tag s
  | .resync tag addr len => Sys2Proof.Machine.execResync tag addr len s
  | .chalt tag core => Sys2Proof.Machine.execChalt tag core s
  | .cresume tag core => Sys2Proof.Machine.execCresume tag core s
  | .timeget tag => Sys2Proof.Machine.execTimeget tag s
  | .counter tag part lo hi => Sys2Proof.Machine.execCounter tag part lo hi s
  | .unlistedMailboxOp op tag => Sys2Proof.Machine.execUnlistedMailboxOp op tag s
  | .mailboxOverrun ofs value => Sys2Proof.Machine.execMailboxOverrun ofs value s
  | .hostStore addr data => Sys2Proof.Machine.execHostStore addr data s
  | .hostRead addr n => Sys2Proof.Machine.execHostRead addr n s
  | .hostAppend qcb ring side words a0 a1 => Sys2Proof.Machine.execHostAppend qcb ring side words a0 a1 s
  | .boot => Sys2Proof.Machine.execBoot s
  | .packetSpawn core => Sys2Proof.Machine.execPacketSpawn core s
  | .workPacketArrival msg => Sys2Proof.Machine.execWorkPacketArrival msg s
  | .dequePop core => Sys2Proof.Machine.execDequePop core s
  | .forkPublish core => Sys2Proof.Machine.execForkPublish core s
  | .forkAppend core slot => Sys2Proof.Machine.execForkAppend core slot s
  | .enqAppend core slot => Sys2Proof.Machine.execEnqAppend core slot s
  | .sendArrival msg => Sys2Proof.Machine.execSendArrival msg s
  | .replyArrival msg => Sys2Proof.Machine.execReplyArrival msg s
  | .stnAcknowledgement msg => Sys2Proof.Machine.execStnAcknowledgement msg s
  | .farEndFault msg => Sys2Proof.Machine.execFarEndFault msg s
  | .ldDataArrival msg => Sys2Proof.Machine.execLdDataArrival msg s
  | .sigrArrival msg => Sys2Proof.Machine.execSigrArrival msg s
  | .putArrival msg => Sys2Proof.Machine.execPutArrival msg s
  | .seedService msg => Sys2Proof.Machine.execSeedService msg s
  | .seedReply msg => Sys2Proof.Machine.execSeedReply msg s
  | .migrationArrival msg => Sys2Proof.Machine.execMigrationArrival msg s
  | .visitReturn msg => Sys2Proof.Machine.execVisitReturn msg s
  | .joinDecrement msg => Sys2Proof.Machine.execJoinDecrement msg s
  | .watchWake core slot => Sys2Proof.Machine.execWatchWake core slot s
  | .waittReady core slot => Sys2Proof.Machine.execWaittReady core slot s
  | .waitLimitReached core slot => Sys2Proof.Machine.execWaitLimitReached core slot s
  | .divideWaitEnd core slot => Sys2Proof.Machine.execDivideWaitEnd core slot s
  | .yieldWaitEnd core slot => Sys2Proof.Machine.execYieldWaitEnd core slot s
  | .fenceComplete core slot => Sys2Proof.Machine.execFenceComplete core slot s
  | .exitRetire core slot => Sys2Proof.Machine.execExitRetire core slot s
  | .subsComplete core slot => Sys2Proof.Machine.execSubsComplete core slot s
  | .tlbiComplete core slot => Sys2Proof.Machine.execTlbiComplete core slot s
  | .killFence kill => Sys2Proof.Machine.execKillFence kill s
  | .threadCancelStop core slot => Sys2Proof.Machine.execThreadCancelStop core slot s
  | .channelCreditReturn msg => Sys2Proof.Machine.execChannelCreditReturn msg s
  | .fillerClaim fill => Sys2Proof.Machine.execFillerClaim fill s
  | .fillComplete fill => Sys2Proof.Machine.execFillComplete fill s
  | .fillFailure fill => Sys2Proof.Machine.execFillFailure fill s
  | .readerRetire core cmd => Sys2Proof.Machine.execReaderRetire core cmd s
  | .mxeCommandStart core => Sys2Proof.Machine.execMxeCommandStart core s
  | .mxeStep core => Sys2Proof.Machine.execMxeStep core s
  | .mxeCommandComplete core cmd => Sys2Proof.Machine.execMxeCommandComplete core cmd s
  | .vxeCommandStart core => Sys2Proof.Machine.execVxeCommandStart core s
  | .vxeCommandComplete core cmd => Sys2Proof.Machine.execVxeCommandComplete core cmd s
  | .gceCommandStart cluster => Sys2Proof.Machine.execGceCommandStart cluster s
  | .gceStep cluster => Sys2Proof.Machine.execGceStep cluster s
  | .gceCommandComplete cluster cmd => Sys2Proof.Machine.execGceCommandComplete cluster cmd s
  | .hodInterfaceStart core => Sys2Proof.Machine.execHodInterfaceStart core s
  | .hodProgramBegin hod => Sys2Proof.Machine.execHodProgramBegin hod s
  | .hodrunComplete hod prog => Sys2Proof.Machine.execHodrunComplete hod prog s
  | .mniCommandStart core => Sys2Proof.Machine.execMniCommandStart core s
  | .joinRequestArrival msg => Sys2Proof.Machine.execJoinRequestArrival msg s
  | .joinReplyArrival msg => Sys2Proof.Machine.execJoinReplyArrival msg s
  | .admissionArrival msg => Sys2Proof.Machine.execAdmissionArrival msg s
  | .stagedBeatSend core bind => Sys2Proof.Machine.execStagedBeatSend core bind s
  | .beatArrival msg => Sys2Proof.Machine.execBeatArrival msg s
  | .storedRowApply core chain => Sys2Proof.Machine.execStoredRowApply core chain s
  | .beatAckArrival msg => Sys2Proof.Machine.execBeatAckArrival msg s
  | .evictionNoticeArrival msg => Sys2Proof.Machine.execEvictionNoticeArrival msg s
  | .evictionAckArrival msg => Sys2Proof.Machine.execEvictionAckArrival msg s
  | .preemptArrival msg => Sys2Proof.Machine.execPreemptArrival msg s
  | .saveBegin core => Sys2Proof.Machine.execSaveBegin core s
  | .saveComplete core => Sys2Proof.Machine.execSaveComplete core s
  | .resumeArrival msg => Sys2Proof.Machine.execResumeArrival msg s
  | .restoreBegin core => Sys2Proof.Machine.execRestoreBegin core s
  | .restoreComplete core => Sys2Proof.Machine.execRestoreComplete core s
  | .spillQueueDelivery core => Sys2Proof.Machine.execSpillQueueDelivery core s
  | .debugHaltArrival msg => Sys2Proof.Machine.execDebugHaltArrival msg s
  | .quiescenceWatchdogFire core => Sys2Proof.Machine.execQuiescenceWatchdogFire core s
  | .patrolScrub core granule => Sys2Proof.Machine.execPatrolScrub core granule s
  | .thermalTrip island => Sys2Proof.Machine.execThermalTrip island s
  | .pageWalk walk => Sys2Proof.Machine.execPageWalk walk s
  | .linkPacketArrival k => Sys2Proof.Machine.execLinkPacketArrival k s
  | .linkAckArrival peer cls seq => Sys2Proof.Machine.execLinkAckArrival peer cls seq s
  | .retransmitTimeout peer cls => Sys2Proof.Machine.execRetransmitTimeout peer cls s
  | .connectionDown peer => Sys2Proof.Machine.execConnectionDown peer s
  | .connectionReopen peer => Sys2Proof.Machine.execConnectionReopen peer s
  | .peerStateLoad peer => Sys2Proof.Machine.execPeerStateLoad peer s
  | .portFailure port => Sys2Proof.Machine.execPortFailure port s
  | .ptpSyncReceipt offs => Sys2Proof.Machine.execPtpSyncReceipt offs s
  | .syncMissed => Sys2Proof.Machine.execSyncMissed s
  | .tdWindowDepart msg => Sys2Proof.Machine.execTdWindowDepart msg s
  | .tdPacketApply msg => Sys2Proof.Machine.execTdPacketApply msg s
  | .tdLateArrival msg => Sys2Proof.Machine.execTdLateArrival msg s
  | .egressQueueDeparture msg => Sys2Proof.Machine.execEgressQueueDeparture msg s
  | .farEndAccess msg => Sys2Proof.Machine.execFarEndAccess msg s
  | .chevictRequestArrival msg => Sys2Proof.Machine.execChevictRequestArrival msg s
  | .fabricPortTrained port => Sys2Proof.Machine.execFabricPortTrained port s
  | .syncIntervalExpiry => Sys2Proof.Machine.execSyncIntervalExpiry s
  | .partitionCommandComplete part => Sys2Proof.Machine.execPartitionCommandComplete part s
  | .islandClockStop core => Sys2Proof.Machine.execIslandClockStop core s

end Sys2Proof.Machine
end

