-- ==== Sys2Proof/Machine/Pick.lean ====
section
/-! DEFINITION. Which slot a core issues in a cycle: the one that R45 or R47 selects among those whose next instruction does
not stop at step 6 of R142. -/

namespace Sys2Proof.Machine

/-- The state in which the instruction of slot `n` of core `c` is examined (R120 phase 3). -/
def atSlot (s : State) (c n : Nat) : State := { s with cur := (c, n), stalled := false, phase := 1 }

/-- Bytes of the instruction at an address, 4 where its first word cannot be fetched (R124). -/
def instrBytes (s : State) (c n a : Nat) : Nat := 4 * wordCount (codeWord s c n a)

/-- Whether a failed fetch waits: a walk follows the thread's own stores that are not performed yet (R356). -/
def fetchWaits (s : State) (c n : Nat) (r : TrapInfo) : Bool := r.cause != 0x01 && unperformed s c n

/-- The trap of a fetch, or the wait before its walk (R142 step 1, R356). -/
def fetchFails (s : State) (c n : Nat) (pc : Pc) (r : TrapInfo) : State :=
  if fetchWaits s c n r then { waitSlot s c n .drain with stalled := true }
  else takeTrap (fetchMeets s c n pc.toNat (if r.cause = 0x16 then instrBytes s c n pc.toNat else 4)) c n r none

/-- The instruction of slot `n` of core `c` carried out (R142): its context is checked, the instruction fetched, and what it
does is `exec`'s. A context with an uncorrectable codeword ends its thread (R345). -/
def runSlot (s : State) (c n : Nat) : Host.Outcome State Fault Refusal :=
  match threadOf s c n with
  | none => .fault .noThread
  | some t =>
    let e := eccRead (atSlot s c n) c (regKey c n 0) 128
    if e.2 then .next (contextTrap e.1 c n)
    else match fetchInstr e.1 c n t.pc with
      | .error r => .next (fetchFails e.1 c n t.pc r)
      | .ok i => exec i (fetchMeets e.1 c n t.pc.toNat (instrBytes e.1 c n t.pc.toNat))

/-- Whether the next instruction of a slot would stop at step 6 of R142. -/
def wouldStall (s : State) (c n : Nat) : Bool :=
  match runSlot s c n with
  | .next t => t.stalled
  | _ => false

/-- The slot that a core's issue takes next: in ready mode first the eligible slots that stop, which become WAITING and take no
issue, then the one that R45 picks among the others; in rotation mode that of the turn (R45, R47). -/
def pickSlot (s : State) (c : Nat) (k : Core) : Option Nat :=
  if k.rot then turnSlot s k
  else
    let l := eligibles s.cycle k
    match l.find? fun p => wouldStall s c p.1 with
    | some p => some p.1
    | none => (pickReady l).map (·.1)

/-- The next core from `coreTurn` on with a slot to issue in this cycle. DESIGN CHOICE, log 25. -/
def nextIssue (s : State) : Option (Nat × Nat) :=
  s.cores.findSome? fun p => if s.coreTurn ≤ p.1 then (pickSlot s p.1 p.2).map fun n => (p.1, n) else none

end Sys2Proof.Machine
end

