-- ==== Sys2Proof/Machine/Step.lean ====
section
/-! DEFINITION. One step of the machine: an outside event that has come, a due event of the hardware, a command of a hod
program, the issue of one instruction (R120), or the end of the cycle. -/

namespace Sys2Proof.Machine

/-- The issue of the instruction of slot `n` of core `c`, or its stop before it (R45, R47, R142). -/
def stepIssue (s : State) (c n : Nat) : Host.Outcome State Fault Refusal :=
  let elig := (eligibles s.cycle (coreOf s c)).map (·.1)
  match runSlot s c n with
  | .next s2 => .next (if s2.stalled then s2 else afterIssue s.cycle elig c n s2)
  | .fault r => .fault r
  | .refused r => .refused r

/-- The first two phases of a cycle: what is due in it, then the commands of the hod programs, until the first issue (R120). -/
def phaseStep (s : State) : Option (Host.Outcome State Fault Refusal) :=
  if s.phase ≠ 0 then none
  else match runEvent s with
    | some o => some o
    | none => (nextHod s).map fun e => exec e.2 e.1

/-- What the machine does by itself when no outside event has come. -/
def stepOwn (s : State) : Host.Outcome State Fault Refusal :=
  match phaseStep s with
  | some o => keepTime s o
  | none =>
    match nextIssue s with
    | some (c, n) => keepTime s (stepIssue s c n)
    | none => .next (tick s)

/-- One step. -/
def step (s : State) : Host.Outcome State Fault Refusal :=
  match s.inputs with
  | (t, i) :: rest => if t ≤ s.cycle then keepTime s (exec i { s with inputs := rest }) else stepOwn s
  | [] => stepOwn s

/-- An instruction stored where the next step fetches, with slot 0 of core 0 READY (log 5): eight words from offset 0
of the TCM. -/
def State.withFetchWord (s : State) (nbits w : Nat) : State := placeCode s (leBytes 32 (w % 2 ^ nbits))

end Sys2Proof.Machine
end

