-- ==== Sys2Proof/Safety.lean ====
section
/-! DEFINITION. What counts as a safe step, and the terms in which the claims are stated: the slot whose instruction is
executed, what an instruction reads, the guard, the operands in order, and the state when an instruction has completed. -/

namespace Sys2Proof

/-- A step that answers a next state. -/
def SafeStep (s : Machine.State) : Prop := ∃ t, Machine.step s = .next t

/-- A state from which `n` steps answer next states. -/
def SafeFor : Nat → Machine.State → Prop
  | 0, _ => True
  | n + 1, s => ∃ t, Machine.step s = .next t ∧ SafeFor n t

end Sys2Proof

namespace Sys2Proof.Claims

open Sys2Proof.Machine

/-! ## Before an instruction -/

/-- Slot `n` of core `c` executes: it is the slot `x`, holds the thread `t` and has not met its wait limit. -/
abbrev At (s : State) (c n : Nat) (x : Slot) (t : Thread) : Prop :=
  s.cur = (c, n) ∧ slotOf s c n = x ∧ x.thread = some t ∧ x.limitHit = false

/-- The slot executes, and its thread is at home (R37). -/
abbrev AtHome (s : State) (c n : Nat) (x : Slot) (t : Thread) : Prop := At s c n x t ∧ x.visitFrom = none

/-- Every register of a list is FULL (R23). -/
abbrev Full (t : Thread) (rs : List Nat) : Prop := ∀ r ∈ rs, (regOf t r).full = true

/-- A predicate may be read: the thread is not STRICT, or the predicate carries no taint (R22). -/
abbrev Clean (t : Thread) (p : Nat) : Prop := ¬(strictOf t = true ∧ taintOf t p = true)

/-- The guard holds: the predicate may be read and is 1 (R130). -/
abbrev Guarded (t : Thread) (p : Nat) : Prop := Clean t p ∧ predOf t p = true

/-- No loop-back is due at this instruction, or its target passes the check of a transfer of control (R126, R169); `u`
is the thread after the effect of the instruction. -/
abbrev LoopOk (s : State) (c n : Nat) (t u : Thread) : Prop :=
  u.lpc.toNat ≤ 1 ∨ t.pc ≠ t.lpe ∨
    (checkTarget (modSlot s c n fun y => { restSlot y with thread := some { u with lpc := u.lpc - 1#32, pc := u.lps } })
      c n u.lps u.lps.toNat).isOk = true

/-- A transfer of control to an address that fails its check traps with the cause of the check; where the walk for it must follow
stores of the thread that are not performed yet it waits (R126, R356). -/
abbrev TargetFails (i : Instr) (s : State) (c n : Nat) (t : Thread) (a : Nat) : Prop :=
  ∀ e, checkTarget s c n t.pc a = .error e →
    (targetWaits s c n e = false → exec i s = .next (takeTrap s c n e none)) ∧
    (targetWaits s c n e = true → exec i s = .next { waitSlot s c n .drain with stalled := true })

/-- A transfer of control to an address passes its check (R126). -/
abbrev TargetOk (s : State) (c n : Nat) (pc : Pc) (a : Nat) : Prop := (checkTarget s c n pc a).isOk = true

/-! ## After an instruction -/

/-- The state with a thread in slot `n` of core `c` whose instruction has completed: nothing else is changed, the
wait count of R218 starts again. -/
def withThread (s : State) (c n : Nat) (t : Thread) : State :=
  modSlot s c n fun y => { restSlot y with thread := some t }

/-- The thread `u` past an instruction of `size` bytes at the PC of `t`: the next PC, or the loop-back of R169. -/
def landed (t u : Thread) (size : Nat) : Thread :=
  if u.lpc ≠ 0#32 ∧ t.pc = t.lpe then
    if 1 < u.lpc.toNat then { u with lpc := u.lpc - 1#32, pc := u.lps }
    else { u with lpc := 0#32, pc := t.pc + BitVec.ofNat 48 size }
  else { u with pc := t.pc + BitVec.ofNat 48 size }

/-- The state `s` with the instruction of `t` completed and its effect on the thread `u`. -/
def completed (s : State) (c n : Nat) (t u : Thread) (size : Nat) : State := withThread s c n (landed t u size)

/-- The state in which the instruction of slot `n` has not issued and its slot waits (R142 step 6). -/
def notIssued (s : State) (c n : Nat) (w : Wait) : State := { waitSlot s c n w with stalled := true }

/-! ## What the tables of the manual say of the register instructions -/

/-- One line of a table of the manual: the register written, the registers read, the predicates read as data, the guard,
the result as a function of the thread, the bytes of the instruction. -/
structure RegLine where
  d : Fin 10
  regs : List Nat
  preds : List Nat
  p : Fin 16
  val : Thread → Word
  size : Nat

/-- A result of two registers as unsigned numbers, modulo 2^64. -/
def line2 (d a b : Fin 10) (p : Fin 16) (f : Nat → Nat → Int) : RegLine :=
  { d := d, regs := [a, b], preds := [], p := p, size := 4,
    val := fun t => BitVec.ofInt 64 (f (valOf t a).toNat (valOf t b).toNat) }

/-- A result of two registers as two's complement numbers, modulo 2^64. -/
def line2s (d a b : Fin 10) (p : Fin 16) (f : Int → Int → Int) : RegLine :=
  { d := d, regs := [a, b], preds := [], p := p, size := 4,
    val := fun t => BitVec.ofInt 64 (f (valOf t a).toInt (valOf t b).toInt) }

/-- A result bit by bit. -/
def lineBits (d a b : Fin 10) (p : Fin 16) (f : Bool → Bool → Bool) : RegLine :=
  { d := d, regs := [a, b], preds := [], p := p, size := 4,
    val := fun t => BitVec.ofFnLE fun i : Fin 64 => f ((valOf t a).getLsbD i) ((valOf t b).getLsbD i) }

/-- A result of one register as an unsigned number. -/
def line1 (d a : Fin 10) (p : Fin 16) (f : Nat → Int) : RegLine :=
  { d := d, regs := [a], preds := [], p := p, size := 4, val := fun t => BitVec.ofInt 64 (f (valOf t a).toNat) }

/-- A result of a register and a constant bit by bit. -/
def line1Bits (d a : Fin 10) (p : Fin 16) (i : BitVec 14) (f : Bool → Bool → Bool) : RegLine :=
  { d := d, regs := [a], preds := [], p := p, size := 4,
    val := fun t => BitVec.ofFnLE fun j : Fin 64 => f ((valOf t a).getLsbD j) (i.getLsbD (min j 13)) }

/-- A result that reads no register. -/
def line0 (d : Fin 10) (p : Fin 16) (v : Int) (size : Nat) : RegLine :=
  { d := d, regs := [], preds := [], p := p, size := size, val := fun _ => BitVec.ofInt 64 v }

/-- The register results of R157 without the division group, R159, R160, R161, R164 and R180. -/
def regLine : Instr → Option RegLine
  | .add d a b p => some (line2 d a b p fun x y => x + y)
  | .sub d a b p => some (line2 d a b p fun x y => x - y)
  | .mul d a b p => some (line2 d a b p fun x y => x * y)
  | .mulh d a b p => some (line2s d a b p fun x y => x * y / 2 ^ 64)
  | .mulhu d a b p => some (line2 d a b p fun x y => (x * y / 2 ^ 64 : Nat))
  | .and d a b p => some (lineBits d a b p and)
  | .or d a b p => some (lineBits d a b p or)
  | .xor d a b p => some (lineBits d a b p Bool.xor)
  | .shl d a b p => some (line2 d a b p fun x y => (x * 2 ^ (y % 64) : Nat))
  | .shr d a b p => some (line2 d a b p fun x y => (x / 2 ^ (y % 64) : Nat))
  | .sar d a b p =>
    some { line2s d a b p fun x _ => x with
      val := fun t => BitVec.ofInt 64 ((valOf t a).toInt / (2 ^ ((valOf t b).toNat % 64) : Nat)) }
  | .min d a b p => some (line2s d a b p fun x y => min x y)
  | .max d a b p => some (line2s d a b p fun x y => max x y)
  | .minu d a b p => some (line2 d a b p fun x y => (min x y : Nat))
  | .maxu d a b p => some (line2 d a b p fun x y => (max x y : Nat))
  | .clz d a p => some (line1 d a p fun x => (64 - Nat.size x : Nat))
  | .popc d a p =>
    some { line1 d a p fun x => x with
      val := fun t => BitVec.ofNat 64 (((List.range 64).filter fun i => (valOf t a).getLsbD i).length) }
  | .addi d a p i => some (line1 d a p fun x => x + i.toInt)
  | .andi d a p i => some (line1Bits d a p i and)
  | .ori d a p i => some (line1Bits d a p i or)
  | .xori d a p i => some (line1Bits d a p i Bool.xor)
  | .shli d a p n => some (line1 d a p fun x => (x * 2 ^ n.toNat : Nat))
  | .shri d a p n => some (line1 d a p fun x => (x / 2 ^ n.toNat : Nat))
  | .sari d a p n =>
    some { line1 d a p fun x => x with val := fun t => BitVec.ofInt 64 ((valOf t a).toInt / (2 ^ n.toNat : Nat)) }
  | .lui d p i => some (line0 d p (i.toInt * 2 ^ 14) 4)
  | .lix d p i => some (line0 d p i.toInt 8)
  | .sel d a b p c =>
    some { line2 d a b p fun x _ => x with
      preds := [c.val], val := fun t => if predOf t c then valOf t a else valOf t b }
  | .rnd d a b p => some { line2 d a b p fun x _ => x with val := fun t => rndWord (valOf t a) (valOf t b) }
  | _ => none

/-- The division group of R157: all ones or the dividend for a zero divisor, truncation toward zero. -/
def divLine : Instr → Option RegLine
  | .div d a b p => some (line2s d a b p fun x y => if y = 0 then -1 else x.tdiv y)
  | .divu d a b p => some (line2 d a b p fun x y => if y = 0 then -1 else (x / y : Nat))
  | .rem d a b p => some (line2s d a b p fun x y => if y = 0 then x else x - y * x.tdiv y)
  | .remu d a b p => some (line2 d a b p fun x y => if y = 0 then x else (x % y : Nat))
  | _ => none

/-- One line of the predicate instructions: the predicate written, the registers and predicates read, the guard, the value
as a function of the thread. -/
structure PredLine where
  d : Fin 16
  regs : List Nat
  preds : List Nat
  p : Fin 16
  val : Thread → Bool

/-- The integer conditions of R162 on numbers: unsigned and two's complement readings of both operands. -/
def condition (c : Cc) (x y : Nat) (sx sy : Int) : Bool :=
  match c with
  | .eq => x = y
  | .ne => x ≠ y
  | .lt => sx < sy
  | .ge => sy ≤ sx
  | .ltu => x < y
  | .geu => y ≤ x
  | .le => sx ≤ sy
  | .gt => sy < sx
  | .leu => x ≤ y
  | .gtu => y < x
  | .un | .ord => false

/-- The predicate results of R162 and R163. -/
def predLine : Instr → Option PredLine
  | .cmp d a b p c =>
    some ⟨d, [a, b], [], p, fun t =>
      condition c (valOf t a).toNat (valOf t b).toNat (valOf t a).toInt (valOf t b).toInt⟩
  | .cmpi d a p c i =>
    some ⟨d, [a], [], p, fun t =>
      condition c (valOf t a).toNat (BitVec.signExtend 64 i).toNat (valOf t a).toInt i.toInt⟩
  | .pand d a b p => some ⟨d, [], [a, b], p, fun t => predOf t a && predOf t b⟩
  | .por d a b p => some ⟨d, [], [a, b], p, fun t => predOf t a || predOf t b⟩
  | .pxor d a b p => some ⟨d, [], [a, b], p, fun t => predOf t a != predOf t b⟩
  | .pnot d a p => some ⟨d, [], [a], p, fun t => !predOf t a⟩
  | .pmov d a p => some ⟨d, [], [a], p, fun t => predOf t a⟩
  | _ => none

/-- The taint of a predicate line: the OR of the taints of every predicate read, the guard's among them (R155). -/
def PredLine.taint (r : PredLine) (t : Thread) : Bool := (r.p.val :: r.preds).any fun q => taintOf t q

/-- Whether STRICT turns the write of a predicate into a trap: a tainted value for p1 to p7 (R22). -/
abbrev StrictWrite (t : Thread) (d : Nat) (taint : Bool) : Prop :=
  taint = true ∧ 0 < d ∧ d < 8 ∧ strictOf t = true

/-- The determinism trap of a predicate that STRICT forbids to read (R22). -/
def taintTrap (t : Thread) (p : Nat) : TrapInfo :=
  { cause := 0x09, tval := BitVec.setWidth 64 t.pw, detail := BitVec.ofNat 64 p, more := 0 }

/-! ## Control flow -/

/-- The target of a PC-relative transfer: PC + 4 · k modulo 2^64 (R131). -/
def pcTarget (pc : Pc) (k : Int) : Nat := (BitVec.ofInt 64 (pc.toNat + 4 * k)).toNat

/-- A branch: the predicate it reads, the condition, its offset in words (R165). -/
structure BranchLine where
  preds : List Nat
  taken : Thread → Bool
  off : Int

/-- The branches of R165. -/
def branchLine : Instr → Option BranchLine
  | .br o => some ⟨[], fun _ => true, o.toInt⟩
  | .bp p o => some ⟨[p.val], fun t => predOf t p, o.toInt⟩
  | .bpN p o => some ⟨[p.val], fun t => !predOf t p, o.toInt⟩
  | .btag g o => some ⟨[], fun t => t.pw.extractLsb' 24 4 == g, o.toInt⟩
  | .btagN g o => some ⟨[], fun t => t.pw.extractLsb' 24 4 != g, o.toInt⟩
  | _ => none

/-- The thread after a LOOP of count `k` with the last instruction `e` words on (R168). -/
def loopSet (t : Thread) (k e : Nat) : Thread :=
  { t with lps := t.pc + 4#48, lpe := t.pc + BitVec.ofNat 48 (4 * e), lpc := BitVec.ofNat 32 k }

/-- The bytes of the instruction whose first word is `w` (R124, R137, R138). -/
def bytesOfInstr (w : Nat) : Nat := if w / 2 ^ 26 = 0x30 then 32 else if w / 2 ^ 26 = 0x31 then 8 else 4

/-! ## Floating point -/

/-- The low bits of a register as a code of a format (R154). -/
def codeOf (f : FF) (t : Thread) (r : Nat) : Nat := (valOf t r).toNat % 2 ^ (1 + f.eb + f.fb)

/-- A floating-point instruction: the register written, the registers read, the guard, whether it belongs to the D
extension, its result and flags. -/
structure FloatLine where
  d : Fin 10
  regs : List Nat
  p : Fin 16
  dExt : Bool
  out : Thread → Word × BitVec 5

/-- A result in a format: the code zero-extended (R154). -/
def codeOut (r : Nat × BitVec 5) : Word × BitVec 5 := (BitVec.ofNat 64 r.1, r.2)

/-- FADD, FMUL, FFMA and FCVT with their FP64 forms (R172, R175, R176): the rounding draw of SR takes its key from rb. -/
def floatLine : Instr → Option FloatLine
  | .fadd d a b p m f =>
    some ⟨d, [a, b], p, false, fun t => codeOut (fpAdd (ffArith f) m (codeOf (ffArith f) t a) (codeOf (ffArith f) t b))⟩
  | .fmul d a b p m f =>
    some ⟨d, [a, b], p, false, fun t => codeOut (fpMul (ffArith f) m (codeOf (ffArith f) t a) (codeOf (ffArith f) t b))⟩
  | .ffma d a b p m f =>
    some ⟨d, [a, b, d], p, false, fun t => codeOut (fpFma (ffArith f) m (codeOf (ffArith f) t a)
      (codeOf (ffArith f) t b) (codeOf (ffArith f) t d))⟩
  | .fcvt d a b p f g m =>
    some ⟨d, if m = .sr then [a, b] else [a], p, false, fun t =>
      fpCvt f g m (t.fmt.getLsbD 12) (if m = .sr then srWord (valOf t b).toNat 0 0 else 0) (valOf t a)⟩
  | .faddF64 d a b p m =>
    some ⟨d, [a, b], p, true, fun t => codeOut (fpAdd ffF64 m (codeOf ffF64 t a) (codeOf ffF64 t b))⟩
  | .fmulF64 d a b p m =>
    some ⟨d, [a, b], p, true, fun t => codeOut (fpMul ffF64 m (codeOf ffF64 t a) (codeOf ffF64 t b))⟩
  | .ffmaF64 d a b p m =>
    some ⟨d, [a, b, d], p, true, fun t =>
      codeOut (fpFma ffF64 m (codeOf ffF64 t a) (codeOf ffF64 t b) (codeOf ffF64 t d))⟩
  | .fcvtF64 d a b p f g m =>
    some ⟨d, if m = .sr then [a, b] else [a], p, true, fun t =>
      fpCvt f g m (t.fmt.getLsbD 12) (if m = .sr then srWord (valOf t b).toNat 0 0 else 0) (valOf t a)⟩
  | _ => none

/-- FMIN in each format, with whether it belongs to the D extension (R171, R173, R176). -/
def minLine : Instr → Option (FF × Bool × Fin 10 × Fin 10 × Fin 10 × Fin 16)
  | .fmin d a b p f => some (ffArith f, false, d, a, b, p)
  | .fminF64 d a b p => some (ffF64, true, d, a, b, p)
  | _ => none

/-- FCMP in each format, with whether it belongs to the D extension (R174, R176). -/
def cmpLine : Instr → Option (FF × Bool × Fin 16 × Fin 10 × Fin 10 × Fin 16 × Cc)
  | .fcmp d a b p c f => some (ffArith f, false, d, a, b, p, c)
  | .fcmpF64 d a b p c => some (ffF64, true, d, a, b, p, c)
  | _ => none

/-- The conditions of R174: whether an operand is a NaN, whether the values are equal, whether the first is less, whether
the second is less. -/
def fpCondition (c : Cc) (un eq lt gt : Bool) : Bool :=
  match c with
  | .eq => !un && eq
  | .ne => un || !eq
  | .lt => !un && lt
  | .ge => !un && !lt
  | .le => !un && !gt
  | .gt => !un && gt
  | .un => un
  | .ord => !un
  | _ => false

/-- NV of a compare: a signalling NaN under every condition, any NaN under .lt, .ge, .le and .gt (R174). -/
def fpCompareFlags (f : FF) (c : Cc) (x y : Nat) : BitVec 5 :=
  if f.isSnan x || f.isSnan y || ((f.isNan x || f.isNan y) && (c == .lt || c == .ge || c == .le || c == .gt)) then 0b10000#5
  else 0#5

/-- The instructions of majors 0x2A and 0x2B (R176). -/
def isDExt : Instr → Bool
  | .faddF64 _ _ _ _ _ | .fmulF64 _ _ _ _ _ | .ffmaF64 _ _ _ _ _ | .fminF64 _ _ _ _ | .fcmpF64 _ _ _ _ _
  | .fcvtF64 _ _ _ _ _ _ _ => true
  | _ => false

/-! ## Guards, sources, privilege -/

/-- The guard of an instruction and the bytes of the instruction; the formats B, J, L and S have none (R130). -/
def guardLine : Instr → Option (Fin 16 × Nat)
  | .add _ _ _ p | .sub _ _ _ p | .mul _ _ _ p | .mulh _ _ _ p | .mulhu _ _ _ p | .div _ _ _ p | .divu _ _ _ p
  | .rem _ _ _ p | .remu _ _ _ p | .and _ _ _ p | .or _ _ _ p | .xor _ _ _ p | .shl _ _ _ p | .shr _ _ _ p
  | .sar _ _ _ p | .min _ _ _ p | .max _ _ _ p | .minu _ _ _ p | .maxu _ _ _ p | .clz _ _ p | .popc _ _ p
  | .addi _ _ p _ | .andi _ _ p _ | .ori _ _ p _ | .xori _ _ p _ | .shli _ _ p _ | .shri _ _ p _ | .sari _ _ p _
  | .lui _ p _ | .cmp _ _ _ p _ | .cmpi _ _ p _ _ | .pand _ _ _ p | .por _ _ _ p | .pxor _ _ _ p | .pnot _ _ p
  | .pmov _ _ p | .sel _ _ _ p _ | .rnd _ _ _ p | .seed _ p | .csrr _ p _ | .csrw _ p _ | .jr _ p _ | .ret _ p
  | .fadd _ _ _ p _ _ | .fmul _ _ _ p _ _ | .ffma _ _ _ p _ _ | .fmin _ _ _ p _ | .fcmp _ _ _ p _ _
  | .fcvt _ _ _ p _ _ _ | .faddF64 _ _ _ p _ | .fmulF64 _ _ _ p _ | .ffmaF64 _ _ _ p _ | .fminF64 _ _ _ p
  | .fcmpF64 _ _ _ p _ | .fcvtF64 _ _ _ p _ _ _ | .ld _ _ p _ _ _ | .st _ _ p _ _ | .ldAcq _ _ p _ _ _ _
  | .stRel _ _ p _ _ _ | .ldn _ _ _ p _ | .stn _ _ _ p _ | .amo _ _ _ p _ _ _ _ | .fence p _ | .watch _ _ _ p
  | .spawn _ _ _ p | .fork _ _ p | .join _ p | .exit p | .yield p | .prio _ p | .enq _ _ _ p | .go _ p
  | .send _ _ _ p _ | .sendm _ _ _ p | .put _ _ _ p | .subs _ _ p | .time _ _ p | .waitt _ _ p | .waitlim _ p
  | .trap _ p | .tret p | .ecall _ _ p | .ebreak p | .idle p | .dbghalt _ _ p | .csrrp _ p _ | .csrwp _ p _
  | .tlbi _ _ p | .asidset _ p | .kill _ _ p | .preempt _ _ _ p | .resume _ _ _ p | .errinj _ p => some (p, 4)
  | .lix _ p _ => some (p, 8)
  | _ => none

/-- The level that an instruction asks of its thread (R133, R136, R337, R339): ERRINJ asks none where the partition's
error injection is enabled. -/
abbrev levelAsked (s : State) (c : Nat) : Instr → Level
  | .tret _ | .idle _ | .tlbi _ _ _ | .asidset _ _ | .kill _ _ _ | .preempt _ _ _ _ | .resume _ _ _ _ => .supervisor
  | .dbghalt _ _ _ => .platform
  | .csrrp _ _ k | .csrwp _ _ k =>
    if 0x200 ≤ k.toNat ∧ k.toNat ≤ 0x2FF ∧ k.toNat ≠ 0x262 then .platform else .supervisor
  | .errinj _ _ => if eieOf s c then .user else .supervisor
  | _ => .user

/-- Whether a slot has a level: slot 0 platform, slots 1 to 3 supervisor, the others user (R12, R326). -/
abbrev levelHeld (n : Nat) (l : Level) : Prop :=
  match l with
  | .platform => n = 0
  | .supervisor => n < 4
  | .user => True

/-- What must hold for an instruction to come to its guard (R142 steps 2 to 4): legal fields, a D core for the D
extension, the level; a CSR number must be one that the slot lists. -/
abbrev ReachesGuard (i : Instr) (s : State) (c n : Nat) : Prop :=
  levelHeld n (levelAsked s c i) ∧ (isDExt i = true → c % 8 = 7) ∧
    (match i with
      | .csrr _ _ k | .csrw _ _ k => k.toNat < 0x00C
      | .csrrp _ _ k | .csrwp _ _ k => csrListed n k.toNat = true
      | .enq d _ _ _ => 8 ≤ d.val
      | _ => True)

/-- The registers that an instruction reads whatever its data, in the order in which they are examined (R142 step 6). -/
def sourceLine : Instr → List Nat
  | .add _ a b _ | .sub _ a b _ | .mul _ a b _ | .mulh _ a b _ | .mulhu _ a b _ | .div _ a b _ | .divu _ a b _
  | .rem _ a b _ | .remu _ a b _ | .and _ a b _ | .or _ a b _ | .xor _ a b _ | .shl _ a b _ | .shr _ a b _
  | .sar _ a b _ | .min _ a b _ | .max _ a b _ | .minu _ a b _ | .maxu _ a b _ | .cmp _ a b _ _ | .sel _ a b _ _
  | .rnd _ a b _ | .fadd _ a b _ _ _ | .fmul _ a b _ _ _ | .fmin _ a b _ _ | .fcmp _ a b _ _ _ | .faddF64 _ a b _ _
  | .fmulF64 _ a b _ _ | .fminF64 _ a b _ | .fcmpF64 _ a b _ _ | .ldn _ a b _ _ | .watch _ a b _ | .send _ a b _ _
  | .put _ a b _ | .subs a b _ | .waitt a b _ | .tlbi a b _ | .preempt _ a b _ | .resume _ a b _ => [a, b]
  | .clz _ a _ | .popc _ a _ | .addi _ a _ _ | .andi _ a _ _ | .ori _ a _ _ | .xori _ a _ _ | .shli _ a _ _
  | .shri _ a _ _ | .sari _ a _ _ | .cmpi _ a _ _ _ | .csrw a _ _ | .jr a _ _ | .ret a _ | .ld _ a _ _ _ _
  | .ldAcq _ a _ _ _ _ _ | .join a _ | .prio a _ | .go a _ | .waitlim a _ | .trap a _ | .dbghalt _ a _
  | .csrwp a _ _ | .asidset a _ | .kill _ a _ | .errinj a _ => [a]
  | .ffma d a b _ _ _ | .ffmaF64 d a b _ _ => [a, b, d]
  | .fcvt _ a b _ _ _ m | .fcvtF64 _ a b _ _ _ m => if m = .sr then [a, b] else [a]
  | .st v a _ _ _ | .stRel v a _ _ _ _ => [v, a]
  | .stn v a b _ _ => [v, a, b]
  | .amo d a b _ _ _ _ o => if o = .cas then [a, b, d] else [a, b]
  | .spawn d a b _ => [d, a, b]
  | .fork a b _ => runLine a ++ [b.val]
  | .enq _ a b _ => runLine a ++ [b.val]
  | .sendm d a b _ => runLine a ++ [b.val, d.val]
  | .ecall _ a _ => if 6 < a.val then [] else (List.range 4).map (a.val + ·)
  | _ => []
where
  /-- The registers of a run that the instruction may name (R195). -/
  runLine (a : Fin 10) : List Nat := if 2 < a.val then [] else runRegs a

/-- The first register of a list that is not FULL (R142 step 6). -/
def firstEmpty (t : Thread) (rs : List Nat) : Option Nat := rs.find? fun r => !(regOf t r).full

/-! ## Steps and registers -/

/-- Device time is not behind the cycles that have passed (R396). -/
abbrev TimeKept (s : State) : Prop := Config.cycleUnits * s.cycle ≤ s.devTime

/-- The CSR and the value of a write that the table of opcodes lists by itself (R48, R52, R337, R338, R374, R375, R379,
R385, R389, R397, R415). -/
def csrRow : Instr → Option (Nat × Word)
  | .dispatch v => some (0x130, v)
  | .dtrecAppend v => some (0x134, v)
  | .tstepWrite v => some (0x241, v)
  | .attest v => some (0x262, v)
  | .chanWrite v => some (0x137, v)
  | .rotationTableWrite turn v => some (0x180 + turn.toNat, v)
  | .modeWrite v => some (0x110, v)
  | .spqWrite v => some (0x132, v)
  | .dqbWrite v => some (0x133, v)
  | .fabcfgWrite v => some (0x230, v)
  | .csrRegisterWrite k v => some (k.toNat, v)
  | _ => none

/-- An access that does not meet the area of the ASID table (R350). -/
abbrev OffTable (s : State) (r : Route) (size : Nat) : Prop := ∀ key, routeKey r = some key → inAsidTable s key size = false

/-- An access of a thread at home that may touch what it names: it is off the ASID table, or the platform's (R350). -/
abbrev MayTouch (s : State) (n : Nat) (r : Route) (size : Nat) : Prop := n = 0 ∨ OffTable s r size

/-- No codeword that a range touches carries a soft error (R345). -/
abbrev NoErrors (s : State) (key size : Nat) : Prop := eccFixed s.ecc key size = [] ∧ eccBads s.ecc key size = []

/-- The attribute record of a counter id carries no soft error that its reader would meet (R345, R371). -/
abbrev AttrClean (s : State) (c id : Nat) : Prop := ∀ k, attrKey s c id = some k → NoErrors s k 64

/-- Nor does its counter (R345, R372). -/
abbrev LaunchClean (s : State) (c id : Nat) : Prop :=
  AttrClean s c id ∧ ∀ q, partOfCore s c = some q → NoErrors s (counterKey s q id) 8

/-- The instruction writes `v` to the CSR `num` (R337): CSRWP of a FULL register, or a row of the table for that write. -/
abbrev WritesCsr (i : Instr) (num : Nat) (v : Word) (n : Nat) (t : Thread) : Prop :=
  (∃ (a : Fin 10) (p : Fin 16) (k : BitVec 12), i = .csrwp a p k ∧ num = k.toNat ∧ v = valOf t a ∧ Guarded t p ∧
    Full t [a.val]) ∨ csrRow i = some (num, v) ∨ i = .eieWrite v ∧ num = 0x117 ∧ n = 0

/-- A route of LDN, STN and AMO: a store, not control space; the egress queue has room where the route needs it, and fewer
than 64 requests of the core are outstanding (R185, R210). -/
abbrev requestRoute (s : State) (c : Nat) (r : Route) : Prop :=
  (∀ b q o, r ≠ .ctrl b q o) ∧ (routeEgress r = true → egressCount s c < 64) ∧ (coreOf s c).outstanding < 64

/-! ## Threads, semaphores, messages -/

/-- A target word that names a core alone and passes the checks of R208, with the core that it names (R207, R208). -/
abbrev coreWord (s : State) (c : Nat) (v : Word) (d : Dest) : Prop :=
  bits v.toNat 63 34 = 0 ∧ twSlot v.toNat = 0 ∧ destOf s c v.toNat = some d

/-- What a message of a thread needs to leave: for a deterministic thread a window and no access that is not performed (R112,
R402); else egress space where the network asks for it (R210), and without it a target in this package. -/
abbrev canSend (s : State) (c n : Nat) (t : Thread) (d : Dest) (queued : Bool) : Prop :=
    (detOf t = true → sendWindow s c t ≠ none ∧ unperformed s c n = false) ∧
    (detOf t = false → if queued = true then egressCount s c < 64 else d.own = true)

/-- The state in which a message of a thread has been handed to its network: the time-division network at its next window
for a deterministic thread (R209 to R211, R402). -/
def handed (s : State) (c n : Nat) (t : Thread) (d : Dest) (net : Net) (queued : Bool) (body : MsgBody) : State :=
  if detOf t then
    putMsg s { mkMsg s c n d.dev d.core .timediv true body with due := (sendWindow s c t).getD 0 }
  else post s c n d.dev d.core net queued body

/-- The state `s1` in which the sending instruction of `t` has completed with `u`; the slot of a deterministic thread waits
for the window of its message (R402). -/
def sent (s s1 : State) (c n : Nat) (t u : Thread) : State :=
  if detOf t then waitSlot (completed s1 c n t u 4) c n (.window s.uid) else completed s1 c n t u 4

/-- WAIT's two forms: semaphore, threshold register if any, threshold (R204). -/
def waitLine : Instr → Option (Nat × List Nat × (Thread → Nat))
  | .waitImm k i => some (k.toNat, [], fun _ => i.toNat)
  | .waitReg a k => some (k.toNat, [a.val], fun t => (valOf t a).toNat % 2 ^ 32)
  | _ => none

/-- SEMSET's two forms: semaphore, register if any, value (R204). -/
def semsetLine : Instr → Option (Nat × List Nat × (Thread → BitVec 32))
  | .semsetImm k i => some (k.toNat, [], fun _ => BitVec.ofNat 32 i.toNat)
  | .semsetReg a k => some (k.toNat, [a.val], fun t => BitVec.ofNat 32 (valOf t a).toNat)
  | _ => none

/-- The ring that a ring instruction names, and the registers that it reads (R205). -/
def ringLine : Instr → Option (BitVec 6 × List Nat)
  | .waita a k _ | .testa _ a k | .rtail a k | .rhead a k => some (k, [a.val])
  | .rtailGet _ k | .rheadGet _ k => some (k, [])
  | _ => none

/-- The ring of an instruction's cluster (R93). -/
def ringHere (s : State) (c : Nat) (k : BitVec 6) : Ring := ringOf (clusterOf s (clusterOfCore c)) k.toNat

/-- The entry of a tile that a thread names carries no soft error (R344). -/
abbrev tileClean (s : State) (c : Nat) (k : BitVec 6) (j : BitVec 32) : Prop :=
  NoErrors s (tileKey (clusterOfCore c) (slotOfIdx (ringHere s c k) j)) 8

/-- The trap of a cause with its two words. -/
def trapInfo (cause : Nat) (tval detail : Word) : TrapInfo := { cause := cause, tval := tval, detail := detail, more := 0 }

/-! ## Commands -/

/-- The engine and the bundle of a command that its engine queues: 0 MXE, 1 VXE, 2 GCE, 3 hods, 4 MNI (R140). -/
def commandLine : Instr → Option (Nat × Bundle)
  | .mma b | .mmas b | .aclr b | .ald b | .ast b | .acvt b | .achk b | .msum b | .atrn b => some (0, b)
  | .vadd b | .vsub b | .vmul b | .vfma b | .vmax b | .vmin b | .vabs b | .vneg b | .vexp2 b | .vlog2 b | .vrcp b
  | .vrsq b | .vtanh b | .vcvt b | .vcmp b | .vsel b | .vred b | .vscan b | .vtrn b | .vbcst b | .vrng b | .vcpy b => some (1, b)
  | .copy b | .rstr b | .prlg b | .gath b | .scat b | .mcast b => some (2, b)
  | .hodrun b | .hodstop b => some (3, b)
  | .chopen b | .chjoin b | .chclose b | .chstat b | .chevict b => some (4, b)
  | _ => none

/-- Whether a command selects FP64, which only a D core has (R235, R237). -/
def commandFp64 (i : Instr) (b : Bundle) (t : Thread) : Bool :=
  match (cmdCode i).1 with
  | 0 => mxeFp64 i b t.fmt
  | 1 => b.vfs == 0x0E || b.vfd == 0x0E
  | _ => false

/-- What fields A and B of a command are (R225 to R241, R251, R272, R287 to R304). -/
def commandFields (i : Instr) (b : Bundle) (t : Thread) : FieldKind × FieldKind :=
  match i with
  | .copy _ | .rstr _ | .prlg _ | .gath _ | .scat _ => (if b.flag 0 then .tile else .addr, if b.flag 1 then .none else .addr)
  | .mcast _ => (if b.flag 0 then .tile else .addr, .none)
  | .hodrun _ => (.addr, .value)
  | .hodstop _ | .chopen _ => (.none, .none)
  | .chjoin _ => (.value, .value)
  | .chclose _ => (.addr, if b.flag 0 then .addr else .none)
  | .chstat _ => (.addr, .none)
  | .chevict _ => (.value, .none)
  | .vrng _ => (.value, .addr)
  | .vbcst _ => (if b.vys then .none else if b.vta then .tile else .addr, .addr)
  | i => if (cmdCode i).1 = 1 then (if b.vta then .tile else .addr, .addr) else mxeKinds i b t.fmt

/-- The tiles that a command names, by ring, index and pop, from its formed fields (R100, R226, R236, R251). -/
def commandTiles (i : Instr) (b : Bundle) (t : Thread) (fa fb : Word) : List (Nat × BitVec 32 × Bool) :=
  match i with
  | .mma _ => passRings b false (passFmts b t.fmt).1 (passFmts b t.fmt).2 fa fb
  | .mmas _ => passRings b true (passFmts b t.fmt).1 (passFmts b t.fmt).2 fa fb
  | i =>
    if (cmdCode i).1 = 1 then if b.vta then [(b.vring, BitVec.setWidth 32 fa, b.popA)] else []
    else if (cmdCode i).1 = 2 then if b.flag 0 then [(fld b.w7 31 26, BitVec.setWidth 32 fa, b.popA)] else []
    else []

/-- What a command needs beside registers, queue space and references: formats that fmt completes legally, a D core for
FP64, the thread's earlier accesses performed for a GCE, legal formed fields and the level for CHJOIN and CHEVICT (R135,
R137, R243, R249, R289, R304). -/
def commandLegal (i : Instr) (b : Bundle) (s : State) (c n : Nat) (t : Thread) : Prop :=
  ((cmdCode i).1 = 0 → mxeFmtOk i b t.fmt = true) ∧ (commandFp64 i b t = true → c % 8 = 7) ∧
  ((cmdCode i).1 = 2 → pending s c n = false) ∧
  (match i with
    | .chjoin _ => (fieldValue t b.substB.toNat b.fieldB).toNat ≤ 255 ∧ chainWord s c (fieldValue t b.substA.toNat b.fieldA)
    | .chevict _ => n < 4 ∧ chainWord s c (fieldValue t b.substA.toNat b.fieldA)
    | _ => True)
where
  /-- A mortar target: a chain slot of a core of the own device (R289). -/
  chainWord (s : State) (c : Nat) (v : Word) : Prop :=
    v.toNat < 2 ^ 34 ∧ twSlot v.toNat ≤ 15 ∧ twDev v.toNat = s.pkg.dev.toNat ∧ destOf s c v.toNat ≠ none

/-- The registers that an instruction without a guard reads, in the formats L and S and in the bundles (R130, R142). -/
def freeSources : Instr → List Nat
  | .loop a _ | .waitReg a _ | .semsetReg a _ | .sigr a _ _ | .waita a _ _ | .testa _ a _ | .rtail a _ | .rhead a _
  | .ringdef a _ => [a.val]
  | .tabpin b | .tabinv b => bundleRegs b
  | i => match commandLine i with
    | some (_, b) => bundleRegs b
    | none => []

/-- What such an instruction needs to come to its registers: a bundle its formats and its D core, a GCE command the thread's
earlier accesses performed (R135, R137, R243, R249). -/
def reachesSources (i : Instr) (s : State) (c n : Nat) (t : Thread) : Prop :=
  match i with
  | .tabpin _ | .tabinv _ => pending s c n = false
  | i => match commandLine i with
    | some (_, b) => commandLegal i b s c n t
    | none => True

/-- The command that a bundle makes (R139, R141): its operation and bundle, its issuer with its ASID and level, the formats
of its thread, its fields formed from the substitution registers, its references or the refusal of them. -/
def IsCommand (m : Cmd) (i : Instr) (b : Bundle) (s : State) (c n : Nat) (x : Slot) (t : Thread) (refs : List TileRef)
    (refused : Option DefErr) : Prop :=
  m.uid = s.uid ∧ m.op = i ∧ m.x = b ∧ m.core = c ∧ m.slot = n ∧ m.thread = t.tid ∧ m.asid = x.asid.toNat ∧
    m.user = decide (4 ≤ n) ∧ m.fmt = t.fmt ∧ m.sca = t.sca ∧ m.scb = t.scb ∧
    (m.a, m.aBad) = formField t (commandFields i b t).1 b.substA.toNat b.fieldA ∧
    (m.b, m.bBad) = formField t (commandFields i b t).2 b.substB.toNat b.fieldB ∧
    m.refs = refs ∧ m.refused = refused ∧ m.issued = s.cycle ∧ m.started = false

/-- The command of a bundle as its thread issues it, before its references (R139, R141). -/
def bundleCmd (i : Instr) (b : Bundle) (s : State) (c n : Nat) (x : Slot) (t : Thread) : Cmd :=
  (Ctx.mk s c n x t).newCmd i b (formField t (commandFields i b t).1 b.substA.toNat b.fieldA)
    (formField t (commandFields i b t).2 b.substB.toNat b.fieldB)

/-- The command of TABPIN or TABINV as its thread issues it (R257). -/
def tableCmd (i : Instr) (b : Bundle) (ka : FieldKind) (s : State) (c n : Nat) (x : Slot) (t : Thread) : Cmd :=
  (Ctx.mk s c n x t).newCmd i b (formField t ka b.substA.toNat b.fieldA) (0#64, false)

/-- What an engine does as it accepts a command: a GCE copies its records, the MXE notes what data it awaits (R220, R251). -/
def acceptCmd (i : Instr) (s : State) (m : Cmd) : State × Cmd :=
  match (cmdCode i).1 with
  | 0 => (s, awaitData s m)
  | 2 => ((copyRecords s m).1, dropBadLtab (copyRecords s m).2)
  | _ => (s, m)

/-! ## What the engines compute -/

/-- The rational number that a finite value is (R58). -/
def evRat : EV → ℚ
  | .fin s m e => (if s then -1 else 1) * m * 2 ^ e
  | _ => 0

/-- A value that is neither an infinity nor NaN. -/
def IsFinite : EV → Bool
  | .fin _ _ _ => true
  | _ => false

/-- The code of an accumulator entry: tile, row, column (R86). -/
def acmAt (s : State) (c t i j : Nat) : Nat := mapGet 0 (coreOf s c).acm (4096 * t + 64 * i + j)

/-- The entries of a core's accumulator tiles are listed in rising order. -/
abbrev AcmSorted (s : State) (c : Nat) : Prop := ((coreOf s c).acm.map (·.1)).Pairwise (· < ·)

/-- No codeword of an accumulator tile carries a soft error (R344, R345). -/
abbrev TileSound (s : State) (c t : Nat) : Prop := NoErrors s (acmKey c t 0 0) 32768

/-- An operand of a command is the `n` bytes from `k` on of a store of the own device, free of guards and soft errors. -/
abbrev ReadsAt (s : State) (x : Cmd) (a : Word) (n k : Nat) : Prop :=
  x.segs s .read a 0 n = .ok [(k, n)] ∧ keyStore k ≠ 8 ∧ NoErrors s k n ∧ segGuard s [(k, n)] = none

/-- A command writes the `n` bytes from `k` on of the TCM of its own core. -/
abbrev WritesAt (s : State) (x : Cmd) (a : Word) (n k : Nat) : Prop :=
  x.segs s .write a 0 n = .ok [(k, n)] ∧ tcmCore k = some x.core ∧ inAsidTable s k n = false

/-- The same range, or no byte in common (R237). -/
abbrev SameOrApart (a n b m : Nat) : Prop := (a = b ∧ n = m) ∨ a + n ≤ b ∨ b + m ≤ a

/-- The VXE commands that compute D element by element from one element of each operand, VCVT without block formats among
them (R238, R241). -/
def elementwise : Instr → Bool
  | .vadd _ | .vsub _ | .vmul _ | .vfma _ | .vmax _ | .vmin _ | .vabs _ | .vneg _ | .vexp2 _ | .vlog2 _ | .vrcp _ | .vrsq _
  | .vtanh _ | .vcvt _ => true
  | _ => false

/-! ## Hod programs -/

/-- The program whose command is executed: it runs (R271). -/
abbrev Runs (s : State) (p : Prog) : Prop := mapFind (hodOf s s.hodCur.1).progs s.hodCur.2 = some p ∧ p.ended = false

/-- The state with the running program replaced. -/
def ranOn (s : State) (p : Prog) : State := putProg s s.hodCur.1 s.hodCur.2 p

/-- A program past its command (R274). -/
def past (p : Prog) : Prog := { p with pc := p.pc + 16#64, wwait := none, sigWait := false }

/-- A program ended by an error at its command (R282). -/
def failed (p : Prog) : Prog := failProg p p.pc

/-- The fills of the hods: cluster, ring, rows, bytes of a row, address and index registers (R278). -/
def fillLine : Instr → Option (Nat × Nat × Nat × Nat × Fin 8 × BitVec 64 × Option (Fin 8))
  | .hfill a r k cl rb st => some (cl.toNat, k.toNat, r.toNat + 1, 8 * (rb.toNat + 1), a, st, none)
  | .hsfill a r k cl rb st => some (cl.toNat, k.toNat, r.toNat + 1, rb.toNat + 1, a, st, none)
  | .hgath a b r k cl rb st => some (cl.toNat, k.toNat, r.toNat + 1, 8 * (rb.toNat + 1), a, st, some b)
  | _ => none

/-! ## Events -/

/-- Slot `n` of core `c`, the slot `x` with the thread `t`, waits in `w` and is not HELD (R26). -/
abbrev Waits (s : State) (c n : Nat) (x : Slot) (t : Thread) (w : Wait) : Prop :=
  slotOf s c n = x ∧ x.thread = some t ∧ x.st = .waiting ∧ x.isHeld = false ∧ x.wait = w

/-- A command that signals its own core now: its context is not held (R302, R303). -/
abbrev SignalsNow (s : State) (x : Cmd) : Prop :=
  ((coreOf s x.core).mode ≠ .preempted ∧ (coreOf s x.core).mode ≠ .restoring) ∨ some x.asid = (coreOf s x.core).guestAsid

/-- A message that its core takes as it arrives (R30, R118, R384). -/
abbrev Lands (s : State) (m : Msg) : Prop := arrived s m.uid = some m ∧ taking s m = .apply

/-- The state in which a message that its core takes has left the network; one for a user slot resets the quiescence
count (R388). -/
def without (s : State) (m : Msg) : State := noteUser (dropMsg s m.uid) m

/-- A waiting packet that its core spawns now in slot `n`: its core runs, its launch is not cancelled, its terms are
accepted, and the slot is the lowest FREE one or, in rotation mode, its lane's (R28 to R30, R41, R49). -/
abbrev Spawns (s : State) (c n : Nat) (p : Packet) (a : Attr) (bs : List Byte) : Prop :=
  let k := coreOf s c
  k.mode = .running ∧ launchCancelled s (partOfCore s c) (ctlCcid (pktWord p.words 0)) = false ∧
    spawnTerms s c p.words = some (a, bs) ∧
    if k.rot = true then laneSlot k (ctlLane (pktWord p.words 0)) = some n ∧ (slotIn k n).st = .free ∧
      (slotIn k n).isHeld = false
    else freeUserSlot k = some n

/-- The rows of the partition commands with their OP and the states that they start from (R358, R359). -/
def partLine : Instr → Option (BitVec 6 × Nat × List Nat)
  | .bind p => some (p, 1, [0])
  | .halt p => some (p, 2, [1])
  | .cont p => some (p, 3, [2])
  | .swapout p => some (p, 4, [2])
  | .swapin p => some (p, 5, [3])
  | .reset p => some (p, 6, [1, 2])
  | .unbind p => some (p, 7, [2])
  | _ => none

end Sys2Proof.Claims
end

