-- ==== Sys2Proof/Certificates/Slice0/Obligations.lean ====
section
/-! DEFINITION. The statements for the provers. -/

open Sys2Proof Sys2Proof.Machine Sys2Proof.Claims

/-- A register instruction whose guard holds and whose sources are FULL completes: the destination takes the result of its
table line, FULL and not RESERVED; the PC goes on or the loop goes back; nothing else of the machine changes. An
instruction of the division group completes in the same way, and its slot is then WAITING until cycle t + 31 and READY in
cycle t + 32. A SEL whose selector is tainted under STRICT is the determinism trap (R22, R153, R157 to R161, R164, R180). -/
def Obligations.RegisterResults : Prop :=
  (∀ (i : Instr) (r : RegLine), regLine i = some r → ∀ (s : State) (c n : Nat) (x : Slot) (t : Thread),
     At s c n x t → Guarded t r.p → Full t r.regs → (∀ q ∈ r.preds, Clean t q) →
     LoopOk s c n t (writeReg t r.d (r.val t)) →
     exec i s = .next (completed s c n t (writeReg t r.d (r.val t)) r.size)) ∧
  (∀ (i : Instr) (r : RegLine), regLine i = some r → ∀ (s : State) (c n : Nat) (x : Slot) (t : Thread),
     At s c n x t → Guarded t r.p → Full t r.regs → ∀ q ∈ r.preds, ¬Clean t q →
     exec i s = .next (takeTrap s c n (taintTrap t q) none)) ∧
  (∀ (i : Instr) (r : RegLine), divLine i = some r → ∀ (s : State) (c n : Nat) (x : Slot) (t : Thread),
     At s c n x t → Guarded t r.p → Full t r.regs → LoopOk s c n t (writeReg t r.d (r.val t)) →
     exec i s = .next (waitSlot (completed s c n t (writeReg t r.d (r.val t)) 4) c n (.divide (s.cycle + 32))))

/-- A compare or predicate instruction whose guard holds completes: the predicate takes the value of its line with the OR
of the taints read, and nothing else changes. Under STRICT a guard or a source that is tainted is the determinism trap that
names that predicate, the guard before the sources and the first source before the second (R22, R130, R155, R162, R163). -/
def Obligations.PredicateResults : Prop :=
  ∀ (i : Instr) (r : PredLine), predLine i = some r → wellFormed i = true →
    ∀ (s : State) (c n : Nat) (x : Slot) (t : Thread), At s c n x t →
    (Guarded t r.p → Full t r.regs → (∀ q ∈ r.preds, Clean t q) →
      LoopOk s c n t (putPred t r.d (r.val t) (r.taint t)) →
      exec i s = .next (completed s c n t (putPred t r.d (r.val t) (r.taint t)) 4)) ∧
    (¬Clean t r.p → exec i s = .next (takeTrap s c n (taintTrap t r.p) none)) ∧
    (Guarded t r.p → Full t r.regs → ∀ q, r.preds.find? (fun k => strictOf t && taintOf t k) = some q →
      exec i s = .next (takeTrap s c n (taintTrap t q) none))

/-- TRANSFERS OF CONTROL. A branch reads its predicate, and goes to PC + 4 · off where its condition holds and the target passes
its check; where the condition fails it goes on; a tainted predicate under STRICT is the determinism trap. CALL writes PC + 4 to
rd and goes to PC + 4 · off; JR goes to ra + 4 · imm and RET to ra, both modulo 2^64. A target that fails its check traps at the
instruction with the cause of the check, and nothing is written; the instruction waits first where the walk for its target must
follow the thread's own stores (R22, R126, R131, R165 to R167, R356). -/
def Obligations.ControlTransfers : Prop :=
  (∀ (i : Instr) (r : BranchLine), branchLine i = some r → ∀ (s : State) (c n : Nat) (x : Slot) (t : Thread),
     At s c n x t →
     (∀ q ∈ r.preds, ¬Clean t q → exec i s = .next (takeTrap s c n (taintTrap t q) none)) ∧
     ((∀ q ∈ r.preds, Clean t q) →
       (r.taken t = true → TargetOk s c n t.pc (pcTarget t.pc r.off) →
         exec i s = .next (withThread s c n { t with pc := BitVec.ofNat 48 (pcTarget t.pc r.off) })) ∧
       (r.taken t = false → LoopOk s c n t t → exec i s = .next (completed s c n t t 4)) ∧
       (r.taken t = true → TargetFails i s c n t (pcTarget t.pc r.off)))) ∧
  (∀ (s : State) (c n : Nat) (x : Slot) (t : Thread), At s c n x t →
     (∀ (d : Fin 10) (o : BitVec 22),
       (TargetOk s c n t.pc (pcTarget t.pc o.toInt) →
         exec (.call d o) s = .next (withThread s c n
           { writeReg t d (BitVec.ofNat 64 (t.pc.toNat + 4)) with pc := BitVec.ofNat 48 (pcTarget t.pc o.toInt) })) ∧
       TargetFails (.call d o) s c n t (pcTarget t.pc o.toInt)) ∧
     (∀ (a : Fin 10) (p : Fin 16) (k : BitVec 14), Guarded t p → Full t [a.val] →
       let y := (BitVec.ofInt 64 ((valOf t a).toNat + 4 * k.toInt)).toNat
       (TargetOk s c n t.pc y →
         exec (.jr a p k) s = .next (withThread s c n { t with pc := BitVec.ofNat 48 y })) ∧
       TargetFails (.jr a p k) s c n t y) ∧
     (∀ (a : Fin 10) (p : Fin 16), Guarded t p → Full t [a.val] →
       let y := (valOf t a).toNat
       (TargetOk s c n t.pc y →
         exec (.ret a p) s = .next (withThread s c n { t with pc := BitVec.ofNat 48 y })) ∧
       TargetFails (.ret a p) s c n t y))

/-- LOOP and LOOPX with a count of 1 or more set the three loop registers and go on; a count of 0 goes to the instruction
after the one at lpe, sized by its first word; a LOOP count above 32 bits is the illegal-operand trap and an end16 of
0 the illegal-instruction trap (R168). -/
def Obligations.LoopSetup : Prop :=
  ∀ (i : Instr) (s : State) (c n : Nat) (x : Slot) (t : Thread) (k : Nat) (e : BitVec 16), At s c n x t →
    ((∃ a : Fin 10, i = .loop a e ∧ Full t [a.val] ∧ (valOf t a).toNat = k) ∨
      (∃ m : BitVec 10, i = .loopx m e ∧ m.toNat = k)) →
    (e ≠ 0#16 → 0 < k → k < 2 ^ 32 → LoopOk s c n t (loopSet t k e.toNat) →
      exec i s = .next (completed s c n t (loopSet t k e.toNat) 4)) ∧
    (e ≠ 0#16 → k = 0 → ∀ bs, fetchCode s c n (t.pc + BitVec.ofNat 48 (4 * e.toNat)).toNat 4 = .ok bs →
      let y := (t.pc + BitVec.ofNat 48 (4 * e.toNat)).toNat + bytesOfInstr (leNat bs)
      TargetOk s c n t.pc y →
      exec i s = .next (withThread s c n { loopSet t 0 e.toNat with pc := BitVec.ofNat 48 y })) ∧
    (e ≠ 0#16 → 2 ^ 32 ≤ k → ∀ a : Fin 10, i = .loop a e →
      exec i s = .next (takeTrap s c n
        { cause := 0x04, tval := BitVec.ofNat 64 k, detail := BitVec.ofNat 64 a, more := 0 } none)) ∧
    (e = 0#16 → exec i s = .next (takeTrap s c n
      { cause := 0x01, tval := instrWord s c n t.pc, detail := 0#64, more := 0 } none))

/-- FADD, FMUL, FFMA and FCVT, and on a D core their FP64 forms, complete: rd takes the rounded result zero-extended, FULL,
and the result's flags are ORed into fflags; nothing else changes (R154, R172, R175 to R177). -/
def Obligations.FloatResults : Prop :=
  ∀ (i : Instr) (r : FloatLine), floatLine i = some r → ∀ (s : State) (c n : Nat) (x : Slot) (t : Thread),
    At s c n x t → (r.dExt = true → c % 8 = 7) → Guarded t r.p → Full t r.regs →
    let u := { writeReg t r.d (r.out t).1 with fflags := t.fflags ||| (r.out t).2 }
    LoopOk s c n t u → exec i s = .next (completed s c n t u 4)

/-- FMIN writes one of its operands' codes: the lesser, with −0 less than +0; the other operand where exactly one is a NaN;
the canonical NaN where both are. A signalling NaN sets NV, and nothing else changes (R173). -/
def Obligations.FminResults : Prop :=
  ∀ (i : Instr) (f : FF) (dx : Bool) (d a b : Fin 10) (p : Fin 16), minLine i = some (f, dx, d, a, b, p) →
    ∀ (s : State) (c n : Nat) (x : Slot) (t : Thread), At s c n x t → (dx = true → c % 8 = 7) → Guarded t p →
    Full t [a.val, b.val] →
    let y := codeOf f t a
    let z := codeOf f t b
    ∃ r : Nat,
      (f.isNan y = true → f.isNan z = true → r = f.nan) ∧
      (f.isNan y = true → f.isNan z = false → r = z) ∧
      (f.isNan y = false → f.isNan z = true → r = y) ∧
      (f.isNan y = false → f.isNan z = false →
        (evLt (f.value y) (f.value z) = true → r = y) ∧ (evLt (f.value z) (f.value y) = true → r = z) ∧
        (evLt (f.value y) (f.value z) = false → evLt (f.value z) (f.value y) = false →
          r = if f.sign y = true then y else z)) ∧
      (let u := { writeReg t d (BitVec.ofNat 64 r) with
          fflags := t.fflags ||| (if f.isSnan y || f.isSnan z then 0b10000#5 else 0#5) }
       LoopOk s c n t u → exec i s = .next (completed s c n t u 4))

/-- FCMP writes its condition on the exact values to a predicate, with the guard's taint, and ORs NV into fflags where R174
says so; nothing else changes (R155, R174). -/
def Obligations.FloatCompare : Prop :=
  ∀ (i : Instr) (f : FF) (dx : Bool) (d : Fin 16) (a b : Fin 10) (p : Fin 16) (k : Cc),
    cmpLine i = some (f, dx, d, a, b, p, k) → wellFormed i = true →
    ∀ (s : State) (c n : Nat) (x : Slot) (t : Thread), At s c n x t → (dx = true → c % 8 = 7) → Guarded t p →
    Full t [a.val, b.val] →
    let y := codeOf f t a
    let z := codeOf f t b
    let v := fpCondition k (f.isNan y || f.isNan z) (evEq (f.value y) (f.value z)) (evLt (f.value y) (f.value z))
      (evLt (f.value z) (f.value y))
    let u := putPred { t with fflags := t.fflags ||| fpCompareFlags f k y z } d v (taintOf t p)
    LoopOk s c n t u → exec i s = .next (completed s c n t u 4)

/-- SPECIAL CASES. The special cases of R172 in every format of the scalar instructions: an operand that is a NaN gives the
canonical NaN, with NV when one is signalling; infinities of opposite sign in an addition and an infinity times zero give it
with NV; a sum of two zeros of one sign is that zero, of opposite signs +0, or −0 under RDN (R60, R172).
RESULTS OF ENGINE COMMANDS. A sum of finite values is their sum, with −0 only where every term is −0; a product is the product
with the scale; VADD, VSUB, VMUL, VFMA, VMAX, VMIN, VABS and VNEG are exact (R77, R238). MMA with operands in memory, in a
format pair without blocks other than FP64, sets every entry of its tile to the exact sum of the entry, which ZA leaves out,
and of its products, rounded once; ACLR clears the tiles of its mask; ATRN transposes. ALD, AST and ACVT with rows that no
hold has cut short load, store and convert every element of the tile, for A34 tiles and formats without blocks, and clear it
where CLR asks. A VXE command that works element by element rounds each element's result into D, and VCPY copies, with operands
in memory and D in the own TCM. Every other entry of the accumulator and every other byte of memory stays (R224, R226, R228 to
R231, R234, R237, R238, R241). -/
def Obligations.FloatSpecialCases : Prop :=
  (∀ (f : FF), f ∈ [ffF32, ffF16, ffBf16, ffF64] → ∀ (m : Rm) (y z : Nat), m ≠ .sr →
    (f.isNan y = true ∨ f.isNan z = true →
      (fpAdd f m y z).1 = f.nan ∧ (fpMul f m y z).1 = f.nan ∧
      (fpAdd f m y z).2 = (if f.isSnan y || f.isSnan z then 0b10000#5 else 0#5) ∧
      (fpMul f m y z).2 = (if f.isSnan y || f.isSnan z then 0b10000#5 else 0#5)) ∧
    (∀ g : Bool, f.value y = .inf g → f.value z = .inf (!g) → fpAdd f m y z = (f.nan, 0b10000#5)) ∧
    (∀ (g h : Bool) (e : Int), f.value y = .inf g → f.value z = .fin h 0 e → fpMul f m y z = (f.nan, 0b10000#5)) ∧
    (∀ (g h : Bool) (e k : Int), f.value y = .fin g 0 e → f.value z = .fin h 0 k →
      fpAdd f m y z = (f.withSign (if g = h then g else m == .rdn) 0, 0#5) ∧
      fpMul f m y z = (f.withSign (Bool.xor g h) 0, 0#5))) ∧
  (∀ vs : List EV, vs ≠ [] → (∀ v ∈ vs, IsFinite v = true) →
    IsFinite (exactSum vs) = true ∧ evRat (exactSum vs) = (vs.map evRat).sum ∧
    (evRat (exactSum vs) = 0 → (evSign (exactSum vs) = true ↔ ∀ v ∈ vs, evRat v = 0 ∧ evSign v = true))) ∧
  (∀ x y d : EV, IsFinite x = true → IsFinite y = true → IsFinite d = true →
    (∀ g : Int, evRat (evMul x y g) = evRat x * evRat y * 2 ^ g ∧ evSign (evMul x y g) = (evSign x != evSign y)) ∧
    ∀ (b : Bundle) (m : Rm),
      evRat (elemResult (.vadd b) m x y d).1 = evRat x + evRat y ∧ evRat (elemResult (.vsub b) m x y d).1 = evRat x - evRat y ∧
      evRat (elemResult (.vmul b) m x y d).1 = evRat x * evRat y ∧
      evRat (elemResult (.vfma b) m x y d).1 = evRat x * evRat y + evRat d ∧
      evRat (elemResult (.vmax b) m x y d).1 = max (evRat x) (evRat y) ∧
      evRat (elemResult (.vmin b) m x y d).1 = min (evRat x) (evRat y) ∧
      evRat (elemResult (.vabs b) m x y d).1 = |evRat x| ∧ evRat (elemResult (.vneg b) m x y d).1 = -evRat x) ∧
  (∀ (s : State) (c : Nat) (x : Cmd) (rest : List Cmd),
    let k := coreOf s c
    let b := x.x
    let old := acmAt s c
    let ends (new : Nat → Nat → Nat → Nat) : Prop := ∃ u, exec (.mxeCommandStart c) s = .next u ∧ u.mem = s.mem ∧
      ∀ t < 16, ∀ i < 64, ∀ j < 64, acmAt u c t i j = new t i j
    k.rot = false → rowsStopped k = false → k.mxeq = x :: rest → x.core = c → mayStart s x = true → k.mxeFree ≤ s.cycle →
    k.inject = none → x.refused = none → AcmSorted s c → TileSound s c x.tileC →
    (∀ fa fb kp ka kb : Nat, x.op = .mma b → passFmts b x.fmt = (fa, fb) → passShape fa fb = some (kp, 64, 0) →
      b.flag 0 = true → b.flag 1 = true → x.refs = [] → x.aBad = false → x.bBad = false →
      x.a.toNat % 8 = 0 → x.b.toNat % 8 = 0 → ReadsAt s x x.a 4096 ka → ReadsAt s x x.b 4096 kb →
      let w := 64 / kp
      let el (f k r q : Nat) : EV := valueOf f (memNat s.mem (k + 64 * r + w * q) w)
      ends fun t i j => if t ≠ x.tileC then old t i j else
        roundRne (exactSum ((if b.flag 2 then [] else [ffA34.value (old t i j)]) ++ (List.range kp).map fun q =>
          evMul (el fa ka i q) (el fb kb j q) (signedOf 7 x.sca.toNat + signedOf 7 x.scb.toNat))) ffA34) ∧
    (x.op = .aclr b → ends fun t i j => if b.w5.getLsbD t then 0 else old t i j) ∧
    (x.op = .atrn b → b.flag 2 = false → ends fun t i j => if t = fld b.w5 7 4 then old x.tileC j i else old t i j)) ∧
  (∀ (s : State) (c : Nat) (x : Cmd),
    let b := x.x
    let old := acmAt s c
    let ends (mem : State → Prop) (new : Nat → Nat → Nat → Nat) : Prop := ∃ u, exec (.readerRetire c x.uid) s = .next u ∧
      mem u ∧ ∀ t < 16, ∀ i < 64, ∀ j < 64, acmAt u c t i j = new t i j
    let cleared (t i j : Nat) : Nat := if b.flag 0 = true ∧ t = x.tileC then 0 else old t i j
    activeCmd s c x.uid = some x → x.core = c → x.started = true → x.retired = false → x.retireAt ≤ s.cycle → x.rows = 0 →
    x.err = none → x.refs = [] → x.aBad = false → b.flag 2 = false → AcmSorted s c → TileSound s c x.tileC →
    (∀ at_ : Nat → Nat, x.op = .ald b → fld b.w5 8 4 ∈ [0, 1, 2, 0x12] →
      let fs := fld b.w5 8 4
      let w := fmtBits fs / 8
      (∀ i < 64, ReadsAt s x (x.a + BitVec.ofNat 64 (i * (x.rowShape 0).1)) (64 * w) (at_ i)) →
      ends (fun u => u.mem = s.mem) fun t i j => if t ≠ x.tileC then old t i j else
        let v := valueOf fs (memNat s.mem (at_ i + w * j) w)
        roundRne (if b.flag 0 then exactSum [ffA34.value (old t i j), v] else v) ffA34) ∧
    (∀ k0 st : Nat, st = (x.rowShape (acvtFmt b x.fmt)).1 →
      let rows (w : Nat) (code : Nat → Nat → Nat) (u : State) : Prop :=
        (∀ i < 64, ∀ j < 64, memBytes u.mem (k0 + i * st + w * j) w = leBytes w (code i j)) ∧
        ∀ a, (∀ i < 64, a < k0 + i * st ∨ k0 + i * st + 64 * w ≤ a) → memByte u.mem a = memByte s.mem a
      let fits (w : Nat) : Prop := 64 * w ≤ st ∧
        ∀ i < 64, WritesAt s x (x.a + BitVec.ofNat 64 (i * st)) (64 * w) (k0 + i * st)
      (x.op = .ast b → fits 8 → ends (rows 8 (old x.tileC)) cleared) ∧
      (x.op = .acvt b → acvtFmt b x.fmt ∈ [0, 1, 2, 3, 4, 5, 0x10] →
        let fd := acvtFmt b x.fmt
        fits (fmtBits fd / 8) →
        ends (rows (fmtBits fd / 8) fun i j =>
          let v := ffA34.value (if b.flag 1 then old x.tileC j i else old x.tileC i j)
          (roundFmt (evScale (signedOf 7 (fld b.w5 15 9)) v) fd x.rmOf x.satOf
            (if x.rmOf = .sr then srWord b.w7.toNat 0 (64 * i + j) else 0)).1) cleared))) ∧
  (∀ (s : State) (c : Nat) (x : Cmd) (rest : List Cmd) (kx ky kd : Nat),
    let k := coreOf s c
    let b := x.x
    let w (f : Nat) : Nat := fmtBits f / 8
    let (nx, nd) := (b.vn * w b.vfs, b.vn * w b.vfd)
    let ya := if b.flag 0 then x.a + sext32 b.w5 else freeAddr b.w5
    let formats := [0, 1, 2, 3, 4, 5, 0x0E, 0x10, 0x11]
    let ends (mem : State → Prop) : Prop := ∃ u, exec (.vxeCommandStart c) s = .next u ∧ mem u ∧
      ∀ a, a < kd ∨ kd + nd ≤ a → memByte u.mem a = memByte s.mem a
    k.vxeq = x :: rest → x.core = c → mayStart s x = true → k.vxeFree ≤ s.cycle → k.inject = none → x.refs = [] →
    x.refused = none → x.aBad = false → x.bBad = false → b.vta = false → b.vfs ∈ formats → b.vfd ∈ formats →
    x.a.toNat % w b.vfs = 0 → x.b.toNat % w b.vfd = 0 → ReadsAt s x x.a nx kx → WritesAt s x x.b nd kd →
    SameOrApart kd nd kx nx →
    (elementwise x.op = true →
      (vHasY x.op = true ∧ b.vys = false → ya.toNat % w b.vfs = 0 ∧ ReadsAt s x ya nx ky ∧ SameOrApart kd nd ky nx) →
      (x.op = .vfma b → ReadsAt s x x.b nd kd) →
      let el (f k e : Nat) : EV := valueOf f (memNat s.mem (k + w f * e) (w f))
      ends fun u => ∀ e < b.vn, memBytes u.mem (kd + w b.vfd * e) (w b.vfd) = leBytes (w b.vfd)
        (roundFmt (elemResult x.op x.vrm (el b.vfs kx e)
          (if b.vys then valueOf b.vfs (b.w7.toNat % 2 ^ fmtBits b.vfs) else el b.vfs ky e) (el b.vfd kd e)).1
          b.vfd x.vrm x.satOf (if x.vrm = .sr then srWord b.w5.toNat 0 e else 0)).1) ∧
    (x.op = .vcpy b → b.vfs = b.vfd → ends fun u => memBytes u.mem kd nd = memBytes s.mem kx nx))

/-- An instruction of the D extension on a core that is no D core departs: its slot is VISITING without its thread, and the
thread is on its way to the D core of the cluster with VISIT set; memory and every other slot stay (R10, R37, R176).
A held error is delivered first (R329). The model's own choice in it is log 63. -/
def Obligations.FloatVisits : Prop :=
  ∀ (i : Instr), isDExt i = true → ∀ (s : State) (c n : Nat) (x : Slot) (t : Thread),
    At s c n x t → c % 8 ≠ 7 → anyReserved t = false → pending s c n = false →
    (t.held = none → ∃ u, exec i s = .next u ∧
      (slotOf u c n).st = .visiting ∧ (slotOf u c n).thread = none ∧ u.mem = s.mem ∧
      (∀ d m, (d ≠ c ∨ m ≠ n) → slotOf u d m = slotOf s d m) ∧
      ∃ msg, u.net = s.net ++ [msg] ∧ msg.uid = s.uid ∧ msg.score = c ∧ msg.sslot = n ∧ msg.dcore = c / 8 * 8 + 7 ∧
        msg.ddev = s.pkg.dev.toNat ∧ msg.net = .request ∧
        msg.body = .visit { t with pw := t.pw ||| 0x20000000#32 } c n x.asid.toNat) ∧
    (∀ e, t.held = some e → exec i s = .next (takeTrap (modThread s c n fun u => { u with held := none }) c n
      { cause := 0x15, tval := e.addr, detail := BitVec.ofNat 64 e.cause, more := e.count } none))

/-- THE GUARD. Where it reads 0 the instruction advances PC and does nothing else: it reads no register, waits for nothing and
raises no fault. Where the predicate may not be read, a tainted one under STRICT, the instruction traps with the
determinism cause. p0 always reads 1 (R22, R130). -/
def Obligations.GuardRule : Prop :=
  (∀ t : Thread, predOf t 0 = true ∧ taintOf t 0 = false) ∧
  ∀ (i : Instr) (p : Fin 16) (size : Nat), guardLine i = some (p, size) →
    ∀ (s : State) (c n : Nat) (x : Slot) (t : Thread), AtHome s c n x t → ReachesGuard i s c n →
    (Clean t p → predOf t p = false → LoopOk s c n t t → exec i s = .next (completed s c n t t size)) ∧
    (¬Clean t p → exec i s = .next (takeTrap s c n
      { cause := 0x09, tval := BitVec.setWidth 64 t.pw, detail := BitVec.ofNat 64 p, more := 0 } none))

/-- A source register that is EMPTY or RESERVED keeps the instruction from issuing: its slot waits for the first such
register, the issue is not taken, and nothing else changes; so of the instructions with a guard, the registers of a run among
their sources, and of those without one and the bundles (R23, R130, R142, R195). -/
def Obligations.EmptySourceWaits : Prop :=
  (∀ (i : Instr) (s : State) (c n : Nat) (x : Slot) (t : Thread), AtHome s c n x t → wellFormed i = true →
    reachesSources i s c n t → ∀ r, firstEmpty t (freeSources i) = some r → exec i s = .next (notIssued s c n (.reg r))) ∧
  ∀ (i : Instr) (p : Fin 16) (size : Nat), guardLine i = some (p, size) →
    ∀ (s : State) (c n : Nat) (x : Slot) (t : Thread), AtHome s c n x t → ReachesGuard i s c n → Guarded t p →
    ∀ r, firstEmpty t (sourceLine i) = some r → exec i s = .next (notIssued s c n (.reg r))

/-- An instruction of a level that its slot does not have traps with the privileged-instruction cause, before its guard and
its operands are looked at; the thread is not changed by anything but the trap (R136, R142, R326). -/
def Obligations.PrivilegeTraps : Prop :=
  ∀ (i : Instr) (s : State) (c n : Nat) (x : Slot) (t : Thread), AtHome s c n x t →
    ¬levelHeld n (levelAsked s c i) →
    (∀ (d : Fin 10) (p : Fin 16) (k : BitVec 12), i = .csrrp d p k ∨ i = .csrwp d p k → csrListed n k.toNat = true) →
    exec i s = .next (takeTrap s c n
      { cause := 0x02, tval := instrWord s c n t.pc, detail := 0#64, more := 0 } none)

/-- The addresses of regions 0x8, 0x9 and 0xA: an own TCM or scratchpad address names the store's byte at its offset;
address bits above the store's offset are the access fault with detail 0, a range past its end with detail 1; a
guarded granule of the scratchpad is the guard fault; region 0xA names a core of this device by its partition's numbers, or a
store of another device that its partition is bound to; its reserved space is the access fault with detail 0, an offset past
the store's end with detail 1, a core or a device that the partition does not have with detail 2; region 0xF is the access fault with detail 3 for a user slot, and
regions that do not exist are the access fault with detail 0 (R14 to R16, R103, R332, R392). The model's own choice in it is log 19. -/
def Obligations.AddressRoutes : Prop :=
  ∀ (s : State) (c n : Nat) (u : AccUse) (a : Word) (k : Nat), 0 < k → (slotOf s c n).visitFrom = none →
    (bits a.toNat 63 60 = 8 →
      (bits a.toNat 59 18 = 0 → bits a.toNat 17 0 + k ≤ 262144 →
        routeAccess s c n u a k = .ok (.own (tcmKey c (a.toNat % 262144)))) ∧
      (bits a.toNat 59 18 ≠ 0 → routeAccess s c n u a k = .error (.fault 0x06 a 0#64)) ∧
      (bits a.toNat 59 18 = 0 → 262144 < bits a.toNat 17 0 + k →
        routeAccess s c n u a k = .error (.fault 0x06 a 1#64))) ∧
    (bits a.toNat 63 60 = 9 →
      (bits a.toNat 59 24 = 0 → bits a.toNat 23 0 + k ≤ 16777216 →
        (∀ g ∈ (clusterOf s (c / 8)).guards, ¬(g * 64 < bits a.toNat 23 0 + k ∧ bits a.toNat 23 0 < (g + 1) * 64)) →
        routeAccess s c n u a k = .ok (.own (spadKey (c / 8) (a.toNat % 16777216)))) ∧
      (bits a.toNat 59 24 = 0 → bits a.toNat 23 0 + k ≤ 16777216 →
        ∀ g ∈ (clusterOf s (c / 8)).guards, (g * 64 < bits a.toNat 23 0 + k ∧ bits a.toNat 23 0 < (g + 1) * 64) →
        ∃ h ∈ (clusterOf s (c / 8)).guards, (h * 64 < bits a.toNat 23 0 + k ∧ bits a.toNat 23 0 < (h + 1) * 64) ∧
          routeAccess s c n u a k =
            .error (.fault 0x08 (BitVec.ofNat 64 (h * 64)) (BitVec.ofNat 64 (bits (h * 64) 11 5)))) ∧
      (bits a.toNat 59 24 = 0 → 16777216 < bits a.toNat 23 0 + k →
        routeAccess s c n u a k = .error (.fault 0x06 a 1#64)) ∧
      (bits a.toNat 59 24 ≠ 0 → routeAccess s c n u a k = .error (.fault 0x06 a 0#64))) ∧
    (bits a.toNat 63 60 = 10 →
      let dev := bits a.toNat 59 44
      let core := bits a.toNat 43 34
      let space := bits a.toNat 33 32
      let off := bits a.toNat 31 0
      let size := [262144, 16777216, 134217728][space]?.getD 0
      (space = 3 → routeAccess s c n u a k = .error (.fault 0x06 a 0#64)) ∧
      (space < 3 → size < off + k → routeAccess s c n u a k = .error (.fault 0x06 a 1#64)) ∧
      (space < 3 → off + k ≤ size → dev = s.pkg.dev.toNat →
        (coreOfLogical s (partOfCore s c) core = none → routeAccess s c n u a k = .error (.fault 0x06 a 2#64)) ∧
        (∀ d, coreOfLogical s (partOfCore s c) core = some d → routeAccess s c n u a k = .ok (.far
          (if space = 0 then tcmKey d off else if space = 1 then spadKey (d / 8) off else sramKey (dieOfCore s d) off)
          (d != c)))) ∧
      (space < 3 → off + k ≤ size → dev ≠ s.pkg.dev.toNat →
        (peerBound s (partOfCore s c) dev = true → routeAccess s c n u a k = .ok (.dev dev core space off)) ∧
        (peerBound s (partOfCore s c) dev = false → routeAccess s c n u a k = .error (.fault 0x06 a 2#64)))) ∧
    (bits a.toNat 63 60 = 15 → 4 ≤ n → routeAccess s c n u a k = .error (.fault 0x06 a 3#64)) ∧
    (bits a.toNat 63 60 ∈ [1, 2, 3, 4, 5, 6, 7, 11, 12, 13, 14] →
      routeAccess s c n u a k = .error (.fault 0x06 a 0#64))

/-- A load from an own store completes at its issue: rd takes the little-endian bytes at the effective address, zero- or
sign-extended, FULL; memory and everything else stay (R5, R183, R186, R187, R189). LD needs natural alignment or one 64-byte
granule, LD.acq natural alignment. A store to an own store completes at its issue: the low bytes of rs stand little-endian at
the effective address's place, and every other byte of memory reads as before; no register changes (R5, R183, R186, R188,
R189). The model's own choices in it are log 7 and log 68. -/
def Obligations.OwnAccesses : Prop :=
  (∀ (i : Instr) (d a : Fin 10) (p : Fin 16) (z : Sz) (sx : Bool) (s : State) (c n : Nat) (x : Slot) (t : Thread)
     (ea : Word) (key : Nat),
     ((∃ k, i = .ld d a p z sx k ∧ ea = valOf t a + BitVec.ofInt 64 (k.toInt * z.bytes)) ∧
         (ea.toNat % z.bytes = 0 ∨ ea.toNat % 64 + z.bytes ≤ 64) ∨
       (∃ sc k, i = .ldAcq d a p z sx sc k ∧ ea = valOf t a + BitVec.ofInt 64 (k.toInt * z.bytes)) ∧
         ea.toNat % z.bytes = 0) →
     AtHome s c n x t → Guarded t p → Full t [a.val] → routeAccess s c n .read ea z.bytes = .ok (.own key) →
     MayTouch s n (.own key) z.bytes → unperformed s c n = false →
     NoErrors s key z.bytes →
     let v : Word := if sx then BitVec.ofInt 64 (signedOf (8 * z.bytes) (memNat s.mem key z.bytes))
       else BitVec.ofNat 64 (memNat s.mem key z.bytes)
     LoopOk s c n t (writeReg t d v) → exec i s = .next (completed s c n t (writeReg t d v) 4)) ∧
  (∀ (i : Instr) (v a : Fin 10) (p : Fin 16) (z : Sz) (s : State) (c n : Nat) (x : Slot) (t : Thread)
     (ea : Word) (key : Nat),
     ((∃ k, i = .st v a p z k ∧ ea = valOf t a + BitVec.ofInt 64 (k.toInt * z.bytes)) ∧
         (ea.toNat % z.bytes = 0 ∨ ea.toNat % 64 + z.bytes ≤ 64) ∨
       (∃ sc k, i = .stRel v a p z sc k ∧ ea = valOf t a + BitVec.ofInt 64 (k.toInt * z.bytes)) ∧
         ea.toNat % z.bytes = 0) →
     AtHome s c n x t → Guarded t p → Full t [v.val, a.val] →
     routeAccess s c n .write ea z.bytes = .ok (.own key) → inCounterTable s key z.bytes = false →
     inAsidTable s key z.bytes = false → unperformed s c n = false →
     eccBads (eccWrite s.ecc key z.bytes) key z.bytes = [] →
     let s1 := threadStore s c n key (leBytes z.bytes ((valOf t v).toNat % 2 ^ (8 * z.bytes)))
     LoopOk s1 c n t t →
     exec i s = .next (completed s1 c n t t 4) ∧
     (∀ k, (k < key ∨ key + z.bytes ≤ k) → memByte (completed s1 c n t t 4).mem k = memByte s.mem k) ∧
     (∀ k, k < z.bytes →
       memByte (completed s1 c n t t 4).mem (key + k) = BitVec.ofNat 8 ((valOf t v).toNat / 256 ^ k)))

/-- A load from another store of the package or of another device sends its access and waits for the data by the access's
name; a store there is posted and completes. Memory stays as it is until the access arrives (R186 to R189, R210). The model's
own choices in it are log 7 and log 68. -/
def Obligations.RemoteLoadsStores : Prop :=
  ∀ (s : State) (c n : Nat) (x : Slot) (t : Thread) (p : Fin 16) (z : Sz) (k : BitVec 11) (r : Route),
    AtHome s c n x t → Guarded t p → (∀ key, r ≠ .own key) → (∀ b q o, r ≠ .ctrl b q o) →
    (routeEgress r = true → egressCount s c < 64) →
    (∀ (d a : Fin 10) (sx : Bool), Full t [a.val] →
      let ea := effAddr (valOf t a) k z
      (ea.toNat % z.bytes = 0 ∨ ea.toNat % 64 + z.bytes ≤ 64) → routeAccess s c n .read ea z.bytes = .ok r →
      MayTouch s n r z.bytes →
      let b : Access := { accessOf .ld z.bytes ea 0 with sgn := sx, reg := d, tag := s.uid }
      exec (.ld d a p z sx k) s = .next (waitSlot (sendAccess s c n r b) c n (.load s.uid))) ∧
    (∀ (v a : Fin 10), Full t [v.val, a.val] →
      let ea := effAddr (valOf t a) k z
      (ea.toNat % z.bytes = 0 ∨ ea.toNat % 64 + z.bytes ≤ 64) → routeAccess s c n .write ea z.bytes = .ok r →
      (∀ key e, r = .far key e → inCounterTable s key z.bytes = false) → MayTouch s n r z.bytes →
      let s1 := sendAccess s c n r (accessOf .st z.bytes ea ((valOf t v).toNat % 2 ^ (8 * z.bytes)))
      LoopOk s1 c n t t → exec (.st v a p z k) s = .next (completed s1 c n t t 4) ∧ s1.mem = s.mem)

/-- LDN, STN and AMO with natural alignment send their access, raise the count of outstanding requests by one and complete;
LDN and AMO leave rd RESERVED, STN changes no register; memory stays until the access arrives (R185, R190 to R192). The
model's own choices in it are log 7 and log 68. -/
def Obligations.RequestsSent : Prop :=
  ∀ (s : State) (c n : Nat) (x : Slot) (t : Thread) (p : Fin 16) (r : Route),
    AtHome s c n x t → Guarded t p → requestRoute s c r →
    (∀ (d a b : Fin 10) (z : Sz), Full t [a.val, b.val] →
      let ea := valOf t a + valOf t b
      ea.toNat % z.bytes = 0 → routeAccess s c n .read ea z.bytes = .ok r → MayTouch s n r z.bytes →
      let s1 := moreOutstanding (sendAccess s c n r { accessOf .ldn z.bytes ea 0 with reg := d }) c
      LoopOk s1 c n t (reserveReg t d) →
      exec (.ldn d a b p z) s = .next (completed s1 c n t (reserveReg t d) 4) ∧ s1.mem = s.mem) ∧
    (∀ (v a b : Fin 10) (z : Sz), Full t [v.val, a.val, b.val] →
      let ea := valOf t a + valOf t b
      ea.toNat % z.bytes = 0 → routeAccess s c n .write ea z.bytes = .ok r → MayTouch s n r z.bytes →
      (∀ key e, r = .far key e ∨ r = .own key → inCounterTable s key z.bytes = false) →
      let s1 := moreOutstanding
        (sendAccess s c n r (accessOf .stn z.bytes ea ((valOf t v).toNat % 2 ^ (8 * z.bytes)))) c
      LoopOk s1 c n t t → exec (.stn v a b p z) s = .next (completed s1 c n t t 4) ∧ s1.mem = s.mem) ∧
    (∀ (d a b : Fin 10) (an : Ann) (sc : Scope) (w : Bool) (o : AmoOp),
      Full t ([a.val, b.val] ++ if o = .cas then [d.val] else []) →
      let size := if w then 8 else 4
      let ea := valOf t a
      ea.toNat % size = 0 → routeAccess s c n .amo ea size = .ok r → MayTouch s n r size →
      (∀ key e, r = .far key e ∨ r = .own key → inCounterTable s key size = false) →
      (∀ key e, r = .far key e → key / 2 ^ 60 ≠ 4) →
      let s1 := moreOutstanding (sendAccess s c n r
        { accessOf .amo size ea ((valOf t b).toNat % 2 ^ (8 * size)) with
          expect := (valOf t d).toNat % 2 ^ (8 * size), op := o, reg := d, acq := an.isAcq && sc != .thr,
          rel := an.isRel && sc != .thr, scope := sc.code }) c
      LoopOk s1 c n t (reserveReg t d) →
      exec (.amo d a b p an sc w o) s = .next (completed s1 c n t (reserveReg t d) 4) ∧ s1.mem = s.mem)

/-- FENCE at thread scope completes at once; at a wider scope it waits while an earlier access of the thread is not performed;
then instruction fetch sees the thread's stores, a held error is delivered as a trap, and without one the FENCE completes
(R127, R184, R193). WATCH completes at once where the line's doubleword differs from the value seen, and waits for a
write to the line where it does not (R194). The model's own choices in it are log 64 and log 68. -/
def Obligations.FenceWatch : Prop :=
  ∀ (s : State) (c n : Nat) (x : Slot) (t : Thread) (p : Fin 16), AtHome s c n x t → Guarded t p →
    (LoopOk s c n t t → exec (.fence p .thr) s = .next (completed s c n t t 4)) ∧
    (∀ sc, sc ≠ .thr → pending s c n = true → exec (.fence p sc) s = .next (waitSlot s c n (.fence sc.code))) ∧
    (∀ sc, sc ≠ .thr → pending s c n = false →
      let s1 := { s with stale := fenceStale s.stale t.tid }
      (t.held = none → LoopOk s1 c n t t → exec (.fence p sc) s = .next (completed s1 c n t t 4)) ∧
      (∀ e, t.held = some e → exec (.fence p sc) s = .next
        (takeTrap (modThread s1 c n fun u => { u with held := none }) c n
          { cause := 0x15, tval := e.addr, detail := BitVec.ofNat 64 e.cause, more := e.count } none))) ∧
    (∀ (d a b : Fin 10) (key : Nat) (e : Bool), Full t [a.val, b.val] →
      let ea := valOf t a
      ea.toNat % 8 = 0 → bits ea.toNat 63 60 = 0 → routeAccess s c n .read ea 8 = .ok (.far key e) →
      MayTouch s n (.far key e) 8 → unperformed s c n = false → watchCount (coreOf s c) < 64 →
      NoErrors s key 8 →
      let v := BitVec.ofNat 64 (memNat s.mem key 8)
      (v ≠ valOf t b → LoopOk s c n t (writeReg t d v) →
        exec (.watch d a b p) s = .next (completed s c n t (writeReg t d v) 4)) ∧
      (v = valOf t b →
        exec (.watch d a b p) s = .next (waitSlot s c n (.watch (key - key % 64) ea d false))))

/-! ## Encodings, steps, reset -/

/-- Decoding is the inverse of encoding: the words of a well-formed instruction of a thread, with every operand at every
value that its encoding admits, decode to that instruction (R124, R128 to R140). The model's own choice in it is log 62. -/
def Obligations.DecodeOfEncode : Prop :=
  ∀ (i : Instr) (ws : List Nat), wellFormed i = true → encode i = some ws → decodeWords ws = .ok i

/-- What decodes is well formed, and the words are the only ones of their instruction: encoding gives back exactly the words
that were decoded, so a word with a reserved bit set or an unassigned selector decodes to nothing (R129, R134, R138). The
model's own choice in it is log 62. -/
def Obligations.EncodeOfDecode : Prop :=
  ∀ (w : Nat) (ws : List Nat) (i : Instr), (∀ v ∈ w :: ws, v < 2 ^ 32) → decodeWords (w :: ws) = .ok i →
    wellFormed i = true ∧ encode i = some ((w :: ws).take (wordCount w))

/-- The 16-byte commands of the hods: encoding and decoding are inverse to each other (R275, R282). The model's own choice in it
is log 109: an HSIG of increment 0 is no command. -/
def Obligations.HodCommandCodes : Prop :=
  (∀ (i : Instr) (v : Nat), wellFormed i = true → encodeHod i = some v → decodeHod v = .ok i) ∧
  (∀ (i : Instr) (v : Nat), v < 2 ^ 128 → decodeHod v = .ok i → encodeHod i = some v)

/-- Words that the manual writes out in its examples decode to the instructions that they stand for (R133, R159, R161, R162,
R165, R167, R168, R178, R191, R337). -/
def Obligations.DecodedWords : Prop :=
  decodeWords [0x04890000] = .ok (.add 2 2 4 0) ∧
  decodeWords [0x2A48C002] = .ok (.cmp 9 2 3 0 .lt) ∧
  decodeWords [0x2CD41FFF] = .ok (.cmpi 3 5 0 .gt 0x3FF#10) ∧
  decodeWords [0x4C140002] = .ok (.jr 5 0 2#14) ∧
  decodeWords [0x50240000] = .ok (.ret 9 0) ∧
  decodeWords [0x44FFFFFE] = .ok (.btagN 3#4 0x1FFFFE#21) ∧
  decodeWords [0x580A0003] = .ok (.loopx 10#10 3#16) ∧
  decodeWords [0x3C800005] = .ok (.csrr 2 0 5#12) ∧
  decodeWords [0x3C142005] = .ok (.csrw 5 0 5#12) ∧
  decodeWords [0xB4800103] = .ok (.csrrp 2 0 0x103#12) ∧
  decodeWords [0xB4142101] = .ok (.csrwp 5 0 0x101#12) ∧
  decodeWords [0xC4800000, 0xFFFFFFFF] = .ok (.lix 2 0 0xFFFFFFFF#32) ∧
  decodeWords [0] = .error .major

/-- ONE STEP RUNS THE DECODED INSTRUCTION. Where no outside event has come, what is due in the cycle's first phases is done
and the core's selection picks slot `n` of core `c`, the bytes at its PC are fetched and decoded, and the step is exec of that
instruction with the slot as the current one, in the state in which the soft errors of the fetch are noted; the ages and the
last issue of the core follow, unless the instruction did not issue; cycle and device time stay. Bytes that decode to nothing
are the illegal instruction. A fetch that fails is its trap, and waits first while the thread has accesses that are not
performed. A context with an uncorrectable error ends its thread instead (R45, R120, R124, R125, R134, R142, R345, R356). The
model's own choices in it are log 25, log 64, log 82 and log 94, by which an age is counted under the new effective priority from
the issue of PRIO on. -/
def Obligations.StepRunsInstruction : Prop :=
  ∀ (s : State) (c n : Nat) (t : Thread), (∀ e ∈ s.inputs.head?, s.cycle < e.1) →
    (s.phase ≠ 0 ∨ runEvent s = none ∧ nextHod s = none) → nextIssue s = some (c, n) → threadOf s c n = some t →
    let s0 := { s with cur := (c, n), stalled := false, phase := 1 }
    let a := t.pc.toNat
    let elig := (eligibles s.cycle (coreOf s c)).map (·.1)
    let kept (u : State) : State := { u with cycle := s.cycle, devTime := s.devTime }
    let issues (u : State) : Prop := step s = .next (kept (if u.stalled then u else afterIssue s.cycle elig c n u))
    (NoErrors s (regKey c n 0) 128 →
      (∀ b, fetchCode s0 c n a 4 = .ok b →
        (misfetch (leNat b) a = false → ∀ bs, fetchCode s0 c n a (4 * wordCount (leNat b)) = .ok bs →
          ∀ i, (decodeWords (wordsOf (wordCount (leNat b)) (leNat bs)) = .ok i ∨
              (∃ e, decodeWords (wordsOf (wordCount (leNat b)) (leNat bs)) = .error e) ∧
                i = .illegalInstruction (BitVec.ofNat 32 (leNat b))) →
          ∀ u, exec i (fetchMeets s0 c n a (4 * wordCount (leNat b))) = .next u → issues u) ∧
        (misfetch (leNat b) a = true →
          issues (takeTrap (fetchMeets s0 c n a 4) c n (trapInfo 0x01 (BitVec.ofNat 64 (leNat b)) 0#64) none))) ∧
      (∀ e, fetchCode s0 c n a 4 = .error e →
        (unperformed s0 c n = false → issues (takeTrap (fetchMeets s0 c n a 4) c n e none)) ∧
        (unperformed s0 c n = true → issues (notIssued s0 c n .drain)))) ∧
    (eccBads s.ecc (regKey c n 0) 128 ≠ [] → issues (contextTrap (eccRead s0 c (regKey c n 0) 128).1 c n))

/-- Selection in ready mode: the slot is READY, not HELD, and has not issued in the preceding 7 cycles; either its instruction
stops for a source or a resource, and takes no issue, or no eligible slot of its core stops so, and then none has a greater
effective priority; among equals none is older, and of those that no age tells apart it is the lowest (R45, R142). In rotation
mode it is the READY slot that the valid entry of the turn names (R47). The model's own choice in it is log 65. -/
def Obligations.IssueSelection : Prop :=
  ∀ (s : State) (c n : Nat), nextIssue s = some (c, n) → (s.cores.map (·.1)).Nodup →
    ((coreOf s c).slots.map (·.1)).Pairwise (· < ·) →
    let k := coreOf s c
    let x := slotIn k n
    x.st = .ready ∧ x.isHeld = false ∧ x.thread.isSome = true ∧
    (k.rot = false → (∀ l, x.lastIssue = some l → l + 8 ≤ s.cycle) ∧
      (wouldStall s c n = true ∨ ∀ m y, (m, y) ∈ k.slots → eligible s.cycle k m y = true →
        wouldStall s c m = false ∧ effPrio y ≤ effPrio x ∧ (effPrio y = effPrio x → y.age ≤ x.age ∧
          (y.age = x.age → (x.age = 31 → x.satCycle ≤ y.satCycle) ∧
            (x.age = 31 → y.satCycle = x.satCycle → n ≤ m) ∧ (x.age ≠ 31 → n ≤ m))))) ∧
    (k.rot = true → (rotEntry k (turnOf s)).getLsbD 15 = true ∧ bits (rotEntry k (turnOf s)).toNat 7 0 = n)

/-- Right after package reset every core is HELD with every slot FREE and every semaphore 0, tile tables, rings and memory
are clear, every partition is UNBOUND, device time is 0, fabcfg.DEV is 0xFFFF, the mailbox is BUSY and tctl has its reset
value; memory has its canonical form and device time is not behind the cycles (R53, R88, R93, R389, R396, R397, R410). The
model's own choice in it is log 2. -/
def Obligations.ResetState : Prop :=
  (∀ c, (coreOf State.reset c).mode = .resetHeld) ∧
  (∀ c n, (slotOf State.reset c n).st = .free ∧ (slotOf State.reset c n).thread = none) ∧
  (∀ c n, semOf (coreOf State.reset c) n = Sem.zero) ∧
  (∀ cl, (clusterOf State.reset cl).tiles = [] ∧ (clusterOf State.reset cl).rings = [] ∧
    (clusterOf State.reset cl).guards = []) ∧
  (∀ k, memByte State.reset.mem k = 0#8) ∧ Memory.wf State.reset.mem = true ∧
  (∀ p, (partOf State.reset p).st = 0) ∧
  State.reset.devTime = 0 ∧ State.reset.pkg.dev = 0xFFFF#16 ∧ State.reset.pkg.busy = true ∧
  State.reset.pkg.tctl = 0x1A40#64 ∧ TimeKept State.reset

/-- Every step keeps device time at or ahead of the cycles that have passed, each of which advances it by 0x8000 fraction
units; device time never decreases, and it changes only at the end of a cycle, by 0x8000 and a forward step that tstep or
the servo has set (R396, R397). The model's own choice in it is log 11. -/
def Obligations.TimeInvariant : Prop :=
  ∀ s t : State, step s = .next t →
    (TimeKept s → TimeKept t) ∧
    (t.cycle = s.cycle ∧ t.devTime = s.devTime ∨
      t.cycle = s.cycle + 1 ∧ t.devTime = s.devTime + 0x8000 + s.pkg.tstep ∧ (s.pkg.tstep = 0 → t.pkg = s.pkg))

/-! ## Control and status registers -/

/-- THE USER CSRS. CSRR writes the CSR's value to rd, each field of the thread at its place and zero elsewhere, wherever the
thread is; it uses no predicate but its guard. CSRW writes the RW fields of a user CSR: of pw the predicates p1 to p15 and
TAG, each of p8 to p15 untainted; NV, OF, UF and NX of fflags; lpc; bits 47 to 2 of lps and lpe; the read-only CSRs keep their
values, and nothing else changes (R178, R179). -/
def Obligations.UserCsrs : Prop :=
  (∀ (d : Fin 10) (p : Fin 16) (k : BitVec 12) (s : State) (c n : Nat) (x : Slot) (t : Thread), At s c n x t → Guarded t p →
     k.toNat < 0x00C →
     let s1 := if k = 11#12 then userCsrMeets s c t 11 else s
     ∃ v : Word,
       (LoopOk s1 c n t (writeReg t d v) → exec (.csrr d p k) s = .next (completed s1 c n t (writeReg t d v) 4)) ∧
       (k = 0#12 → v.toNat = t.pw.toNat) ∧ (k = 1#12 → v.toNat = t.fflags.toNat) ∧ (k = 2#12 → v.toNat = t.fmt.toNat) ∧
       (k = 3#12 → v.toNat = t.sca.toNat) ∧ (k = 4#12 → v.toNat = t.scb.toNat) ∧ (k = 5#12 → v.toNat = t.lpc.toNat) ∧
       (k = 6#12 → v.toNat = t.lps.toNat) ∧ (k = 7#12 → v.toNat = t.lpe.toNat) ∧
       (k = 8#12 → v.toNat = if c % 8 = 7 then 1 else 0) ∧
       (k = 9#12 → v = BitVec.ofNat 64 (n + 2 ^ 8 * logicalOfCore s c + 2 ^ 18 * s.pkg.dev.toNat)) ∧
       (k = 10#12 → v.toNat = t.home.toNat + 2 ^ 10 * t.prio.toNat + 2 ^ 16 * t.lane.toNat + 2 ^ 32 * t.ccid.toNat)) ∧
  (∀ (a : Fin 10) (p : Fin 16) (k : BitVec 12) (s : State) (c n : Nat) (x : Slot) (t : Thread), At s c n x t → Guarded t p →
     Full t [a.val] → k.toNat < 0x00C →
     let v := valOf t a
     ∃ (pw : Word32) (fl : BitVec 5) (lpc : Word32) (lps lpe : Pc),
       let u := { t with pw := pw, fflags := fl, lpc := lpc, lps := lps, lpe := lpe }
       (LoopOk s c n t u → exec (.csrw a p k) s = .next (completed s c n t u 4)) ∧
       (∀ j, j < 32 → pw.getLsbD j =
         if k = 0#12 then
           (if 1 ≤ j ∧ j ≤ 15 ∨ 24 ≤ j ∧ j ≤ 27 then v.getLsbD j else if 16 ≤ j ∧ j ≤ 23 then false else t.pw.getLsbD j)
         else t.pw.getLsbD j) ∧
       (∀ j, j < 5 → fl.getLsbD j = if k = 1#12 then decide (1 ≤ j) && v.getLsbD j else t.fflags.getLsbD j) ∧
       lpc.toNat = (if k = 5#12 then v.toNat % 2 ^ 32 else t.lpc.toNat) ∧
       lps.toNat = (if k = 6#12 then v.toNat % 2 ^ 48 / 4 * 4 else t.lps.toNat) ∧
       lpe.toNat = (if k = 7#12 then v.toNat % 2 ^ 48 / 4 * 4 else t.lpe.toNat))

/-- CSRRP completes with the value that the CSR of its number reads as: the trap registers of its own slot with LEVEL in its
status, the core's trap and queue registers, its soft-error counts, rotation turns and lane map, the package's registers,
zero from the write-only ones (R333, R337, R338, R374, R397). The model's own choice in it is log 51. -/
def Obligations.PrivilegedReads : Prop :=
  ∀ (d : Fin 10) (p : Fin 16) (k : BitVec 12) (s : State) (c n : Nat) (x : Slot) (t : Thread), AtHome s c n x t →
    ReachesGuard (.csrrp d p k) s c n → Guarded t p →
    let v := if k.toNat < 0x00C then userCsrRead s c n t k.toNat else csrRead s c n k.toNat
    let y := coreOf s c
    let s1 := if k = 11#12 then userCsrMeets s c t 11 else s
    (LoopOk s1 c n t (writeReg t d v) → exec (.csrrp d p k) s = .next (completed s1 c n t (writeReg t d v) 4)) ∧
      (k = 0#12 → v.toNat = t.pw.toNat) ∧
      (k = 0x100#12 → v.toNat = 0x80 + x.sin.toNat) ∧ (k = 0x200#12 → v.toNat = 0xC0 + x.sin.toNat) ∧
      (k = 0x101#12 ∨ k = 0x201#12 → v.toNat = x.tvec.toNat) ∧ (k = 0x102#12 ∨ k = 0x202#12 → v.toNat = x.epc.toNat) ∧
      (k = 0x103#12 ∨ k = 0x203#12 → v = x.cause) ∧ (k = 0x104#12 ∨ k = 0x204#12 → v = x.tval) ∧
      (k = 0x105#12 ∨ k = 0x205#12 → v = x.detail) ∧
      (k = 0x110#12 → v.toNat = y.rot.toNat) ∧ (k = 0x111#12 → v = y.utrec) ∧
      (k = 0x112#12 → v = y.ecq) ∧ (k = 0x113#12 → v.toNat = y.ecqh.toNat) ∧
      (k = 0x114#12 → v.toNat = y.ecqt.toNat) ∧ (k = 0x115#12 → v.toNat = x.asid.toNat) ∧
      (k = 0x116#12 → v = y.qwd) ∧ (k = 0x118#12 → v = y.abortc) ∧
      (k = 0x117#12 → v.toNat = y.scrub.toNat * 2 ^ 32 + 2 * (eieOf s c).toNat) ∧
      (0x120 ≤ k.toNat → k.toNat ≤ 0x12B → v = mapGet 0#64 y.softErr k.toNat) ∧
      (k = 0x131#12 → v = y.lattr) ∧ (k = 0x132#12 → v = y.spq) ∧
      (k = 0x133#12 → v = y.dqb) ∧ (k = 0x137#12 → v = y.chan) ∧
      (k = 0x130#12 ∨ k = 0x134#12 ∨ k = 0x136#12 ∨ k = 0x241#12 ∨ k = 0x262#12 → v = 0#64) ∧
      (∀ j, j < 128 → k.toNat = 0x180 + j → v.toNat = (rotEntry y j).toNat) ∧
      (∀ j, j < 256 → k.toNat = 0x400 + j → v.toNat = (mapGet 0#9 y.lanes j).toNat) ∧
      (k = 0x211#12 → v.toNat = y.dbgctl.toNat) ∧ (k = 0x221#12 → v = s.pkg.partrec) ∧
      (k = 0x240#12 → v = s.pkg.tctl) ∧ (k = 0x245#12 → v = s.pkg.tdcfg)

/-- CSRWP of ra, and each write that the table of opcodes lists by itself with its value, write the CSR of their number and go
on, after the thread's earlier accesses where the CSR reads memory, whose uncorrectable error is the memory error of a load; cctl
and attest hold their slot in a counted wait first. A write that the CSR's own rule rejects is the CSR fault with the value and the CSR's number, and changes nothing but by that
trap. What the writes listed by themselves do is said of each: cmode and the rotation turns where the core is not pre-empted,
chan, spq, dqb, errctl, fabcfg, tctl, tstep, dsp's packet, dtrec's record, attest's report (R48, R52, R337, R338, R345, R373 to
R375, R379, R382, R385, R389, R397, R415). The model's own choices in it are log 23, log 36, log 51, log 85 and log 86. -/
def Obligations.PrivilegedWrites : Prop :=
  (∀ (i : Instr) (num : Nat) (v : Word) (s : State) (c n : Nat) (x : Slot) (t : Thread), AtHome s c n x t →
    WritesCsr i num v n t → csrListed n num = true →
    (if 0x200 ≤ num ∧ num ≤ 0x2FF ∧ num ≠ 0x262 then n = 0 else n < 4) → 0x00C ≤ num →
    (num ∈ [0x130, 0x134, 0x136, 0x262] → pending s c n = false) →
    let m := csrMeets s c num v
    (∀ s1, csrWrite m.1 (levelOf n) c n num v = some s1 →
      (m.2 = true → exec i s = .next (takeTrap m.1 c n
        (trapInfo 0x16 (csrBlockAt num v) (BitVec.ofNat 64 (if num = 0x262 then 6 else 2))) none)) ∧
      (m.2 = false → num ∉ [0x136, 0x262] ∨ x.fetched ≠ none → ∀ u, threadOf s1 c n = some u → LoopOk s1 c n t u →
        exec i s = .next (completed s1 c n t u 4)) ∧
      (m.2 = false → num ∈ [0x136, 0x262] → x.fetched = none → exec i s = .next
        (waitSlot { s with uid := s.uid + 1 } c n (.counted (s.cycle + 1 + Config.latency s.uid))))) ∧
    (csrWrite m.1 (levelOf n) c n num v = none →
      exec i s = .next (takeTrap s c n (trapInfo 0x12 v (BitVec.ofNat 64 num)) none))) ∧
  (∀ (v : Word) (s : State) (c n : Nat) (x : Slot) (t : Thread), AtHome s c n x t → n < 4 →
    let k := coreOf s c
    let w := v.toNat
    let free : Prop := k.mode ≠ .stopping ∧ k.mode ≠ .saving ∧ k.mode ≠ .preempted ∧ k.mode ≠ .restoring
    let does (i : Instr) (s1 : State) : Prop := LoopOk s1 c n t t → exec i s = .next (completed s1 c n t t 4)
    (free → (∀ y ∈ k.slots, 4 ≤ y.1 → y.2.st = .free) →
      does (.modeWrite v) (setCore s c { k with rot := v.getLsbD 0 })) ∧
    (∀ j : BitVec 7, free → (j.toNat % 32 = 0 → does (.rotationTableWrite j v) (setCore s c k)) ∧
      (j.toNat % 32 ≠ 0 →
        let k1 := { k with rotTab := mapSet k.rotTab j.toNat (BitVec.setWidth 16 v &&& 0x80FF#16) }
        turnsTooClose k1 = false → does (.rotationTableWrite j v) (setCore s c k1))) ∧
    (chanAllow k.chan ≤ chanCred k.chan → (v.getLsbD 63 = true → 1 ≤ chanAllow v ∧ chanAllow v ≤ 256) →
      does (.chanWrite v) (setCore s c
        { k with chan := (v &&& 0x83FFFFFFFC0001FF#64) ||| BitVec.ofNat 64 (chanAllow v * 2 ^ 9) })) ∧
    (k.spill = [] → bits w 4 0 = 0 ∨ 13 ≤ bits w 4 0 ∧ bits w 4 0 ≤ 24 →
      inPartHbm s c (bits w 48 16 * 65536) (if bits w 4 0 = 0 then 1 else 256 * 2 ^ bits w 4 0) = true →
      does (.spqWrite v) (setCore s c { k with spq := v &&& 0x1FFFFFFFF001F#64 })) ∧
    (bits w 2 0 ≤ 6 → bits w 17 12 * 4096 + 64 + 80 * 2 ^ bits w 2 0 ≤ 262144 →
      does (.dqbWrite v) (setCore s c { k with dqb := v &&& 0x3F007#64 })) ∧
    (does (.csrRegisterWrite 0x111#12 v) (modCore s c fun k => { k with utrec := v &&& 0x3E001#64 }) ∧
      does (.csrRegisterWrite 0x116#12 v) (modCore s c fun k => { k with qwd := v })) ∧
    (n = 0 →
      (∀ q, partOfCore s c = some q → does (.eieWrite v) (modPart
        (modCore s c fun k => { k with scrub := BitVec.ofNat 32 (bits w 63 32) }) q fun p => { p with eie := v.getLsbD 1 })) ∧
      (s.pkg.lock = false → bits w 47 0 ≠ 0 → does (.tstepWrite v) (modPkg s fun p =>
        { p with tstep := p.tstep + bits w 47 0, tsteps := p.tsteps + 1 })) ∧
      does (.csrRegisterWrite 0x240#12 v) (modPkg s fun p =>
        { p with tctl := v &&& 0xFFF3#64, nextSync := s.cycle + 2000000000 / 2 ^ bits w 7 4 }) ∧
      (s.pkg.lock = true → exec (.tstepWrite v) s = .next (takeTrap s c n (trapInfo 0x12 v 0x241#64) none)) ∧
      (s.pkg.conns = [] → s.net = [] → bits w 63 48 ≠ s.pkg.dev.toNat →
        bits w 63 48 < (bits w 41 36 + 1) * (bits w 35 30 + 1) * (bits w 29 24 + 1) →
        let g : Pkg :=
          { s.pkg with
            dev := BitVec.ofNat 16 (bits w 63 48), zm1 := BitVec.ofNat 6 (bits w 41 36),
            ym1 := BitVec.ofNat 6 (bits w 35 30), xm1 := BitVec.ofNat 6 (bits w 29 24) }
        does (.fabcfgWrite v) { s with pkg := g })) ∧
    (pending s c n = false →
      (let off := bits w 17 6 * 64
       let ws := packetOf (memBytes s.mem (tcmKey c off) 64)
       let ctl := pktWord ws 0
       let side (i : Nat) := BitVec.ofNat 64 (memNat s.mem (tcmKey c (off + 64 + 8 * i)) 8)
       ∀ d, coreOfLogical s (partOfCore s c) (bits w 35 26) = some d → bits w 63 36 = 0 → bits w 21 18 = 0 →
         bits w 5 0 = 0 → off + 80 ≤ 262144 → ctlKind ctl ≠ 5 → NoErrors s (tcmKey c off) 80 →
         does (.dispatch v) (traceAdd (postHere s c n d .request (.packet ⟨ws, side 0, side 1, none, none, true, none⟩)) c
           (0x10 + bits w 25 22) n (bits w 35 26) (ctlCcid ctl) (launchAsid s c (ctlCcid ctl)) (BitVec.ofNat 64 ctl)
           (BitVec.ofNat 64 (bits (pktWord ws 1) 47 0)))) ∧
      (let f (lo m : Nat) := memNat s.mem (tcmKey c (w + lo)) m
       w % 32 = 0 → w + 32 ≤ 262144 → 0x20 ≤ f 8 1 → NoErrors s (tcmKey c w) 32 →
       does (.dtrecAppend v) (traceAdd s c (f 8 1) (f 9 1) (f 10 2) (f 12 2) (f 14 2) (BitVec.ofNat 64 (f 16 8))
         (BitVec.ofNat 64 (f 24 8)))) ∧
      (x.fetched ≠ none → ∀ q key, partOfCore s c = some q → reportKey s q v = some key → NoErrors s key 32 →
        does (.attest v) (storeBytes s key (reportBytes s q (memBytes s.mem key 32))))))

/-! ## Threads -/

/-- SPAWN with a 64-byte aligned packet in a store of its own core and a target core: it raises the launch's counter, sends the
packet with its thread's source id and rd as a0 and a1, reserves rd and completes; to another device the packet is not
counted here: its target raises its own counter. A counter that is not OPEN gives status 1, a malformed packet status 2, a
counter at its limit status 3; these send nothing and raise nothing (R28, R29, R196, R372). The model's own choices in it are
log 46, log 47 and log 79. -/
def Obligations.SpawnSends : Prop :=
  ∀ (s : State) (c n : Nat) (x : Slot) (t : Thread) (d a b : Fin 10) (p : Fin 16) (w : Dest) (key : Nat),
    AtHome s c n x t → Guarded t p → Full t [d.val, a.val, b.val] → coreWord s c (valOf t b) w →
    (valOf t a).toNat % 64 = 0 → routeAccess s c n .read (valOf t a) 64 = .ok (.own key) → x.fetched = none →
    MayTouch s n (.own key) 64 → unperformed s c n = false → farGuard s key 64 (valOf t a) = none → NoErrors s key 64 →
    let ws := packetOf (memBytes s.mem key 64)
    let ccid := ctlCcid (pktWord ws 0)
    (w.own = true → LaunchClean s c ccid) →
    let fields := spawnFieldsOk (spawnFcnt s c w.own ccid) ws
    let pkt (counted : Bool) : MsgBody := .packet
      { words := ws, a0 := sourceId s c n, a1 := valOf t d, credit := none, status := some d, counted := counted,
        stage := none }
    (w.own = true → fields = true → egressCount s c < 64 →
      ∀ s1, counterIncr s (partOfCore s c) ccid = .done s1 →
      let s2 := post s1 c n w.dev w.core .request true (pkt true)
      LoopOk s2 c n t (reserveReg t d) → exec (.spawn d a b p) s = .next (completed s2 c n t (reserveReg t d) 4)) ∧
    (w.own = false → fields = true → egressCount s c < 64 →
      let s2 := askRemote (post s c n w.dev w.core .request true (pkt false)) c n s.uid false
      LoopOk s2 c n t (reserveReg t d) → exec (.spawn d a b p) s = .next (completed s2 c n t (reserveReg t d) 4)) ∧
    (∀ v : Word,
      (w.own = true ∧ counterIncr s (partOfCore s c) ccid = .notOpen ∧ v = 1#64 ∨
        fields = false ∧ (w.own = true → counterIncr s (partOfCore s c) ccid ≠ .notOpen) ∧ v = 2#64 ∨
        w.own = true ∧ fields = true ∧ counterIncr s (partOfCore s c) ccid = .limit ∧ v = 3#64) →
      LoopOk s c n t (writeReg t d v) → exec (.spawn d a b p) s = .next (completed s c n t (writeReg t d v) 4))

/-- FORK of a TASK packet with room in the core's deque raises the launch's counter, takes an entry with the packet's fields
replaced and the thread's source id, and completes; a counter that is not OPEN makes it complete alone, one at its limit is
the counter-overflow trap, and without room the slot waits for the launch's queue (R32, R197, R376). JOIN posts its
decrement with the thread's source id and completes (R33, R198). The model's own choices in it are log 44, log 48 and log 98. -/
def Obligations.ForkJoin : Prop :=
  ∀ (s : State) (c n : Nat) (x : Slot) (t : Thread) (a b : Fin 10) (p : Fin 16), Guarded t p →
    (AtHome s c n x t → a.val ≤ 2 → Full t (runRegs a ++ [b.val]) → LaunchClean s c t.ccid.toNat →
      let ws := runWords t a
      (ctlKind (pktWord ws 0) = 3 → dequeRoom s c = true →
        (counterIncr s (partOfCore s c) t.ccid.toNat = .notOpen → LoopOk s c n t t →
          exec (.fork a b p) s = .next (completed s c n t t 4)) ∧
        (counterIncr s (partOfCore s c) t.ccid.toNat = .limit →
          exec (.fork a b p) s = .next (takeTrap s c n (trapInfo 0x17 (BitVec.setWidth 64 t.ccid) 0#64) none)) ∧
        (∀ s1, counterIncr s (partOfCore s c) t.ccid.toNat = .done s1 →
          let e : ForkEntry := { slot := n, thread := t.tid, asid := x.asid.toNat, words := forkWords (coreOf s c) t ws,
                                 a0 := sourceId s c n, a1 := valOf t b, uid := s1.uid }
          let s2 := { modCore s1 c (fun k => { k with forkQ := k.forkQ ++ [e] }) with uid := s1.uid + 1 }
          LoopOk s2 c n t t → exec (.fork a b p) s = .next (completed s2 c n t t 4))) ∧
      (ctlKind (pktWord ws 0) = 3 → dequeRoom s c = false → exec (.fork a b p) s = .next (waitSlot s c n .fork)) ∧
      (ctlKind (pktWord ws 0) ≠ 3 → exec (.fork a b p) s = .next (takeTrap s c n
        (trapInfo 0x04 (BitVec.ofNat 64 (pktWord ws 0)) (BitVec.ofNat 64 a)) none))) ∧
    (At s c n x t → Full t [a.val] → (valOf t a).toNat % 32 = 0 →
      (bits (valOf t a).toNat 63 60 = 0 ∨ bits (valOf t a).toNat 63 60 = 10 ∧ bits (valOf t a).toNat 33 32 = 2) →
      ∀ r, routeAccess s c n .amo (valOf t a) 32 = .ok r →
      (∀ key e, r = .far key e ∨ r = .own key → inCounterTable s key 32 = false) → OffTable s r 32 →
      (routeEgress r = true → egressCount s c < 64) →
      let h := homeOf s c n
      let s1 := sendAccess s c n r
        { accessOf .join 32 (valOf t a) (sourceId s h.1 h.2).toNat with rel := true, scope := 4 }
      LoopOk s1 c n t t → exec (.join a p) s = .next (completed s1 c n t t 4))

/-- EXIT at home delivers a held error and without one waits to retire; YIELD completes, in ready mode with its slot waiting
for 64 cycles; PRIO sets the priority from a value below 8 and traps on any other; ENQ with its operands in order waits for
the append; GO to an address of the own core completes, and to another core of the package it sends the thread, with the PC
past the GO, and leaves its slot FREE (R31, R34, R35, R184, R199 to R202, R329). The model's own choices in it are log 42, log
45 and log 84. -/
def Obligations.ThreadFlow : Prop :=
  ∀ (s : State) (c n : Nat) (x : Slot) (t : Thread) (p : Fin 16), Guarded t p →
    (AtHome s c n x t →
      (t.held = none → exec (.exit p) s = .next (waitSlot s c n .exit)) ∧
      (∀ e, t.held = some e → exec (.exit p) s = .next
        (takeTrap (modThread s c n fun u => { u with held := none }) c n
          { cause := 0x15, tval := e.addr, detail := BitVec.ofNat 64 e.cause, more := e.count } none))) ∧
    (At s c n x t → LoopOk s c n t t → exec (.yield p) s = .next
      (if (coreOf s c).rot = true then completed s c n t t 4
        else waitSlot (completed s c n t t 4) c n (.yield (s.cycle + 64)))) ∧
    (∀ a : Fin 10, At s c n x t → Full t [a.val] →
      ((valOf t a).toNat < 8 → LoopOk s c n t { t with prio := BitVec.ofNat 3 (valOf t a).toNat } →
        exec (.prio a p) s = .next (completed s c n t { t with prio := BitVec.ofNat 3 (valOf t a).toNat } 4)) ∧
      (8 ≤ (valOf t a).toNat →
        exec (.prio a p) s = .next (takeTrap s c n (trapInfo 0x04 (valOf t a) (BitVec.ofNat 64 a)) none))) ∧
    (∀ (d : Fin 16) (a b : Fin 10), At s c n x t → 8 ≤ d.val → a.val ≤ 2 → Full t (runRegs a ++ [b.val]) →
      ((valOf t b).toNat % 256 = 0 → bits (valOf t b).toNat 63 60 = 0 →
        exec (.enq d a b p) s = .next (waitSlot s c n (.enq d (valOf t b).toNat 0 false))) ∧
      ((valOf t b).toNat % 256 ≠ 0 →
        exec (.enq d a b p) s = .next (takeTrap s c n (trapInfo 0x05 (valOf t b) 256#64) none))) ∧
    (∀ a : Fin 10, AtHome s c n x t → Full t [a.val] →
      (goTarget s c n (valOf t a) = .stay → LoopOk s c n t t →
        exec (.go a p) s = .next (completed s c n t t 4)) ∧
      (∀ d, goTarget s c n (valOf t a) = .bad d →
        exec (.go a p) s = .next (takeTrap s c n (trapInfo 0x06 (valOf t a) (BitVec.ofNat 64 d)) none)) ∧
      (∀ d, goTarget s c n (valOf t a) = .core d → d.own = true → d.dev = s.pkg.dev.toNat → anyReserved t = false →
        pending s c n = false → t.held = none →
        ∃ u m, exec (.go a p) s = .next u ∧ (slotOf u c n).st = .free ∧ (slotOf u c n).thread = none ∧ u.mem = s.mem ∧
          (∀ e k, (e ≠ c ∨ k ≠ n) → slotOf u e k = slotOf s e k) ∧ u.net = s.net ++ [m] ∧ m.dcore = d.core ∧
          m.uid = s.uid ∧ m.body = .migrate { t with pc := t.pc + 4#48 }))

/-! ## Semaphores and rings -/

/-- SEMAPHORES. WAIT completes where the semaphore is at or above its threshold, waits where it is below, and delivers a held
error as a trap that names the semaphore; SIG raises the semaphore, saturating with the sticky overflow bit; SEMSET sets it;
SEMRD reads it; TEST writes one of p8 to p15, tainted. All follow the thread's earlier accesses where they release them. SIGR to a
core hands the increment to the network as a message, also to its own core, and completes; a deterministic thread's message
leaves at its next window (R53, R54, R112, R204, R208, R210, R244, R329, R402). The model's own choices in it are log 47 and
log 65. -/
def Obligations.Semaphores : Prop :=
  (∀ (s : State) (c n : Nat) (x : Slot) (t : Thread), AtHome s c n x t →
     (∀ i k rs v, waitLine i = some (k, rs, v) → Full t rs →
       let m := semOf (coreOf s c) k
       (m.err = none → v t ≤ m.val.toNat → LoopOk s c n t t → exec i s = .next (completed s c n t t 4)) ∧
       (m.err = none → m.val.toNat < v t → exec i s = .next (waitSlot s c n (.sem k))) ∧
       (∀ e more, m.err = some (e, more) → exec i s = .next (takeTrap (modCore s c fun y => putSem y k { m with err := none })
         c n { cause := e.cause, tval := e.tval, detail := e.detail, more := more } (some k)))) ∧
     (∀ (k : BitVec 8) (i : BitVec 10), i ≠ 0#10 → pending s c n = false → LoopOk (semAdd s c k.toNat i.toNat) c n t t →
       exec (.sig k i) s = .next (completed (semAdd s c k.toNat i.toNat) c n t t 4) ∧
       let m := semOf (coreOf s c) k.toNat
       let m1 := semOf (coreOf (completed (semAdd s c k.toNat i.toNat) c n t t 4) c) k.toNat
       m1.val.toNat = min (2 ^ 32 - 1) (m.val.toNat + i.toNat) ∧
         m1.ovf = (m.ovf || decide (2 ^ 32 - 1 < m.val.toNat + i.toNat)) ∧ m1.err = m.err) ∧
     (∀ i k rs v, semsetLine i = some (k, rs, v) → Full t rs → pending s c n = false →
       LoopOk (semAssign s c k (v t)) c n t t →
       exec i s = .next (completed (semAssign s c k (v t)) c n t t 4) ∧
       semOf (coreOf (completed (semAssign s c k (v t)) c n t t 4) c) k = { semOf (coreOf s c) k with val := v t }) ∧
     (∀ (a : Fin 10) (k : BitVec 8),
       let v := BitVec.ofNat 64 (semOf (coreOf s c) k.toNat).val.toNat
       LoopOk s c n t (writeReg t a v) → exec (.semrd a k) s = .next (completed s c n t (writeReg t a v) 4)) ∧
     (∀ (d : Fin 16) (k : BitVec 8) (i : BitVec 10), 8 ≤ d.val →
       let u := putPred t d (decide (i.toNat ≤ (semOf (coreOf s c) k.toNat).val.toNat)) true
       LoopOk s c n t u → exec (.test d k i) s = .next (completed s c n t u 4))) ∧
  (∀ (s : State) (c n : Nat) (x : Slot) (t : Thread) (a : Fin 10) (k : BitVec 8) (i : BitVec 10) (w : Dest),
     AtHome s c n x t → Full t [a.val] → i ≠ 0#10 → coreWord s c (valOf t a) w →
     canSend s c n t w (!w.isCore c) →
     let s1 := handed s c n t w .request (!w.isCore c) (.sigr k.toNat i.toNat)
     LoopOk s1 c n t t → exec (.sigr a k i) s = .next (sent s s1 c n t t))

/-- RINGS. For a thread that owns the ring WAITA completes on a READY tile, waits on any other and traps on a poisoned one;
TESTA writes whether the tile is READY to one of p8 to p15, tainted; RTAIL and RHEAD write the index where R97 and R98 allow it and else trap;
their .get forms read it. RINGDEF defines a ring for its thread's ASID where R93 to R95 allow it: the ring keeps the word with
that ASID, its indices are 0 and its tile slots EMPTY, belong to it and carry no reader. A ring of another ASID is the access
fault with detail 4, a definition that R95 refuses the ring-definition fault (R56, R92 to R100, R205, R206). The model's own
choices in it are log 97, the ring's number in TVAL, and log 103. -/
def Obligations.Rings : Prop :=
  (∀ (s : State) (c n : Nat) (x : Slot) (t : Thread), AtHome s c n x t →
     (∀ i k rs, ringLine i = some (k, rs) → Full t rs → ringOwned (ringHere s c k) x.asid.toNat = false →
       exec i s = .next (takeTrap s c n (trapInfo 0x06 (BitVec.ofNat 64 k.toNat) 4#64) none)) ∧
     (∀ k : BitVec 6, ringOwned (ringHere s c k) x.asid.toNat = true → ∀ a : Fin 10,
       (∀ i : BitVec 10, Full t [a.val] →
         let j := BitVec.ofInt 32 ((valOf t a).toNat + i.toInt)
         (∀ l, tileAt (clusterOf s (clusterOfCore c)) k.toNat j = some l → tileClean s c k j →
           (l.st ≠ .ready → exec (.waita a k i) s = .next (waitSlot s c n (.tile k.toNat j.toNat))) ∧
           (l.st = .ready → l.poison = true → exec (.waita a k i) s = .next (takeTrap s c n
             (trapInfo 0x0C (BitVec.ofNat 64 j.toNat) (BitVec.ofNat 64 (k.toNat * 256 + l.cause.toNat))) none)) ∧
           (l.st = .ready → l.poison = false → LoopOk s c n t t →
             exec (.waita a k i) s = .next (completed s c n t t 4))) ∧
         (tileAt (clusterOf s (clusterOfCore c)) k.toNat j = none → exec (.waita a k i) s = .next (takeTrap s c n
           (trapInfo 0x10 (BitVec.ofNat 64 j.toNat) (BitVec.ofNat 64 k.toNat)) none))) ∧
       (∀ d : Fin 16, 8 ≤ d.val → Full t [a.val] → ∀ l,
         tileAt (clusterOf s (clusterOfCore c)) k.toNat (BitVec.ofNat 32 (valOf t a).toNat) = some l →
         tileClean s c k (BitVec.ofNat 32 (valOf t a).toNat) →
         LoopOk s c n t (putPred t d (decide (l.st = .ready)) true) →
         exec (.testa d a k) s = .next (completed s c n t (putPred t d (decide (l.st = .ready)) true) 4)) ∧
       (Full t [a.val] → pending s c n = false →
         (∀ s1, tailWrite s (clusterOfCore c) k.toNat (BitVec.ofNat 32 (valOf t a).toNat) = some s1 → LoopOk s1 c n t t →
           exec (.rtail a k) s = .next (completed s1 c n t t 4)) ∧
         (tailWrite s (clusterOfCore c) k.toNat (BitVec.ofNat 32 (valOf t a).toNat) = none →
           exec (.rtail a k) s = .next (takeTrap s c n (trapInfo 0x0D (BitVec.ofNat 64 ((valOf t a).toNat % 2 ^ 32))
             (BitVec.ofNat 64 k.toNat)) none)) ∧
         (∀ s1, headWrite s (clusterOfCore c) k.toNat (BitVec.ofNat 32 (valOf t a).toNat) = some s1 → LoopOk s1 c n t t →
           exec (.rhead a k) s = .next (completed s1 c n t t 4) ∧
           (ringHere (completed s1 c n t t 4) c k).head.toNat = (valOf t a).toNat % 2 ^ 32 ∧
           (ringHere (completed s1 c n t t 4) c k).popp = (ringHere (completed s1 c n t t 4) c k).head) ∧
         (headWrite s (clusterOfCore c) k.toNat (BitVec.ofNat 32 (valOf t a).toNat) = none →
           exec (.rhead a k) s = .next (takeTrap s c n (trapInfo 0x0E (BitVec.ofNat 64 ((valOf t a).toNat % 2 ^ 32))
             (BitVec.ofNat 64 k.toNat)) none))) ∧
       (let v := BitVec.ofNat 64 (ringHere s c k).tail.toNat
        LoopOk s c n t (writeReg t a v) → exec (.rtailGet a k) s = .next (completed s c n t (writeReg t a v) 4)) ∧
       (let v := BitVec.ofNat 64 (ringHere s c k).head.toNat
        LoopOk s c n t (writeReg t a v) → exec (.rheadGet a k) s = .next (completed s c n t (writeReg t a v) 4)))) ∧
  (∀ (s : State) (c n : Nat) (x : Slot) (t : Thread) (a : Fin 10) (k : BitVec 6), AtHome s c n x t → Full t [a.val] →
     let cl := clusterOfCore c
     (∀ q, ringDefine (clusterOf s cl) k.toNat (valOf t a) x.asid.toNat = .done q →
       let s1 := wakeRing (modCluster s cl fun _ => q) cl k.toNat
       (LoopOk s1 c n t t → exec (.ringdef a k) s = .next (completed s1 c n t t 4)) ∧
       ((valOf t a).getLsbD 63 = true →
         (ringOf q k.toNat).tail = 0#32 ∧ (ringOf q k.toNat).head = 0#32 ∧ (ringOf q k.toNat).popp = 0#32 ∧
         ringValid (ringOf q k.toNat) = true ∧ ringAsid (ringOf q k.toNat) = x.asid.toNat ∧
         ∀ m ∈ ringSlots (ringOf q k.toNat), tileOf q m = { Tile.zero with ring := k, inr := true })) ∧
     (ringDefine (clusterOf s cl) k.toNat (valOf t a) x.asid.toNat = .badDef →
       exec (.ringdef a k) s = .next (takeTrap s c n (trapInfo 0x0F (valOf t a) (BitVec.ofNat 64 k.toNat)) none)) ∧
     (ringDefine (clusterOf s cl) k.toNat (valOf t a) x.asid.toNat = .foreign →
       exec (.ringdef a k) s = .next (takeTrap s c n (trapInfo 0x06 (BitVec.ofNat 64 k.toNat) 4#64) none)))

/-! ## Messages and time -/

/-- SEND to another thread's register leaves as its mode says and reserves the return register in mode 2; modes 3 and 4 make
rd EMPTY or RESERVED. SENDM sends an item packet, with a credit where it names the channel; PUT sends its words with its
signal; SUBS waits for the mesh with the group that it joins or leaves, and traps where the core's table is full or the group
has 64 other members (R44, R207 to R214, R265). The model's own choice in it is log 47. -/
def Obligations.Messages : Prop :=
  ∀ (s : State) (c n : Nat) (x : Slot) (t : Thread) (d a b : Fin 10) (p : Fin 16), Guarded t p →
    (∀ tag : BitVec 4, Full t [a.val, b.val] → sendWordOk (valOf t a).toNat = true →
      let v := (valOf t a).toNat
      let mode := twMode v
      (mode ≤ 2 → (mode = 2 → x.visitFrom = none) → At s c n x t → ∀ w, destOf s c v = some w →
        (4 ≤ levelSlot s c n → 4 ≤ twSlot v) → canSend s c n t w (mode ≠ 1) →
        let u := if mode = 2 then reserveReg t (twRreg v) else t
        let s1 := handed s c n t w (if mode = 1 then .reply else .request) (mode ≠ 1)
          (.send (twSlot v) d (valOf t b) tag.toNat)
        LoopOk s1 c n t u → exec (.send d a b p tag) s = .next (sent s s1 c n t u)) ∧
      (mode = 3 → tag = 0#4 → AtHome s c n x t → LoopOk s c n t (emptyReg t d) →
        exec (.send d a b p tag) s = .next (completed s c n t (emptyReg t d) 4)) ∧
      (mode = 4 → tag = 0#4 → AtHome s c n x t → LoopOk s c n t (reserveReg t d) →
        exec (.send d a b p tag) s = .next (completed s c n t (reserveReg t d) 4))) ∧
    (a.val ≤ 2 → Full t (runRegs a ++ [b.val, d.val]) → ctlKind (pktWord (runWords t a) 0) = 5 → At s c n x t →
      ∀ w, coreWord s c (valOf t b) w → canSend s c n t w (!w.isCore c) →
      let ctl := pktWord (runWords t a) 0
      (ctlChan ctl = true → chanTakes s c ctl (valOf t b).toNat = true ∧ 0 < chanCred (coreOf s c).chan) →
      let h := homeOf s c n
      let s1 := handed s c n t w .request (!w.isCore c)
        (.packet { words := runWords t a, a0 := sourceId s h.1 h.2, a1 := valOf t d,
                   credit := if ctlChan ctl then some (s.pkg.dev.toNat, c) else none, status := none, counted := false,
                   stage := none })
      let s2 := if ctlChan ctl then takeCredit s1 c else s1
      LoopOk s2 c n t t → exec (.sendm d a b p) s = .next (sent s s2 c n t t)) ∧
    (let w := (valOf t b).toNat
     let m := putWords w
     Full t ([a.val, b.val] ++ (List.range m).map (d.val + ·)) → bits w 63 20 = 0 → 0 < m → m ≤ 8 → d.val + m ≤ 10 →
      (valOf t a).toNat % 8 = 0 → bits (valOf t a).toNat 63 60 = 10 → bits (valOf t a).toNat 33 32 < 2 → At s c n x t →
      ∀ r y z, routeAccess s c n .write (valOf t a) (8 * m) = .ok r → OffTable s r (8 * m) →
      putDest s c (valOf t a) r = some (y, z) → canSend s c n t y (!y.isCore c) →
      let s1 := handed s c n t y .request (!y.isCore c)
        (.access { kind := .put, tgt := z, size := 8 * m, addr := valOf t a, data := putData t d m, expect := 0, op := .add,
                   reg := 16, sgn := false, acq := false, rel := true, scope := 5, sem := w % 256, inc := bits w 15 8,
                   tag := 0 })
      let s2 := if y.own then s1 else askRemote s1 c n s.uid false
      LoopOk s2 c n t t → exec (.put d a b p) s = .next (sent s s2 c n t t)) ∧
    (AtHome s c n x t → Full t [a.val, b.val] → bits (valOf t a).toNat 63 17 = 0 → (valOf t b).toNat < 64 →
      ringOwned (ringOf (clusterOf s (clusterOfCore c)) (valOf t b).toNat) x.asid.toNat = true →
      let tag := bits (valOf t a).toNat 15 0
      let ring := (valOf t b).toNat
      let others := (coreOf s c).matchTab.filter fun e => e.1 != tag
      let members := (otherMembers s c tag).filter (· != (clusterOfCore c, ring))
      ((valOf t a).getLsbD 16 = true ∨ others.length < 16 ∧ members.length < 64 →
        ∃ u, exec (.subs a b p) s = .next u ∧ (slotOf u c n).st = .waiting ∧
          (slotOf u c n).wait = .subs tag ((valOf t a).getLsbD 16) ring ∧ s.cycle < (slotOf u c n).readyAt ∧
          threadOf u c n = some t ∧ u.mem = s.mem ∧ (coreOf u c).matchTab = (coreOf s c).matchTab) ∧
      ((valOf t a).getLsbD 16 = false → 16 ≤ others.length ∨ 64 ≤ members.length →
        exec (.subs a b p) s = .next (takeTrap s c n (trapInfo 0x11 (valOf t a) 0#64) none)))

/-- TIME samples device time, its nanoseconds to rd and its fraction to rf, rd written last; WAITT completes where device time
is at or past its target and waits where it is not, with a fraction above 16 bits the illegal-operand trap; WAITLIM sets
the slot's limit and its EGT bit (R215 to R218, R396). -/
def Obligations.TimeInstructions : Prop :=
  ∀ (s : State) (c n : Nat) (x : Slot) (t : Thread) (p : Fin 16), At s c n x t → Guarded t p →
    (∀ d f : Fin 10,
      let u := writeReg (writeReg t f (BitVec.ofNat 64 (s.devTime % 65536))) d (BitVec.ofNat 64 (s.devTime / 65536))
      LoopOk s c n t u → exec (.time d f p) s = .next (completed s c n t u 4)) ∧
    (∀ a b : Fin 10, Full t [a.val, b.val] →
      let y := (valOf t a).toNat * 65536 + (valOf t b).toNat
      ((valOf t b).toNat < 65536 → y ≤ s.devTime → LoopOk s c n t t →
        exec (.waitt a b p) s = .next (completed s c n t t 4)) ∧
      ((valOf t b).toNat < 65536 → s.devTime < y → exec (.waitt a b p) s = .next (waitSlot s c n (.time y))) ∧
      (65536 ≤ (valOf t b).toNat →
        exec (.waitt a b p) s = .next (takeTrap s c n (trapInfo 0x04 (valOf t b) (BitVec.ofNat 64 b)) none))) ∧
    (∀ a : Fin 10, Full t [a.val] → (valOf t a).toNat < 2 ^ 33 →
      let s1 := modSlot s c n fun y =>
        { y with egt := (valOf t a).getLsbD 32, limit := BitVec.ofNat 32 (valOf t a).toNat }
      LoopOk s1 c n t t → exec (.waitlim a p) s = .next (completed s1 c n t t 4))

/-! ## Traps and system instructions -/

/-- TRAP, EBREAK without the break halt, and a word that is no instruction take their traps; EBREAK with it puts the core in
debug halt with every slot HELD; ECALL appends its entry, reserves rd and completes, waits where the queue is full and is
the illegal-operand trap where it is off; TRET restores the PC and clears SIN; IDLE completes and waits (R134, R332, R334
to R336). The model's own choices in it are log 41 and log 42. -/
def Obligations.SystemInstructions : Prop :=
  ∀ (s : State) (c n : Nat) (x : Slot) (t : Thread) (p : Fin 16), Guarded t p →
    (∀ a : Fin 10, At s c n x t → Full t [a.val] →
      exec (.trap a p) s = .next (takeTrap s c n (trapInfo 0x13 (valOf t a) 0#64) none)) ∧
    (At s c n x t → (coreOf s c).dbgctl.getLsbD 0 = false →
      exec (.ebreak p) s = .next (takeTrap s c n (trapInfo 0x14 0#64 0#64) none)) ∧
    (At s c n x t → (coreOf s c).dbgctl.getLsbD 0 = true →
      exec (.ebreak p) s = .next (haltCore s c) ∧ (coreOf (haltCore s c) c).mode = .debugHalt ∧
      ∀ m y, (m, y) ∈ (coreOf (haltCore s c) c).slots → y.isHeld = true) ∧
    (∀ w : BitVec 32, At s c n x t → exec (.illegalInstruction w) s = .next (takeTrap s c n
      (trapInfo 0x01 (BitVec.ofNat 64 w.toNat) (if 0x32 ≤ bits w.toNat 31 26 ∧ bits w.toNat 31 26 ≤ 0x39 then 3#64 else 0#64))
      none)) ∧
    (∀ d a : Fin 10, AtHome s c n x t →
      let k := coreOf s c
      (a.val ≤ 6 → k.ecq.getLsbD 0 = true → Full t ((List.range 4).map (a.val + ·)) →
        (k.ecqt - k.ecqh ≠ 64#32 → pending s c n = false →
          let s1 := ecallAppend s c (ecallEntry s c n t d a)
          LoopOk s1 c n t (reserveReg t d) → exec (.ecall d a p) s = .next (completed s1 c n t (reserveReg t d) 4)) ∧
        (k.ecqt - k.ecqh = 64#32 → exec (.ecall d a p) s = .next (notIssued s c n (.res .ecall)))) ∧
      (6 < a.val ∨ k.ecq.getLsbD 0 = false ∧ Full t ((List.range 4).map (a.val + ·)) →
        exec (.ecall d a p) s = .next (takeTrap s c n (trapInfo 0x04 (BitVec.ofNat 64 a) (BitVec.ofNat 64 a)) none))) ∧
    (AtHome s c n x t → n < 4 →
      (x.sin = true → TargetOk s c n t.pc x.epc.toNat →
        exec (.tret p) s = .next (modSlot s c n fun y =>
          { restSlot y with sin := false, thread := some { t with pc := x.epc } })) ∧
      (x.sin = false → exec (.tret p) s = .next (takeTrap s c n (trapInfo 0x04 0#64 0#64) none)) ∧
      (LoopOk s c n t t → exec (.idle p) s = .next (waitSlot (completed s c n t t 4) c n .idle)))

/-- TAKING A TRAP. A thread in slots 1 to 3 with SIN = 0 and a vector saves the PC, the record's first 8 bytes, TVAL and
DETAIL, sets SIN and goes to the vector; slot 0 does so with its own registers. With SIN = 1 or no vector the slot becomes
FREE and slot 0 takes cause 0x3F naming it; of slot 0 it is debug halt and an alert. A user thread whose launch has a
vector and whose record is enabled and empty goes to the vector with its record written and every register kept; otherwise
it is aborted, so also where the record's VALID has an uncorrectable error (R328 to R333). The model's own choices in it are
log 73, the wrap of the abort count, and log 86. -/
def Obligations.TrapEntry : Prop :=
  ∀ (s : State) (c n : Nat) (x : Slot) (t : Thread) (e : TrapInfo) (f : Option Nat),
    slotOf s c n = x → x.thread = some t → x.visitFrom = none →
    let flags := if f.isSome then 3 else 1
    (n < 4 → x.sin = false → x.tvec ≠ 0#48 → (n = 0 → x.st ≠ .visiting) →
      takeTrap s c n e f = setSlot s c n
        { restSlot x with
          st := .ready, wait := .none, sin := true, epc := t.pc, tval := e.tval, detail := e.detail,
          cause := BitVec.ofNat 64 (e.cause % 2 ^ 16 + flags * 2 ^ 16 + f.getD 0 % 2 ^ 8 * 2 ^ 24 + e.more % 2 ^ 32 * 2 ^ 32),
          thread := some { t with pc := x.tvec } }) ∧
    (0 < n → n < 4 → (x.sin = true ∨ x.tvec = 0#48) → ∀ y t0, slotOf s c 0 = y → y.thread = some t0 → y.sin = false →
      y.tvec ≠ 0#48 → y.st ≠ .visiting →
      (slotOf (takeTrap s c n e f) c n).st = .free ∧ (slotOf (takeTrap s c n e f) c n).thread = none ∧
      slotOf (takeTrap s c n e f) c 0 =
        { restSlot y with
          st := .ready, wait := .none, sin := true, epc := t0.pc, cause := 0x1003F#64, tval := BitVec.ofNat 64 n,
          detail := 0#64, thread := some { t0 with pc := y.tvec } }) ∧
    (n = 0 → (x.sin = true ∨ x.tvec = 0#48) →
      (coreOf (takeTrap s c n e f) c).mode = .debugHalt ∧ (takeTrap s c n e f).pkg.alerts = s.pkg.alerts ++ [c]) ∧
    (4 ≤ n → ∀ a, attrOf s c t.ccid.toNat = some a →
      let key := recKey (coreOf s c) c n
      (inAsidTable s key 32 = false → AttrClean s c t.ccid.toNat → NoErrors s key 8 → a.utvec ≠ 0 →
        (coreOf s c).utrec.getLsbD 0 = true → e.cause ≠ 0x3F → (memByte s.mem (key + 2)).getLsbD 0 = false →
        TargetOk s c n t.pc a.utvec →
        let u := takeTrap s c n e f
        threadOf u c n = some { t with pc := BitVec.ofNat 48 a.utvec } ∧ (slotOf u c n).st = .ready ∧
        memNat u.mem key 2 = e.cause % 2 ^ 16 ∧ memNat u.mem (key + 2) 1 = flags ∧ memNat u.mem (key + 8) 8 = t.pc.toNat ∧
        memNat u.mem (key + 16) 8 = e.tval.toNat ∧ memNat u.mem (key + 24) 8 = e.detail.toNat ∧
        ∀ k, (k < key ∨ key + 32 ≤ k) → memByte u.mem k = memByte s.mem k) ∧
      ((a.utvec = 0 ∨ (coreOf s c).utrec.getLsbD 0 = false ∨ e.cause = 0x3F ∨ (memByte s.mem (key + 2)).getLsbD 0 = true ∨
          eccBad s.ecc key 8 = true) →
        let u := takeTrap s c n e f
        (slotOf u c n).st = .waiting ∧ threadOf u c n = some t ∧ u.mem = s.mem ∧
        (coreOf u c).abortc = (coreOf s c).abortc + 1#64))

/-- The supervisor and platform instructions in a slot of their level: TLBI waits, with its partition's translations
discarded; ASIDSET sets the slot's ASID to a live one; KILL begins a fence and reserves rd; PREEMPT, RESUME and DBGHALT
send their command to another core of the package and reserve rd; ERRINJ arms its injection, and flips the bits of a
stored granule at once (R339 to R343, R347, R348). The model's own choices in it are log 49 and log 52. -/
def Obligations.SupervisorInstructions : Prop :=
  ∀ (s : State) (c n : Nat) (x : Slot) (t : Thread) (p : Fin 16) (d a b : Fin 10), AtHome s c n x t → Guarded t p → n < 4 →
    Full t [a.val, b.val] →
    let v := valOf t a
    let part := partOfCore s c
    (bits v.toNat 61 14 = 0 → bits v.toNat 63 62 ≤ 2 → (bits v.toNat 63 62 = 2 → bits v.toNat 13 0 = 0) →
      (bits v.toNat 63 62 ≠ 2 → asidLive s part (bits v.toNat 13 0) = true ∧ NoErrors s (asidKey s (bits v.toNat 13 0)) 8) →
      pending s c n = false →
      exec (.tlbi a b p) s = .next (waitSlot (discardTlb s part (bits v.toNat 63 62) (bits v.toNat 13 0)
        (bits (valOf t b).toNat 56 0)) c n (.tlbi s.uid))) ∧
    (v.toNat < 2 ^ 14 → asidLive s part v.toNat = true → NoErrors s (asidKey s v.toNat) 8 →
      let s1 := modSlot s c n fun y => { y with asid := BitVec.ofNat 14 v.toNat }
      LoopOk s1 c n t t → exec (.asidset a p) s = .next (completed s1 c n t t 4)) ∧
    (v.toNat < 2 ^ 14 → v.toNat ≠ x.asid.toNat → asidLive s part v.toNat = true → NoErrors s (asidKey s v.toNat) 8 →
      let s1 := beginKill s v.toNat (part.getD 64) (some (c, n, d.val)) false
      LoopOk s1 c n t (reserveReg t d) → exec (.kill d a p) s = .next (completed s1 c n t (reserveReg t d) 4)) ∧
    (∀ w, coreWord s c v w → w.own = true → w.core ≠ c →
      let sends (body : MsgBody) (i : Instr) : Prop :=
        let s1 := post s c n w.dev w.core .control false body
        LoopOk s1 c n t (reserveReg t d) → exec i s = .next (completed s1 c n t (reserveReg t d) 4)
      (n = 0 → sends (.debugHalt n d) (.dbghalt d a p)) ∧
      ((valOf t b).toNat % 64 = 0 → bits (valOf t b).toNat 63 60 = 0 →
        sends (.preempt n d (valOf t b) x.asid.toNat) (.preempt d a b p) ∧
        sends (.resume n d (valOf t b) x.asid.toNat) (.resume d a b p))) ∧
    (injOk v.toNat = true →
      (injSite v.toNat ∈ [1, 2] → let s1 := modCore s c fun k => { k with inject := some v };
        LoopOk s1 c n t t → exec (.errinj a p) s = .next (completed s1 c n t t 4)) ∧
      (injSite v.toNat = 0 → let s1 := modCore s c fun k => { k with inject := none };
        LoopOk s1 c n t t → exec (.errinj a p) s = .next (completed s1 c n t t 4)) ∧
      (injSite v.toNat ∈ [3, 4] →
        let mask := 2 ^ injBit v.toNat + if injKind v.toNat = 1 then 2 ^ ((injBit v.toNat + 1) % 64) else 0
        let key := if injSite v.toNat = 3 then tcmKey c (injOff v.toNat) else spadKey (clusterOfCore c) (injOff v.toNat)
        let s1 := flipGranule s key mask
        LoopOk s1 c n t t → exec (.errinj a p) s = .next (completed s1 c n t t 4))) ∧
    (injOk v.toNat = false → exec (.errinj a p) s = .next (takeTrap s c n (trapInfo 0x04 v (BitVec.ofNat 64 a)) none))

/-- SEED asks the entropy source, reserves rd and completes; under STRICT it is the determinism trap. The source answers a
request with what serving it gives, both ways within the bound of R181, and a seed that it has drawn is never 0 (R181, R182).
The model's own choices in it are log 7 and log 8. -/
def Obligations.Seeds : Prop :=
  (∀ (s : State) (c n : Nat) (x : Slot) (t : Thread) (p : Fin 16) (d : Fin 10), AtHome s c n x t → Guarded t p →
    (strictOf t = false →
      let s1 := putMsg s { mkMsg s c n s.pkg.dev.toNat c .request false (.seedReq n d) with due := s.cycle + 1 + seedDelay s }
      LoopOk s1 c n t (reserveReg t d) → exec (.seed d p) s = .next (completed s1 c n t (reserveReg t d) 4)) ∧
    (strictOf t = true →
      exec (.seed d p) s = .next (takeTrap s c n (trapInfo 0x09 (BitVec.setWidth 64 t.pw) 0#64) none))) ∧
  (∀ (s : State) (m : Msg) (n r : Nat), findMsg s m.uid = some m → m.body = .seedReq n r → m.due ≤ s.cycle →
    let q := serveSeed (dropMsg s m.uid) m
    exec (.seedService m.uid) s = .next (answerIn q.1 m (seedDelay q.1) (.seedReply n r q.2)) ∧
      seedDelay q.1 + seedDelay s < 16000 ∧ (q.1.fresh = s.fresh + 1 → q.2 ≠ 0#64))

/-! ## Commands of the engines -/

/-- THE ISSUE OF A COMMAND BUNDLE. Where its queue has room, its registers are FULL and its tile references are taken, the
command stands at the end of its engine's queue with the fields that R139 forms, the tile table holds the references, and the
instruction completes, past its 32 bytes; a GCE's has copied its records. A refusal of the references goes with the queued
command, none of them taken; a full queue or a tile at the READERS limit keeps it from issuing; while a kill fence of its ASID
runs it completes and no command is accepted. TABPIN copies its table to its slot, and TABINV empties its slot or every slot
of its ASID, as they are accepted; each completes with its command in the GCE, which signals 8 cycles later; a slot of another
ASID is left as it is, and the command holds an error (R100, R138 to R141, R223, R251, R252, R257, R350, R366). The model's
own choices in it are log 31, the completion while a kill fence runs, log 54 and log 56. -/
def Obligations.CommandIssue : Prop :=
  (∀ (i : Instr) (e : Nat) (b : Bundle), commandLine i = some (e, b) →
     ∀ (s : State) (c n : Nat) (x : Slot) (t : Thread), AtHome s c n x t → commandLegal i b s c n t → Full t (bundleRegs b) →
     (queueRoom s c n e = false → exec i s = .next (notIssued s c n (.res (queueRes e)))) ∧
     (queueRoom s c n e = true → asidKilling s x.asid.toNat = true → LoopOk s c n t t →
       exec i s = .next (completed s c n t t 32)) ∧
     (queueRoom s c n e = true → asidKilling s x.asid.toNat = false →
       let cl := clusterOfCore c
       let m := bundleCmd i b s c n x t
       (∀ k refs, issueRefs (clusterOf s cl) i x.asid.toNat (commandTiles i b t m.a m.b) = .taken k refs →
         let q := acceptCmd i (modCluster s cl fun _ => k) { m with refs := refs }
         IsCommand q.2 i b s c n x t refs none ∧ q.1.mem = s.mem ∧
         let s1 := enqueueCmd { q.1 with uid := q.1.uid + 1 } q.2
         (LoopOk s1 c n t t → exec i s = .next (completed s1 c n t t 32))) ∧
       (∀ f, issueRefs (clusterOf s cl) i x.asid.toNat (commandTiles i b t m.a m.b) = .refused f →
         let q := acceptCmd i s { m with refused := some f }
         IsCommand q.2 i b s c n x t [] (some f) ∧ q.1.mem = s.mem ∧
         let s1 := enqueueCmd { q.1 with uid := q.1.uid + 1 } q.2
         (LoopOk s1 c n t t → exec i s = .next (completed s1 c n t t 32))) ∧
       (issueRefs (clusterOf s cl) i x.asid.toNat (commandTiles i b t m.a m.b) = .full →
         exec i s = .next (notIssued s c n (.res .readers))))) ∧
  (∀ (b : Bundle) (s : State) (c n : Nat) (x : Slot) (t : Thread), AtHome s c n x t → pending s c n = false →
     Full t (bundleRegs b) → queueRoom s c n 2 = true →
     let cl := clusterOfCore c
     let k := fld b.w5 3 0
     let pin := tableCmd (.tabpin b) b .addr s c n x t
     let inv := tableCmd (.tabinv b) b .none s c n x t
     let q := pinTable s pin
     let r := unpinTable s inv
     let after (q : State × Option DefErr) (m : Cmd) : State :=
       modCluster { q.1 with uid := q.1.uid + 1 } cl fun k =>
         { k with active := k.active ++ [{ m with started := true, retired := true, due := s.cycle + 8, err := q.2 }] }
     (asidKilling s x.asid.toNat = true → LoopOk s c n t t →
       exec (.tabpin b) s = .next (completed s c n t t 32) ∧ exec (.tabinv b) s = .next (completed s c n t t 32)) ∧
     (asidKilling s x.asid.toNat = false →
       (LoopOk (after q pin) c n t t → exec (.tabpin b) s = .next (completed (after q pin) c n t t 32)) ∧
       (LoopOk (after r inv) c n t t → exec (.tabinv b) s = .next (completed (after r inv) c n t t 32))) ∧
     q.1.mem = s.mem ∧
     (q.2 = none → ∃ bs, mapFind (clusterOf q.1 cl).pins k = some { asid := x.asid.toNat, bytes := bs }) ∧
     (∀ p, mapFind (clusterOf s cl).pins k = some p → p.asid ≠ x.asid.toNat → q.2 ≠ none ∧ q.1 = s) ∧
     (b.w5.getLsbD 4 = true → r.2 = none ∧ r.1 = modCluster s cl fun y =>
       { y with pins := y.pins.filter fun p => p.2.asid != x.asid.toNat }) ∧
     (b.w5.getLsbD 4 = false → ∀ p, mapFind (clusterOf s cl).pins k = some p →
       (p.asid = x.asid.toNat → r.2 = none ∧ r.1 = modCluster s cl fun y => { y with pins := mapErase y.pins k }) ∧
       (p.asid ≠ x.asid.toNat → r.2 ≠ none ∧ r.1 = s)))

/-! ## Hod programs -/

/-- HSETA sets hA to IMM, or with LD to the 8 bytes at (hB + IMM) mod 2^64 where that address is 8-byte aligned and readable in
region 0x0 or 0xA, and is a program error where it is not; HADDA sets hA to (hB + IMM) mod 2^64. The program goes on to its
next entry, and nothing else changes (R277). -/
def Obligations.HodRegisters : Prop :=
  ∀ (s : State) (p : Prog) (a b : Fin 8) (v : Word), Runs s p →
    exec (.hseta a v) s = .next (ranOn s { past p with h := p.h.set a v }) ∧
    exec (.hadda a b v) s = .next (ranOn s { past p with h := p.h.set a (BitVec.ofNat 64 (p.h[b].toNat + v.toNat)) }) ∧
    (let y := BitVec.ofNat 64 (p.h[b].toNat + v.toNat)
     (∀ s1 bs, y.toNat % 8 = 0 → hodRead s p y 8 = (s1, .ok bs) →
       exec (.hsetaLd a b v) s = .next (ranOn s1 { past p with h := p.h.set a (BitVec.ofNat 64 (leNat bs)) })) ∧
     (∀ s1 e, y.toNat % 8 = 0 → hodRead s p y 8 = (s1, .error e) → exec (.hsetaLd a b v) s = .next (ranOn s1 (failed p))) ∧
     (y.toNat % 8 ≠ 0 ∨ ¬(bits y.toNat 63 60 = 0 ∨ bits y.toNat 63 60 = 10) →
       exec (.hsetaLd a b v) s = .next (ranOn s (failed p))))

/-- HWWAIT goes on where (TAIL − HEAD) + n ≤ W holds on its ring, and where it does not its program waits at it: no command of
the program is ready until the window holds. It claims nothing. A ring that the program's ASID does not own, or n above W, is a
program error (R279, R282). -/
def Obligations.HodWindow : Prop :=
  ∀ (s : State) (p : Prog) (ring : BitVec 6) (cl : BitVec 7) (m : BitVec 12), Runs s p →
    let r := ringOf (clusterOf s cl.toNat) ring.toNat
    let n := m.toNat + 1
    (ringOwned r p.asid = true → n ≤ ringW r →
      ((r.tail - r.head).toNat + n ≤ ringW r → exec (.hwwait ring cl m) s = .next (ranOn s (past p))) ∧
      (ringW r < (r.tail - r.head).toNat + n →
        exec (.hwwait ring cl m) s = .next (ranOn s { p with wwait := some (cl.toNat, ring.toNat, n) }))) ∧
    (ringOwned r p.asid = false ∨ ringW r < n → exec (.hwwait ring cl m) s = .next (ranOn s (failed p))) ∧
    (∀ (u : State) (h : Nat) (q : Prog), q.wwait = some (cl.toNat, ring.toNat, n) →
      (let z := ringOf (clusterOf u cl.toNat) ring.toNat
       ringW z < (z.tail - z.head).toNat + n) → ∀ k, progReady u h (k, q) = false)

/-- THE OTHER HOD COMMANDS. HLOOP pushes a count that is not 0 and goes on, a fifth nested one is a program error; HEND goes
back to the command after its HLOOP while the decremented count is not 0 and else pops it, with an empty stack a program
error; HJMP jumps by 16 times its offset and keeps the stack; HNOP goes on; HSTOP ends the program. A fill of at most 8,192
bytes on a ring of the program's ASID puts one unclaimed fill behind those there are, and its program waits for the claim; a
larger one or a foreign ring is a program error. HSIG waits while a fill of its program is not READY, and then sends its
increment to a core of the own device or of a device bound to its partition and goes on; a core or a device that it may not
name is a program error (R274, R276, R278, R280, R282). The model's own choices in it are log 21, log 40, log 104, the program
error of a foreign ring, and log 108, an HLOOP of count 0 inside four others. -/
def Obligations.HodCommands : Prop :=
  (∀ (s : State) (p : Prog), Runs s p →
     (∀ n : BitVec 32, n ≠ 0#32 → p.stack.length < 4 →
       exec (.hloop n) s = .next (ranOn s { past p with stack := (n.toNat, p.pc + 16#64) :: p.stack })) ∧
     (∀ n : BitVec 32, 4 ≤ p.stack.length → exec (.hloop n) s = .next (ranOn s (failed p))) ∧
     (∀ s1 a, skipLoop p 65536 s (p.pc + 16#64) 0 = (s1, some a) → p.stack.length < 4 →
       exec (.hloop 0#32) s = .next (ranOn s1 { past p with pc := a })) ∧
     (∀ n a rest, p.stack = (n, a) :: rest →
       (2 ≤ n → exec .hend s = .next (ranOn s { past p with pc := a, stack := (n - 1, a) :: rest })) ∧
       (n ≤ 1 → exec .hend s = .next (ranOn s { past p with stack := rest }))) ∧
     (p.stack = [] → exec .hend s = .next (ranOn s (failed p))) ∧
     (∀ o : BitVec 32, exec (.hjmp o) s = .next (ranOn s { past p with pc := p.pc + BitVec.ofInt 64 (16 * o.toInt) })) ∧
     exec .hnop s = .next (ranOn s (past p)) ∧
     exec .hstop s = .next (ranOn s { p with ended := true })) ∧
  (∀ (s : State) (p : Prog), Runs s p →
     (∀ i cl ring rows rb a st b, fillLine i = some (cl, ring, rows, rb, a, st, b) →
       (rows * rb ≤ 8192 → ringOwned (ringOf (clusterOf s cl) ring) p.asid = true →
         ∃ f : Fill, f.uid = s.uid ∧ f.byHod = true ∧ f.unit = s.hodCur.1 ∧ f.prog = s.hodCur.2 ∧ f.cluster = cl ∧
           f.ring = ring ∧ f.index = none ∧ f.asid = p.asid ∧ f.rows = rows ∧ f.rb = rb ∧ f.stride = st ∧ f.src = p.h[a] ∧
           f.idx = b.map (fun k => p.h[k]) ∧ f.entry = p.pc ∧
           exec i s = .next (ranOn { s with fills := s.fills ++ [f], uid := s.uid + 1 } { p with fillWait := some s.uid })) ∧
       (8192 < rows * rb ∨ ringOwned (ringOf (clusterOf s cl) ring) p.asid = false →
         exec i s = .next (ranOn s (failed p)))) ∧
     (∀ (core : BitVec 10) (dev : BitVec 16) (sem inc : BitVec 8),
       (progFills s s.hodCur.1 s.hodCur.2 = true →
         exec (.hsig core dev sem inc) s = .next (ranOn s { p with sigWait := true })) ∧
       (progFills s s.hodCur.1 s.hodCur.2 = false → dev = s.pkg.dev → ∀ c,
         coreOfLogical s (partNum p.part) core.toNat = some c →
         ∃ m : Msg, m.uid = s.uid ∧ m.dcore = c ∧ m.ddev = s.pkg.dev.toNat ∧ m.net = .request ∧ m.asid = p.asid ∧
           m.body = .sigr sem.toNat inc.toNat ∧
           exec (.hsig core dev sem inc) s = .next (ranOn { s with net := s.net ++ [m], uid := s.uid + 1 }
             { past p with sigs := p.sigs ++ [(s.uid, p.pc)] })) ∧
       (progFills s s.hodCur.1 s.hodCur.2 = false → dev = s.pkg.dev → coreOfLogical s (partNum p.part) core.toNat = none →
         exec (.hsig core dev sem inc) s = .next (ranOn s (failed p))) ∧
       (progFills s s.hodCur.1 s.hodCur.2 = false → dev ≠ s.pkg.dev →
         let bound := peerBound s (partNum p.part) dev.toNat = true ∧
           (routePort s (partNum p.part) p.core core.toNat dev.toNat).isSome = true
         (¬bound → exec (.hsig core dev sem inc) s = .next (ranOn s (failed p))) ∧
         (bound → ∀ u, linkSend s (hsigMsg s p dev.toNat core.toNat sem.toNat inc.toNat) 0 = some u →
           exec (.hsig core dev sem inc) s = .next (ranOn { u with uid := s.uid + 1 }
             { past p with sigs := p.sigs ++ [(s.uid, p.pc)] })))))

/-! ## Threads, messages and waits -/

/-- THE ENDS OF WAITS AND THREADS. FENCE, WATCH, SUBS with its group's table and TLBI complete; WAITT is tested again once
device time is at its target; division, YIELD and the wait limit make the slot READY. A slot that waits in EXIT, an abort or a
cancel, whose thread has nothing under way, is FREE, its launch's counter completes once, with ERR after an abort or with a
held error, and its item's credit goes back; a cancelled thread at home leaves the ready set and waits to retire, and one on a
visit goes home first (R31, R41, R43, R44, R158, R193, R194, R200, R214, R216, R218, R331, R340). The model's own choice in it
is log 24. -/
def Obligations.WaitEnds : Prop :=
  (∀ (s : State) (c n : Nat) (x : Slot) (t : Thread) (w : Wait), Waits s c n x t w →
     let s1 := reissueSlot s c n
     (∀ k, w = .fence k → pending s c n = false →
       let s2 := { s1 with stale := fenceStale s.stale t.tid }
       (t.held = none → LoopOk s2 c n t t → exec (.fenceComplete c n) s = .next (completed s2 c n t t 4)) ∧
       (∀ e, t.held = some e → exec (.fenceComplete c n) s = .next (takeTrap
         (modThread s2 c n fun u => { u with held := none }) c n
         { cause := 0x15, tval := e.addr, detail := BitVec.ofNat 64 e.cause, more := e.count } none))) ∧
     (∀ key va r, w = .watch key va r true →
       let k := key + va.toNat % 64
       let u := writeReg t r (BitVec.ofNat 64 (memNat s.mem k 8))
       NoErrors s k 8 → LoopOk s1 c n t u →
       exec (.watchWake c n) s = .next (wakeRes (completed s1 c n t u 4) c .watch)) ∧
     (∀ y, w = .time y → y ≤ s.devTime → (coreOf s c).clockStopped = false →
       exec (.waittReady c n) s = .next (modSlot s c n (readySlot s.cycle))) ∧
     (countedWait w = true → x.limit ≠ 0#32 → x.limit.toNat ≤ x.waitCount →
       exec (.waitLimitReached c n) s =
         .next (modSlot s c n fun y => { readySlot s.cycle y with limitHit := true })) ∧
     (∀ r, w = .divide r → r ≤ s.cycle → exec (.divideWaitEnd c n) s = .next (modSlot s c n (readySlot r))) ∧
     (∀ r, w = .yield r → r ≤ s.cycle →
       exec (.yieldWaitEnd c n) s = .next (modSlot s c n fun y => { readySlot r y with age := 0 })) ∧
     (∀ tag leave ring, w = .subs tag leave ring → x.readyAt ≤ s.cycle →
       (∀ g, subsTable s1 c tag leave ring = some g →
         let s2 := modCore s1 c fun k => { k with matchTab := g }
         LoopOk s2 c n t t → exec (.subsComplete c n) s = .next (completed s2 c n t t 4)) ∧
       (subsTable s1 c tag leave ring = none → exec (.subsComplete c n) s = .next (takeTrap s1 c n
         (trapInfo 0x11 (BitVec.ofNat 64 (tag + if leave then 65536 else 0)) 0#64) none))) ∧
     (∀ b, w = .tlbi b → (∀ m ∈ s.net, oldAccess s (partOfCore s c) b m = false) → LoopOk s1 c n t t →
       exec (.tlbiComplete c n) s = .next (completed s1 c n t t 4))) ∧
  (∀ (s : State) (c n : Nat) (x : Slot) (t : Thread),
     (∀ w, Waits s c n x t w → mayRetire s c n = true →
       let free (u : State) : State := setSlot u c n (emptySlot x)
       let part := partOfCore s c
       let id := t.ccid.toNat
       (w = .exit ∨ w = .cancel → t.held = none →
         exec (.exitRetire c n) s = .next (returnCredit (unitDone (free s) part id t.stage false) c t.item)) ∧
       (w = .exit ∨ w = .cancel → ∀ e, t.held = some e →
         let r : TrapRec := ⟨0x15, 1, 0, e.count, t.pc.toNat, e.addr, BitVec.ofNat 64 e.cause⟩
         exec (.exitRetire c n) s = .next (returnCredit
           (unitDone (free (errRecord s part id r)) part id t.stage true) c t.item)) ∧
       (∀ r, w = .abort r → t.held = none → exec (.exitRetire c n) s = .next (returnCredit
         (unitDone (free (errRecord s part id r)) part id t.stage true) c t.item))) ∧
     (slotOf s c n = x → x.thread = some t → x.cancelled = true → x.isHeld = false → slotRuns (coreOf s c) n = true →
       x.st = .ready ∨ x.st = .waiting →
       (x.visitFrom = none →
         ∃ u, exec (.threadCancelStop c n) s = .next u ∧ (slotOf u c n).st = .waiting ∧ (slotOf u c n).cancelled = false ∧
           ((slotOf u c n).wait = .cancel ∨ (slotOf u c n).wait = .exit ∨ ∃ r, (slotOf u c n).wait = .abort r)) ∧
       (∀ h, x.visitFrom = some h →
         exec (.threadCancelStop c n) s = .next (departHome (cancelCmds s t.tid) c n h t none true))))

/-- What a message does that its core takes: SEND writes its register with its tag, a semaphore increment and a command's signal
raise their semaphore, the signal's error held with it; answers fill their register, lower the count of outstanding
requests and complete a load, a SPAWN's read or an ENQ parted from its slot; a far-end fault is held by the thread, wherever on
the device it has moved to; a credit of the PIPE channel comes back. A message for a FREE slot is counted as misdelivered and changes nothing else (R35, R38, R44,
R54, R118, R181, R184, R185, R187, R190, R201, R204, R209, R219, R244). The model's own choice in it is log 24. -/
def Obligations.Arrivals : Prop :=
  ∀ (s : State) (m : Msg), Lands s m →
    let u := without s m
    let c := m.dcore
    let here (n : Nat) : Prop := (slotOf u c n).st ≠ .free ∧ (slotOf u c n).st ≠ .visiting ∧ forSlot u c n m = true
    (∀ n r v tag, m.body = .send n r v tag →
      (here n → exec (.sendArrival m.uid) s = .next (fillTagged u c n r v tag)) ∧
      ((slotOf u c n).st = .free → exec (.sendArrival m.uid) s = .next (traceAdd
        (modCore u c fun k => { k with misdelivered := k.misdelivered + 1 }) c 0x05 n (tracePeer u m) 0 m.asid 0#64 0#64)) ∧
      ((slotOf u c n).st = .visiting → exec (.sendArrival m.uid) s =
        .next (modCore u c fun k => { k with visitBox := k.visitBox ++ [m] }))) ∧
    (∀ k i, m.body = .sigr k i → exec (.sigrArrival m.uid) s = .next (semAdd u c k i)) ∧
    (∀ k i cmd, m.body = .signal k i none cmd → i ≠ 0 → signalWaits s m = false →
      exec (.sigrArrival m.uid) s = .next (semAdd (endNamed u c cmd) c k i)) ∧
    (∀ k i e cmd, m.body = .signal k i (some e) cmd → signalWaits s m = false → exec (.sigrArrival m.uid) s =
      .next (signalSem (endNamed u c cmd) c k i (some { cause := e.cause, tval := e.tval, detail := e.detail }))) ∧
    (∀ n r v dec, m.body = .reply n r v dec → r < 10 → here n → exec (.replyArrival m.uid) s =
      .next (settle (fillReg (noteAnswer (lowerOutstanding u c dec) c m) c n r v) c)) ∧
    (∀ n pd v, m.body = .enqReply n pd v → here n → exec (.replyArrival m.uid) s = .next (enqReturn u c n pd v)) ∧
    (∀ n r v, m.body = .seedReply n r v → here n →
      exec (.seedReply m.uid) s = .next (settle (fillReg u c n r v) c)) ∧
    (∀ n, m.body = .stnAck n → exec (.stnAcknowledgement m.uid) s =
      .next (settle (noteAnswer (lowerOutstanding u c true) c m) c)) ∧
    (∀ n r dec cause addr, m.body = .farFault n r dec cause addr → here n →
      let u1 := modThread (noteAnswer (lowerOutstanding u c dec) c m) c n fun t => holdError t cause addr
      exec (.farEndFault m.uid) s = .next (settle (match r with
        | some (i, v) => fillAnswer u1 c n i v
        | none => u1) c)) ∧
    (∀ n r dec cause addr, m.body = .farFault n r dec cause addr → (slotOf u c n).st ≠ .visiting → ¬here n → m.towards ≠ 0 →
      threadHere (noteAnswer (lowerOutstanding u c dec) c m) m.towards = true →
      exec (.farEndFault m.uid) s = .next (settle (modNamed (noteAnswer (lowerOutstanding u c dec) c m) m.towards
        fun t => holdError t cause addr) c)) ∧
    (∀ n r tag v, m.body = .ldData n r tag v none →
      let u1 := noteAnswer u c m
      ((slotOf u c n).wait = .load tag ∨ (slotOf u c n).wait = .loadOwn tag → ∀ t, threadOf u c n = some t →
        LoopOk (reissueSlot u1 c n) c n t (writeReg t r (BitVec.ofNat 64 v)) → exec (.ldDataArrival m.uid) s =
          .next (settle (completed (reissueSlot u1 c n) c n t (writeReg t r (BitVec.ofNat 64 v)) 4) c)) ∧
      ((slotOf u c n).wait = .fetch tag → exec (.ldDataArrival m.uid) s = .next (settle
        (modSlot u1 c n fun y => { readySlot (wakeCycle u1 c) y with fetched := some v }) c))) ∧
    (m.body = .credit → exec (.channelCreditReturn m.uid) s = .next (addCredit (dropMsg s m.uid) c))

/-- An access at its store: LD answers with the bytes at its address, LDN and AMO with the old value, STN with its
acknowledgement; ST, PUT and AMO have stored their bytes there and nowhere else, PUT then raises its semaphore by its
increment, saturating with the sticky overflow bit, and keeps the error that it holds. JOIN lowers
the count of its record by one, at 0 sends the continuation with the thread's source id or, where it cannot be sent, sets
STATUS bit 1, and a count that is 0 already sets STATUS bit 0 and changes nothing else (R33, R108, R184, R186, R190, R192,
R213). The model's own choices in it are log 24, log 48, log 68, log 87 and log 112. -/
def Obligations.AccessesPerformed : Prop :=
  ∀ (s : State) (m : Msg) (a : Access) (k : Nat), arrived s m.uid = some m → m.body = .access a → targetKey s m a = some k →
    (a.kind ≠ .put ∧ a.kind ≠ .join → accessTaking s m k = .apply) → farGuard s k a.size a.addr = none → NoErrors s k a.size → inAsidTable s k a.size = false →
    m.sdev = s.pkg.dev.toNat → m.sslot < 256 →
    let old := memNat s.mem k a.size
    let stored (v : Nat) (u : State) : Prop := u.mem = memWrite s.mem k (leBytes a.size v)
    let answers (b : MsgBody) (u : State) : Prop :=
      ∃ e ∈ u.net, e.body = b ∧ e.dcore = m.score ∧ e.ddev = m.sdev ∧ e.net = .reply
    (a.kind = .ld → a.size ≤ 8 → ∃ u, exec (.farEndAccess m.uid) s = .next u ∧ u.mem = s.mem ∧
      answers (.ldData m.sslot a.reg a.tag (loadValue a.sgn a.size old).toNat none) u) ∧
    (a.kind = .ldn → ∃ u, exec (.farEndAccess m.uid) s = .next u ∧ u.mem = s.mem ∧
      answers (.reply m.sslot a.reg (BitVec.ofNat 64 old) true) u) ∧
    (a.kind = .st → ∃ u, exec (.farEndAccess m.uid) s = .next u ∧ stored a.data u) ∧
    (a.kind = .stn → ∃ u, exec (.farEndAccess m.uid) s = .next u ∧ stored a.data u ∧ answers (.stnAck m.sslot) u) ∧
    (a.kind = .amo → ∃ u, exec (.farEndAccess m.uid) s = .next u ∧
      answers (.reply m.sslot a.reg (loadValue (a.size == 4) a.size old) true) u ∧
      (∀ v, amoNew a.op (8 * a.size) old a.data a.expect = some v → stored v u) ∧
      (amoNew a.op (8 * a.size) old a.data a.expect = none → u.mem = s.mem)) ∧
    (a.kind = .put → a.tgt = .key k → taking s m = .apply → 0 < a.inc →
      ∃ u, exec (.putArrival m.uid) s = .next u ∧ stored a.data u ∧
        let y := semOf (coreOf s m.dcore) a.sem
        let z := semOf (coreOf u m.dcore) a.sem
        z.val.toNat = min (2 ^ 32 - 1) (y.val.toNat + a.inc) ∧
          z.ovf = (y.ovf || decide (2 ^ 32 - 1 < y.val.toNat + a.inc)) ∧ z.err = y.err) ∧
    (a.kind = .join → a.size = 32 →
      let n := memNat s.mem k 8
      (n = 0 → ∃ u, exec (.joinDecrement m.uid) s = .next u ∧
        u.mem = memWrite s.mem (k + 24) (leBytes 4 (Nat.lor (memNat s.mem (k + 24) 4) 1))) ∧
      (2 ≤ n → ∃ u, exec (.joinDecrement m.uid) s = .next u ∧ u.mem = memWrite s.mem k (leBytes 8 (n - 1))) ∧
      let part := if m.part < 64 then some m.part else none
      let user := isUserSlot (a.data % 256)
      let cont := memNat s.mem (k + 8) 8
      let s1 := storeBytes (dropMsg s m.uid) k (leBytes 8 0)
      let s2 := match transNow s1 part m.asid user .read cont 64 with
        | .ok q => (eccRead s1 m.score q 64).1
        | .error _ => s1
      (n = 1 → ∀ s3 t ws, joinPacket s2 part m.asid user cont (memNat s.mem (k + 16) 2) = some (s3, t, ws) →
        ∃ u, exec (.joinDecrement m.uid) s = .next u ∧ u.mem = s3.mem ∧
          ∃ e ∈ u.net, e.dcore = t ∧ e.body = .packet ⟨ws, BitVec.ofNat 64 a.data, 0#64, none, none, true, none⟩) ∧
      (n = 1 → joinPacket s2 part m.asid user cont (memNat s.mem (k + 16) 2) = none →
        ∃ u, exec (.joinDecrement m.uid) s = .next u ∧ u.mem = memWrite (memWrite s.mem k (leBytes 8 0)) (k + 24)
          (leBytes 4 (Nat.lor (memNat s.mem (k + 24) 4) 2))))

/-- SPAWN OF A PACKET. PACKET_SPAWN and DEQUE_POP spawn their packet where its core takes it; the thread starts at the
handler's PC with a0 and a1 from the deliverer, the payload in a2 to a7, zeros in a8 and a9, every register FULL, DET,
STRICT and TAG from the control word, predicates, flags and loop registers 0, and the formats of its table entry. A packet
that reaches its core waits in the inbox, its counter raised there if it is not yet; a SPAWN that is refused there has its
status in rd (R29, R30, R43, R196, R212, R376). The model's own choices in it are log 24, log 59 and log 79. -/
def Obligations.SpawnsPackets : Prop :=
  ∀ (s : State) (c n : Nat) (p : Packet) (a : Attr) (bs : List Byte),
    (let t := spawnThread s c p bs
     let w := pktWord p.words 0
     let s1 := traceAdd (placeThread { s with uid := s.uid + 1 } c n a.asid t none) c 0x01 n 0 t.ccid.toNat a.asid
       (BitVec.ofNat 64 w) (BitVec.setWidth 64 t.pc)
     (TargetOk s1 c n t.pc t.pc.toNat →
       let y := slotOf (spawnInto s c n p a bs) c n
       y.st = .ready ∧ y.thread = some t ∧ y.asid = BitVec.ofNat 14 a.asid ∧ y.visitFrom = none ∧ y.limit = 0#32) ∧
     t.pc = BitVec.ofNat 48 (pktWord p.words 1) ∧ valOf t 0 = p.a0 ∧ valOf t 1 = p.a1 ∧
     (∀ i, 2 ≤ i → i < 8 → valOf t i = BitVec.ofNat 64 (pktWord p.words i)) ∧ valOf t 8 = 0#64 ∧ valOf t 9 = 0#64 ∧
     Full t (List.range 10) ∧ anyReserved t = false ∧ detOf t = ctlDet w ∧ strictOf t = ctlStrict w ∧
     (∀ q, 1 ≤ q → q < 16 → predOf t q = false ∧ taintOf t q = false) ∧ t.fflags = 0#5 ∧ t.lpc = 0#32 ∧
     t.stage = p.stage ∧ t.item = p.credit ∧ t.prio = BitVec.ofNat 3 (ctlPrio w) ∧ t.ccid = BitVec.ofNat 16 (ctlCcid w) ∧ t.held = none ∧
     t.fmt = BitVec.ofNat 32 (fieldAt bs 0 4) ∧ t.sca = BitVec.ofNat 32 (fieldAt bs 4 4) ∧
     t.scb = BitVec.ofNat 32 (fieldAt bs 8 4)) ∧
    (∀ m rest, (coreOf s c).inbox = m :: rest → m.body = .packet p → Spawns s c n p a bs →
      exec (.packetSpawn c) s = .next (dropInbox (spawnInto (spawnMeets s c p.words) c n p a bs) c m.uid)) ∧
    (let q := dequeOf s c
     let e := dequeEntry q (q.bot + 2 ^ 32 - 1)
     let s1 := if dequeLen q = 1 then storeBytes s (tcmKey c q.base) (leBytes 4 ((q.top + 1) % 2 ^ 32))
       else storeBytes s (tcmKey c (q.base + 8)) (leBytes 4 ((q.bot + 2 ^ 32 - 1) % 2 ^ 32))
     (coreOf s c).mode = .running → q.log ≠ 0 → 1 ≤ dequeLen q → dequeLen q ≤ 2 ^ q.log → (coreOf s c).inbox = [] →
      (coreOf s c).spill = [] → slotFor (coreOf s c) (ctlLane (pktWord p.words 0)) = true →
      eccBad s.ecc (tcmKey c e.1) 64 = false → eccBad s.ecc (tcmKey c e.2) 16 = false →
      p = ⟨packetOf (memBytes s.mem (tcmKey c e.1) 64), BitVec.ofNat 64 (memNat s.mem (tcmKey c e.2) 8),
        BitVec.ofNat 64 (memNat s.mem (tcmKey c (e.2 + 8)) 8), none, none, true, none⟩ →
      Spawns s1 c n p a bs → exec (.dequePop c) s = .next (spawnInto (spawnMeets s1 c p.words) c n p a bs)) ∧
    (∀ m, Lands s m → m.dcore = c → m.body = .packet p →
      let m1 := { m with body := .packet { p with counted := true, status := none, stage := stageName s c p.words } }
      let enters (u : State) : Prop := (coreOf u c).inbox = (coreOf s c).inbox ++ [m1] ∧
        ∀ r, p.status = some r → m.sdev = s.pkg.dev.toNat → ∃ e ∈ u.net, e.body = .reply m.sslot r 0#64 false
      (p.counted = true → ∃ u, exec (.workPacketArrival m.uid) s = .next u ∧ enters u ∧ u.mem = s.mem) ∧
      (p.counted = false → LaunchClean s c (ctlCcid (pktWord p.words 0)) → ∀ s1, targetIncr (dropMsg s m.uid) c p = .ok s1 →
        ∃ u, exec (.workPacketArrival m.uid) s = .next u ∧ enters u ∧ u.mem = s1.mem) ∧
      (p.counted = false → LaunchClean s c (ctlCcid (pktWord p.words 0)) → ∀ st r, targetIncr (dropMsg s m.uid) c p = .error st → p.status = some r →
        exec (.workPacketArrival m.uid) s =
          .next (answer (dropMsg s m.uid) m (.reply m.sslot r (BitVec.ofNat 64 st) false))))

/-- THREADS ON THE MOVE AND THE QUEUES. A migrating thread that finds a FREE slot is placed READY there with the core as its
home, a visiting one keeps its home; a returning one is READY in its home slot. FORK_PUBLISH writes the first taken entry
that its core's mode lets it and advances BOT; FORK and ENQ append to their QCB as one claim, write and publish, and ENQ ends with its predicate
tainted, 0 from a closed or full QCB; one whose core was pre-empted after its claim publishes and sends its reply (R32, R34,
R35, R37, R197, R201, R219, R369, R376). The model's own choices in it are log 24, log 80 and log 99, the use of a QCB in the host window. -/
def Obligations.ThreadMoves : Prop :=
  ∀ (s : State) (c n : Nat) (t : Thread),
    (∀ m, Lands s m → m.dcore = c → (coreOf s c).mode = .running → (coreOf s c).inbox = [] →
      freeUserSlot (coreOf s c) = some n → launchCancelled s (partOfCore s c) t.ccid.toNat = false →
      (m.body = .migrate t → ∃ u, exec (.migrationArrival m.uid) s = .next u ∧ (slotOf u c n).st = .ready ∧
        (slotOf u c n).visitFrom = none ∧ threadOf u c n = some { t with home := BitVec.ofNat 10 (logicalOfCore s c) }) ∧
      (∀ h k g, m.body = .visit t h k g → ∃ u, exec (.migrationArrival m.uid) s = .next u ∧ (slotOf u c n).st = .ready ∧
        (slotOf u c n).visitFrom = some (h, k) ∧ threadOf u c n = some t)) ∧
    (∀ m g, Lands s m → m.dcore = c → m.body = .visitReturn t n none g →
      (∀ e ∈ (coreOf s c).visitBox, bodySlot e.body ≠ some n) → (∀ r, (slotOf s c n).wait ≠ .abort r) →
      ∃ u, exec (.visitReturn m.uid) s = .next u ∧ (slotOf u c n).st = .ready ∧ threadOf u c n = some t ∧
        (slotOf u c n).cancelled = ((slotOf s c n).cancelled || g)) ∧
    (∀ e, (coreOf s c).forkQ.find? (forkOpen (coreOf s c)) = some e → earlierAccess s c e.thread e.uid = false →
      let q := dequeOf s c
      let o := dequeEntry q q.bot
      ∃ u, exec (.forkPublish c) s = .next u ∧ (coreOf u c).forkQ = ((coreOf s c).forkQ.filter fun g => g.uid != e.uid) ∧
        u.mem = memWrite (memWrite (memWrite s.mem (tcmKey c o.1) (packetBytes e.words)) (tcmKey c o.2)
          (leBytes 8 e.a0.toNat ++ leBytes 8 e.a1.toNat)) (tcmKey c (q.base + 8)) (leBytes 4 ((q.bot + 1) % 2 ^ 32))) ∧
    (∀ x, Waits s c n x t .fork → pending s c n = false → ∀ q, openQcb s c n (launchQcb s c t) = .ok q →
      qcbClosed q = false → qcbFull q = false → q.claim = q.tail → ∀ pl, qcbPlace s c n q q.claim = .ok pl →
      LaunchClean s c t.ccid.toNat → ∀ s1, counterIncr (reissueSlot s c n) (partOfCore s c) t.ccid.toNat = .done s1 →
      let f := forkFields s c n t
      let s2 := qcbWrite (qcbSet (qcbMeets s1 c n (launchQcb s c t)) q.key 128 ((q.claim + 1) % 2 ^ 64)) pl
        (forkWords (coreOf s c) t (runWords t f.1)) (sourceId s c n) (valOf t f.2)
      let s3 := qcbSet s2 q.key 64 ((q.tail + 1) % 2 ^ 64)
      LoopOk s3 c n t t → exec (.forkAppend c n) s = .next (completed s3 c n t t 4)) ∧
    (∀ x pd qa claim b, Waits s c n x t (.enq pd qa claim b) → (∀ j ∈ s.enqs, j.core ≠ c ∨ j.slot ≠ n) →
      (b = false → ∀ q, openQcb s c n qa = .ok q →
        (qcbClosed q = true ∨ qcbFull q = true →
          let s1 := qcbSet (reissueSlot s c n) q.key 200 ((memNat s.mem (q.key + 200) 8 + 1) % 2 ^ 64)
          LoopOk s1 c n t (putPred t pd false true) →
          exec (.enqAppend c n) s = .next (completed s1 c n t (putPred t pd false true) 4)) ∧
        (qcbClosed q = false → qcbFull q = false → ∀ pl, qcbPlace s c n q q.claim = .ok pl →
          ∃ u, exec (.enqAppend c n) s = .next u ∧ (slotOf u c n).wait = .enq pd q.key q.claim true ∧
            (slotOf u c n).st = .waiting)) ∧
      (b = true → memNat s.mem (qa + 64) 8 = claim → pending s c n = false →
        let s1 := qcbSet (reissueSlot s c n) qa 64 ((claim + 1) % 2 ^ 64)
        LoopOk s1 c n t (putPred t pd true true) →
        exec (.enqAppend c n) s = .next (completed s1 c n t (putPred t pd true true) 4))) ∧
    (∀ j, s.enqs.find? (fun k => k.core == c && k.slot == n) = some j → memNat s.mem (j.qcb + 64) 8 = j.claim →
      earlierAccess s c j.tid s.uid = false →
      ∃ u, exec (.enqAppend c n) s = .next u ∧ u.enqs = s.enqs.filter (· != j) ∧
        u.mem = memWrite s.mem (j.qcb + 64) (leBytes 8 ((j.claim + 1) % 2 ^ 64)) ∧
        ∃ m ∈ u.net, m.dcore = c ∧ m.body = .enqReply n j.pd true)

/-! ## Tiles, engines, hods, the mortar network -/

/-- TILES. A filler claims the index TAIL of a ring whose window has room: its slot is FILLING and TAIL one higher. A fill whose
last byte is performed makes its tile READY, one of a hod with its rows one behind the other and zeros behind them; one that
failed makes it READY with POISON and its CAUSE. An engine command releases its references in its retirement cycle (R89, R91,
R96, R99, R101, R278). The model's own choices in it are log 24, log 26 and log 55. -/
def Obligations.TileFills : Prop :=
  ∀ (s : State),
    (∀ f : Fill, (s.fills.find? fun g => g.uid == f.uid) = some f →
      let r := ringOf (clusterOf s f.cluster) f.ring
      (f.index = none → (∀ g ∈ s.fills, g.index = none ∨ g.claimedAt ≠ s.cycle) →
        (f.byHod = false → (gceCmd s f.unit f.cmd).isSome = true) →
        (∀ p, f.byHod = true → mapFind (hodOf s f.unit).progs f.prog = some p → hodPaused s p.part = false) →
        ringOwned r f.asid = true →
        (r.tail - r.head).toNat < ringW r →
        ∃ u, exec (.fillerClaim f.uid) s = .next u ∧ u.mem = s.mem ∧
          (tileOf (clusterOf u f.cluster) (ringBase r + r.tail.toNat % ringSize r)).st = .filling ∧
          (ringOf (clusterOf u f.cluster) f.ring).tail = r.tail + 1#32 ∧
          ∃ g ∈ u.fills, g.uid = f.uid ∧ g.index = some r.tail.toNat) ∧
      (∀ i, f.index = some i → let sl := ringBase r + (BitVec.ofNat 32 i).toNat % ringSize r
        popped r (BitVec.ofNat 32 i) = false →
        (f.cause = none → f.due ≤ s.cycle → f.byHod = false →
          ∃ u, exec (.fillComplete f.uid) s = .next u ∧ u.mem = s.mem ∧ (∀ g ∈ u.fills, g.uid ≠ f.uid) ∧
            (tileOf (clusterOf u f.cluster) sl).st = .ready ∧ (tileOf (clusterOf u f.cluster) sl).poison = false) ∧
        (∀ p bs s1 s2, f.cause = none → f.due ≤ s.cycle → f.byHod = true →
          mapFind (hodOf s f.unit).progs f.prog = some p → segGuard s [(fillKey s f, 8192)] = none →
          hodRows p f f.rows s 0 = (s1, .ok bs) → tileWrites s1 p.core (fillPieces f (fillKey s f) bs) = (s2, false) →
          exec (.fillComplete f.uid) s = .next (publishFill s2 f 0)) ∧
        (∀ (p : Prog) (row : Nat → Nat), f.cause = none → f.due ≤ s.cycle → f.byHod = true →
          mapFind (hodOf s f.unit).progs f.prog = some p → f.idx = none → f.rows * f.rb ≤ 8192 →
          segGuard s [(fillKey s f, 8192)] = none → NoErrors s (fillKey s f) 8192 →
          (∀ j, j < f.rows → hodSegs s p (f.src + BitVec.ofNat 64 j * f.stride) f.rb = .ok [(row j, f.rb)] ∧
            keyStore (row j) ≠ 8 ∧ NoErrors s (row j) f.rb) →
          let at_ := fillKey s f
          ∃ u, exec (.fillComplete f.uid) s = .next u ∧ (tileOf (clusterOf u f.cluster) sl).st = .ready ∧
            (tileOf (clusterOf u f.cluster) sl).poison = false ∧
            (∀ j b, j < f.rows → b < f.rb → memByte u.mem (at_ + j * f.rb + b) = memByte s.mem (row j + b)) ∧
            (∀ b, f.rows * f.rb ≤ b → b < 8192 → memByte u.mem (at_ + b) = 0#8) ∧
            (∀ k, (k < at_ ∨ at_ + 8192 ≤ k) → memByte u.mem k = memByte s.mem k)) ∧
        (∀ k, f.cause = some k → k ≠ 0 → f.claimedAt < s.cycle →
          ∃ u, exec (.fillFailure f.uid) s = .next u ∧ (∀ g ∈ u.fills, g.uid ≠ f.uid) ∧
            (tileOf (clusterOf u f.cluster) sl).st = .ready ∧ (tileOf (clusterOf u f.cluster) sl).poison = true ∧
            (tileOf (clusterOf u f.cluster) sl).cause = BitVec.ofNat 8 k))) ∧
    (∀ (c : Nat) (x : Cmd),
      let due (y : Cmd) : Bool := y.uid == x.uid && y.core == c && y.started && !y.retired && decide (y.retireAt ≤ s.cycle)
      ((coreOf s c).active.find? due = some x → stopsAtRow x.op = false ∨ 64 ≤ x.rows →
        exec (.readerRetire c x.uid) s =
          .next (dropRefs (putActive s { x with retired := true }) (clusterOfCore c) x.refs)) ∧
      ((coreOf s c).active.find? due = some x → stopsAtRow x.op = true → x.rows < 64 →
        exec (.readerRetire c x.uid) s = .next (let p := rowsTo s x 64
          dropRefs (putActive p.1 { p.2 with retired := true }) (clusterOfCore c) p.2.refs)) ∧
      ((coreOf s c).active.find? due = none → (clusterOf s (clusterOfCore c)).active.find? due = some x →
        exec (.readerRetire c x.uid) s = .next (dropRefs (modCluster s (clusterOfCore c) fun k =>
          { k with active := k.active.map fun y => if due y then { y with retired := true } else y })
          (clusterOfCore c) x.refs)))

/-- ENGINE COMMANDS. The first command of the MXE's queue in ready mode, of the VXE's, or of a GCE's starts when its wait field,
its tiles and its engine allow: it leaves the queue and runs; one that fails a check before its reads signals 8 cycles
later. In rotation mode an MXE command starts and makes its steps at its slot's turn. A grid command steps; it stops or is
put back only at a tile boundary. A command that is due ends: its flags go to its thread, its error and then its increment
to its semaphore (R54, R55, R220, R221, R236, R242, R244, R245, R249,
R268). The model's own choices in it are log 24, log 26 and log 27. -/
def Obligations.EngineCommands : Prop :=
  ∀ (s : State) (c : Nat) (x : Cmd) (rest : List Cmd),
    let k := coreOf s c
    let g := clusterOf s c
    let runs (y : Cmd) : Prop := y.uid = x.uid ∧ y.op = x.op ∧ y.started = true
    (k.rot = false → rowsStopped k = false → k.mxeq = x :: rest → x.core = c → mayStart s x = true → k.mxeFree ≤ s.cycle →
      ∃ u, exec (.mxeCommandStart c) s = .next u ∧ (coreOf u c).mxeq = rest ∧ ∃ y ∈ (coreOf u c).active, runs y ∧
        (y.retired = true → y.err ≠ none → y.due = s.cycle + 8)) ∧
    (k.vxeq = x :: rest → x.core = c → mayStart s x = true → k.vxeFree ≤ s.cycle →
      ∃ u, exec (.vxeCommandStart c) s = .next u ∧ (coreOf u c).vxeq = rest ∧ ∃ y ∈ (coreOf u c).active, runs y ∧
        (y.retired = true → y.err ≠ none → y.due = s.cycle + 8)) ∧
    (nextGce s c = some x → clusterOfCore x.core = c → x.started = false → mayStart s x = true → g.gceFree ≤ s.cycle →
      (∀ y ∈ g.active, gceStepping y = false) →
      ∃ u, exec (.gceCommandStart c) s = .next u ∧ (∀ y ∈ (clusterOf u c).gceq, y.uid ≠ x.uid) ∧
        ∃ y ∈ (clusterOf u c).active, runs y) ∧
    (let e := rotEntry k (turnOf s)
     let stepped (y : Cmd) : State :=
       let later (d : Send) : Send := if d.direct then d else { d with next := max d.next (s.cycle + 1) }
       putActive (modCore s c fun z =>
         { z with mxeFree := s.cycle + 1, sends := z.sends.map fun d => if d.1 = y.uid then (d.1, later d.2) else d })
         (stepCmd s.cycle y)
     (∀ u, rowsHeld s k = some u → exec (.mxeStep c) s = .next u) ∧
     (rowsHeld s k = none → k.rot = true → k.mxeFree ≤ s.cycle →
       (isHeldMode k.mode = true → (k.active.find? fun y => stepsLeft y && runsOut y) = some x →
         exec (.mxeStep c) s = .next (stepped x)) ∧
       (isHeldMode k.mode = false → e.getLsbD 15 = true →
         ((k.active.find? fun y => stepsLeft y && y.slot == bits e.toNat 7 0) = some x →
           exec (.mxeStep c) s = .next (stepped x)) ∧
         ((∀ y ∈ k.active, stepsLeft y = false ∨ y.slot ≠ bits e.toNat 7 0) → x.core = c →
           (k.mxeq.find? fun y => y.slot == bits e.toNat 7 0) = some x → mayStart s x = true → laneBlocked k x = false →
           ∃ u, exec (.mxeStep c) s = .next u ∧ (∀ y ∈ (coreOf u c).mxeq, y.uid ≠ x.uid) ∧
             ∃ y ∈ (coreOf u c).active, runs y)))) ∧
    ((g.active.find? gceStepping) = some x → g.gceFree ≤ s.cycle →
      let per := (gridCount x).2
      let held := isHeldMode (coreOf s x.core).mode
      let fs := tileFills s x (x.steps / per)
      (x.stop = true → x.steps % per = 0 → exec (.gceStep c) s = .next (stopGrid s x)) ∧
      (x.stop = false → held = true → x.steps % per = 0 → exec (.gceStep c) s = .next (parkGrid s x)) ∧
      (x.stop = false → held = false → x.fills = true → x.steps % per = 0 → x.rows ≤ x.steps / per →
        (∃ p ∈ x.members.zipIdx, x.fail.testBit p.2 = false) →
        exec (.gceStep c) s = .next (openTile s x (x.steps / per))) ∧
      (∀ gr, x.stop = false → held = false → x.fills = false ∨ x.steps % per ≠ 0 → (∀ f ∈ fs, f.index ≠ none) →
        x.poison = none → gridOf x = .ok gr → exec (.gceStep c) s = .next (gridStep s x gr))) ∧
    (activeCmd s c x.uid = some x → x.core = c → x.started = true → x.retired = true → x.due ≤ s.cycle → x.err = none →
      x.x.inc.toNat ≠ 0 → writesOut s (cmdTid s x) = false → SignalsNow s x →
      let s1 := x.report (dropActive s c x.uid)
      ((cmdCode x.op).1 = 0 → exec (.mxeCommandComplete c x.uid) s =
        .next (semAdd s1 c x.x.sigSem.toNat x.x.inc.toNat)) ∧
      ((cmdCode x.op).1 = 1 → exec (.vxeCommandComplete c x.uid) s =
        .next (semAdd s1 c x.x.sigSem.toNat x.x.inc.toNat))) ∧
    (gceCmd s c x.uid = some x → gceStepping x = false → x.retired = true → x.due ≤ s.cycle → fillsOf s x.uid = [] →
      writesOut s (cmdTid s x) = false → SignalsNow s x →
      let s1 := modCluster s c fun y => { y with active := y.active.filter fun z => z.uid != x.uid }
      (isMcast x.op = false → x.err = none → x.x.inc.toNat ≠ 0 →
        exec (.gceCommandComplete c x.uid) s = .next (semAdd s1 x.core x.x.sigSem.toNat x.x.inc.toNat)) ∧
      (isMcast x.op = true → exec (.gceCommandComplete c x.uid) s =
        .next (x.signal (mcastEnd s1 x).1 (mcastEnd s1 x).2)))

/-- HOD PROGRAMS COME AND GO. The hod interface passes a HODRUN on to its hod and carries out a HODSTOP in issue order; a hod
begins its oldest request while fewer than 32 programs run, the program at its address with h0 and h1 from the command
and the other registers 0; a program of the same ASID and TAG that runs refuses it. A program that has ended signals once
its fills are READY and its HSIGs applied (R271 to R273). The model's own choices in it are log 24 and log 40. -/
def Obligations.HodPrograms : Prop :=
  ∀ (s : State) (c h : Nat) (x : Cmd) (b : Bundle),
    (∀ rest, (coreOf s c).hodq = x :: rest → x.core = c → mayStart s x = true →
      let s1 := wakeQueue (modCore s c fun k => { k with hodq := rest }) x
      (x.op = .hodrun b → progAddrErr s1 x = none →
        ∃ u q, exec (.hodInterfaceStart c) s = .next u ∧ (coreOf u c).hodq = rest ∧
          q.cmd = { x with retireAt := s.cycle } ∧ s.cycle < q.due ∧
          (hodOf u x.hodNum).queue = (hodOf s x.hodNum).queue ++ [q]) ∧
      (x.op = .hodstop b → exec (.hodInterfaceStart c) s = .next (x.signalMsg (stopHods s1 (stopNames x)) none))) ∧
    (∀ q, (hodOf s h).queue.find? (fun r => decide (r.due ≤ s.cycle)) = some q → h < availHods s →
      (runningProgs (hodOf s h)).length < 32 →
      ((∀ p ∈ runningProgs (hodOf s h), p.2.asid ≠ q.cmd.asid ∨ p.2.tag ≠ q.cmd.hodTag) →
        ∃ u n p, exec (.hodProgramBegin h) s = .next u ∧ mapFind (hodOf u h).progs n = some p ∧ p.pc = q.cmd.a ∧
          p.asid = q.cmd.asid ∧ p.tag = q.cmd.hodTag ∧ p.h[0] = q.cmd.b ∧ p.h[1] = q.cmd.x.w7 ++ q.cmd.x.w6 ∧
          (∀ i : Fin 8, 2 ≤ i.val → p.h[i] = 0#64) ∧ p.stack = [] ∧ p.ended = false) ∧
      ((∃ p ∈ runningProgs (hodOf s h), p.2.asid = q.cmd.asid ∧ p.2.tag = q.cmd.hodTag) →
        ∃ u, exec (.hodProgramBegin h) s = .next u ∧ (hodOf u h).progs = (hodOf s h).progs ∧
          ∃ m ∈ u.net, ∃ e, m.dcore = q.cmd.core ∧ e.cause = 0x2E ∧
            m.body = .signal q.cmd.x.sigSem.toNat q.cmd.x.inc.toNat (some e) q.cmd.uid)) ∧
    (∀ n p, mapFind (hodOf s h).progs n = some p → p.ended = true → progFills s h n = false →
      (∀ g ∈ p.sigs, sigPending s g.1 = false) →
      ∃ u, exec (.hodrunComplete h n) s = .next u ∧ (hodOf u h).progs = mapErase (hodOf s h).progs n ∧
        ∃ m ∈ u.net, m.dcore = p.cmd.core ∧ m.ddev = s.pkg.dev.toNat ∧
          m.body = .signal p.cmd.x.sigSem.toNat p.cmd.x.inc.toNat (p.err.map DefErr.info) p.cmd.uid)

/-- MORTAR. An MNI command starts; CHOPEN opens its chain with its generation, and a join is accepted where the chain is
open for its ASID, its position is free and it has what it needs, else refused with its reason; the reply binds or ends
CHJOIN; admission, beats and their acknowledgement go on as R289 to R294 say; a beat of another generation is answered with
an eviction notice, which is acknowledged (R288, R289, R292 to R294, R304). The model's own choices in it are log 24, log 72
and log 91, by which stored rows are applied one a cycle before a beat and a chain with its last row is COMPLETE in the next. -/
def Obligations.MortarEvents : Prop :=
  ∀ (s : State) (c : Nat),
    let sends (u : State) (d : Nat) (b : MsgBody) : Prop :=
      ∃ m ∈ u.net, m.ddev = s.pkg.dev.toNat ∧ m.dcore = d ∧ m.net = .mortar ∧ m.body = b
    (∀ x rest b, (coreOf s c).mniq = x :: rest → x.core = c → mayStart s x = true → mniRuns (coreOf s c) = false →
      (coreOf s c).mniFree ≤ s.cycle → x.op = .chopen b → x.x = b →
      let n := fld b.w5 3 0
      let q := fld b.w5 11 10
      (chainOf s c n).st = 0 → b.flag 0 = true → q ≤ 2 → quarterUsed s c q = false → quarterUsed s c (q + 1) = false →
      ∃ u, exec (.mniCommandStart c) s = .next u ∧ (coreOf u c).mniq = rest ∧
        let h := chainOf u c n
        h.st = 1 ∧ h.fix = true ∧ h.gen = (chainOf s c n).gen ∧ h.n = fld b.w5 23 16 + 1 ∧ h.base = b.chBase ∧
          h.csem = fld b.w5 31 24 ∧ h.asid = x.asid ∧ quarterUsed u c q = true ∧ quarterUsed u c (q + 1) = true) ∧
    (∀ m, arrived s m.uid = some m → m.dcore = c → m.ddev = s.pkg.dev.toNat →
      (∀ b n p g, m.body = .joinReq b n p g →
        let h := chainOf s c n
        ∃ u, exec (.joinRequestArrival m.uid) s = .next u ∧
          (h.st = 1 → h.asid = m.asid → p < h.n → (∀ j ∈ h.joined, j.1 ≠ p) → (h.fix = true ∨ g = true) →
            (∃ ad, (chainOf u c n).joined = h.joined ++ [(p, m.score, b, ad)] ∧
              sends u m.score (.joinReply b h.gen.toNat none ad h.fix))) ∧
          (let refused (r : Nat) : Prop := sends u m.score (.joinReply b h.gen.toNat (some r) false h.fix)
           (h.st ≠ 1 ∨ h.asid ≠ m.asid → refused 1) ∧
           (h.st = 1 → h.asid = m.asid → h.n ≤ p → refused 2) ∧
           (h.st = 1 → h.asid = m.asid → p < h.n → (∃ j ∈ h.joined, j.1 = p) → refused 3) ∧
           (h.st = 1 → h.asid = m.asid → p < h.n → (∀ j ∈ h.joined, j.1 ≠ p) → h.fix = false → g = false → refused 4))) ∧
      (∀ b g ad f, m.body = .joinReply b g none ad f → ∀ x, joinCmd s c b = some x →
        ∃ u, exec (.joinReplyArrival m.uid) s = .next u ∧
          mapFind (coreOf u c).binds b = some (boundBy x m.score g ad f)) ∧
      (∀ n p g, m.body = .admission n p g →
        ∃ u, exec (.admissionArrival m.uid) s = .next u ∧
          ∀ b ∈ (coreOf u c).binds, isBinding b.2 m.score n p g = true → b.2.admitted = true) ∧
      (∀ n p g r v, m.body = .beat n p g r v →
        ((chainOf s c n).st ≠ 1 ∨ (chainOf s c n).gen.toNat ≠ g →
          ∃ u, exec (.beatArrival m.uid) s = .next u ∧ sends u m.score (.evictNotice n p g)) ∧
        ((chainOf s c n).st = 1 → (chainOf s c n).gen.toNat = g → (coreOf s c).lastBeat ≠ some s.cycle →
          let t := acceptBeat (modCore (dropMsg s m.uid) c fun k => { k with lastBeat := some s.cycle }) c n p r v
          (mapGet 0 (chainOf s c n).accepted p ≠ 63 → exec (.beatArrival m.uid) s = .next t) ∧
          (mapGet 0 (chainOf s c n).accepted p = 63 → ∃ u, exec (.beatArrival m.uid) s = .next u ∧ u.cores = t.cores ∧
            sends u m.score (.beatAck n p g)))) ∧
      (∀ n p g, m.body = .beatAck n p g → ∀ uid d x,
        ((coreOf s c).sends.find? fun e => isBinding e.2.bind m.score n p g) = some (uid, d) →
        let s1 := dropSend (dropMsg s m.uid) c uid d
        activeCmd s1 c uid = some x → exec (.beatAckArrival m.uid) s =
          .next (divertSignal (dropActive s1 c uid) c x.asid x.x.sigSem.toNat x.x.inc.toNat none)) ∧
      (∀ n p g, m.body = .evictNotice n p g → ∃ u, exec (.evictionNoticeArrival m.uid) s = .next u ∧
        sends u m.score (.evictAck n p g) ∧
        ∀ b ∈ (coreOf u c).binds, isBinding b.2 m.score n p g = true → b.2.evicted = true) ∧
      (∀ n p g, m.body = .evictAck n p g →
        exec (.evictionAckArrival m.uid) s = .next (ackEviction (dropMsg s m.uid) c n p g)) ∧
      (∀ n cmd, m.body = .chevictReq n cmd → ∃ u, exec (.chevictRequestArrival m.uid) s = .next u ∧
        ((chainOf s c n).st ≠ 0 → (chainOf u c n).st = 0 ∧ (chainOf u c n).gen = (chainOf s c n).gen + 1#8) ∧
        ((chainOf s c n).st = 0 → sends u m.score (.chevictDone cmd)))) ∧
    (∀ n uid d r v rest, (coreOf s c).sends.find? (fun e => e.2.num == n && sendReady s c e.1 e.2) = some (uid, d) →
      d.rows = (r, v) :: rest → (∀ q, d.direct = false → d.bind.stg = some q → NoErrors s (mortarKey c (32768 * q + 512 * r)) 512) →
      ∃ u, exec (.stagedBeatSend c n) s = .next u ∧
        sends u d.bind.core (.beat d.bind.chain d.bind.pos d.bind.gen r v) ∧
        mapFind (coreOf u c).sends uid = some { d with rows := rest, next := s.cycle + 1 }) ∧
    (∀ n, (coreOf s c).lastApply ≠ some s.cycle → (coreOf s c).lastBeat ≠ some s.cycle → (chainOf s c n).st = 1 →
      ((chainOf s c n).done = (chainOf s c n).n →
        ∃ u, exec (.storedRowApply c n) s = .next u ∧ (chainOf u c n).st = 2) ∧
      (∀ e, (chainOf s c n).done ≠ (chainOf s c n).n →
        ((chainOf s c n).stored.find? fun q => rowReady (chainOf s c n) q.1 q.2.1) = some e →
        exec (.storedRowApply c n) s = .next (applyRow
          (putChain (modCore s c fun k => { k with lastApply := some s.cycle }) c n
            { chainOf s c n with stored := (chainOf s c n).stored.filter (· != e) }) c n e.1 e.2.1 e.2.2)))

/-- A FIX CELL. A contribution that is a NaN or infinite sets its flag; any other that is not −0 sets NZ, and adds its magnitude
in units of 2^B to S with its sign, cut to 2^86 − 1 or rounded down where it lies outside the window, and OUT then says so.
Cells start at zero; after at most 256 contributions S is below 2^94; and contributions give the same cell in whatever order
they arrive (R296). -/
def Obligations.FixCells : Prop :=
  (∀ (b : Int) (k : Int × BitVec 5) (x : Nat),
    (ffA34.value x = .nan → cellAdd b k x = (k.1, k.2 ||| 16#5)) ∧
    (ffA34.value x = .inf false → cellAdd b k x = (k.1, k.2 ||| 8#5)) ∧
    (ffA34.value x = .inf true → cellAdd b k x = (k.1, k.2 ||| 4#5)) ∧
    (∀ (neg : Bool) (m : Nat) (e : Int), ffA34.value x = .fin neg m e →
      let v : ℚ := m * (2 : ℚ) ^ (e - b)
      let w : Int := if 2 ^ 86 ≤ v then 2 ^ 86 - 1 else ⌊v⌋
      (cellAdd b k x).1 = k.1 + (if neg = true then -w else w) ∧
      (cellAdd b k x).2 = k.2 ||| (if neg = true ∧ m = 0 then 0#5 else 2#5) |||
        (if v = w then 0#5 else 1#5))) ∧
  (∀ i, mapGet (0, 0#5) Chain.free.cells i = (0, 0#5)) ∧
  (∀ (b : Int) (cells : SMap (Int × BitVec 5)) (row : Nat) (vals : List Nat) (j : Nat) (x : Nat), vals[j]? = some x →
    mapGet (0, 0#5) (fixRow b cells row vals) (64 * row + j) = cellAdd b (mapGet (0, 0#5) cells (64 * row + j)) x) ∧
  (∀ (b : Int) (l : List Nat), l.length ≤ 256 → (l.foldl (cellAdd b) (0, 0#5)).1.natAbs < 2 ^ 94) ∧
  (∀ (b : Int) (k : Int × BitVec 5) (l r : List Nat), l.Perm r → l.foldl (cellAdd b) k = r.foldl (cellAdd b) k)

/-! ## The core and the package -/

/-- PRE-EMPTION AND HOLDS. A PREEMPT of its partition's running core whose descriptor is accepted stops the core with its user
slots HELD; once its drains end the queued commands leave with the context; the save ends with the image and the
descriptor's words written, the user slots FREE and the semaphores clear, and answers SIZE and STATUS 0; a request for a
held core answers STATUS 1. RESUME of a pre-empted core restores once the guest has left; DBGHALT holds a running core, and a
RESUME returns it to the mode that it had (R343, R347, R380 to R386). The model's own choices in it are log 22, log 24 and log 57. -/
def Obligations.Preemption : Prop :=
  ∀ (s : State) (c : Nat),
    let k := coreOf s c
    let answers (u : State) (m : Msg) (n r bytes st : Nat) : Prop :=
      ∃ e ∈ u.net, e.ddev = m.sdev ∧ e.dcore = m.score ∧ e.body = .reply n r (BitVec.ofNat 64 (bytes * 2 ^ 32 + st)) false
    (∀ m, arrived s m.uid = some m → findMsg s m.uid = some m → m.dcore = c → m.sdev = s.pkg.dev.toNat →
      m.part = (partOfCore s c).getD 64 →
      let u0 := wakeIdle (dropMsg s m.uid) c
      (∀ n r desc a, m.body = .preempt n r desc a → k.op = none →
        (k.mode = .running → (∀ key, descKey u0 c a desc = some key → NoErrors s key 64 ∧
            AttrClean u0 c (memNat s.mem (key + 16) 2)) → ∀ o, preemptOp u0 m desc a = some o →
          ∃ u, exec (.preemptArrival m.uid) s = .next u ∧ (coreOf u c).mode = .stopping ∧ (coreOf u c).op = some o ∧
            ∀ y ∈ (coreOf u c).slots, 4 ≤ y.1 → y.2.isHeld = true) ∧
        (k.mode ≠ .running → ∃ u, exec (.preemptArrival m.uid) s = .next u ∧ (coreOf u c).mode = k.mode ∧
          answers u m n r 0 1)) ∧
      (∀ n r desc a, m.body = .resume n r desc a → k.op = none →
        (k.mode = .preempted → desc ≠ 0#64 → ∃ u o, exec (.resumeArrival m.uid) s = .next u ∧
          (coreOf u c).op = some o ∧ o.req = m ∧ (coreOf u c).mode = .preempted) ∧
        (k.mode = .debugHalt → desc = 0#64 → ∃ u, exec (.resumeArrival m.uid) s = .next u ∧
          (coreOf u c).mode = k.haltMode ∧ answers u m n r 0 0 ∧
          ∀ y ∈ (coreOf u c).slots, y.1 < 4 ∨ k.haltMode ≠ .restoring → y.2.isHeld = false)) ∧
      (∀ n r, m.body = .debugHalt n r → k.mode = .running →
        ∃ u, exec (.debugHaltArrival m.uid) s = .next u ∧ (coreOf u c).mode = .debugHalt ∧ answers u m n r 0 0 ∧
          ∀ y ∈ (coreOf u c).slots, y.2.isHeld = true)) ∧
    (∀ o, k.op = some o →
      (k.mode = .stopping → o.due ≤ s.cycle → saveWaits s c = false →
        ∃ u, exec (.saveBegin c) s = .next u ∧ (coreOf u c).mode = .saving ∧ (coreOf u c).mxeq = [] ∧
          (coreOf u c).vxeq = [] ∧ (coreOf u c).hodq = [] ∧ (coreOf u c).mniq = [] ∧ u.mem = s.mem ∧
          ∀ y ∈ k.mxeq ++ k.vxeq ++ k.hodq ++ k.mniq, y ∈ (coreOf u c).savedCmds) ∧
      (k.mode = .saving → o.due ≤ s.cycle → o.req.sdev = s.pkg.dev.toNat → ∀ n r desc a, o.req.body = .preempt n r desc a →
        ∃ u, exec (.saveComplete c) s = .next u ∧ (coreOf u c).mode = .preempted ∧ (coreOf u c).sems = [] ∧
          (coreOf u c).guestAsid = some o.launchAsid ∧ (∀ y ∈ (coreOf u c).slots, 4 ≤ y.1 → y.2.st = .free) ∧
          answers u o.req n r o.bytes 0 ∧ u.mem = (writeImage s c o).mem) ∧
      (k.mode = .preempted → guestGone s c = true →
        (∀ n r desc a key, o.req.body = .resume n r desc a → descKey s c a desc = some key → NoErrors s key 64) →
        ∀ a n, resumeImage s c o.req = some (a, n) →
        ∃ u o1, exec (.restoreBegin c) s = .next u ∧ (coreOf u c).mode = .restoring ∧ (coreOf u c).op = some o1 ∧
          o1.image = a ∧ o1.bytes = n ∧ o1.req = o.req) ∧
      (k.mode = .restoring → o.due ≤ s.cycle → o.req.sdev = s.pkg.dev.toNat → ∀ n r desc a, o.req.body = .resume n r desc a →
        ∃ u, exec (.restoreComplete c) s = .next u ∧ (coreOf u c).mode = .running ∧ (coreOf u c).op = none ∧
          (coreOf u c).savedSlots = [] ∧ answers u o.req n r o.bytes 0))

/-- THE MONITOR AND THE REST OF A CORE. A spilled entry comes back in arrival order once its core runs; the watchdog fires once
its count is reached, with its trace record; patrol scrub reads its granule as a read does; a thermal trip of a fixed
island raises an alert; a clock stops with no slot READY; a page walk adds its translation and its access goes again; a
kill fence begins, and ends by filling rd of its KILL with its count (R188, R336, R342, R345, R354, R366, R386, R388,
R416). The model's own choices in it are log 24, log 31, log 60 and log 61. -/
def Obligations.CoreEvents : Prop :=
  ∀ (s : State) (c : Nat),
    let k := coreOf s c
    (∀ m rest, k.mode = .running → k.spill = m :: rest → k.spillNext ≤ s.cycle →
      bodyQueues m.body = false ∨ k.inbox.length < Config.inboxSize →
      exec (.spillQueueDelivery c) s = .next (deliverSpilled (modCore s c fun y =>
        { y with spill := rest, draining := y.draining && !rest.isEmpty, spillNext := s.cycle + 1 }) m)) ∧
    (k.qwd ≠ 0#64 → k.wdFired = false → k.qwd.toNat ≤ k.wdCount →
      ∃ u, exec (.quiescenceWatchdogFire c) s = .next u ∧ (coreOf u c).wdFired = true ∧ u.mem = s.mem ∧
        (coreOf u c).traceCount = k.traceCount + 1) ∧
    (∀ g, k.scrub ≠ 0#32 → g < 32768 → exec (.patrolScrub c g) s = .next (eccRead s c (tcmKey c (8 * g)) 8).1) ∧
    (∀ g, k.scrub ≠ 0#32 → 32768 ≤ g → g < 98304 →
      exec (.patrolScrub c g) s = .next (eccRead s c (acmKey c 0 0 0 + 8 * (g - 32768)) 8).1) ∧
    (c < 1024 → k.rot = true → ∃ u, exec (.thermalTrip c) s = .next u ∧ u.pkg.alerts = s.pkg.alerts ++ [c]) ∧
    (k.rot = false → k.clockStopped = false → (∀ y ∈ k.slots, y.2.st = .free ∨ y.2.st = .waiting) →
      exec (.islandClockStop c) s = .next (modCore s c fun y => { y with clockStopped := true })) ∧
    (∀ w n, (s.walks.find? fun y => y.uid == w.uid) = some w → w.due ≤ s.cycle → w.core = c → walkFollows s w = false →
      (slotOf s c w.slot).wait = .walk w.uid n →
      let s0 := walkMeets s c (partOfCore s c) w.asid w.va.toNat
      let s1 := { s0 with walks := s0.walks.filter fun y => y.uid != w.uid }
      (∀ leaf lv, walkTables s (partOfCore s c) w.asid w.va.toNat = .ok (leaf, lv) →
        exec (.pageWalk w.uid) s = .next (reissueSlot
          (modCore s1 c fun y => { y with tlb := y.tlb ++ [tlbOf w.asid w.va.toNat leaf lv] }) c w.slot)) ∧
      (∀ lv st, walkTables s (partOfCore s c) w.asid w.va.toNat = .error (lv, st) →
        exec (.pageWalk w.uid) s = .next (takeTrap (reissueSlot s1 c w.slot) c w.slot
          (trapInfo 0x07 w.va (BitVec.ofNat 64 (walkDetail lv st))) none))) ∧
    (∀ q, (s.kills.find? fun y => y.uid == q.uid) = some q → q.due ≤ s.cycle →
      (q.begun = false → exec (.killFence q.uid) s = .next (killBegin s q)) ∧
      (q.begun = true → killedMsgs s q = [] → killWaits s q = false →
        ∃ u, exec (.killFence q.uid) s = .next u ∧ (∀ y ∈ u.kills, y.uid ≠ q.uid) ∧
          ∀ d n r t, q.issuer = some (d, n, r) → r < 10 → threadOf s d n = some t →
            ∃ t1, threadOf u d n = some t1 ∧ regOf t1 r = ⟨BitVec.ofNat 64 q.count, true, false⟩))

/-- PARTITION COMMANDS. A command that is written while none runs starts: it is BUSY with it, and it is checked: from a state
that it does not start from it has STATUS 1, and HALT and RESET hold the partition's cores. Its completion writes STATUS,
clears BUSY and leaves the partition RUNNING after BIND, CONT and RESET, HALTED after HALT and SWAPIN, SWAPPED after SWAPOUT
and UNBOUND after UNBIND; RESET and UNBIND first begin a kill fence for every live ASID of the partition (R358, R359, R362 to
R365). The model's own choices in it are log 23, log 28, log 29 and log 30. -/
def Obligations.PartitionCommands : Prop :=
  ∀ (s : State),
    (∀ (i : Instr) (p : BitVec 6) (op : Nat) (states : List Nat), partLine i = some (p, op, states) → partBusy s = false →
      ∃ u c, exec i s = .next u ∧ (partOf u p.toNat).cmd = some c ∧ c.op = op ∧ c.phase = 1 ∧ s.cycle < c.due ∧
        c.status = refusalStatus s p.toNat op ∧ u.mem = s.mem ∧
        ((partOf s p.toNat).st ∉ states → c.status = 1 ∧ u.cores = s.cores ∧
          (partOf u p.toNat).st = (partOf s p.toNat).st) ∧
        (c.status = 0 → op = 2 ∨ op = 6 → ∀ k ∈ coresOfPart s p.toNat, (coreOf s k).mode = .running →
          (coreOf u k).mode = .partHalt)) ∧
    (∀ p : BitVec 6, partBusy s = false →
      exec (.selectOnly p) s = .next { s with pkg := { s.pkg with partSel := p, partOp := 0#3 } }) ∧
    (∀ (p : Nat) (c : PartCmd), (partOf s p).cmd = some c → c.phase ≠ 0 → c.due ≤ s.cycle →
      let ends (st : Nat) : Prop := ∃ u, exec (.partitionCommandComplete p) s = .next u ∧ (partOf u p).cmd = none ∧
        u.pkg.partStatus = BitVec.ofNat 8 c.status ∧ (partOf u p).st = st
      let still := (∀ k ∈ coresOfPart s p, holdable (coreOf s k) = false) ∧ halted s p = true
      (c.status ≠ 0 → ends (partOf s p).st) ∧
      (c.status = 0 →
        (c.op = 1 → ends 1) ∧ (c.op = 2 → still → ends 2) ∧ (c.op = 3 → ends 1) ∧ (c.op = 4 → ends 3) ∧
        (c.op = 5 → ends 2) ∧ (c.op = 6 → c.phase = 2 → fencing s p = false → ends 1) ∧
        (c.op = 7 → c.phase = 2 → fencing s p = false → ends 0) ∧
        (c.op = 2 ∨ c.op = 6 ∧ c.phase = 1 → (∃ k ∈ coresOfPart s p, holdable (coreOf s k) = true) →
          exec (.partitionCommandComplete p) s = .next (holdCores s p)) ∧
        (c.phase = 1 → c.op = 6 ∧ still ∨ c.op = 7 → ∃ u, exec (.partitionCommandComplete p) s = .next u ∧
          (partOf u p).cmd = some { c with phase := 2 } ∧ ∀ a ∈ liveAsids s p, ∃ q ∈ u.kills, q.asid = a ∧ q.part = p)))

/-- COUNTER COMMANDS. Where the records that a command reads carry no soft errors: CREATE, in a table without uncorrectable
errors, of a free counter under an open parent of the next level writes its record and raises the parent's COUNT, and no other
counter changes; FREE of a completed counter clears it; CANCEL of an open counter without children makes it CANCELLING and
cancels the threads of its launch; the refusals change no counter and give their STATUS (R39, R41, R372, R373). The model's own
choices in it are log 23 and log 67. -/
def Obligations.CounterCommands : Prop :=
  ∀ (s : State) (part : BitVec 6) (id : BitVec 16), id ≠ 0#16 → NoErrors s (counterKey s part.toNat id.toNat) 8 →
    let p := some part.toNat
    let w := counterRead s p id.toNat
    let answers (i : Instr) (st : Nat) : Prop := exec i s = .next { s with ctrStatus := st }
    (∀ (level : BitVec 8) (parent : BitVec 16) (count : BitVec 32),
      (parent = 0#16 ∨ NoErrors s (counterKey s part.toNat parent.toNat) 8) →
      let v := counterRead s p parent.toNat
      let create := Instr.create part level id parent count
      (1 ≤ level.toNat → level.toNat ≤ 4 → cntLevel w ≠ 0 → answers create 2) ∧
      (level.toNat = 4 → cntLevel w = 0 → parent ≠ 0#16 → answers create 3) ∧
      (1 ≤ level.toNat → level.toNat ≤ 3 → cntLevel w = 0 →
        counterOpen s p parent.toNat = false ∨ cntLevel v ≠ level.toNat + 1 → answers create 3) ∧
      (level.toNat = 0 ∨ 5 ≤ level.toNat → answers create 4) ∧
      (1 ≤ level.toNat → level.toNat ≤ 3 → cntLevel w = 0 → counterOpen s p parent.toNat = true →
        cntLevel v = level.toNat + 1 → cntCount v = 2 ^ 32 - 1 → answers create 5) ∧
      (cntLevel w = 0 → eccBad s.ecc (counterKey s part.toNat 0) 524288 = false →
        level.toNat = 4 ∧ parent = 0#16 ∨ 1 ≤ level.toNat ∧ level.toNat ≤ 3 ∧ counterOpen s p parent.toNat = true ∧
          cntLevel v = level.toNat + 1 ∧ cntCount v < 2 ^ 32 - 1 →
        ∃ u, exec create s = .next u ∧ u.ctrStatus = 0 ∧
          counterRead u p id.toNat = cntWord false level.toNat 0 parent.toNat count.toNat ∧
          (level.toNat ≤ 3 → counterRead u p parent.toNat = v + 1) ∧
          ∀ k, k < 65536 → k ≠ id.toNat → k ≠ parent.toNat → counterRead u p k = counterRead s p k)) ∧
    (cntLevel w ≠ 0 → cntState w = 1 ∨ cntState w = 3 →
      answers (.cancel part id) 1 ∧
      ∃ u, exec (.free part id) s = .next u ∧ u.ctrStatus = 0 ∧ counterRead u p id.toNat = 0) ∧
    (cntLevel w ≠ 0 → cntState w = 0 ∨ cntState w = 2 → answers (.free part id) 3) ∧
    (cntLevel w = 0 → answers (.free part id) 2 ∧ answers (.cancel part id) 2) ∧
    (cntLevel w ≠ 0 → cntState w = 0 → cntCount w ≠ 0 → counterChildren s part.toNat id.toNat = [] →
      ∃ u, exec (.cancel part id) s = .next u ∧ u.ctrStatus = 0 ∧
        counterRead u p id.toNat = cntWord (cntErr w) (cntLevel w) 2 (cntParent w) (cntCount w) ∧
        ∀ c n t, partOfCore s c = p → 4 ≤ n → (slotOf s c n).thread = some t → t.ccid = id → (slotOf s c n).st ≠ .free →
          (slotOf u c n).cancelled = true)

/-- THE HOST AND BOOT. Each mailbox command answers with its OP, TAG, STATUS and results: IDENT fabcfg and tstat; TIMEGET
device time and the LHL timestamp; CHALT holds a running core and CRESUME ends its debug halt where dbgctl.HOST is 1; RESYNC
writes the summary at the address or answers the size it needs; COUNTER carries out its block for a bound partition; an OP
that is not listed answers 0xFF; BUSY is 1 until the response is written; while it is 1 each command is discarded with OVR
set, which a host write of 1 to it clears. A host access within a range of hacl stores or reads HBM, outside one it reads
zeros and changes no memory; a host append claims a position of a QCB with room and writes its packet, and a closed or full
one refuses it. Boot leaves the status of the first step that fails, with the clearing of the steps before it, or status 1
with the mailbox open and no partition bound (R347, R369, R373, R396, R406, R408, R410, R417). The model's own choices in it
are log 13, log 38 and log 39. -/
def Obligations.HostInterface : Prop :=
  (∀ (s : State) (tag core op : BitVec 16) (part : BitVec 8) (a lo hi : Word) (len : BitVec 32),
     let padded (bs : List Byte) : List Byte := bs ++ List.replicate (56 - bs.length) 0#8
     let took (op : Nat) (args : List Byte) : State :=
       { s with pkg := { s.pkg with cmdArea := leBytes 2 op ++ leBytes 2 tag.toNat ++ leBytes 4 0 ++ padded args } }
     let tells (u v : State) (op st : Nat) (bs : List Byte) : Prop := ∃ due, s.cycle < due ∧
       u = { v with
         uid := v.uid + 1,
         pkg := { v.pkg with busy := true, mbox := some (leBytes 2 op ++ leBytes 2 tag.toNat ++ leBytes 4 st ++ padded bs, due) } }
     (s.pkg.busy = true → ∀ i ∈ [Instr.ident tag, .resync tag a len, .chalt tag core, .cresume tag core, .timeget tag,
         .counter tag part lo hi, .unlistedMailboxOp op tag, .mailboxOverrun 0x40#12 a],
       op.toNat = 0 ∨ 7 ≤ op.toNat → exec i s = .next { s with pkg := { s.pkg with ovr := true } }) ∧
     (exec (.mailboxOverrun 0xFC0#12 a) s = .next { s with pkg := { s.pkg with ovr := s.pkg.ovr && !a.getLsbD 1 } }) ∧
     (∀ bs due, s.pkg.mbox = some (bs, due) → due ≤ s.cycle → ∃ u, mailboxEnd s = some u ∧ u.pkg.resp = bs ∧
       u.pkg.busy = false ∧ u.pkg.mbox = none ∧ u.pkg.irqs = s.pkg.irqs + 1 ∧ u.cores = s.cores ∧ u.mem = s.mem) ∧
     (s.pkg.busy = false →
       let k := coreOf s core.toNat
       (∀ j, j < 8 → s.pkg.cmdArea.length = 64 → ∃ u, exec (.mailboxOverrun (BitVec.ofNat 12 (8 * j)) a) s = .next u ∧
         fieldAt u.pkg.cmdArea (8 * j) 8 = a.toNat ∧ u.pkg.busy = false ∧ u.cores = s.cores ∧ u.mem = s.mem) ∧
       (let r := areaCommand s
        exec (.mailboxOverrun 0x40#12 a) s =
          .next (respond r.1 (fieldAt s.pkg.cmdArea 0 2) (fieldAt s.pkg.cmdArea 2 2) r.2)) ∧
       (∃ u, exec (.ident tag) s = .next u ∧
         tells u (took 1 []) 1 0 (leBytes 8 (fabcfgRead s).toNat ++ leBytes 8 (tstatRead s).toNat)) ∧
       (∃ u, exec (.timeget tag) s = .next u ∧ tells u (took 5 []) 5 0 (leBytes 8 (s.devTime / 0x10000) ++
         leBytes 2 (s.devTime % 0x10000) ++ leBytes 6 0 ++ leBytes 8 (s.devTime / 0x2000))) ∧
       (∃ u v, exec (.chalt tag core) s = .next u ∧
         (k.dbgctl.getLsbD 1 = false → tells u (took 3 (leBytes 2 core.toNat)) 3 2 []) ∧
         (k.dbgctl.getLsbD 1 = true → k.mode ≠ .running → tells u (took 3 (leBytes 2 core.toNat)) 3 1 []) ∧
         (k.dbgctl.getLsbD 1 = true → k.mode = .running → tells u v 3 0 [] ∧ (coreOf v core.toNat).mode = .debugHalt ∧
           (∀ y ∈ (coreOf v core.toNat).slots, y.2.isHeld = true) ∧ v.mem = s.mem)) ∧
       (∃ u v, exec (.cresume tag core) s = .next u ∧
         (k.dbgctl.getLsbD 1 = false → tells u (took 4 (leBytes 2 core.toNat)) 4 2 []) ∧
         (k.dbgctl.getLsbD 1 = true → k.mode ≠ .debugHalt → tells u (took 4 (leBytes 2 core.toNat)) 4 1 []) ∧
         (k.dbgctl.getLsbD 1 = true → k.mode = .debugHalt → tells u v 4 0 [] ∧ (coreOf v core.toNat).mode = k.haltMode ∧
           (∀ y ∈ (coreOf v core.toNat).slots, y.1 < 4 ∨ k.haltMode ≠ .restoring → y.2.isHeld = false) ∧ v.mem = s.mem)) ∧
       (∃ u v, exec (.resync tag a len) s = .next u ∧
         (len.toNat < (summary s).length →
           tells u (took 2 (leBytes 8 a.toNat ++ leBytes 4 len.toNat)) 2 1 (leBytes 4 (summary s).length)) ∧
         ((summary s).length ≤ len.toNat → tells u v 2 0 [] ∧ v.mem = memWrite s.mem (hostKey a.toNat) (summary s))) ∧
       (∃ u v st, exec (.counter tag part lo hi) s = .next u ∧
         (let block (st : Nat) : List Byte := leBytes 6 lo.toNat ++ leBytes 2 st ++ leBytes 8 hi.toNat
          let s1 := took 6 (leBytes 8 part.toNat ++ leBytes 8 lo.toNat ++ leBytes 8 hi.toNat)
          (64 ≤ part.toNat ∨ (partOf s part.toNat).st = 0 → tells u s1 6 0xFE (block (bits lo.toNat 63 48))) ∧
          (part.toNat < 64 → (partOf s part.toNat).st ≠ 0 → bits hi.toNat 63 32 ≠ 0 → tells u s1 6 4 (block 4)) ∧
          (part.toNat < 64 → (partOf s part.toNat).st ≠ 0 → bits hi.toNat 63 32 = 0 →
           (v, st) = counterCommand s1 (some part.toNat) (bits lo.toNat 7 0) (bits lo.toNat 15 8) (bits lo.toNat 31 16)
             (bits lo.toNat 47 32) (bits hi.toNat 31 0) ∧ tells u v 6 st (block st)))) ∧
       (op.toNat = 0 ∨ 7 ≤ op.toNat → ∃ u, exec (.unlistedMailboxOp op tag) s = .next u ∧
         tells u (took op.toNat []) op.toNat 0xFF []))) ∧
  (∀ (s : State) (a n : Nat) (data : List Byte),
     (haclAllows s a data.length = true → ∃ u, exec (.hostStore a data) s = .next u ∧ u.mem = memWrite s.mem a data ∧
       u.pkg.hostErr = false) ∧
     (haclAllows s a data.length = false → ∃ u, exec (.hostStore a data) s = .next u ∧ u.mem = s.mem ∧ u.cores = s.cores ∧
       u.pkg.hostErr = true) ∧
     (haclAllows s a n = true → ∃ u, exec (.hostRead a n) s = .next u ∧ u.pkg.hostData = memBytes s.mem a n ∧
       u.mem = s.mem ∧ u.pkg.hostErr = eccBad s.ecc a n) ∧
     (haclAllows s a n = false → ∃ u, exec (.hostRead a n) s = .next u ∧ u.pkg.hostData = List.replicate n 0#8 ∧
       u.mem = s.mem ∧ u.pkg.hostErr = true) ∧
     (∀ (ring : Nat) (ws : Vector Word 8) (x y : Word),
       let q := qcbAt s a (fieldAt (memBytes s.mem a 16) 12 2)
       let pos := q.claim % q.cap
       haclAllows s a 256 = true → haclAllows s (ring + 64 * pos) 64 = true → q.ok = true → q.side = 0 →
       (qcbClosed q = false → qcbFull q = false → ∃ u, exec (.hostAppend a ring n ws x y) s = .next u ∧
         u.mem = memWrite (memWrite s.mem (a + 128) (leBytes 8 ((q.claim + 1) % 2 ^ 64))) (ring + 64 * pos) (packetBytes ws) ∧
         u.pkg.hostAppends = s.pkg.hostAppends ++ [⟨a, q.claim⟩]) ∧
       (qcbClosed q = true ∨ qcbFull q = true → ∃ u, exec (.hostAppend a ring n ws x y) s = .next u ∧
         u.mem = memWrite s.mem (a + 200) (leBytes 8 ((memNat s.mem (a + 200) 8 + 1) % 2 ^ 64)) ∧
         u.pkg.hostAppends = s.pkg.hostAppends)) ∧
     (s.pkg.booted = false → s.pkg.bootStatus = 0#64 → ∃ u, exec .boot s = .next u ∧
       u.pkg.bootStatus = (if imageOk s.pkg.image = false ∨ imageSigned s = false then 0x10#64
         else if inventoryOk s = false then 0x11#64
         else if Config.trainOk s.fresh = false then 0x12#64
         else if Config.trainOk (s.fresh + 1) = false then 0x13#64
         else if fieldAt s.pkg.image 32 4 = 0 then 0x14#64
         else 1#64) ∧
       (u.pkg.bootStatus ≠ 1#64 → u.pkg.busy = s.pkg.busy ∧ u.pkg.booted = false ∧ u.cores = s.cores) ∧
       (u.pkg.bootStatus.toNat ≤ 0x12 → u.pkg.bootStatus ≠ 1#64 → u.mem = s.mem) ∧
       (u.pkg.bootStatus = 0x13#64 → u.mem = cellsFrom s.mem (tcmKey 0 0)) ∧
       (u.pkg.bootStatus = 0x14#64 → u.mem = cellsFrom s.mem (hostKey 0)) ∧
       (u.pkg.bootStatus = 1#64 → (s.pkg.mbox = none → u.pkg.busy = false) ∧ u.pkg.booted = true ∧
         u.pkg.badClusters = inventoryClusters s.pkg.inventory ∧ u.parts = [] ∧ u.clusters = [])))

/-- CONNECTIONS. A packet of the next sequence number is delivered and the number counts on; an early one within the window
is held, an old one changes nothing in its class; an acknowledgement takes off every packet up to its number; unanswered
packets are sent again, and after nine sends the connection is down with nothing left of it; peers and ports come and go as
R389, R393 to R395 and R409 say; a request leaves its egress queue (R210). The model's own choices in it are log 24, log 32
and log 33. -/
def Obligations.Connections : Prop :=
  ∀ (s : State) (d : Nat),
    let x := connOf s d
    (∀ k : LinkPkt, s.pkg.dev ≠ 0xFFFF#16 → k.dstDev = s.pkg.dev.toNat → k.srcDev = d → k.cls < 3 →
      mapFind s.pkg.conns d = some x → x.up = true → x.resident = true →
      let q := connClass x k.cls
      let s1 := setConn s d { x with lastUse := s.cycle }
      (k.seq = q.recvSeq → k.seq < 2 ^ 32 → exec (.linkPacketArrival k) s = .next (deliverSeq 256 s1 d k.cls k)) ∧
      (∀ j, 0 < j → j < 256 → k.seq = (q.recvSeq + j) % 2 ^ 32 → q.recvSeq < 2 ^ 32 → (∀ e ∈ q.early, e.seq ≠ k.seq) →
        ∃ u, exec (.linkPacketArrival k) s = .next u ∧ (connClass (connOf u d) k.cls).early = q.early ++ [k] ∧
          (connClass (connOf u d) k.cls).recvSeq = q.recvSeq ∧ u.net = s.net)) ∧
    (∀ cls seq e, cls < 3 → e ∈ (connClass x cls).unacked → e.1.seq = seq → e.2.1 ≠ 0 → seq < 2 ^ 32 →
      ∃ u, exec (.linkAckArrival d cls seq) s = .next u ∧
        ∀ f ∈ (connClass (connOf u d) cls).unacked, 2 ^ 31 ≤ (seq + 2 ^ 32 - f.1.seq) % 2 ^ 32) ∧
    (∀ cls e, cls < 3 → e ∈ (connClass x cls).unacked → unanswered s e = true → e.2.1 < 9 →
      ∃ u, exec (.retransmitTimeout d cls) s = .next u ∧ (e.1, e.2.1 + 1, s.cycle) ∈ (connClass (connOf u d) cls).unacked) ∧
    (∀ e, x.up = true → (∃ q ∈ x.classes.toList, e ∈ q.unacked) → unanswered s e = true → 9 ≤ e.2.1 →
      ∃ u, exec (.connectionDown d) s = .next u ∧ (connOf u d).up = false ∧
        ∀ q ∈ (connOf u d).classes.toList, q.unacked = []) ∧
    (x.up = false → (routePort s none 0 0 d).isSome = true → ∃ u, exec (.connectionReopen d) s = .next u ∧
      (connOf u d).up = true ∧ ∀ q ∈ (connOf u d).classes.toList, q.sendSeq = 0 ∧ q.recvSeq = 0) ∧
    (x.resident = false → x.up = true → x.waiting ≠ [] →
      ∃ u, exec (.peerStateLoad d) s = .next u ∧ (connOf u d).resident = true ∧ (connOf u d).waiting = [] ∧ u.net = s.net) ∧
    (∀ p, (portOf s p).st = 2 → p < 24 → ∃ u, exec (.portFailure p) s = .next u ∧ (portOf u p).st = 3 ∧
      u.pkg.plive.getLsbD p = false) ∧
    (∀ p, (portOf s p).st = 1 → (portOf s p).lanes ≠ 0#8 → p < 24 →
      ∃ u, exec (.fabricPortTrained p) s = .next u ∧ (portOf u p).st = 2 ∧ u.pkg.plive.getLsbD p = true) ∧
    (∀ m, findMsg s m.uid = some m → m.egress = true → m.net ≠ .timediv → m.due ≤ s.cycle → firstOfQueue s m = true →
      m.ddev = s.pkg.dev.toNat → ∃ u, exec (.egressQueueDeparture m.uid) s = .next u ∧ u.mem = s.mem ∧
        ∃ e ∈ u.net, e.uid = m.uid ∧ e.egress = false ∧ e.body = m.body ∧ s.cycle < e.due)

/-- THE TIME DISCIPLINE. A sync receipt sets OFFS and clears the missed count; an offset above 100 ns clears LOCK, sixteen in
a row within 4 ns set it; the third missed sync clears LOCK; a boundary clock's interval begins again. A time-division
packet leaves in its window and is due 256 cycles later, is applied at its core in its cycle, and applied and counted
where it comes late (R397, R398, R402 to R404). The model's own choices in it are log 11, log 24, log 36 and log 37. -/
def Obligations.TimeEvents : Prop :=
  ∀ (s : State),
    (∀ o : Int, hasUpstream s = true → -(2 ^ 31) ≤ o → o < 2 ^ 31 → ∃ u, exec (.ptpSyncReceipt o) s = .next u ∧
      u.pkg.offs = BitVec.ofInt 32 o ∧ u.pkg.missed = 0 ∧ u.devTime = s.devTime ∧
      (25600 < o.natAbs → u.pkg.lock = false) ∧
      (o.natAbs ≤ 1024 → 15 ≤ s.pkg.good → u.pkg.lock = true) ∧
      (s.pkg.good < 15 → o.natAbs ≤ 25600 → u.pkg.lock = s.pkg.lock)) ∧
    (hasUpstream s = true → ∃ u, exec .syncMissed s = .next u ∧ u.pkg.missed = s.pkg.missed + 1 ∧
      (2 ≤ s.pkg.missed → u.pkg.lock = false) ∧ (s.pkg.missed < 2 → u.pkg.lock = s.pkg.lock)) ∧
    (s.pkg.tctl.getLsbD 0 = true → s.pkg.tctl.getLsbD 1 = true → s.pkg.nextSync ≤ s.cycle →
      ∃ u, exec .syncIntervalExpiry s = .next u ∧
        u.pkg.nextSync = s.cycle + 2000000000 / 2 ^ bits s.pkg.tctl.toNat 7 4 ∧ u.devTime = s.devTime) ∧
    (∀ m, findMsg s m.uid = some m → m.net = .timediv →
      (m.egress = true → m.due ≤ deviceCycle s → m.ddev = s.pkg.dev.toNat →
        ∃ u, exec (.tdWindowDepart m.uid) s = .next u ∧ u.mem = s.mem ∧
          { m with egress := false, due := m.due + 256 } ∈ u.net ∧
          ∀ n, (slotOf s m.score n).wait = .window m.uid → (slotOf u m.score n).st = .ready) ∧
      (m.egress = false → m.ddev = s.pkg.dev.toNat → m.due ≠ 0 → m.due ≤ deviceCycle s →
        (∀ e ∈ tdDue s m.dcore, tdBefore e m = false) →
        let s1 := tdPostpone s m.dcore
        (∀ u, tdDeliver s1 m = some u → exec (.tdPacketApply m.uid) s = .next u) ∧
        (tdDeliver s1 m = none → exec (.tdPacketApply m.uid) s = .next { s1 with net := s1.net.map fun e =>
          if e.uid = m.uid then { e with due := deviceCycle s + 1 } else e }) ∧
        (∀ sem inc, m.body = .sigr sem inc → taking s1 m = .apply →
          exec (.tdPacketApply m.uid) s = .next (applyBody (dropMsg s1 m.uid) m))) ∧
      (m.egress = false → m.ddev = s.pkg.dev.toNat → m.due = 0 →
        let late (u : State) : State := { u with pkg := { u.pkg with tdlate := satAdd32 u.pkg.tdlate 1 } }
        (∀ u, tdDeliver s m = some u → exec (.tdLateArrival m.uid) s = .next (late u)) ∧
        (∀ sem inc, m.body = .sigr sem inc → taking s m = .apply →
          exec (.tdLateArrival m.uid) s = .next (late (applyBody (dropMsg s m.uid) m)))))
end

