-- ==== Sys2Proof/Laws/State.lean ====
section
/-! SUPPORT. One lemma per field and per update of the state, of a slot and of a thread, each true by unfolding the
update once; tagged for the simplifier, so that no proof unfolds a record update. -/

namespace Sys2Proof.Machine

/-! ### setCore -/

@[simp] theorem setCore_cycle (s : State) (c : Nat) (k : Core) : (setCore s c k).cycle = s.cycle := rfl
@[simp] theorem setCore_devTime (s : State) (c : Nat) (k : Core) : (setCore s c k).devTime = s.devTime := rfl
@[simp] theorem setCore_clusters (s : State) (c : Nat) (k : Core) : (setCore s c k).clusters = s.clusters := rfl
@[simp] theorem setCore_hods (s : State) (c : Nat) (k : Core) : (setCore s c k).hods = s.hods := rfl
@[simp] theorem setCore_parts (s : State) (c : Nat) (k : Core) : (setCore s c k).parts = s.parts := rfl
@[simp] theorem setCore_mem (s : State) (c : Nat) (k : Core) : (setCore s c k).mem = s.mem := rfl
@[simp] theorem setCore_ecc (s : State) (c : Nat) (k : Core) : (setCore s c k).ecc = s.ecc := rfl
@[simp] theorem setCore_injected (s : State) (c : Nat) (k : Core) : (setCore s c k).injected = s.injected := rfl
@[simp] theorem setCore_net (s : State) (c : Nat) (k : Core) : (setCore s c k).net = s.net := rfl
@[simp] theorem setCore_fills (s : State) (c : Nat) (k : Core) : (setCore s c k).fills = s.fills := rfl
@[simp] theorem setCore_walks (s : State) (c : Nat) (k : Core) : (setCore s c k).walks = s.walks := rfl
@[simp] theorem setCore_kills (s : State) (c : Nat) (k : Core) : (setCore s c k).kills = s.kills := rfl
@[simp] theorem setCore_shadows (s : State) (c : Nat) (k : Core) : (setCore s c k).shadows = s.shadows := rfl
@[simp] theorem setCore_pkg (s : State) (c : Nat) (k : Core) : (setCore s c k).pkg = s.pkg := rfl
@[simp] theorem setCore_cur (s : State) (c : Nat) (k : Core) : (setCore s c k).cur = s.cur := rfl
@[simp] theorem setCore_hodCur (s : State) (c : Nat) (k : Core) : (setCore s c k).hodCur = s.hodCur := rfl
@[simp] theorem setCore_coreTurn (s : State) (c : Nat) (k : Core) : (setCore s c k).coreTurn = s.coreTurn := rfl
@[simp] theorem setCore_stalled (s : State) (c : Nat) (k : Core) : (setCore s c k).stalled = s.stalled := rfl
@[simp] theorem setCore_uid (s : State) (c : Nat) (k : Core) : (setCore s c k).uid = s.uid := rfl
@[simp] theorem setCore_fresh (s : State) (c : Nat) (k : Core) : (setCore s c k).fresh = s.fresh := rfl
@[simp] theorem setCore_ctrStatus (s : State) (c : Nat) (k : Core) : (setCore s c k).ctrStatus = s.ctrStatus := rfl
@[simp] theorem setCore_inputs (s : State) (c : Nat) (k : Core) : (setCore s c k).inputs = s.inputs := rfl
@[simp] theorem setCore_stale (s : State) (c : Nat) (k : Core) : (setCore s c k).stale = s.stale := rfl
@[simp] theorem setCore_enqs (s : State) (c : Nat) (k : Core) : (setCore s c k).enqs = s.enqs := rfl
@[simp] theorem setCore_older (s : State) (c : Nat) (k : Core) : (setCore s c k).older = s.older := rfl
@[simp] theorem setCore_phase (s : State) (c : Nat) (k : Core) : (setCore s c k).phase = s.phase := rfl

/-! ### modCore -/

@[simp] theorem modCore_cycle (s : State) (c : Nat) (f : Core → Core) : (modCore s c f).cycle = s.cycle := rfl
@[simp] theorem modCore_devTime (s : State) (c : Nat) (f : Core → Core) : (modCore s c f).devTime = s.devTime := rfl
@[simp] theorem modCore_clusters (s : State) (c : Nat) (f : Core → Core) : (modCore s c f).clusters = s.clusters := rfl
@[simp] theorem modCore_hods (s : State) (c : Nat) (f : Core → Core) : (modCore s c f).hods = s.hods := rfl
@[simp] theorem modCore_parts (s : State) (c : Nat) (f : Core → Core) : (modCore s c f).parts = s.parts := rfl
@[simp] theorem modCore_mem (s : State) (c : Nat) (f : Core → Core) : (modCore s c f).mem = s.mem := rfl
@[simp] theorem modCore_ecc (s : State) (c : Nat) (f : Core → Core) : (modCore s c f).ecc = s.ecc := rfl
@[simp] theorem modCore_injected (s : State) (c : Nat) (f : Core → Core) : (modCore s c f).injected = s.injected := rfl
@[simp] theorem modCore_net (s : State) (c : Nat) (f : Core → Core) : (modCore s c f).net = s.net := rfl
@[simp] theorem modCore_fills (s : State) (c : Nat) (f : Core → Core) : (modCore s c f).fills = s.fills := rfl
@[simp] theorem modCore_walks (s : State) (c : Nat) (f : Core → Core) : (modCore s c f).walks = s.walks := rfl
@[simp] theorem modCore_kills (s : State) (c : Nat) (f : Core → Core) : (modCore s c f).kills = s.kills := rfl
@[simp] theorem modCore_shadows (s : State) (c : Nat) (f : Core → Core) : (modCore s c f).shadows = s.shadows := rfl
@[simp] theorem modCore_pkg (s : State) (c : Nat) (f : Core → Core) : (modCore s c f).pkg = s.pkg := rfl
@[simp] theorem modCore_cur (s : State) (c : Nat) (f : Core → Core) : (modCore s c f).cur = s.cur := rfl
@[simp] theorem modCore_hodCur (s : State) (c : Nat) (f : Core → Core) : (modCore s c f).hodCur = s.hodCur := rfl
@[simp] theorem modCore_coreTurn (s : State) (c : Nat) (f : Core → Core) : (modCore s c f).coreTurn = s.coreTurn := rfl
@[simp] theorem modCore_stalled (s : State) (c : Nat) (f : Core → Core) : (modCore s c f).stalled = s.stalled := rfl
@[simp] theorem modCore_uid (s : State) (c : Nat) (f : Core → Core) : (modCore s c f).uid = s.uid := rfl
@[simp] theorem modCore_fresh (s : State) (c : Nat) (f : Core → Core) : (modCore s c f).fresh = s.fresh := rfl
@[simp] theorem modCore_ctrStatus (s : State) (c : Nat) (f : Core → Core) : (modCore s c f).ctrStatus = s.ctrStatus := rfl
@[simp] theorem modCore_inputs (s : State) (c : Nat) (f : Core → Core) : (modCore s c f).inputs = s.inputs := rfl
@[simp] theorem modCore_stale (s : State) (c : Nat) (f : Core → Core) : (modCore s c f).stale = s.stale := rfl
@[simp] theorem modCore_enqs (s : State) (c : Nat) (f : Core → Core) : (modCore s c f).enqs = s.enqs := rfl
@[simp] theorem modCore_older (s : State) (c : Nat) (f : Core → Core) : (modCore s c f).older = s.older := rfl
@[simp] theorem modCore_phase (s : State) (c : Nat) (f : Core → Core) : (modCore s c f).phase = s.phase := rfl

/-! ### setSlot -/

@[simp] theorem setSlot_cycle (s : State) (c n : Nat) (x : Slot) : (setSlot s c n x).cycle = s.cycle := rfl
@[simp] theorem setSlot_devTime (s : State) (c n : Nat) (x : Slot) : (setSlot s c n x).devTime = s.devTime := rfl
@[simp] theorem setSlot_clusters (s : State) (c n : Nat) (x : Slot) : (setSlot s c n x).clusters = s.clusters := rfl
@[simp] theorem setSlot_hods (s : State) (c n : Nat) (x : Slot) : (setSlot s c n x).hods = s.hods := rfl
@[simp] theorem setSlot_parts (s : State) (c n : Nat) (x : Slot) : (setSlot s c n x).parts = s.parts := rfl
@[simp] theorem setSlot_mem (s : State) (c n : Nat) (x : Slot) : (setSlot s c n x).mem = s.mem := rfl
@[simp] theorem setSlot_ecc (s : State) (c n : Nat) (x : Slot) : (setSlot s c n x).ecc = s.ecc := rfl
@[simp] theorem setSlot_injected (s : State) (c n : Nat) (x : Slot) : (setSlot s c n x).injected = s.injected := rfl
@[simp] theorem setSlot_net (s : State) (c n : Nat) (x : Slot) : (setSlot s c n x).net = s.net := rfl
@[simp] theorem setSlot_fills (s : State) (c n : Nat) (x : Slot) : (setSlot s c n x).fills = s.fills := rfl
@[simp] theorem setSlot_walks (s : State) (c n : Nat) (x : Slot) : (setSlot s c n x).walks = s.walks := rfl
@[simp] theorem setSlot_kills (s : State) (c n : Nat) (x : Slot) : (setSlot s c n x).kills = s.kills := rfl
@[simp] theorem setSlot_shadows (s : State) (c n : Nat) (x : Slot) : (setSlot s c n x).shadows = s.shadows := rfl
@[simp] theorem setSlot_pkg (s : State) (c n : Nat) (x : Slot) : (setSlot s c n x).pkg = s.pkg := rfl
@[simp] theorem setSlot_cur (s : State) (c n : Nat) (x : Slot) : (setSlot s c n x).cur = s.cur := rfl
@[simp] theorem setSlot_hodCur (s : State) (c n : Nat) (x : Slot) : (setSlot s c n x).hodCur = s.hodCur := rfl
@[simp] theorem setSlot_coreTurn (s : State) (c n : Nat) (x : Slot) : (setSlot s c n x).coreTurn = s.coreTurn := rfl
@[simp] theorem setSlot_stalled (s : State) (c n : Nat) (x : Slot) : (setSlot s c n x).stalled = s.stalled := rfl
@[simp] theorem setSlot_uid (s : State) (c n : Nat) (x : Slot) : (setSlot s c n x).uid = s.uid := rfl
@[simp] theorem setSlot_fresh (s : State) (c n : Nat) (x : Slot) : (setSlot s c n x).fresh = s.fresh := rfl
@[simp] theorem setSlot_ctrStatus (s : State) (c n : Nat) (x : Slot) : (setSlot s c n x).ctrStatus = s.ctrStatus := rfl
@[simp] theorem setSlot_inputs (s : State) (c n : Nat) (x : Slot) : (setSlot s c n x).inputs = s.inputs := rfl
@[simp] theorem setSlot_stale (s : State) (c n : Nat) (x : Slot) : (setSlot s c n x).stale = s.stale := rfl
@[simp] theorem setSlot_enqs (s : State) (c n : Nat) (x : Slot) : (setSlot s c n x).enqs = s.enqs := rfl
@[simp] theorem setSlot_older (s : State) (c n : Nat) (x : Slot) : (setSlot s c n x).older = s.older := rfl
@[simp] theorem setSlot_phase (s : State) (c n : Nat) (x : Slot) : (setSlot s c n x).phase = s.phase := rfl

/-! ### modSlot -/

@[simp] theorem modSlot_cycle (s : State) (c n : Nat) (f : Slot → Slot) : (modSlot s c n f).cycle = s.cycle := rfl
@[simp] theorem modSlot_devTime (s : State) (c n : Nat) (f : Slot → Slot) : (modSlot s c n f).devTime = s.devTime := rfl
@[simp] theorem modSlot_clusters (s : State) (c n : Nat) (f : Slot → Slot) : (modSlot s c n f).clusters = s.clusters := rfl
@[simp] theorem modSlot_hods (s : State) (c n : Nat) (f : Slot → Slot) : (modSlot s c n f).hods = s.hods := rfl
@[simp] theorem modSlot_parts (s : State) (c n : Nat) (f : Slot → Slot) : (modSlot s c n f).parts = s.parts := rfl
@[simp] theorem modSlot_mem (s : State) (c n : Nat) (f : Slot → Slot) : (modSlot s c n f).mem = s.mem := rfl
@[simp] theorem modSlot_ecc (s : State) (c n : Nat) (f : Slot → Slot) : (modSlot s c n f).ecc = s.ecc := rfl
@[simp] theorem modSlot_injected (s : State) (c n : Nat) (f : Slot → Slot) : (modSlot s c n f).injected = s.injected := rfl
@[simp] theorem modSlot_net (s : State) (c n : Nat) (f : Slot → Slot) : (modSlot s c n f).net = s.net := rfl
@[simp] theorem modSlot_fills (s : State) (c n : Nat) (f : Slot → Slot) : (modSlot s c n f).fills = s.fills := rfl
@[simp] theorem modSlot_walks (s : State) (c n : Nat) (f : Slot → Slot) : (modSlot s c n f).walks = s.walks := rfl
@[simp] theorem modSlot_kills (s : State) (c n : Nat) (f : Slot → Slot) : (modSlot s c n f).kills = s.kills := rfl
@[simp] theorem modSlot_shadows (s : State) (c n : Nat) (f : Slot → Slot) : (modSlot s c n f).shadows = s.shadows := rfl
@[simp] theorem modSlot_pkg (s : State) (c n : Nat) (f : Slot → Slot) : (modSlot s c n f).pkg = s.pkg := rfl
@[simp] theorem modSlot_cur (s : State) (c n : Nat) (f : Slot → Slot) : (modSlot s c n f).cur = s.cur := rfl
@[simp] theorem modSlot_hodCur (s : State) (c n : Nat) (f : Slot → Slot) : (modSlot s c n f).hodCur = s.hodCur := rfl
@[simp] theorem modSlot_coreTurn (s : State) (c n : Nat) (f : Slot → Slot) : (modSlot s c n f).coreTurn = s.coreTurn := rfl
@[simp] theorem modSlot_stalled (s : State) (c n : Nat) (f : Slot → Slot) : (modSlot s c n f).stalled = s.stalled := rfl
@[simp] theorem modSlot_uid (s : State) (c n : Nat) (f : Slot → Slot) : (modSlot s c n f).uid = s.uid := rfl
@[simp] theorem modSlot_fresh (s : State) (c n : Nat) (f : Slot → Slot) : (modSlot s c n f).fresh = s.fresh := rfl
@[simp] theorem modSlot_ctrStatus (s : State) (c n : Nat) (f : Slot → Slot) : (modSlot s c n f).ctrStatus = s.ctrStatus := rfl
@[simp] theorem modSlot_inputs (s : State) (c n : Nat) (f : Slot → Slot) : (modSlot s c n f).inputs = s.inputs := rfl
@[simp] theorem modSlot_stale (s : State) (c n : Nat) (f : Slot → Slot) : (modSlot s c n f).stale = s.stale := rfl
@[simp] theorem modSlot_enqs (s : State) (c n : Nat) (f : Slot → Slot) : (modSlot s c n f).enqs = s.enqs := rfl
@[simp] theorem modSlot_older (s : State) (c n : Nat) (f : Slot → Slot) : (modSlot s c n f).older = s.older := rfl
@[simp] theorem modSlot_phase (s : State) (c n : Nat) (f : Slot → Slot) : (modSlot s c n f).phase = s.phase := rfl

/-! ### setThread -/

@[simp] theorem setThread_cycle (s : State) (c n : Nat) (t : Thread) : (setThread s c n t).cycle = s.cycle := rfl
@[simp] theorem setThread_devTime (s : State) (c n : Nat) (t : Thread) : (setThread s c n t).devTime = s.devTime := rfl
@[simp] theorem setThread_clusters (s : State) (c n : Nat) (t : Thread) : (setThread s c n t).clusters = s.clusters := rfl
@[simp] theorem setThread_hods (s : State) (c n : Nat) (t : Thread) : (setThread s c n t).hods = s.hods := rfl
@[simp] theorem setThread_parts (s : State) (c n : Nat) (t : Thread) : (setThread s c n t).parts = s.parts := rfl
@[simp] theorem setThread_mem (s : State) (c n : Nat) (t : Thread) : (setThread s c n t).mem = s.mem := rfl
@[simp] theorem setThread_ecc (s : State) (c n : Nat) (t : Thread) : (setThread s c n t).ecc = s.ecc := rfl
@[simp] theorem setThread_injected (s : State) (c n : Nat) (t : Thread) : (setThread s c n t).injected = s.injected := rfl
@[simp] theorem setThread_net (s : State) (c n : Nat) (t : Thread) : (setThread s c n t).net = s.net := rfl
@[simp] theorem setThread_fills (s : State) (c n : Nat) (t : Thread) : (setThread s c n t).fills = s.fills := rfl
@[simp] theorem setThread_walks (s : State) (c n : Nat) (t : Thread) : (setThread s c n t).walks = s.walks := rfl
@[simp] theorem setThread_kills (s : State) (c n : Nat) (t : Thread) : (setThread s c n t).kills = s.kills := rfl
@[simp] theorem setThread_shadows (s : State) (c n : Nat) (t : Thread) : (setThread s c n t).shadows = s.shadows := rfl
@[simp] theorem setThread_pkg (s : State) (c n : Nat) (t : Thread) : (setThread s c n t).pkg = s.pkg := rfl
@[simp] theorem setThread_cur (s : State) (c n : Nat) (t : Thread) : (setThread s c n t).cur = s.cur := rfl
@[simp] theorem setThread_hodCur (s : State) (c n : Nat) (t : Thread) : (setThread s c n t).hodCur = s.hodCur := rfl
@[simp] theorem setThread_coreTurn (s : State) (c n : Nat) (t : Thread) : (setThread s c n t).coreTurn = s.coreTurn := rfl
@[simp] theorem setThread_stalled (s : State) (c n : Nat) (t : Thread) : (setThread s c n t).stalled = s.stalled := rfl
@[simp] theorem setThread_uid (s : State) (c n : Nat) (t : Thread) : (setThread s c n t).uid = s.uid := rfl
@[simp] theorem setThread_fresh (s : State) (c n : Nat) (t : Thread) : (setThread s c n t).fresh = s.fresh := rfl
@[simp] theorem setThread_ctrStatus (s : State) (c n : Nat) (t : Thread) : (setThread s c n t).ctrStatus = s.ctrStatus := rfl
@[simp] theorem setThread_inputs (s : State) (c n : Nat) (t : Thread) : (setThread s c n t).inputs = s.inputs := rfl
@[simp] theorem setThread_stale (s : State) (c n : Nat) (t : Thread) : (setThread s c n t).stale = s.stale := rfl
@[simp] theorem setThread_enqs (s : State) (c n : Nat) (t : Thread) : (setThread s c n t).enqs = s.enqs := rfl
@[simp] theorem setThread_older (s : State) (c n : Nat) (t : Thread) : (setThread s c n t).older = s.older := rfl
@[simp] theorem setThread_phase (s : State) (c n : Nat) (t : Thread) : (setThread s c n t).phase = s.phase := rfl

/-! ### modThread -/

@[simp] theorem modThread_cycle (s : State) (c n : Nat) (f : Thread → Thread) : (modThread s c n f).cycle = s.cycle := rfl
@[simp] theorem modThread_devTime (s : State) (c n : Nat) (f : Thread → Thread) : (modThread s c n f).devTime = s.devTime := rfl
@[simp] theorem modThread_clusters (s : State) (c n : Nat) (f : Thread → Thread) : (modThread s c n f).clusters = s.clusters := rfl
@[simp] theorem modThread_hods (s : State) (c n : Nat) (f : Thread → Thread) : (modThread s c n f).hods = s.hods := rfl
@[simp] theorem modThread_parts (s : State) (c n : Nat) (f : Thread → Thread) : (modThread s c n f).parts = s.parts := rfl
@[simp] theorem modThread_mem (s : State) (c n : Nat) (f : Thread → Thread) : (modThread s c n f).mem = s.mem := rfl
@[simp] theorem modThread_ecc (s : State) (c n : Nat) (f : Thread → Thread) : (modThread s c n f).ecc = s.ecc := rfl
@[simp] theorem modThread_injected (s : State) (c n : Nat) (f : Thread → Thread) : (modThread s c n f).injected = s.injected := rfl
@[simp] theorem modThread_net (s : State) (c n : Nat) (f : Thread → Thread) : (modThread s c n f).net = s.net := rfl
@[simp] theorem modThread_fills (s : State) (c n : Nat) (f : Thread → Thread) : (modThread s c n f).fills = s.fills := rfl
@[simp] theorem modThread_walks (s : State) (c n : Nat) (f : Thread → Thread) : (modThread s c n f).walks = s.walks := rfl
@[simp] theorem modThread_kills (s : State) (c n : Nat) (f : Thread → Thread) : (modThread s c n f).kills = s.kills := rfl
@[simp] theorem modThread_shadows (s : State) (c n : Nat) (f : Thread → Thread) : (modThread s c n f).shadows = s.shadows := rfl
@[simp] theorem modThread_pkg (s : State) (c n : Nat) (f : Thread → Thread) : (modThread s c n f).pkg = s.pkg := rfl
@[simp] theorem modThread_cur (s : State) (c n : Nat) (f : Thread → Thread) : (modThread s c n f).cur = s.cur := rfl
@[simp] theorem modThread_hodCur (s : State) (c n : Nat) (f : Thread → Thread) : (modThread s c n f).hodCur = s.hodCur := rfl
@[simp] theorem modThread_coreTurn (s : State) (c n : Nat) (f : Thread → Thread) : (modThread s c n f).coreTurn = s.coreTurn := rfl
@[simp] theorem modThread_stalled (s : State) (c n : Nat) (f : Thread → Thread) : (modThread s c n f).stalled = s.stalled := rfl
@[simp] theorem modThread_uid (s : State) (c n : Nat) (f : Thread → Thread) : (modThread s c n f).uid = s.uid := rfl
@[simp] theorem modThread_fresh (s : State) (c n : Nat) (f : Thread → Thread) : (modThread s c n f).fresh = s.fresh := rfl
@[simp] theorem modThread_ctrStatus (s : State) (c n : Nat) (f : Thread → Thread) : (modThread s c n f).ctrStatus = s.ctrStatus := rfl
@[simp] theorem modThread_inputs (s : State) (c n : Nat) (f : Thread → Thread) : (modThread s c n f).inputs = s.inputs := rfl
@[simp] theorem modThread_stale (s : State) (c n : Nat) (f : Thread → Thread) : (modThread s c n f).stale = s.stale := rfl
@[simp] theorem modThread_enqs (s : State) (c n : Nat) (f : Thread → Thread) : (modThread s c n f).enqs = s.enqs := rfl
@[simp] theorem modThread_older (s : State) (c n : Nat) (f : Thread → Thread) : (modThread s c n f).older = s.older := rfl
@[simp] theorem modThread_phase (s : State) (c n : Nat) (f : Thread → Thread) : (modThread s c n f).phase = s.phase := rfl

/-! ### waitSlot -/

@[simp] theorem waitSlot_cycle (s : State) (c n : Nat) (w : Wait) : (waitSlot s c n w).cycle = s.cycle := rfl
@[simp] theorem waitSlot_devTime (s : State) (c n : Nat) (w : Wait) : (waitSlot s c n w).devTime = s.devTime := rfl
@[simp] theorem waitSlot_clusters (s : State) (c n : Nat) (w : Wait) : (waitSlot s c n w).clusters = s.clusters := rfl
@[simp] theorem waitSlot_hods (s : State) (c n : Nat) (w : Wait) : (waitSlot s c n w).hods = s.hods := rfl
@[simp] theorem waitSlot_parts (s : State) (c n : Nat) (w : Wait) : (waitSlot s c n w).parts = s.parts := rfl
@[simp] theorem waitSlot_mem (s : State) (c n : Nat) (w : Wait) : (waitSlot s c n w).mem = s.mem := rfl
@[simp] theorem waitSlot_ecc (s : State) (c n : Nat) (w : Wait) : (waitSlot s c n w).ecc = s.ecc := rfl
@[simp] theorem waitSlot_injected (s : State) (c n : Nat) (w : Wait) : (waitSlot s c n w).injected = s.injected := rfl
@[simp] theorem waitSlot_net (s : State) (c n : Nat) (w : Wait) : (waitSlot s c n w).net = s.net := rfl
@[simp] theorem waitSlot_fills (s : State) (c n : Nat) (w : Wait) : (waitSlot s c n w).fills = s.fills := rfl
@[simp] theorem waitSlot_walks (s : State) (c n : Nat) (w : Wait) : (waitSlot s c n w).walks = s.walks := rfl
@[simp] theorem waitSlot_kills (s : State) (c n : Nat) (w : Wait) : (waitSlot s c n w).kills = s.kills := rfl
@[simp] theorem waitSlot_shadows (s : State) (c n : Nat) (w : Wait) : (waitSlot s c n w).shadows = s.shadows := rfl
@[simp] theorem waitSlot_pkg (s : State) (c n : Nat) (w : Wait) : (waitSlot s c n w).pkg = s.pkg := rfl
@[simp] theorem waitSlot_cur (s : State) (c n : Nat) (w : Wait) : (waitSlot s c n w).cur = s.cur := rfl
@[simp] theorem waitSlot_hodCur (s : State) (c n : Nat) (w : Wait) : (waitSlot s c n w).hodCur = s.hodCur := rfl
@[simp] theorem waitSlot_coreTurn (s : State) (c n : Nat) (w : Wait) : (waitSlot s c n w).coreTurn = s.coreTurn := rfl
@[simp] theorem waitSlot_stalled (s : State) (c n : Nat) (w : Wait) : (waitSlot s c n w).stalled = s.stalled := rfl
@[simp] theorem waitSlot_uid (s : State) (c n : Nat) (w : Wait) : (waitSlot s c n w).uid = s.uid := rfl
@[simp] theorem waitSlot_fresh (s : State) (c n : Nat) (w : Wait) : (waitSlot s c n w).fresh = s.fresh := rfl
@[simp] theorem waitSlot_ctrStatus (s : State) (c n : Nat) (w : Wait) : (waitSlot s c n w).ctrStatus = s.ctrStatus := rfl
@[simp] theorem waitSlot_inputs (s : State) (c n : Nat) (w : Wait) : (waitSlot s c n w).inputs = s.inputs := rfl
@[simp] theorem waitSlot_stale (s : State) (c n : Nat) (w : Wait) : (waitSlot s c n w).stale = s.stale := rfl
@[simp] theorem waitSlot_enqs (s : State) (c n : Nat) (w : Wait) : (waitSlot s c n w).enqs = s.enqs := rfl
@[simp] theorem waitSlot_older (s : State) (c n : Nat) (w : Wait) : (waitSlot s c n w).older = s.older := rfl
@[simp] theorem waitSlot_phase (s : State) (c n : Nat) (w : Wait) : (waitSlot s c n w).phase = s.phase := rfl

/-! ### modCluster -/

@[simp] theorem modCluster_cycle (s : State) (i : Nat) (f : Cluster → Cluster) : (modCluster s i f).cycle = s.cycle := rfl
@[simp] theorem modCluster_devTime (s : State) (i : Nat) (f : Cluster → Cluster) : (modCluster s i f).devTime = s.devTime := rfl
@[simp] theorem modCluster_cores (s : State) (i : Nat) (f : Cluster → Cluster) : (modCluster s i f).cores = s.cores := rfl
@[simp] theorem modCluster_hods (s : State) (i : Nat) (f : Cluster → Cluster) : (modCluster s i f).hods = s.hods := rfl
@[simp] theorem modCluster_parts (s : State) (i : Nat) (f : Cluster → Cluster) : (modCluster s i f).parts = s.parts := rfl
@[simp] theorem modCluster_mem (s : State) (i : Nat) (f : Cluster → Cluster) : (modCluster s i f).mem = s.mem := rfl
@[simp] theorem modCluster_ecc (s : State) (i : Nat) (f : Cluster → Cluster) : (modCluster s i f).ecc = s.ecc := rfl
@[simp] theorem modCluster_injected (s : State) (i : Nat) (f : Cluster → Cluster) : (modCluster s i f).injected = s.injected := rfl
@[simp] theorem modCluster_net (s : State) (i : Nat) (f : Cluster → Cluster) : (modCluster s i f).net = s.net := rfl
@[simp] theorem modCluster_fills (s : State) (i : Nat) (f : Cluster → Cluster) : (modCluster s i f).fills = s.fills := rfl
@[simp] theorem modCluster_walks (s : State) (i : Nat) (f : Cluster → Cluster) : (modCluster s i f).walks = s.walks := rfl
@[simp] theorem modCluster_kills (s : State) (i : Nat) (f : Cluster → Cluster) : (modCluster s i f).kills = s.kills := rfl
@[simp] theorem modCluster_shadows (s : State) (i : Nat) (f : Cluster → Cluster) : (modCluster s i f).shadows = s.shadows := rfl
@[simp] theorem modCluster_pkg (s : State) (i : Nat) (f : Cluster → Cluster) : (modCluster s i f).pkg = s.pkg := rfl
@[simp] theorem modCluster_cur (s : State) (i : Nat) (f : Cluster → Cluster) : (modCluster s i f).cur = s.cur := rfl
@[simp] theorem modCluster_hodCur (s : State) (i : Nat) (f : Cluster → Cluster) : (modCluster s i f).hodCur = s.hodCur := rfl
@[simp] theorem modCluster_coreTurn (s : State) (i : Nat) (f : Cluster → Cluster) : (modCluster s i f).coreTurn = s.coreTurn := rfl
@[simp] theorem modCluster_stalled (s : State) (i : Nat) (f : Cluster → Cluster) : (modCluster s i f).stalled = s.stalled := rfl
@[simp] theorem modCluster_uid (s : State) (i : Nat) (f : Cluster → Cluster) : (modCluster s i f).uid = s.uid := rfl
@[simp] theorem modCluster_fresh (s : State) (i : Nat) (f : Cluster → Cluster) : (modCluster s i f).fresh = s.fresh := rfl
@[simp] theorem modCluster_ctrStatus (s : State) (i : Nat) (f : Cluster → Cluster) : (modCluster s i f).ctrStatus = s.ctrStatus := rfl
@[simp] theorem modCluster_inputs (s : State) (i : Nat) (f : Cluster → Cluster) : (modCluster s i f).inputs = s.inputs := rfl
@[simp] theorem modCluster_stale (s : State) (i : Nat) (f : Cluster → Cluster) : (modCluster s i f).stale = s.stale := rfl
@[simp] theorem modCluster_enqs (s : State) (i : Nat) (f : Cluster → Cluster) : (modCluster s i f).enqs = s.enqs := rfl
@[simp] theorem modCluster_older (s : State) (i : Nat) (f : Cluster → Cluster) : (modCluster s i f).older = s.older := rfl
@[simp] theorem modCluster_phase (s : State) (i : Nat) (f : Cluster → Cluster) : (modCluster s i f).phase = s.phase := rfl

/-! ### modHod -/

@[simp] theorem modHod_cycle (s : State) (i : Nat) (f : Hod → Hod) : (modHod s i f).cycle = s.cycle := rfl
@[simp] theorem modHod_devTime (s : State) (i : Nat) (f : Hod → Hod) : (modHod s i f).devTime = s.devTime := rfl
@[simp] theorem modHod_cores (s : State) (i : Nat) (f : Hod → Hod) : (modHod s i f).cores = s.cores := rfl
@[simp] theorem modHod_clusters (s : State) (i : Nat) (f : Hod → Hod) : (modHod s i f).clusters = s.clusters := rfl
@[simp] theorem modHod_parts (s : State) (i : Nat) (f : Hod → Hod) : (modHod s i f).parts = s.parts := rfl
@[simp] theorem modHod_mem (s : State) (i : Nat) (f : Hod → Hod) : (modHod s i f).mem = s.mem := rfl
@[simp] theorem modHod_ecc (s : State) (i : Nat) (f : Hod → Hod) : (modHod s i f).ecc = s.ecc := rfl
@[simp] theorem modHod_injected (s : State) (i : Nat) (f : Hod → Hod) : (modHod s i f).injected = s.injected := rfl
@[simp] theorem modHod_net (s : State) (i : Nat) (f : Hod → Hod) : (modHod s i f).net = s.net := rfl
@[simp] theorem modHod_fills (s : State) (i : Nat) (f : Hod → Hod) : (modHod s i f).fills = s.fills := rfl
@[simp] theorem modHod_walks (s : State) (i : Nat) (f : Hod → Hod) : (modHod s i f).walks = s.walks := rfl
@[simp] theorem modHod_kills (s : State) (i : Nat) (f : Hod → Hod) : (modHod s i f).kills = s.kills := rfl
@[simp] theorem modHod_shadows (s : State) (i : Nat) (f : Hod → Hod) : (modHod s i f).shadows = s.shadows := rfl
@[simp] theorem modHod_pkg (s : State) (i : Nat) (f : Hod → Hod) : (modHod s i f).pkg = s.pkg := rfl
@[simp] theorem modHod_cur (s : State) (i : Nat) (f : Hod → Hod) : (modHod s i f).cur = s.cur := rfl
@[simp] theorem modHod_hodCur (s : State) (i : Nat) (f : Hod → Hod) : (modHod s i f).hodCur = s.hodCur := rfl
@[simp] theorem modHod_coreTurn (s : State) (i : Nat) (f : Hod → Hod) : (modHod s i f).coreTurn = s.coreTurn := rfl
@[simp] theorem modHod_stalled (s : State) (i : Nat) (f : Hod → Hod) : (modHod s i f).stalled = s.stalled := rfl
@[simp] theorem modHod_uid (s : State) (i : Nat) (f : Hod → Hod) : (modHod s i f).uid = s.uid := rfl
@[simp] theorem modHod_fresh (s : State) (i : Nat) (f : Hod → Hod) : (modHod s i f).fresh = s.fresh := rfl
@[simp] theorem modHod_ctrStatus (s : State) (i : Nat) (f : Hod → Hod) : (modHod s i f).ctrStatus = s.ctrStatus := rfl
@[simp] theorem modHod_inputs (s : State) (i : Nat) (f : Hod → Hod) : (modHod s i f).inputs = s.inputs := rfl
@[simp] theorem modHod_stale (s : State) (i : Nat) (f : Hod → Hod) : (modHod s i f).stale = s.stale := rfl
@[simp] theorem modHod_enqs (s : State) (i : Nat) (f : Hod → Hod) : (modHod s i f).enqs = s.enqs := rfl
@[simp] theorem modHod_older (s : State) (i : Nat) (f : Hod → Hod) : (modHod s i f).older = s.older := rfl
@[simp] theorem modHod_phase (s : State) (i : Nat) (f : Hod → Hod) : (modHod s i f).phase = s.phase := rfl

/-! ### modPart -/

@[simp] theorem modPart_cycle (s : State) (i : Nat) (f : Part → Part) : (modPart s i f).cycle = s.cycle := rfl
@[simp] theorem modPart_devTime (s : State) (i : Nat) (f : Part → Part) : (modPart s i f).devTime = s.devTime := rfl
@[simp] theorem modPart_cores (s : State) (i : Nat) (f : Part → Part) : (modPart s i f).cores = s.cores := rfl
@[simp] theorem modPart_clusters (s : State) (i : Nat) (f : Part → Part) : (modPart s i f).clusters = s.clusters := rfl
@[simp] theorem modPart_hods (s : State) (i : Nat) (f : Part → Part) : (modPart s i f).hods = s.hods := rfl
@[simp] theorem modPart_mem (s : State) (i : Nat) (f : Part → Part) : (modPart s i f).mem = s.mem := rfl
@[simp] theorem modPart_ecc (s : State) (i : Nat) (f : Part → Part) : (modPart s i f).ecc = s.ecc := rfl
@[simp] theorem modPart_injected (s : State) (i : Nat) (f : Part → Part) : (modPart s i f).injected = s.injected := rfl
@[simp] theorem modPart_net (s : State) (i : Nat) (f : Part → Part) : (modPart s i f).net = s.net := rfl
@[simp] theorem modPart_fills (s : State) (i : Nat) (f : Part → Part) : (modPart s i f).fills = s.fills := rfl
@[simp] theorem modPart_walks (s : State) (i : Nat) (f : Part → Part) : (modPart s i f).walks = s.walks := rfl
@[simp] theorem modPart_kills (s : State) (i : Nat) (f : Part → Part) : (modPart s i f).kills = s.kills := rfl
@[simp] theorem modPart_shadows (s : State) (i : Nat) (f : Part → Part) : (modPart s i f).shadows = s.shadows := rfl
@[simp] theorem modPart_pkg (s : State) (i : Nat) (f : Part → Part) : (modPart s i f).pkg = s.pkg := rfl
@[simp] theorem modPart_cur (s : State) (i : Nat) (f : Part → Part) : (modPart s i f).cur = s.cur := rfl
@[simp] theorem modPart_hodCur (s : State) (i : Nat) (f : Part → Part) : (modPart s i f).hodCur = s.hodCur := rfl
@[simp] theorem modPart_coreTurn (s : State) (i : Nat) (f : Part → Part) : (modPart s i f).coreTurn = s.coreTurn := rfl
@[simp] theorem modPart_stalled (s : State) (i : Nat) (f : Part → Part) : (modPart s i f).stalled = s.stalled := rfl
@[simp] theorem modPart_uid (s : State) (i : Nat) (f : Part → Part) : (modPart s i f).uid = s.uid := rfl
@[simp] theorem modPart_fresh (s : State) (i : Nat) (f : Part → Part) : (modPart s i f).fresh = s.fresh := rfl
@[simp] theorem modPart_ctrStatus (s : State) (i : Nat) (f : Part → Part) : (modPart s i f).ctrStatus = s.ctrStatus := rfl
@[simp] theorem modPart_inputs (s : State) (i : Nat) (f : Part → Part) : (modPart s i f).inputs = s.inputs := rfl
@[simp] theorem modPart_stale (s : State) (i : Nat) (f : Part → Part) : (modPart s i f).stale = s.stale := rfl
@[simp] theorem modPart_enqs (s : State) (i : Nat) (f : Part → Part) : (modPart s i f).enqs = s.enqs := rfl
@[simp] theorem modPart_older (s : State) (i : Nat) (f : Part → Part) : (modPart s i f).older = s.older := rfl
@[simp] theorem modPart_phase (s : State) (i : Nat) (f : Part → Part) : (modPart s i f).phase = s.phase := rfl

/-! ### modPkg -/

@[simp] theorem modPkg_cycle (s : State) (f : Pkg → Pkg) : (modPkg s f).cycle = s.cycle := rfl
@[simp] theorem modPkg_devTime (s : State) (f : Pkg → Pkg) : (modPkg s f).devTime = s.devTime := rfl
@[simp] theorem modPkg_cores (s : State) (f : Pkg → Pkg) : (modPkg s f).cores = s.cores := rfl
@[simp] theorem modPkg_clusters (s : State) (f : Pkg → Pkg) : (modPkg s f).clusters = s.clusters := rfl
@[simp] theorem modPkg_hods (s : State) (f : Pkg → Pkg) : (modPkg s f).hods = s.hods := rfl
@[simp] theorem modPkg_parts (s : State) (f : Pkg → Pkg) : (modPkg s f).parts = s.parts := rfl
@[simp] theorem modPkg_mem (s : State) (f : Pkg → Pkg) : (modPkg s f).mem = s.mem := rfl
@[simp] theorem modPkg_ecc (s : State) (f : Pkg → Pkg) : (modPkg s f).ecc = s.ecc := rfl
@[simp] theorem modPkg_injected (s : State) (f : Pkg → Pkg) : (modPkg s f).injected = s.injected := rfl
@[simp] theorem modPkg_net (s : State) (f : Pkg → Pkg) : (modPkg s f).net = s.net := rfl
@[simp] theorem modPkg_fills (s : State) (f : Pkg → Pkg) : (modPkg s f).fills = s.fills := rfl
@[simp] theorem modPkg_walks (s : State) (f : Pkg → Pkg) : (modPkg s f).walks = s.walks := rfl
@[simp] theorem modPkg_kills (s : State) (f : Pkg → Pkg) : (modPkg s f).kills = s.kills := rfl
@[simp] theorem modPkg_shadows (s : State) (f : Pkg → Pkg) : (modPkg s f).shadows = s.shadows := rfl
@[simp] theorem modPkg_cur (s : State) (f : Pkg → Pkg) : (modPkg s f).cur = s.cur := rfl
@[simp] theorem modPkg_hodCur (s : State) (f : Pkg → Pkg) : (modPkg s f).hodCur = s.hodCur := rfl
@[simp] theorem modPkg_coreTurn (s : State) (f : Pkg → Pkg) : (modPkg s f).coreTurn = s.coreTurn := rfl
@[simp] theorem modPkg_stalled (s : State) (f : Pkg → Pkg) : (modPkg s f).stalled = s.stalled := rfl
@[simp] theorem modPkg_uid (s : State) (f : Pkg → Pkg) : (modPkg s f).uid = s.uid := rfl
@[simp] theorem modPkg_fresh (s : State) (f : Pkg → Pkg) : (modPkg s f).fresh = s.fresh := rfl
@[simp] theorem modPkg_ctrStatus (s : State) (f : Pkg → Pkg) : (modPkg s f).ctrStatus = s.ctrStatus := rfl
@[simp] theorem modPkg_inputs (s : State) (f : Pkg → Pkg) : (modPkg s f).inputs = s.inputs := rfl
@[simp] theorem modPkg_stale (s : State) (f : Pkg → Pkg) : (modPkg s f).stale = s.stale := rfl
@[simp] theorem modPkg_enqs (s : State) (f : Pkg → Pkg) : (modPkg s f).enqs = s.enqs := rfl
@[simp] theorem modPkg_older (s : State) (f : Pkg → Pkg) : (modPkg s f).older = s.older := rfl
@[simp] theorem modPkg_phase (s : State) (f : Pkg → Pkg) : (modPkg s f).phase = s.phase := rfl

/-! ### dropMsg -/

@[simp] theorem dropMsg_cycle (s : State) (i : Nat) : (dropMsg s i).cycle = s.cycle := rfl
@[simp] theorem dropMsg_devTime (s : State) (i : Nat) : (dropMsg s i).devTime = s.devTime := rfl
@[simp] theorem dropMsg_cores (s : State) (i : Nat) : (dropMsg s i).cores = s.cores := rfl
@[simp] theorem dropMsg_clusters (s : State) (i : Nat) : (dropMsg s i).clusters = s.clusters := rfl
@[simp] theorem dropMsg_hods (s : State) (i : Nat) : (dropMsg s i).hods = s.hods := rfl
@[simp] theorem dropMsg_parts (s : State) (i : Nat) : (dropMsg s i).parts = s.parts := rfl
@[simp] theorem dropMsg_mem (s : State) (i : Nat) : (dropMsg s i).mem = s.mem := rfl
@[simp] theorem dropMsg_ecc (s : State) (i : Nat) : (dropMsg s i).ecc = s.ecc := rfl
@[simp] theorem dropMsg_injected (s : State) (i : Nat) : (dropMsg s i).injected = s.injected := rfl
@[simp] theorem dropMsg_fills (s : State) (i : Nat) : (dropMsg s i).fills = s.fills := rfl
@[simp] theorem dropMsg_walks (s : State) (i : Nat) : (dropMsg s i).walks = s.walks := rfl
@[simp] theorem dropMsg_kills (s : State) (i : Nat) : (dropMsg s i).kills = s.kills := rfl
@[simp] theorem dropMsg_shadows (s : State) (i : Nat) : (dropMsg s i).shadows = s.shadows := rfl
@[simp] theorem dropMsg_pkg (s : State) (i : Nat) : (dropMsg s i).pkg = s.pkg := rfl
@[simp] theorem dropMsg_cur (s : State) (i : Nat) : (dropMsg s i).cur = s.cur := rfl
@[simp] theorem dropMsg_hodCur (s : State) (i : Nat) : (dropMsg s i).hodCur = s.hodCur := rfl
@[simp] theorem dropMsg_coreTurn (s : State) (i : Nat) : (dropMsg s i).coreTurn = s.coreTurn := rfl
@[simp] theorem dropMsg_stalled (s : State) (i : Nat) : (dropMsg s i).stalled = s.stalled := rfl
@[simp] theorem dropMsg_uid (s : State) (i : Nat) : (dropMsg s i).uid = s.uid := rfl
@[simp] theorem dropMsg_fresh (s : State) (i : Nat) : (dropMsg s i).fresh = s.fresh := rfl
@[simp] theorem dropMsg_ctrStatus (s : State) (i : Nat) : (dropMsg s i).ctrStatus = s.ctrStatus := rfl
@[simp] theorem dropMsg_inputs (s : State) (i : Nat) : (dropMsg s i).inputs = s.inputs := rfl
@[simp] theorem dropMsg_stale (s : State) (i : Nat) : (dropMsg s i).stale = s.stale := rfl
@[simp] theorem dropMsg_enqs (s : State) (i : Nat) : (dropMsg s i).enqs = s.enqs := rfl
@[simp] theorem dropMsg_older (s : State) (i : Nat) : (dropMsg s i).older = s.older := rfl
@[simp] theorem dropMsg_phase (s : State) (i : Nat) : (dropMsg s i).phase = s.phase := rfl

/-! ### placeBytes -/

@[simp] theorem placeBytes_cycle (s : State) (k : Nat) (bs : List Byte) : (placeBytes s k bs).cycle = s.cycle := rfl
@[simp] theorem placeBytes_devTime (s : State) (k : Nat) (bs : List Byte) : (placeBytes s k bs).devTime = s.devTime := rfl
@[simp] theorem placeBytes_cores (s : State) (k : Nat) (bs : List Byte) : (placeBytes s k bs).cores = s.cores := rfl
@[simp] theorem placeBytes_clusters (s : State) (k : Nat) (bs : List Byte) : (placeBytes s k bs).clusters = s.clusters := rfl
@[simp] theorem placeBytes_hods (s : State) (k : Nat) (bs : List Byte) : (placeBytes s k bs).hods = s.hods := rfl
@[simp] theorem placeBytes_parts (s : State) (k : Nat) (bs : List Byte) : (placeBytes s k bs).parts = s.parts := rfl
@[simp] theorem placeBytes_net (s : State) (k : Nat) (bs : List Byte) : (placeBytes s k bs).net = s.net := rfl
@[simp] theorem placeBytes_fills (s : State) (k : Nat) (bs : List Byte) : (placeBytes s k bs).fills = s.fills := rfl
@[simp] theorem placeBytes_walks (s : State) (k : Nat) (bs : List Byte) : (placeBytes s k bs).walks = s.walks := rfl
@[simp] theorem placeBytes_kills (s : State) (k : Nat) (bs : List Byte) : (placeBytes s k bs).kills = s.kills := rfl
@[simp] theorem placeBytes_shadows (s : State) (k : Nat) (bs : List Byte) : (placeBytes s k bs).shadows = s.shadows := rfl
@[simp] theorem placeBytes_stale (s : State) (k : Nat) (bs : List Byte) : (placeBytes s k bs).stale = s.stale := rfl
@[simp] theorem placeBytes_enqs (s : State) (k : Nat) (bs : List Byte) : (placeBytes s k bs).enqs = s.enqs := rfl
@[simp] theorem placeBytes_pkg (s : State) (k : Nat) (bs : List Byte) : (placeBytes s k bs).pkg = s.pkg := rfl
@[simp] theorem placeBytes_cur (s : State) (k : Nat) (bs : List Byte) : (placeBytes s k bs).cur = s.cur := rfl
@[simp] theorem placeBytes_hodCur (s : State) (k : Nat) (bs : List Byte) : (placeBytes s k bs).hodCur = s.hodCur := rfl
@[simp] theorem placeBytes_coreTurn (s : State) (k : Nat) (bs : List Byte) : (placeBytes s k bs).coreTurn = s.coreTurn := rfl
@[simp] theorem placeBytes_phase (s : State) (k : Nat) (bs : List Byte) : (placeBytes s k bs).phase = s.phase := rfl
@[simp] theorem placeBytes_stalled (s : State) (k : Nat) (bs : List Byte) : (placeBytes s k bs).stalled = s.stalled := rfl
@[simp] theorem placeBytes_uid (s : State) (k : Nat) (bs : List Byte) : (placeBytes s k bs).uid = s.uid := rfl
@[simp] theorem placeBytes_fresh (s : State) (k : Nat) (bs : List Byte) : (placeBytes s k bs).fresh = s.fresh := rfl
@[simp] theorem placeBytes_ctrStatus (s : State) (k : Nat) (bs : List Byte) : (placeBytes s k bs).ctrStatus = s.ctrStatus := rfl
@[simp] theorem placeBytes_inputs (s : State) (k : Nat) (bs : List Byte) : (placeBytes s k bs).inputs = s.inputs := rfl

/-! ### clearMark -/

@[simp] theorem clearMark_cycle (s : State) (k n : Nat) : (clearMark s k n).cycle = s.cycle := rfl
@[simp] theorem clearMark_devTime (s : State) (k n : Nat) : (clearMark s k n).devTime = s.devTime := rfl
@[simp] theorem clearMark_cores (s : State) (k n : Nat) : (clearMark s k n).cores = s.cores := rfl
@[simp] theorem clearMark_clusters (s : State) (k n : Nat) : (clearMark s k n).clusters = s.clusters := rfl
@[simp] theorem clearMark_hods (s : State) (k n : Nat) : (clearMark s k n).hods = s.hods := rfl
@[simp] theorem clearMark_parts (s : State) (k n : Nat) : (clearMark s k n).parts = s.parts := rfl
@[simp] theorem clearMark_mem (s : State) (k n : Nat) : (clearMark s k n).mem = s.mem := rfl
@[simp] theorem clearMark_injected (s : State) (k n : Nat) : (clearMark s k n).injected = s.injected := rfl
@[simp] theorem clearMark_net (s : State) (k n : Nat) : (clearMark s k n).net = s.net := rfl
@[simp] theorem clearMark_fills (s : State) (k n : Nat) : (clearMark s k n).fills = s.fills := rfl
@[simp] theorem clearMark_walks (s : State) (k n : Nat) : (clearMark s k n).walks = s.walks := rfl
@[simp] theorem clearMark_kills (s : State) (k n : Nat) : (clearMark s k n).kills = s.kills := rfl
@[simp] theorem clearMark_shadows (s : State) (k n : Nat) : (clearMark s k n).shadows = s.shadows := rfl
@[simp] theorem clearMark_stale (s : State) (k n : Nat) : (clearMark s k n).stale = s.stale := rfl
@[simp] theorem clearMark_enqs (s : State) (k n : Nat) : (clearMark s k n).enqs = s.enqs := rfl
@[simp] theorem clearMark_older (s : State) (k n : Nat) : (clearMark s k n).older = s.older := rfl
@[simp] theorem clearMark_pkg (s : State) (k n : Nat) : (clearMark s k n).pkg = s.pkg := rfl
@[simp] theorem clearMark_cur (s : State) (k n : Nat) : (clearMark s k n).cur = s.cur := rfl
@[simp] theorem clearMark_hodCur (s : State) (k n : Nat) : (clearMark s k n).hodCur = s.hodCur := rfl
@[simp] theorem clearMark_coreTurn (s : State) (k n : Nat) : (clearMark s k n).coreTurn = s.coreTurn := rfl
@[simp] theorem clearMark_phase (s : State) (k n : Nat) : (clearMark s k n).phase = s.phase := rfl
@[simp] theorem clearMark_stalled (s : State) (k n : Nat) : (clearMark s k n).stalled = s.stalled := rfl
@[simp] theorem clearMark_uid (s : State) (k n : Nat) : (clearMark s k n).uid = s.uid := rfl
@[simp] theorem clearMark_fresh (s : State) (k n : Nat) : (clearMark s k n).fresh = s.fresh := rfl
@[simp] theorem clearMark_ctrStatus (s : State) (k n : Nat) : (clearMark s k n).ctrStatus = s.ctrStatus := rfl
@[simp] theorem clearMark_inputs (s : State) (k n : Nat) : (clearMark s k n).inputs = s.inputs := rfl

/-! ### storeBy -/

@[simp] theorem storeBy_cycle (s : State) (w : Option (Nat × Nat)) (o : Nat × Nat) (k : Nat) (bs : List Byte) : (storeBy w o s k bs).cycle = s.cycle := rfl
@[simp] theorem storeBy_devTime (s : State) (w : Option (Nat × Nat)) (o : Nat × Nat) (k : Nat) (bs : List Byte) : (storeBy w o s k bs).devTime = s.devTime := rfl
@[simp] theorem storeBy_clusters (s : State) (w : Option (Nat × Nat)) (o : Nat × Nat) (k : Nat) (bs : List Byte) : (storeBy w o s k bs).clusters = s.clusters := rfl
@[simp] theorem storeBy_hods (s : State) (w : Option (Nat × Nat)) (o : Nat × Nat) (k : Nat) (bs : List Byte) : (storeBy w o s k bs).hods = s.hods := rfl
@[simp] theorem storeBy_parts (s : State) (w : Option (Nat × Nat)) (o : Nat × Nat) (k : Nat) (bs : List Byte) : (storeBy w o s k bs).parts = s.parts := rfl
@[simp] theorem storeBy_net (s : State) (w : Option (Nat × Nat)) (o : Nat × Nat) (k : Nat) (bs : List Byte) : (storeBy w o s k bs).net = s.net := rfl
@[simp] theorem storeBy_fills (s : State) (w : Option (Nat × Nat)) (o : Nat × Nat) (k : Nat) (bs : List Byte) : (storeBy w o s k bs).fills = s.fills := rfl
@[simp] theorem storeBy_walks (s : State) (w : Option (Nat × Nat)) (o : Nat × Nat) (k : Nat) (bs : List Byte) : (storeBy w o s k bs).walks = s.walks := rfl
@[simp] theorem storeBy_kills (s : State) (w : Option (Nat × Nat)) (o : Nat × Nat) (k : Nat) (bs : List Byte) : (storeBy w o s k bs).kills = s.kills := rfl
@[simp] theorem storeBy_shadows (s : State) (w : Option (Nat × Nat)) (o : Nat × Nat) (k : Nat) (bs : List Byte) : (storeBy w o s k bs).shadows = s.shadows := rfl
@[simp] theorem storeBy_pkg (s : State) (w : Option (Nat × Nat)) (o : Nat × Nat) (k : Nat) (bs : List Byte) : (storeBy w o s k bs).pkg = s.pkg := rfl
@[simp] theorem storeBy_cur (s : State) (w : Option (Nat × Nat)) (o : Nat × Nat) (k : Nat) (bs : List Byte) : (storeBy w o s k bs).cur = s.cur := rfl
@[simp] theorem storeBy_hodCur (s : State) (w : Option (Nat × Nat)) (o : Nat × Nat) (k : Nat) (bs : List Byte) : (storeBy w o s k bs).hodCur = s.hodCur := rfl
@[simp] theorem storeBy_coreTurn (s : State) (w : Option (Nat × Nat)) (o : Nat × Nat) (k : Nat) (bs : List Byte) : (storeBy w o s k bs).coreTurn = s.coreTurn := rfl
@[simp] theorem storeBy_stalled (s : State) (w : Option (Nat × Nat)) (o : Nat × Nat) (k : Nat) (bs : List Byte) : (storeBy w o s k bs).stalled = s.stalled := rfl
@[simp] theorem storeBy_uid (s : State) (w : Option (Nat × Nat)) (o : Nat × Nat) (k : Nat) (bs : List Byte) : (storeBy w o s k bs).uid = s.uid := rfl
@[simp] theorem storeBy_fresh (s : State) (w : Option (Nat × Nat)) (o : Nat × Nat) (k : Nat) (bs : List Byte) : (storeBy w o s k bs).fresh = s.fresh := rfl
@[simp] theorem storeBy_ctrStatus (s : State) (w : Option (Nat × Nat)) (o : Nat × Nat) (k : Nat) (bs : List Byte) : (storeBy w o s k bs).ctrStatus = s.ctrStatus := rfl
@[simp] theorem storeBy_inputs (s : State) (w : Option (Nat × Nat)) (o : Nat × Nat) (k : Nat) (bs : List Byte) : (storeBy w o s k bs).inputs = s.inputs := rfl
@[simp] theorem storeBy_stale (s : State) (w : Option (Nat × Nat)) (o : Nat × Nat) (k : Nat) (bs : List Byte) : (storeBy w o s k bs).stale = s.stale := rfl
@[simp] theorem storeBy_enqs (s : State) (w : Option (Nat × Nat)) (o : Nat × Nat) (k : Nat) (bs : List Byte) : (storeBy w o s k bs).enqs = s.enqs := rfl
@[simp] theorem storeBy_phase (s : State) (w : Option (Nat × Nat)) (o : Nat × Nat) (k : Nat) (bs : List Byte) : (storeBy w o s k bs).phase = s.phase := rfl

/-! ### storeBytes -/

@[simp] theorem storeBytes_cycle (s : State) (k : Nat) (bs : List Byte) : (storeBytes s k bs).cycle = s.cycle := rfl
@[simp] theorem storeBytes_devTime (s : State) (k : Nat) (bs : List Byte) : (storeBytes s k bs).devTime = s.devTime := rfl
@[simp] theorem storeBytes_clusters (s : State) (k : Nat) (bs : List Byte) : (storeBytes s k bs).clusters = s.clusters := rfl
@[simp] theorem storeBytes_hods (s : State) (k : Nat) (bs : List Byte) : (storeBytes s k bs).hods = s.hods := rfl
@[simp] theorem storeBytes_parts (s : State) (k : Nat) (bs : List Byte) : (storeBytes s k bs).parts = s.parts := rfl
@[simp] theorem storeBytes_net (s : State) (k : Nat) (bs : List Byte) : (storeBytes s k bs).net = s.net := rfl
@[simp] theorem storeBytes_fills (s : State) (k : Nat) (bs : List Byte) : (storeBytes s k bs).fills = s.fills := rfl
@[simp] theorem storeBytes_walks (s : State) (k : Nat) (bs : List Byte) : (storeBytes s k bs).walks = s.walks := rfl
@[simp] theorem storeBytes_kills (s : State) (k : Nat) (bs : List Byte) : (storeBytes s k bs).kills = s.kills := rfl
@[simp] theorem storeBytes_shadows (s : State) (k : Nat) (bs : List Byte) : (storeBytes s k bs).shadows = s.shadows := rfl
@[simp] theorem storeBytes_pkg (s : State) (k : Nat) (bs : List Byte) : (storeBytes s k bs).pkg = s.pkg := rfl
@[simp] theorem storeBytes_cur (s : State) (k : Nat) (bs : List Byte) : (storeBytes s k bs).cur = s.cur := rfl
@[simp] theorem storeBytes_hodCur (s : State) (k : Nat) (bs : List Byte) : (storeBytes s k bs).hodCur = s.hodCur := rfl
@[simp] theorem storeBytes_coreTurn (s : State) (k : Nat) (bs : List Byte) : (storeBytes s k bs).coreTurn = s.coreTurn := rfl
@[simp] theorem storeBytes_stalled (s : State) (k : Nat) (bs : List Byte) : (storeBytes s k bs).stalled = s.stalled := rfl
@[simp] theorem storeBytes_uid (s : State) (k : Nat) (bs : List Byte) : (storeBytes s k bs).uid = s.uid := rfl
@[simp] theorem storeBytes_fresh (s : State) (k : Nat) (bs : List Byte) : (storeBytes s k bs).fresh = s.fresh := rfl
@[simp] theorem storeBytes_ctrStatus (s : State) (k : Nat) (bs : List Byte) : (storeBytes s k bs).ctrStatus = s.ctrStatus := rfl
@[simp] theorem storeBytes_inputs (s : State) (k : Nat) (bs : List Byte) : (storeBytes s k bs).inputs = s.inputs := rfl
@[simp] theorem storeBytes_stale (s : State) (k : Nat) (bs : List Byte) : (storeBytes s k bs).stale = s.stale := rfl
@[simp] theorem storeBytes_enqs (s : State) (k : Nat) (bs : List Byte) : (storeBytes s k bs).enqs = s.enqs := rfl
@[simp] theorem storeBytes_phase (s : State) (k : Nat) (bs : List Byte) : (storeBytes s k bs).phase = s.phase := rfl

/-! ### threadStore -/

@[simp] theorem threadStore_cycle (s : State) (c n k : Nat) (bs : List Byte) : (threadStore s c n k bs).cycle = s.cycle := rfl
@[simp] theorem threadStore_devTime (s : State) (c n k : Nat) (bs : List Byte) : (threadStore s c n k bs).devTime = s.devTime := rfl
@[simp] theorem threadStore_clusters (s : State) (c n k : Nat) (bs : List Byte) : (threadStore s c n k bs).clusters = s.clusters := rfl
@[simp] theorem threadStore_hods (s : State) (c n k : Nat) (bs : List Byte) : (threadStore s c n k bs).hods = s.hods := rfl
@[simp] theorem threadStore_parts (s : State) (c n k : Nat) (bs : List Byte) : (threadStore s c n k bs).parts = s.parts := rfl
@[simp] theorem threadStore_net (s : State) (c n k : Nat) (bs : List Byte) : (threadStore s c n k bs).net = s.net := rfl
@[simp] theorem threadStore_fills (s : State) (c n k : Nat) (bs : List Byte) : (threadStore s c n k bs).fills = s.fills := rfl
@[simp] theorem threadStore_walks (s : State) (c n k : Nat) (bs : List Byte) : (threadStore s c n k bs).walks = s.walks := rfl
@[simp] theorem threadStore_kills (s : State) (c n k : Nat) (bs : List Byte) : (threadStore s c n k bs).kills = s.kills := rfl
@[simp] theorem threadStore_shadows (s : State) (c n k : Nat) (bs : List Byte) : (threadStore s c n k bs).shadows = s.shadows := rfl
@[simp] theorem threadStore_pkg (s : State) (c n k : Nat) (bs : List Byte) : (threadStore s c n k bs).pkg = s.pkg := rfl
@[simp] theorem threadStore_cur (s : State) (c n k : Nat) (bs : List Byte) : (threadStore s c n k bs).cur = s.cur := rfl
@[simp] theorem threadStore_hodCur (s : State) (c n k : Nat) (bs : List Byte) : (threadStore s c n k bs).hodCur = s.hodCur := rfl
@[simp] theorem threadStore_coreTurn (s : State) (c n k : Nat) (bs : List Byte) : (threadStore s c n k bs).coreTurn = s.coreTurn := rfl
@[simp] theorem threadStore_stalled (s : State) (c n k : Nat) (bs : List Byte) : (threadStore s c n k bs).stalled = s.stalled := rfl
@[simp] theorem threadStore_uid (s : State) (c n k : Nat) (bs : List Byte) : (threadStore s c n k bs).uid = s.uid := rfl
@[simp] theorem threadStore_fresh (s : State) (c n k : Nat) (bs : List Byte) : (threadStore s c n k bs).fresh = s.fresh := rfl
@[simp] theorem threadStore_ctrStatus (s : State) (c n k : Nat) (bs : List Byte) : (threadStore s c n k bs).ctrStatus = s.ctrStatus := rfl
@[simp] theorem threadStore_inputs (s : State) (c n k : Nat) (bs : List Byte) : (threadStore s c n k bs).inputs = s.inputs := rfl
@[simp] theorem threadStore_enqs (s : State) (c n k : Nat) (bs : List Byte) : (threadStore s c n k bs).enqs = s.enqs := rfl
@[simp] theorem threadStore_phase (s : State) (c n k : Nat) (bs : List Byte) : (threadStore s c n k bs).phase = s.phase := rfl

/-! ### wakeSlots -/

@[simp] theorem wakeSlots_cycle (s : State) (c : Nat) (f : Nat → Slot → Bool) : (wakeSlots s c f).cycle = s.cycle := by
  unfold wakeSlots; dsimp only; repeat' split
  all_goals rfl
@[simp] theorem wakeSlots_devTime (s : State) (c : Nat) (f : Nat → Slot → Bool) : (wakeSlots s c f).devTime = s.devTime := by
  unfold wakeSlots; dsimp only; repeat' split
  all_goals rfl
@[simp] theorem wakeSlots_clusters (s : State) (c : Nat) (f : Nat → Slot → Bool) : (wakeSlots s c f).clusters = s.clusters := by
  unfold wakeSlots; dsimp only; repeat' split
  all_goals rfl
@[simp] theorem wakeSlots_hods (s : State) (c : Nat) (f : Nat → Slot → Bool) : (wakeSlots s c f).hods = s.hods := by
  unfold wakeSlots; dsimp only; repeat' split
  all_goals rfl
@[simp] theorem wakeSlots_parts (s : State) (c : Nat) (f : Nat → Slot → Bool) : (wakeSlots s c f).parts = s.parts := by
  unfold wakeSlots; dsimp only; repeat' split
  all_goals rfl
@[simp] theorem wakeSlots_mem (s : State) (c : Nat) (f : Nat → Slot → Bool) : (wakeSlots s c f).mem = s.mem := by
  unfold wakeSlots; dsimp only; repeat' split
  all_goals rfl
@[simp] theorem wakeSlots_ecc (s : State) (c : Nat) (f : Nat → Slot → Bool) : (wakeSlots s c f).ecc = s.ecc := by
  unfold wakeSlots; dsimp only; repeat' split
  all_goals rfl
@[simp] theorem wakeSlots_injected (s : State) (c : Nat) (f : Nat → Slot → Bool) : (wakeSlots s c f).injected = s.injected := by
  unfold wakeSlots; dsimp only; repeat' split
  all_goals rfl
@[simp] theorem wakeSlots_net (s : State) (c : Nat) (f : Nat → Slot → Bool) : (wakeSlots s c f).net = s.net := by
  unfold wakeSlots; dsimp only; repeat' split
  all_goals rfl
@[simp] theorem wakeSlots_fills (s : State) (c : Nat) (f : Nat → Slot → Bool) : (wakeSlots s c f).fills = s.fills := by
  unfold wakeSlots; dsimp only; repeat' split
  all_goals rfl
@[simp] theorem wakeSlots_walks (s : State) (c : Nat) (f : Nat → Slot → Bool) : (wakeSlots s c f).walks = s.walks := by
  unfold wakeSlots; dsimp only; repeat' split
  all_goals rfl
@[simp] theorem wakeSlots_kills (s : State) (c : Nat) (f : Nat → Slot → Bool) : (wakeSlots s c f).kills = s.kills := by
  unfold wakeSlots; dsimp only; repeat' split
  all_goals rfl
@[simp] theorem wakeSlots_shadows (s : State) (c : Nat) (f : Nat → Slot → Bool) : (wakeSlots s c f).shadows = s.shadows := by
  unfold wakeSlots; dsimp only; repeat' split
  all_goals rfl
@[simp] theorem wakeSlots_pkg (s : State) (c : Nat) (f : Nat → Slot → Bool) : (wakeSlots s c f).pkg = s.pkg := by
  unfold wakeSlots; dsimp only; repeat' split
  all_goals rfl
@[simp] theorem wakeSlots_cur (s : State) (c : Nat) (f : Nat → Slot → Bool) : (wakeSlots s c f).cur = s.cur := by
  unfold wakeSlots; dsimp only; repeat' split
  all_goals rfl
@[simp] theorem wakeSlots_hodCur (s : State) (c : Nat) (f : Nat → Slot → Bool) : (wakeSlots s c f).hodCur = s.hodCur := by
  unfold wakeSlots; dsimp only; repeat' split
  all_goals rfl
@[simp] theorem wakeSlots_coreTurn (s : State) (c : Nat) (f : Nat → Slot → Bool) : (wakeSlots s c f).coreTurn = s.coreTurn := by
  unfold wakeSlots; dsimp only; repeat' split
  all_goals rfl
@[simp] theorem wakeSlots_stalled (s : State) (c : Nat) (f : Nat → Slot → Bool) : (wakeSlots s c f).stalled = s.stalled := by
  unfold wakeSlots; dsimp only; repeat' split
  all_goals rfl
@[simp] theorem wakeSlots_uid (s : State) (c : Nat) (f : Nat → Slot → Bool) : (wakeSlots s c f).uid = s.uid := by
  unfold wakeSlots; dsimp only; repeat' split
  all_goals rfl
@[simp] theorem wakeSlots_ctrStatus (s : State) (c : Nat) (f : Nat → Slot → Bool) : (wakeSlots s c f).ctrStatus = s.ctrStatus := by
  unfold wakeSlots; dsimp only; repeat' split
  all_goals rfl
@[simp] theorem wakeSlots_inputs (s : State) (c : Nat) (f : Nat → Slot → Bool) : (wakeSlots s c f).inputs = s.inputs := by
  unfold wakeSlots; dsimp only; repeat' split
  all_goals rfl
@[simp] theorem wakeSlots_stale (s : State) (c : Nat) (f : Nat → Slot → Bool) : (wakeSlots s c f).stale = s.stale := by
  unfold wakeSlots; dsimp only; repeat' split
  all_goals rfl
@[simp] theorem wakeSlots_enqs (s : State) (c : Nat) (f : Nat → Slot → Bool) : (wakeSlots s c f).enqs = s.enqs := by
  unfold wakeSlots; dsimp only; repeat' split
  all_goals rfl
@[simp] theorem wakeSlots_older (s : State) (c : Nat) (f : Nat → Slot → Bool) : (wakeSlots s c f).older = s.older := by
  unfold wakeSlots; dsimp only; repeat' split
  all_goals rfl
@[simp] theorem wakeSlots_phase (s : State) (c : Nat) (f : Nat → Slot → Bool) : (wakeSlots s c f).phase = s.phase := by
  unfold wakeSlots; dsimp only; repeat' split
  all_goals rfl

/-! ### readySlot -/

@[simp] theorem readySlot_st (i : Nat) (x : Slot) : (readySlot i x).st = .ready := rfl
@[simp] theorem readySlot_isHeld (i : Nat) (x : Slot) : (readySlot i x).isHeld = x.isHeld := rfl
@[simp] theorem readySlot_thread (i : Nat) (x : Slot) : (readySlot i x).thread = x.thread := rfl
@[simp] theorem readySlot_asid (i : Nat) (x : Slot) : (readySlot i x).asid = x.asid := rfl
@[simp] theorem readySlot_egt (i : Nat) (x : Slot) : (readySlot i x).egt = x.egt := rfl
@[simp] theorem readySlot_limit (i : Nat) (x : Slot) : (readySlot i x).limit = x.limit := rfl
@[simp] theorem readySlot_age (i : Nat) (x : Slot) : (readySlot i x).age = x.age := rfl
@[simp] theorem readySlot_satCycle (i : Nat) (x : Slot) : (readySlot i x).satCycle = x.satCycle := rfl
@[simp] theorem readySlot_waitCount (i : Nat) (x : Slot) : (readySlot i x).waitCount = x.waitCount := rfl
@[simp] theorem readySlot_limitHit (i : Nat) (x : Slot) : (readySlot i x).limitHit = x.limitHit := rfl
@[simp] theorem readySlot_cancelled (i : Nat) (x : Slot) : (readySlot i x).cancelled = x.cancelled := rfl
@[simp] theorem readySlot_lastIssue (i : Nat) (x : Slot) : (readySlot i x).lastIssue = x.lastIssue := rfl
@[simp] theorem readySlot_readyAt (i : Nat) (x : Slot) : (readySlot i x).readyAt = i := rfl
@[simp] theorem readySlot_wait (i : Nat) (x : Slot) : (readySlot i x).wait = .none := rfl
@[simp] theorem readySlot_fetched (i : Nat) (x : Slot) : (readySlot i x).fetched = x.fetched := rfl
@[simp] theorem readySlot_visitFrom (i : Nat) (x : Slot) : (readySlot i x).visitFrom = x.visitFrom := rfl
@[simp] theorem readySlot_sin (i : Nat) (x : Slot) : (readySlot i x).sin = x.sin := rfl
@[simp] theorem readySlot_tvec (i : Nat) (x : Slot) : (readySlot i x).tvec = x.tvec := rfl
@[simp] theorem readySlot_epc (i : Nat) (x : Slot) : (readySlot i x).epc = x.epc := rfl
@[simp] theorem readySlot_cause (i : Nat) (x : Slot) : (readySlot i x).cause = x.cause := rfl
@[simp] theorem readySlot_tval (i : Nat) (x : Slot) : (readySlot i x).tval = x.tval := rfl
@[simp] theorem readySlot_detail (i : Nat) (x : Slot) : (readySlot i x).detail = x.detail := rfl

/-! ### restSlot -/

@[simp] theorem restSlot_st (x : Slot) : (restSlot x).st = x.st := rfl
@[simp] theorem restSlot_isHeld (x : Slot) : (restSlot x).isHeld = x.isHeld := rfl
@[simp] theorem restSlot_thread (x : Slot) : (restSlot x).thread = x.thread := rfl
@[simp] theorem restSlot_asid (x : Slot) : (restSlot x).asid = x.asid := rfl
@[simp] theorem restSlot_egt (x : Slot) : (restSlot x).egt = x.egt := rfl
@[simp] theorem restSlot_limit (x : Slot) : (restSlot x).limit = x.limit := rfl
@[simp] theorem restSlot_age (x : Slot) : (restSlot x).age = x.age := rfl
@[simp] theorem restSlot_satCycle (x : Slot) : (restSlot x).satCycle = x.satCycle := rfl
@[simp] theorem restSlot_waitCount (x : Slot) : (restSlot x).waitCount = 0 := rfl
@[simp] theorem restSlot_limitHit (x : Slot) : (restSlot x).limitHit = false := rfl
@[simp] theorem restSlot_cancelled (x : Slot) : (restSlot x).cancelled = x.cancelled := rfl
@[simp] theorem restSlot_lastIssue (x : Slot) : (restSlot x).lastIssue = x.lastIssue := rfl
@[simp] theorem restSlot_readyAt (x : Slot) : (restSlot x).readyAt = x.readyAt := rfl
@[simp] theorem restSlot_wait (x : Slot) : (restSlot x).wait = x.wait := rfl
@[simp] theorem restSlot_fetched (x : Slot) : (restSlot x).fetched = none := rfl
@[simp] theorem restSlot_visitFrom (x : Slot) : (restSlot x).visitFrom = x.visitFrom := rfl
@[simp] theorem restSlot_sin (x : Slot) : (restSlot x).sin = x.sin := rfl
@[simp] theorem restSlot_tvec (x : Slot) : (restSlot x).tvec = x.tvec := rfl
@[simp] theorem restSlot_epc (x : Slot) : (restSlot x).epc = x.epc := rfl
@[simp] theorem restSlot_cause (x : Slot) : (restSlot x).cause = x.cause := rfl
@[simp] theorem restSlot_tval (x : Slot) : (restSlot x).tval = x.tval := rfl
@[simp] theorem restSlot_detail (x : Slot) : (restSlot x).detail = x.detail := rfl

/-! ### issued -/

@[simp] theorem issued_st (i : Nat) (x : Slot) : (issued i x).st = x.st := rfl
@[simp] theorem issued_isHeld (i : Nat) (x : Slot) : (issued i x).isHeld = x.isHeld := rfl
@[simp] theorem issued_thread (i : Nat) (x : Slot) : (issued i x).thread = x.thread := rfl
@[simp] theorem issued_asid (i : Nat) (x : Slot) : (issued i x).asid = x.asid := rfl
@[simp] theorem issued_egt (i : Nat) (x : Slot) : (issued i x).egt = x.egt := rfl
@[simp] theorem issued_limit (i : Nat) (x : Slot) : (issued i x).limit = x.limit := rfl
@[simp] theorem issued_age (i : Nat) (x : Slot) : (issued i x).age = 0 := rfl
@[simp] theorem issued_satCycle (i : Nat) (x : Slot) : (issued i x).satCycle = x.satCycle := rfl
@[simp] theorem issued_waitCount (i : Nat) (x : Slot) : (issued i x).waitCount = x.waitCount := rfl
@[simp] theorem issued_limitHit (i : Nat) (x : Slot) : (issued i x).limitHit = x.limitHit := rfl
@[simp] theorem issued_cancelled (i : Nat) (x : Slot) : (issued i x).cancelled = x.cancelled := rfl
@[simp] theorem issued_lastIssue (i : Nat) (x : Slot) : (issued i x).lastIssue = some i := rfl
@[simp] theorem issued_readyAt (i : Nat) (x : Slot) : (issued i x).readyAt = x.readyAt := rfl
@[simp] theorem issued_wait (i : Nat) (x : Slot) : (issued i x).wait = x.wait := rfl
@[simp] theorem issued_fetched (i : Nat) (x : Slot) : (issued i x).fetched = x.fetched := rfl
@[simp] theorem issued_visitFrom (i : Nat) (x : Slot) : (issued i x).visitFrom = x.visitFrom := rfl
@[simp] theorem issued_sin (i : Nat) (x : Slot) : (issued i x).sin = x.sin := rfl
@[simp] theorem issued_tvec (i : Nat) (x : Slot) : (issued i x).tvec = x.tvec := rfl
@[simp] theorem issued_epc (i : Nat) (x : Slot) : (issued i x).epc = x.epc := rfl
@[simp] theorem issued_cause (i : Nat) (x : Slot) : (issued i x).cause = x.cause := rfl
@[simp] theorem issued_tval (i : Nat) (x : Slot) : (issued i x).tval = x.tval := rfl
@[simp] theorem issued_detail (i : Nat) (x : Slot) : (issued i x).detail = x.detail := rfl

/-! ### putReg -/

@[simp] theorem putReg_pw (t : Thread) (r : Nat) (x : Reg) : (putReg t r x).pw = t.pw := rfl
@[simp] theorem putReg_pc (t : Thread) (r : Nat) (x : Reg) : (putReg t r x).pc = t.pc := rfl
@[simp] theorem putReg_fmt (t : Thread) (r : Nat) (x : Reg) : (putReg t r x).fmt = t.fmt := rfl
@[simp] theorem putReg_sca (t : Thread) (r : Nat) (x : Reg) : (putReg t r x).sca = t.sca := rfl
@[simp] theorem putReg_scb (t : Thread) (r : Nat) (x : Reg) : (putReg t r x).scb = t.scb := rfl
@[simp] theorem putReg_lpc (t : Thread) (r : Nat) (x : Reg) : (putReg t r x).lpc = t.lpc := rfl
@[simp] theorem putReg_lps (t : Thread) (r : Nat) (x : Reg) : (putReg t r x).lps = t.lps := rfl
@[simp] theorem putReg_lpe (t : Thread) (r : Nat) (x : Reg) : (putReg t r x).lpe = t.lpe := rfl
@[simp] theorem putReg_home (t : Thread) (r : Nat) (x : Reg) : (putReg t r x).home = t.home := rfl
@[simp] theorem putReg_prio (t : Thread) (r : Nat) (x : Reg) : (putReg t r x).prio = t.prio := rfl
@[simp] theorem putReg_lane (t : Thread) (r : Nat) (x : Reg) : (putReg t r x).lane = t.lane := rfl
@[simp] theorem putReg_ccid (t : Thread) (r : Nat) (x : Reg) : (putReg t r x).ccid = t.ccid := rfl
@[simp] theorem putReg_tagFlags (t : Thread) (r : Nat) (x : Reg) : (putReg t r x).tagFlags = t.tagFlags := rfl
@[simp] theorem putReg_fflags (t : Thread) (r : Nat) (x : Reg) : (putReg t r x).fflags = t.fflags := rfl
@[simp] theorem putReg_held (t : Thread) (r : Nat) (x : Reg) : (putReg t r x).held = t.held := rfl
@[simp] theorem putReg_item (t : Thread) (r : Nat) (x : Reg) : (putReg t r x).item = t.item := rfl
@[simp] theorem putReg_stage (t : Thread) (r : Nat) (x : Reg) : (putReg t r x).stage = t.stage := rfl
@[simp] theorem putReg_tid (t : Thread) (r : Nat) (x : Reg) : (putReg t r x).tid = t.tid := rfl

/-! ### writeReg -/

@[simp] theorem writeReg_pw (t : Thread) (r : Nat) (v : Word) : (writeReg t r v).pw = t.pw := rfl
@[simp] theorem writeReg_pc (t : Thread) (r : Nat) (v : Word) : (writeReg t r v).pc = t.pc := rfl
@[simp] theorem writeReg_fmt (t : Thread) (r : Nat) (v : Word) : (writeReg t r v).fmt = t.fmt := rfl
@[simp] theorem writeReg_sca (t : Thread) (r : Nat) (v : Word) : (writeReg t r v).sca = t.sca := rfl
@[simp] theorem writeReg_scb (t : Thread) (r : Nat) (v : Word) : (writeReg t r v).scb = t.scb := rfl
@[simp] theorem writeReg_lpc (t : Thread) (r : Nat) (v : Word) : (writeReg t r v).lpc = t.lpc := rfl
@[simp] theorem writeReg_lps (t : Thread) (r : Nat) (v : Word) : (writeReg t r v).lps = t.lps := rfl
@[simp] theorem writeReg_lpe (t : Thread) (r : Nat) (v : Word) : (writeReg t r v).lpe = t.lpe := rfl
@[simp] theorem writeReg_home (t : Thread) (r : Nat) (v : Word) : (writeReg t r v).home = t.home := rfl
@[simp] theorem writeReg_prio (t : Thread) (r : Nat) (v : Word) : (writeReg t r v).prio = t.prio := rfl
@[simp] theorem writeReg_lane (t : Thread) (r : Nat) (v : Word) : (writeReg t r v).lane = t.lane := rfl
@[simp] theorem writeReg_ccid (t : Thread) (r : Nat) (v : Word) : (writeReg t r v).ccid = t.ccid := rfl
@[simp] theorem writeReg_tagFlags (t : Thread) (r : Nat) (v : Word) : (writeReg t r v).tagFlags = t.tagFlags := rfl
@[simp] theorem writeReg_fflags (t : Thread) (r : Nat) (v : Word) : (writeReg t r v).fflags = t.fflags := rfl
@[simp] theorem writeReg_held (t : Thread) (r : Nat) (v : Word) : (writeReg t r v).held = t.held := rfl
@[simp] theorem writeReg_item (t : Thread) (r : Nat) (v : Word) : (writeReg t r v).item = t.item := rfl
@[simp] theorem writeReg_stage (t : Thread) (r : Nat) (v : Word) : (writeReg t r v).stage = t.stage := rfl
@[simp] theorem writeReg_tid (t : Thread) (r : Nat) (v : Word) : (writeReg t r v).tid = t.tid := rfl

/-! ### reserveReg -/

@[simp] theorem reserveReg_pw (t : Thread) (r : Nat) : (reserveReg t r).pw = t.pw := rfl
@[simp] theorem reserveReg_pc (t : Thread) (r : Nat) : (reserveReg t r).pc = t.pc := rfl
@[simp] theorem reserveReg_fmt (t : Thread) (r : Nat) : (reserveReg t r).fmt = t.fmt := rfl
@[simp] theorem reserveReg_sca (t : Thread) (r : Nat) : (reserveReg t r).sca = t.sca := rfl
@[simp] theorem reserveReg_scb (t : Thread) (r : Nat) : (reserveReg t r).scb = t.scb := rfl
@[simp] theorem reserveReg_lpc (t : Thread) (r : Nat) : (reserveReg t r).lpc = t.lpc := rfl
@[simp] theorem reserveReg_lps (t : Thread) (r : Nat) : (reserveReg t r).lps = t.lps := rfl
@[simp] theorem reserveReg_lpe (t : Thread) (r : Nat) : (reserveReg t r).lpe = t.lpe := rfl
@[simp] theorem reserveReg_home (t : Thread) (r : Nat) : (reserveReg t r).home = t.home := rfl
@[simp] theorem reserveReg_prio (t : Thread) (r : Nat) : (reserveReg t r).prio = t.prio := rfl
@[simp] theorem reserveReg_lane (t : Thread) (r : Nat) : (reserveReg t r).lane = t.lane := rfl
@[simp] theorem reserveReg_ccid (t : Thread) (r : Nat) : (reserveReg t r).ccid = t.ccid := rfl
@[simp] theorem reserveReg_tagFlags (t : Thread) (r : Nat) : (reserveReg t r).tagFlags = t.tagFlags := rfl
@[simp] theorem reserveReg_fflags (t : Thread) (r : Nat) : (reserveReg t r).fflags = t.fflags := rfl
@[simp] theorem reserveReg_held (t : Thread) (r : Nat) : (reserveReg t r).held = t.held := rfl
@[simp] theorem reserveReg_item (t : Thread) (r : Nat) : (reserveReg t r).item = t.item := rfl
@[simp] theorem reserveReg_stage (t : Thread) (r : Nat) : (reserveReg t r).stage = t.stage := rfl
@[simp] theorem reserveReg_tid (t : Thread) (r : Nat) : (reserveReg t r).tid = t.tid := rfl

/-! ### emptyReg -/

@[simp] theorem emptyReg_pw (t : Thread) (r : Nat) : (emptyReg t r).pw = t.pw := rfl
@[simp] theorem emptyReg_pc (t : Thread) (r : Nat) : (emptyReg t r).pc = t.pc := rfl
@[simp] theorem emptyReg_fmt (t : Thread) (r : Nat) : (emptyReg t r).fmt = t.fmt := rfl
@[simp] theorem emptyReg_sca (t : Thread) (r : Nat) : (emptyReg t r).sca = t.sca := rfl
@[simp] theorem emptyReg_scb (t : Thread) (r : Nat) : (emptyReg t r).scb = t.scb := rfl
@[simp] theorem emptyReg_lpc (t : Thread) (r : Nat) : (emptyReg t r).lpc = t.lpc := rfl
@[simp] theorem emptyReg_lps (t : Thread) (r : Nat) : (emptyReg t r).lps = t.lps := rfl
@[simp] theorem emptyReg_lpe (t : Thread) (r : Nat) : (emptyReg t r).lpe = t.lpe := rfl
@[simp] theorem emptyReg_home (t : Thread) (r : Nat) : (emptyReg t r).home = t.home := rfl
@[simp] theorem emptyReg_prio (t : Thread) (r : Nat) : (emptyReg t r).prio = t.prio := rfl
@[simp] theorem emptyReg_lane (t : Thread) (r : Nat) : (emptyReg t r).lane = t.lane := rfl
@[simp] theorem emptyReg_ccid (t : Thread) (r : Nat) : (emptyReg t r).ccid = t.ccid := rfl
@[simp] theorem emptyReg_tagFlags (t : Thread) (r : Nat) : (emptyReg t r).tagFlags = t.tagFlags := rfl
@[simp] theorem emptyReg_fflags (t : Thread) (r : Nat) : (emptyReg t r).fflags = t.fflags := rfl
@[simp] theorem emptyReg_held (t : Thread) (r : Nat) : (emptyReg t r).held = t.held := rfl
@[simp] theorem emptyReg_item (t : Thread) (r : Nat) : (emptyReg t r).item = t.item := rfl
@[simp] theorem emptyReg_stage (t : Thread) (r : Nat) : (emptyReg t r).stage = t.stage := rfl
@[simp] theorem emptyReg_tid (t : Thread) (r : Nat) : (emptyReg t r).tid = t.tid := rfl

/-! ### putTag -/

@[simp] theorem putTag_regs (t : Thread) (i : Nat) : (putTag t i).regs = t.regs := rfl
@[simp] theorem putTag_pc (t : Thread) (i : Nat) : (putTag t i).pc = t.pc := rfl
@[simp] theorem putTag_fmt (t : Thread) (i : Nat) : (putTag t i).fmt = t.fmt := rfl
@[simp] theorem putTag_sca (t : Thread) (i : Nat) : (putTag t i).sca = t.sca := rfl
@[simp] theorem putTag_scb (t : Thread) (i : Nat) : (putTag t i).scb = t.scb := rfl
@[simp] theorem putTag_lpc (t : Thread) (i : Nat) : (putTag t i).lpc = t.lpc := rfl
@[simp] theorem putTag_lps (t : Thread) (i : Nat) : (putTag t i).lps = t.lps := rfl
@[simp] theorem putTag_lpe (t : Thread) (i : Nat) : (putTag t i).lpe = t.lpe := rfl
@[simp] theorem putTag_home (t : Thread) (i : Nat) : (putTag t i).home = t.home := rfl
@[simp] theorem putTag_prio (t : Thread) (i : Nat) : (putTag t i).prio = t.prio := rfl
@[simp] theorem putTag_lane (t : Thread) (i : Nat) : (putTag t i).lane = t.lane := rfl
@[simp] theorem putTag_ccid (t : Thread) (i : Nat) : (putTag t i).ccid = t.ccid := rfl
@[simp] theorem putTag_tagFlags (t : Thread) (i : Nat) : (putTag t i).tagFlags = t.tagFlags := rfl
@[simp] theorem putTag_fflags (t : Thread) (i : Nat) : (putTag t i).fflags = t.fflags := rfl
@[simp] theorem putTag_held (t : Thread) (i : Nat) : (putTag t i).held = t.held := rfl
@[simp] theorem putTag_item (t : Thread) (i : Nat) : (putTag t i).item = t.item := rfl
@[simp] theorem putTag_stage (t : Thread) (i : Nat) : (putTag t i).stage = t.stage := rfl
@[simp] theorem putTag_tid (t : Thread) (i : Nat) : (putTag t i).tid = t.tid := rfl

/-! ### addFlags -/

@[simp] theorem addFlags_regs (t : Thread) (f : BitVec 5) : (addFlags t f).regs = t.regs := rfl
@[simp] theorem addFlags_pw (t : Thread) (f : BitVec 5) : (addFlags t f).pw = t.pw := rfl
@[simp] theorem addFlags_pc (t : Thread) (f : BitVec 5) : (addFlags t f).pc = t.pc := rfl
@[simp] theorem addFlags_fmt (t : Thread) (f : BitVec 5) : (addFlags t f).fmt = t.fmt := rfl
@[simp] theorem addFlags_sca (t : Thread) (f : BitVec 5) : (addFlags t f).sca = t.sca := rfl
@[simp] theorem addFlags_scb (t : Thread) (f : BitVec 5) : (addFlags t f).scb = t.scb := rfl
@[simp] theorem addFlags_lpc (t : Thread) (f : BitVec 5) : (addFlags t f).lpc = t.lpc := rfl
@[simp] theorem addFlags_lps (t : Thread) (f : BitVec 5) : (addFlags t f).lps = t.lps := rfl
@[simp] theorem addFlags_lpe (t : Thread) (f : BitVec 5) : (addFlags t f).lpe = t.lpe := rfl
@[simp] theorem addFlags_home (t : Thread) (f : BitVec 5) : (addFlags t f).home = t.home := rfl
@[simp] theorem addFlags_prio (t : Thread) (f : BitVec 5) : (addFlags t f).prio = t.prio := rfl
@[simp] theorem addFlags_lane (t : Thread) (f : BitVec 5) : (addFlags t f).lane = t.lane := rfl
@[simp] theorem addFlags_ccid (t : Thread) (f : BitVec 5) : (addFlags t f).ccid = t.ccid := rfl
@[simp] theorem addFlags_tagFlags (t : Thread) (f : BitVec 5) : (addFlags t f).tagFlags = t.tagFlags := rfl
@[simp] theorem addFlags_fflags (t : Thread) (f : BitVec 5) : (addFlags t f).fflags = t.fflags ||| f := rfl
@[simp] theorem addFlags_held (t : Thread) (f : BitVec 5) : (addFlags t f).held = t.held := rfl
@[simp] theorem addFlags_item (t : Thread) (f : BitVec 5) : (addFlags t f).item = t.item := rfl
@[simp] theorem addFlags_stage (t : Thread) (f : BitVec 5) : (addFlags t f).stage = t.stage := rfl
@[simp] theorem addFlags_tid (t : Thread) (f : BitVec 5) : (addFlags t f).tid = t.tid := rfl

/-! ### putPred -/

@[simp] theorem putPred_regs (t : Thread) (p : Nat) (v u : Bool) : (putPred t p v u).regs = t.regs := by
  unfold putPred; repeat' split
  all_goals rfl
@[simp] theorem putPred_pc (t : Thread) (p : Nat) (v u : Bool) : (putPred t p v u).pc = t.pc := by
  unfold putPred; repeat' split
  all_goals rfl
@[simp] theorem putPred_fmt (t : Thread) (p : Nat) (v u : Bool) : (putPred t p v u).fmt = t.fmt := by
  unfold putPred; repeat' split
  all_goals rfl
@[simp] theorem putPred_sca (t : Thread) (p : Nat) (v u : Bool) : (putPred t p v u).sca = t.sca := by
  unfold putPred; repeat' split
  all_goals rfl
@[simp] theorem putPred_scb (t : Thread) (p : Nat) (v u : Bool) : (putPred t p v u).scb = t.scb := by
  unfold putPred; repeat' split
  all_goals rfl
@[simp] theorem putPred_lpc (t : Thread) (p : Nat) (v u : Bool) : (putPred t p v u).lpc = t.lpc := by
  unfold putPred; repeat' split
  all_goals rfl
@[simp] theorem putPred_lps (t : Thread) (p : Nat) (v u : Bool) : (putPred t p v u).lps = t.lps := by
  unfold putPred; repeat' split
  all_goals rfl
@[simp] theorem putPred_lpe (t : Thread) (p : Nat) (v u : Bool) : (putPred t p v u).lpe = t.lpe := by
  unfold putPred; repeat' split
  all_goals rfl
@[simp] theorem putPred_home (t : Thread) (p : Nat) (v u : Bool) : (putPred t p v u).home = t.home := by
  unfold putPred; repeat' split
  all_goals rfl
@[simp] theorem putPred_prio (t : Thread) (p : Nat) (v u : Bool) : (putPred t p v u).prio = t.prio := by
  unfold putPred; repeat' split
  all_goals rfl
@[simp] theorem putPred_lane (t : Thread) (p : Nat) (v u : Bool) : (putPred t p v u).lane = t.lane := by
  unfold putPred; repeat' split
  all_goals rfl
@[simp] theorem putPred_ccid (t : Thread) (p : Nat) (v u : Bool) : (putPred t p v u).ccid = t.ccid := by
  unfold putPred; repeat' split
  all_goals rfl
@[simp] theorem putPred_tagFlags (t : Thread) (p : Nat) (v u : Bool) : (putPred t p v u).tagFlags = t.tagFlags := by
  unfold putPred; repeat' split
  all_goals rfl
@[simp] theorem putPred_fflags (t : Thread) (p : Nat) (v u : Bool) : (putPred t p v u).fflags = t.fflags := by
  unfold putPred; repeat' split
  all_goals rfl
@[simp] theorem putPred_held (t : Thread) (p : Nat) (v u : Bool) : (putPred t p v u).held = t.held := by
  unfold putPred; repeat' split
  all_goals rfl
@[simp] theorem putPred_item (t : Thread) (p : Nat) (v u : Bool) : (putPred t p v u).item = t.item := by
  unfold putPred; repeat' split
  all_goals rfl
@[simp] theorem putPred_stage (t : Thread) (p : Nat) (v u : Bool) : (putPred t p v u).stage = t.stage := by
  unfold putPred; repeat' split
  all_goals rfl
@[simp] theorem putPred_tid (t : Thread) (p : Nat) (v u : Bool) : (putPred t p v u).tid = t.tid := by
  unfold putPred; repeat' split
  all_goals rfl

end Sys2Proof.Machine
end

