-- ==== Sys2Proof/Laws/Store.lean ====
section
/-! SUPPORT. Sparse maps and memory: reading after writing, at the same place and at any other; the canonical form of
memory, which every operation on it keeps. -/

namespace Sys2Proof.Machine

/-! ## Sparse maps -/

@[simp] theorem mapGet_mapSet_same {α : Type} (d : α) (m : SMap α) (i : Nat) (x : α) : mapGet d (mapSet m i x) i = x := by
  induction m with
  | nil => simp [mapSet, mapGet]
  | cons h t ih =>
    obtain ⟨k, v⟩ := h
    simp only [mapSet]
    split
    · rename_i hk
      simp [mapGet, Nat.ne_of_lt hk, ih]
    · split <;> simp [mapGet]

theorem mapGet_mapSet_other {α : Type} (d : α) (m : SMap α) (i j : Nat) (x : α) (h : j ≠ i) :
    mapGet d (mapSet m i x) j = mapGet d m j := by
  induction m with
  | nil => simp [mapSet, mapGet, Ne.symm h]
  | cons e t ih =>
    obtain ⟨k, v⟩ := e
    simp only [mapSet]
    split
    · simp only [mapGet, ih]
    · split
      · rename_i hk
        subst hk
        simp [mapGet, Ne.symm h]
      · simp [mapGet, Ne.symm h]

theorem mapSet_mapSet {α : Type} (m : SMap α) (i : Nat) (x y : α) : mapSet (mapSet m i x) i y = mapSet m i y := by
  induction m with
  | nil => simp [mapSet]
  | cons e t ih =>
    obtain ⟨k, v⟩ := e
    simp only [mapSet]
    split
    · rename_i hk
      simp [mapSet, hk, ih]
    · split
      · simp [mapSet]
      · simp [mapSet]

/-- Reading a map after a write, in one case distinction. -/
theorem mapGet_mapSet {α : Type} (d : α) (m : SMap α) (i j : Nat) (x : α) :
    mapGet d (mapSet m i x) j = if j = i then x else mapGet d m j := by
  split
  · subst_vars; simp
  · exact mapGet_mapSet_other d m i j x ‹_›

theorem mapGet_map {α : Type} (d : α) (m : SMap α) (f : Nat → α → α) (i : Nat) :
    mapGet d (m.map fun p => (p.1, f p.1 p.2)) i = if (mapFind m i).isSome then f i (mapGet d m i) else d := by
  induction m with
  | nil => simp [mapGet, mapFind]
  | cons e t ih =>
    obtain ⟨k, v⟩ := e
    simp only [List.map_cons, mapGet, mapFind]
    split
    · subst_vars; simp
    · exact ih

/-! ## Bytes of memory -/

theorem memByte_append (a b : List Host.Cell) (k : Nat) (h : ∀ v, (k, v) ∉ a) : memByte (a ++ b) k = memByte b k := by
  induction a with
  | nil => rfl
  | cons e t ih =>
    obtain ⟨j, v⟩ := e
    have hj : j ≠ k := fun c => h v (by simp [c])
    simp only [List.cons_append, memByte, hj, if_false]
    exact ih fun w hw => h w (List.mem_cons_of_mem _ hw)

theorem memByte_append_right (a b : List Host.Cell) (k : Nat) (h : ∀ v, (k, v) ∉ b) :
    memByte (a ++ b) k = memByte a k := by
  induction a with
  | nil =>
    have := memByte_append b [] k h
    simpa [memByte] using this
  | cons e t ih =>
    obtain ⟨j, v⟩ := e
    simp only [List.cons_append, memByte, ih]

theorem cellsBelow_mem {m : List Host.Cell} {n k : Nat} {v : Byte} (h : (k, v) ∈ cellsBelow m n) : k < n := by
  simpa using (List.mem_filter.mp h).2

theorem cellsFrom_mem {m : List Host.Cell} {n k : Nat} {v : Byte} (h : (k, v) ∈ cellsFrom m n) : n ≤ k := by
  simpa using (List.mem_filter.mp h).2

theorem memByte_filter (m : List Host.Cell) (p : Nat → Bool) (k : Nat) (h : p k = true) :
    memByte (m.filter fun c => p c.1) k = memByte m k := by
  induction m with
  | nil => rfl
  | cons e t ih =>
    obtain ⟨j, v⟩ := e
    by_cases hj : j = k
    · subst hj; simp [memByte, h]
    · simp only [List.filter_cons]
      split <;> simp [memByte, hj, ih]

theorem memByte_cellsBelow (m : List Host.Cell) (n k : Nat) (h : k < n) : memByte (cellsBelow m n) k = memByte m k :=
  memByte_filter m (fun c => decide (c < n)) k (by simpa using h)

theorem memByte_cellsFrom (m : List Host.Cell) (n k : Nat) (h : n ≤ k) : memByte (cellsFrom m n) k = memByte m k :=
  memByte_filter m (fun c => decide (n ≤ c)) k (by simpa using h)

theorem cellsOf_mem {bs : List Byte} : ∀ {lo k : Nat} {v : Byte}, (k, v) ∈ cellsOf lo bs → lo ≤ k ∧ k < lo + bs.length := by
  induction bs with
  | nil => intro lo k v h; simp [cellsOf] at h
  | cons b t ih =>
    intro lo k v h
    simp only [cellsOf] at h
    split at h
    · have := ih h; simp only [List.length_cons]; omega
    · rcases List.mem_cons.mp h with h | h
      · injection h with h1 h2; subst h1; simp
      · have := ih h; simp only [List.length_cons]; omega

theorem memByte_cellsOf (bs : List Byte) : ∀ (lo i : Nat), i < bs.length →
    memByte (cellsOf lo bs) (lo + i) = (bs[i]?).getD emptyByte := by
  induction bs with
  | nil => intro lo i h; simp at h
  | cons b t ih =>
    intro lo i h
    have key : ∀ v : Byte, (lo, v) ∉ cellsOf (lo + 1) t := fun v hv => by have := cellsOf_mem hv; omega
    cases i with
    | zero =>
      simp only [cellsOf, Nat.add_zero]
      split
      · rename_i hb
        have := memByte_append (cellsOf (lo + 1) t) [] lo key
        simp only [List.append_nil] at this
        simp [this, memByte, hb]
      · simp [memByte]
    | succ j =>
      simp only [cellsOf]
      have e : lo + (j + 1) = lo + 1 + j := by omega
      have := ih (lo + 1) j (by simpa using h)
      split
      · rw [e, this]; simp
      · simp only [memByte]
        rw [if_neg (by omega), e, this]; simp

/-- READ AFTER WRITE: a byte inside the bytes written reads as the byte written. -/
theorem memByte_memWrite_in (m : List Host.Cell) (k : Nat) (bs : List Byte) (i : Nat) (h : i < bs.length) :
    memByte (memWrite m k bs) (k + i) = (bs[i]?).getD emptyByte := by
  unfold memWrite
  rw [List.append_assoc, memByte_append _ _ _ (fun v hv => by have := cellsBelow_mem hv; omega),
    memByte_append_right _ _ _ (fun v hv => by have := cellsFrom_mem hv; omega), memByte_cellsOf bs k i h]

/-- A write leaves every byte outside the bytes written alone. -/
theorem memByte_memWrite_out (m : List Host.Cell) (k : Nat) (bs : List Byte) (a : Nat) (h : a < k ∨ k + bs.length ≤ a) :
    memByte (memWrite m k bs) a = memByte m a := by
  unfold memWrite
  rcases h with h | h
  · rw [List.append_assoc, memByte_append_right _ _ _ ?_, memByte_cellsBelow m k a h]
    intro v hv
    rcases List.mem_append.mp hv with hv | hv
    · have := cellsOf_mem hv; omega
    · have := cellsFrom_mem hv; omega
  · rw [memByte_append _ _ _ ?_, memByte_cellsFrom m _ a h]
    intro v hv
    rcases List.mem_append.mp hv with hv | hv
    · have := cellsBelow_mem hv; omega
    · have := cellsOf_mem hv; omega

theorem memByte_memClear_in (m : List Host.Cell) (k n a : Nat) (h1 : k ≤ a) (h2 : a < k + n) :
    memByte (memClear m k n) a = emptyByte := by
  unfold memClear
  rw [memByte_append _ _ _ (fun v hv => by have := cellsBelow_mem hv; omega)]
  have := memByte_append (cellsFrom m (k + n)) [] a (fun v hv => by have := cellsFrom_mem hv; omega)
  simpa [memByte] using this

theorem memByte_memClear_out (m : List Host.Cell) (k n a : Nat) (h : a < k ∨ k + n ≤ a) :
    memByte (memClear m k n) a = memByte m a := by
  unfold memClear
  rcases h with h | h
  · rw [memByte_append_right _ _ _ (fun v hv => by have := cellsFrom_mem hv; omega), memByte_cellsBelow m k a h]
  · rw [memByte_append _ _ _ (fun v hv => by have := cellsBelow_mem hv; omega), memByte_cellsFrom m _ a h]

/-! ## The canonical form -/

theorem cellsOk_iff (m : List Host.Cell) : ∀ lo, cellsOk lo m = true ↔
    (m.Pairwise fun a b => a.1 < b.1) ∧ ∀ c ∈ m, lo ≤ c.1 ∧ c.2 ≠ emptyByte := by
  induction m with
  | nil => intro lo; simp [cellsOk]
  | cons e t ih =>
    intro lo
    obtain ⟨k, v⟩ := e
    simp only [cellsOk, Bool.and_eq_true, decide_eq_true_eq, bne_iff_ne, ih, List.pairwise_cons, List.mem_cons]
    constructor
    · rintro ⟨⟨h1, h2⟩, h3, h4⟩
      refine ⟨⟨fun c hc => by have := (h4 c hc).1; omega, h3⟩, ?_⟩
      rintro c (rfl | hc)
      · exact ⟨h1, h2⟩
      · exact ⟨by have := (h4 c hc).1; omega, (h4 c hc).2⟩
    · rintro ⟨⟨h1, h2⟩, h3⟩
      have := h3 (k, v) (.inl rfl)
      exact ⟨⟨this.1, this.2⟩, h2, fun c hc => ⟨h1 c hc, (h3 c (.inr hc)).2⟩⟩

theorem wf_iff (m : List Host.Cell) : Memory.wf m = true ↔
    (m.Pairwise fun a b => a.1 < b.1) ∧ ∀ c ∈ m, c.2 ≠ emptyByte := by
  simp [Memory.wf, cellsOk_iff]

theorem cellsOf_wf (bs : List Byte) : ∀ lo, (cellsOf lo bs).Pairwise (fun a b => a.1 < b.1) ∧
    ∀ c ∈ cellsOf lo bs, c.2 ≠ emptyByte := by
  induction bs with
  | nil => intro lo; simp [cellsOf]
  | cons b t ih =>
    intro lo
    simp only [cellsOf]
    split
    · exact ih _
    · rename_i hb
      refine ⟨List.pairwise_cons.mpr ⟨fun c hc => ?_, (ih _).1⟩, ?_⟩
      · obtain ⟨j, v⟩ := c; have := cellsOf_mem hc; simp only; omega
      · intro c hc
        rcases List.mem_cons.mp hc with rfl | hc
        · exact hb
        · exact (ih _).2 c hc

/-- A write keeps the canonical form. -/
theorem memWrite_wf (m : List Host.Cell) (k : Nat) (bs : List Byte) (h : Memory.wf m = true) :
    Memory.wf (memWrite m k bs) = true := by
  rw [wf_iff] at h ⊢
  unfold memWrite
  constructor
  · rw [List.pairwise_append, List.pairwise_append]
    refine ⟨⟨h.1.filter _, (cellsOf_wf bs k).1, ?_⟩, h.1.filter _, ?_⟩
    · rintro ⟨a, v⟩ ha ⟨b, w⟩ hb
      have := cellsBelow_mem ha; have := cellsOf_mem hb; simp only; omega
    · rintro ⟨a, v⟩ ha ⟨b, w⟩ hb
      have := cellsFrom_mem hb
      rcases List.mem_append.mp ha with ha | ha
      · have := cellsBelow_mem ha; simp only; omega
      · have := cellsOf_mem ha; simp only; omega
  · intro c hc
    simp only [List.mem_append] at hc
    rcases hc with (hc | hc) | hc
    · exact h.2 c (List.mem_filter.mp hc).1
    · exact (cellsOf_wf bs k).2 c hc
    · exact h.2 c (List.mem_filter.mp hc).1

/-- Clearing a range keeps the canonical form. -/
theorem memClear_wf (m : List Host.Cell) (k n : Nat) (h : Memory.wf m = true) : Memory.wf (memClear m k n) = true := by
  rw [wf_iff] at h ⊢
  unfold memClear
  constructor
  · rw [List.pairwise_append]
    refine ⟨h.1.filter _, h.1.filter _, ?_⟩
    rintro ⟨a, v⟩ ha ⟨b, w⟩ hb
    have := cellsBelow_mem ha; have := cellsFrom_mem hb; simp only; omega
  · intro c hc
    rcases List.mem_append.mp hc with hc | hc
    · exact h.2 c (List.mem_filter.mp hc).1
    · exact h.2 c (List.mem_filter.mp hc).1

/-- Cells kept by a test on their keys keep the canonical form. -/
theorem filter_wf (m : List Host.Cell) (p : Host.Cell → Bool) (h : Memory.wf m = true) : Memory.wf (m.filter p) = true := by
  rw [wf_iff] at h ⊢
  exact ⟨h.1.filter _, fun c hc => h.2 c (List.mem_filter.mp hc).1⟩

theorem cellsFrom_wf (m : List Host.Cell) (k : Nat) (h : Memory.wf m = true) : Memory.wf (cellsFrom m k) = true :=
  filter_wf m _ h

theorem memPut_wf (m : List Host.Cell) (k n v : Nat) (h : Memory.wf m = true) : Memory.wf (memPut m k n v) = true :=
  memWrite_wf m k _ h

theorem storeBy_wf (w : Option (Nat × Nat)) (o : Nat × Nat) (s : State) (k : Nat) (bs : List Byte) (h : Memory.wf s.mem = true) :
    Memory.wf (storeBy w o s k bs).mem = true := memWrite_wf s.mem k bs h

theorem storeBytes_wf (s : State) (k : Nat) (bs : List Byte) (h : Memory.wf s.mem = true) :
    Memory.wf (storeBytes s k bs).mem = true := memWrite_wf s.mem k bs h

theorem threadStore_wf (s : State) (c n k : Nat) (bs : List Byte) (h : Memory.wf s.mem = true) :
    Memory.wf (threadStore s c n k bs).mem = true := memWrite_wf s.mem k _ h

/-- Memory after reset has the canonical form. -/
theorem reset_wf : Memory.wf State.reset.mem = true := rfl

@[simp] theorem storeBytes_mem (s : State) (k : Nat) (bs : List Byte) : (storeBytes s k bs).mem = memWrite s.mem k bs := rfl

@[simp] theorem threadStore_mem (s : State) (c n k : Nat) (bs : List Byte) :
    (threadStore s c n k bs).mem = memWrite s.mem k (storedBytes s k bs) := rfl

/-- Outside the ASID table a thread's store leaves its bytes as they are. -/
theorem storedBytes_plain {s : State} {k : Nat} {bs : List Byte} (h : inAsidTable s k bs.length = false) :
    storedBytes s k bs = bs := by simp [storedBytes, h]

end Sys2Proof.Machine
end

