-- ==== Sys2Proof/Laws/Run.lean ====
section
/-! SUPPORT. What the shared operations of an instruction can do, once for each: the wrapper, the checks of R142, the end of
an instruction, a transfer of control, a trap. The lemmas about instructions cite these. -/

namespace Sys2Proof.Machine

open Sys2Proof.Claims

/-! ## Cores and slots -/

@[simp] theorem coreOf_setCore_same (s : State) (c : Nat) (k : Core) : coreOf (setCore s c k) c = k := by
  simp [coreOf, setCore]

theorem coreOf_setCore_other (s : State) (c d : Nat) (k : Core) (h : d ≠ c) : coreOf (setCore s c k) d = coreOf s d := by
  simp only [coreOf, setCore]; exact mapGet_mapSet_other _ _ _ _ _ h

@[simp] theorem coreOf_modCore_same (s : State) (c : Nat) (f : Core → Core) :
    coreOf (modCore s c f) c = f (coreOf s c) := by simp [modCore]

theorem coreOf_modCore_other (s : State) (c d : Nat) (f : Core → Core) (h : d ≠ c) :
    coreOf (modCore s c f) d = coreOf s d := coreOf_setCore_other s c d _ h

@[simp] theorem slotIn_putSlot_same (k : Core) (n : Nat) (x : Slot) : slotIn (putSlot k n x) n = x := by
  simp [slotIn, putSlot]

theorem slotIn_putSlot_other (k : Core) (n m : Nat) (x : Slot) (h : m ≠ n) : slotIn (putSlot k n x) m = slotIn k m := by
  simp only [slotIn, putSlot]; exact mapGet_mapSet_other _ _ _ _ _ h

@[simp] theorem slotOf_setSlot_same (s : State) (c n : Nat) (x : Slot) : slotOf (setSlot s c n x) c n = x := by
  simp [slotOf, setSlot]

@[simp] theorem slotOf_modSlot_same (s : State) (c n : Nat) (f : Slot → Slot) :
    slotOf (modSlot s c n f) c n = f (slotOf s c n) := by simp [modSlot]

/-- A change of one slot leaves every other slot of every core alone. -/
theorem slotOf_setSlot_other (s : State) (c n d m : Nat) (x : Slot) (h : d ≠ c ∨ m ≠ n) :
    slotOf (setSlot s c n x) d m = slotOf s d m := by
  simp only [slotOf, setSlot]
  by_cases hd : d = c
  · subst hd
    rw [coreOf_setCore_same]
    exact slotIn_putSlot_other _ _ _ _ (h.resolve_left (by simp))
  · rw [coreOf_setCore_other _ _ _ _ hd]

theorem slotOf_modSlot_other (s : State) (c n d m : Nat) (f : Slot → Slot) (h : d ≠ c ∨ m ≠ n) :
    slotOf (modSlot s c n f) d m = slotOf s d m := slotOf_setSlot_other s c n d m _ h

theorem setCore_setCore (s : State) (c : Nat) (k l : Core) : setCore (setCore s c k) c l = setCore s c l := by
  simp only [setCore, mapSet_mapSet]

theorem putSlot_putSlot (k : Core) (n : Nat) (x y : Slot) : putSlot (putSlot k n x) n y = putSlot k n y := by
  simp only [putSlot, mapSet_mapSet]

theorem setSlot_setSlot (s : State) (c n : Nat) (x y : Slot) : setSlot (setSlot s c n x) c n y = setSlot s c n y := by
  unfold setSlot
  rw [coreOf_setCore_same, setCore_setCore, putSlot_putSlot]

theorem modSlot_modSlot (s : State) (c n : Nat) (f g : Slot → Slot) :
    modSlot (modSlot s c n f) c n g = modSlot s c n fun x => g (f x) := by
  unfold modSlot
  rw [slotOf_setSlot_same, setSlot_setSlot]

/-! ## Registers -/

theorem regOf_putReg_same (t : Thread) (r : Nat) (x : Reg) (h : r < 10) : regOf (putReg t r x) r = x := by
  simp [regOf, putReg, h]

theorem regOf_putReg_other (t : Thread) (r q : Nat) (x : Reg) (h : q ≠ r) : regOf (putReg t r x) q = regOf t q := by
  simp [regOf, putReg, Ne.symm h]

theorem regOf_writeReg_same (t : Thread) (r : Fin 10) (v : Word) :
    regOf (writeReg t r v) r = { val := v, full := true, rsv := false } := regOf_putReg_same t r _ r.isLt

theorem regOf_writeReg_other (t : Thread) (r q : Nat) (v : Word) (h : q ≠ r) : regOf (writeReg t r v) q = regOf t q :=
  regOf_putReg_other t r q _ h

/-! ## The wrapper -/

/-- An instruction of a thread runs its body where its slot has not met its wait limit. -/
theorem runInstr_at {s : State} {c n : Nat} {x : Slot} {t : Thread} (h : At s c n x t) (body : Ctx → Body) :
    runInstr s body = .next (settleBody c n (body { s := s, c := c, n := n, sl := x, t := t })) := by
  obtain ⟨h1, h2, h3, h4⟩ := h
  simp only [runInstr, h1, h2, h3, h4]
  simp

@[simp] theorem settleBody_ok (c n : Nat) (s : State) : settleBody c n (.ok s) = s := rfl
@[simp] theorem settleBody_gone (c n : Nat) (s : State) : settleBody c n (.error (.gone s)) = s := rfl
@[simp] theorem settleBody_trap (c n : Nat) (s : State) (r : TrapInfo) (d : Option Nat) :
    settleBody c n (.error (.trap s r d)) = takeTrap s c n r d := rfl
@[simp] theorem settleBody_stall (c n : Nat) (s : State) (w : Wait) :
    settleBody c n (.error (.stall s w)) = notIssued s c n w := rfl

/-! ## The checks in their order

Each is stated of the context that the wrapper builds, so that it rewrites there directly. -/

variable {s : State} {c n : Nat} {x : Slot} {t u : Thread}

theorem atHome_home (k : Body) (h : x.visitFrom = none) : (Ctx.mk s c n x t).atHome k = k := by simp [Ctx.atHome, h]

theorem readPred_clean {p : Nat} (h : Clean t p) : (Ctx.mk s c n x t).readPred p = .ok (predOf t p) := by
  unfold Ctx.readPred
  have : ¬(strictOf t && taintOf t p) = true := by simpa [Clean] using h
  simp [this]

theorem readPred_strict {p : Nat} (h : ¬Clean t p) : (Ctx.mk s c n x t).readPred p =
    (Ctx.mk s c n x t).trap 0x09 (BitVec.setWidth 64 t.pw) (BitVec.ofNat 64 p) := by
  unfold Ctx.readPred
  have : (strictOf t && taintOf t p) = true := by simpa [Clean] using h
  simp [this]

theorem guardedN_holds {p : Nat} (size : Nat) (k : Body) (h : Guarded t p) : (Ctx.mk s c n x t).guardedN size p k = k := by
  simp [Ctx.guardedN, readPred_clean h.1, h.2]

theorem guarded_holds {p : Nat} (k : Body) (h : Guarded t p) : (Ctx.mk s c n x t).guarded p k = k :=
  guardedN_holds 4 k h

theorem guardedN_false {p : Nat} (size : Nat) (k : Body) (h : Clean t p) (h0 : predOf t p = false) :
    (Ctx.mk s c n x t).guardedN size p k = (Ctx.mk s c n x t).finish s t size := by
  simp [Ctx.guardedN, readPred_clean h, h0]

theorem guardedN_strict {p : Nat} (size : Nat) (k : Body) (h : ¬Clean t p) :
    (Ctx.mk s c n x t).guardedN size p k =
      (Ctx.mk s c n x t).trap 0x09 (BitVec.setWidth 64 t.pw) (BitVec.ofNat 64 p) := by
  unfold Ctx.guardedN
  rw [readPred_strict h]; rfl

theorem needRegs_full {rs : List Nat} (k : Body) (h : Full t rs) : (Ctx.mk s c n x t).needRegs rs k = k := by
  have : rs.find? (fun r => !(regOf t r).full) = none := by
    rw [List.find?_eq_none]; intro r hr; simp [h r hr]
  simp [Ctx.needRegs, this]

theorem needRegs_empty {rs : List Nat} {r : Nat} (k : Body)
    (h : rs.find? (fun r => !(regOf t r).full) = some r) :
    (Ctx.mk s c n x t).needRegs rs k = (Ctx.mk s c n x t).stall (.reg r) := by
  simp [Ctx.needRegs, h]

theorem onD_here (k : Body) (h : isDCore c = true) : (Ctx.mk s c n x t).onD k = k := by simp [Ctx.onD, h]

/-- A thread at home has the level of its own slot (R326). -/
theorem levelSlot_home (h : (slotOf s c n).visitFrom = none) : levelSlot s c n = n := by simp [levelSlot, h]

theorem needS_super (k : Body) (h : (slotOf s c n).visitFrom = none) (hn : n < 4) : (Ctx.mk s c n x t).needS k = k := by
  simp [Ctx.needS, Ctx.levelSlot, levelSlot_home h, isUserSlot, Config.firstUser, hn]

theorem needP_platform (k : Body) (h : (slotOf s c n).visitFrom = none) (hn : n = 0) : (Ctx.mk s c n x t).needP k = k := by
  subst hn; simp [Ctx.needP, Ctx.levelSlot, levelSlot_home h]

theorem released_free (k : Body) (h : pending s c n = false) : (Ctx.mk s c n x t).released k = k := by
  simp [Ctx.released, h]

theorem needRes_free {b : Bool} (r : Res) (k : Body) (h : b = true) : (Ctx.mk s c n x t).needRes b r k = k := by
  simp [Ctx.needRes, h]

/-! ## The end of an instruction -/

theorem checkTarget_ok {pc : Pc} {a : Nat} (h : TargetOk s c n pc a) : checkTarget s c n pc a = .ok () := by
  unfold TargetOk at h
  cases hc : checkTarget s c n pc a with
  | error e => simp [hc, Except.isOk, Except.toBool] at h
  | ok u => rfl

/-- The end of an instruction: the next PC or the loop-back (R169). `s1` is the state that its effect leaves. -/
theorem finish_ok {s1 : State} (size : Nat) (h : LoopOk s1 c n t u) :
    (Ctx.mk s c n x t).finish s1 u size = .ok (completed s1 c n t u size) := by
  unfold Ctx.finish completed landed withThread
  simp only [Ctx.put]
  by_cases h1 : u.lpc ≠ 0#32 ∧ t.pc = t.lpe
  · have h1' : (decide (u.lpc ≠ 0#32) && decide (t.pc = t.lpe)) = true := by simpa using h1
    simp only [h1']
    simp only [if_pos h1, if_true]
    by_cases h2 : 1 < u.lpc.toNat
    · simp only [if_pos h2]
      have : (checkTarget (modSlot s1 c n fun y =>
          { restSlot y with thread := some { u with lpc := u.lpc - 1#32, pc := u.lps } }) c n u.lps u.lps.toNat).isOk
          = true := by
        rcases h with h | h | h
        · omega
        · exact absurd h1.2 h
        · exact h
      rw [checkTarget_ok this]
    · simp only [if_neg h2]
  · have h1' : (decide (u.lpc ≠ 0#32) && decide (t.pc = t.lpe)) = false := by
      by_contra hc
      exact h1 (by simpa using hc)
    simp only [h1']
    simp only [if_neg h1]
    simp

theorem done_ok (h : LoopOk s c n t u) : (Ctx.mk s c n x t).done u = .ok (completed s c n t u 4) := finish_ok 4 h

/-- A transfer of control whose target passes the check (R126). -/
theorem jump_ok {a : Nat} (h : TargetOk s c n t.pc a) :
    (Ctx.mk s c n x t).jump u a = .ok (withThread s c n { u with pc := BitVec.ofNat 48 a }) := by
  simp only [Ctx.jump, checkTarget_ok h]; rfl

theorem writePred_ok {p : Nat} {v taint : Bool} (h : ¬StrictWrite t p taint) :
    (Ctx.mk s c n x t).writePred p v taint = (Ctx.mk s c n x t).done (putPred t p v taint) := by
  unfold Ctx.writePred
  rw [if_neg]
  simpa [StrictWrite, and_assoc] using h

theorem writePred_strict {p : Nat} {v taint : Bool} (h : StrictWrite t p taint) :
    (Ctx.mk s c n x t).writePred p v taint =
      (Ctx.mk s c n x t).trap 0x09 (BitVec.setWidth 64 t.pw) (BitVec.ofNat 64 p) := by
  unfold Ctx.writePred
  rw [if_pos]
  simpa [StrictWrite, and_assoc] using h

/-! ## What a completed instruction leaves alone -/

/-- Every slot but the one that executed is as before. -/
theorem completed_other (s : State) (c n d m : Nat) (t u : Thread) (size : Nat) (h : d ≠ c ∨ m ≠ n) :
    slotOf (completed s c n t u size) d m = slotOf s d m := slotOf_modSlot_other s c n d m _ h

@[simp] theorem completed_thread (s : State) (c n : Nat) (t u : Thread) (size : Nat) :
    threadOf (completed s c n t u size) c n = some (landed t u size) := by
  simp [threadOf, completed, withThread]

@[simp] theorem completed_mem (s : State) (c n : Nat) (t u : Thread) (size : Nat) :
    (completed s c n t u size).mem = s.mem := rfl

@[simp] theorem completed_cycle (s : State) (c n : Nat) (t u : Thread) (size : Nat) :
    (completed s c n t u size).cycle = s.cycle := rfl

@[simp] theorem landed_regs (t u : Thread) (size : Nat) : (landed t u size).regs = u.regs := by
  unfold landed; repeat' split
  all_goals rfl

@[simp] theorem landed_pw (t u : Thread) (size : Nat) : (landed t u size).pw = u.pw := by
  unfold landed; repeat' split
  all_goals rfl

@[simp] theorem landed_fflags (t u : Thread) (size : Nat) : (landed t u size).fflags = u.fflags := by
  unfold landed; repeat' split
  all_goals rfl

/-- Without a loop an instruction goes on at the next address. -/
theorem landed_straight (t u : Thread) (size : Nat) (h : u.lpc = 0#32 ∨ t.pc ≠ t.lpe) :
    landed t u size = { u with pc := t.pc + BitVec.ofNat 48 size } := by
  unfold landed
  rw [if_neg]
  rintro ⟨h1, h2⟩
  rcases h with h | h
  · exact h1 h
  · exact h h2

/-- Without a loop nothing is asked of the loop registers. -/
theorem loopOk_straight {s : State} {c n : Nat} {t u : Thread} (h : u.lpc = 0#32 ∨ t.pc ≠ t.lpe) : LoopOk s c n t u := by
  rcases h with h | h
  · exact .inl (by simp [h])
  · exact .inr (.inl h)

end Sys2Proof.Machine
end

