-- ==== Sys2Proof/Laws/Engine.lean ====
section
/-! SUPPORT. What the shared operations of the engines can do, once for each: reading and replacing an accumulator tile, reading
operands that carry no soft error, lists cut into elements, an entry of a pass. -/

namespace Sys2Proof.Machine

open Sys2Proof.Claims

/-! ## Lists of entries -/

theorem mapGet_absent {α : Type} (d : α) (m : SMap α) (i : Nat) (h : ∀ e ∈ m, e.1 ≠ i) : mapGet d m i = d := by
  induction m with
  | nil => rfl
  | cons e m ih =>
    obtain ⟨k, v⟩ := e
    have := h (k, v) (by simp)
    simp only [mapGet, this, if_false]
    exact ih fun e he => h e (by simp [he])

theorem mapGet_append {α : Type} (d : α) (a b : SMap α) (i : Nat) (h : ∀ e ∈ a, e.1 ≠ i) :
    mapGet d (a ++ b) i = mapGet d b i := by
  induction a with
  | nil => rfl
  | cons e a ih =>
    obtain ⟨k, v⟩ := e
    have := h (k, v) (by simp)
    simp only [List.cons_append, mapGet, this, if_false]
    exact ih fun e he => h e (by simp [he])

theorem mapGet_append_left {α : Type} (d : α) (a b : SMap α) (i : Nat) (h : ∀ e ∈ b, e.1 ≠ i) :
    mapGet d (a ++ b) i = mapGet d a i := by
  induction a with
  | nil => exact mapGet_absent d b i h
  | cons e a ih =>
    obtain ⟨k, v⟩ := e
    simp only [List.cons_append, mapGet, ih]

theorem mapGet_filter {α : Type} (d : α) (m : SMap α) (p : Nat → Bool) (i : Nat) :
    mapGet d (m.filter fun e => p e.1) i = if p i then mapGet d m i else d := by
  induction m with
  | nil => simp [mapGet]
  | cons e m ih =>
    obtain ⟨k, v⟩ := e
    by_cases hk : k = i
    · subst hk
      by_cases hp : p k = true
      · simp [hp, mapGet]
      · simpa [List.filter_cons, hp, mapGet] using ih
    · by_cases hp : p k = true
      · simp [hp, mapGet, hk, ih]
      · simp [hp, mapGet, hk, ih]

/-! ## Accumulator tiles -/

@[simp] theorem length_denseFrom (n : Nat) : ∀ (i : Nat) (m : SMap Nat), (denseFrom n i m).length = n := by
  induction n with
  | zero => intro i m; simp [denseFrom]
  | succ n ih =>
    intro i m
    cases m with
    | nil => simp [denseFrom, ih]
    | cons e m => simp only [denseFrom]; split <;> simp [ih]

/-- A dense stretch of a map whose keys rise. -/
theorem denseFrom_get (n : Nat) : ∀ (i j : Nat) (m : SMap Nat), (m.map (·.1)).Pairwise (· < ·) → (∀ e ∈ m, i ≤ e.1) → j < n →
    (denseFrom n i m)[j]? = some (mapGet 0 m (i + j)) := by
  induction n with
  | zero => intro i j m _ _ h; omega
  | succ n ih =>
    intro i j m hs hi hj
    cases m with
    | nil =>
      cases j with
      | zero => simp [denseFrom, mapGet]
      | succ j =>
        have := ih (i + 1) j [] (by simp) (by simp) (by omega)
        simpa [denseFrom, mapGet] using this
    | cons e m =>
      obtain ⟨k, v⟩ := e
      have hk := hi (k, v) (by simp)
      have hs' : (m.map (·.1)).Pairwise (· < ·) := by
        simp only [List.map_cons, List.pairwise_cons] at hs; exact hs.2
      have hlt : ∀ e ∈ m, k < e.1 := by
        simp only [List.map_cons, List.pairwise_cons] at hs
        intro e he; exact hs.1 e.1 (List.mem_map_of_mem he)
      simp only [denseFrom]
      by_cases h : k = i
      · subst h
        rw [if_pos rfl]
        cases j with
        | zero => simp [mapGet]
        | succ j =>
          have := ih (k + 1) j m hs' (fun e he => hlt e he) (by omega)
          simp only [List.getElem?_cons_succ, this, mapGet]
          rw [if_neg (by omega)]
          congr 2; omega
      · rw [if_neg h]
        cases j with
        | zero =>
          simp only [List.getElem?_cons_zero, mapGet, Nat.add_zero, if_neg h]
          rw [mapGet_absent 0 m i fun e he => by have := hlt e he; omega]
        | succ j =>
          have := ih (i + 1) j ((k, v) :: m) hs
            (fun e he => by
              rcases List.mem_cons.1 he with rfl | he
              · simp only; omega
              · have := hlt e he; omega) (by omega)
          simp only [List.getElem?_cons_succ, this]
          congr 2; omega

/-- The codes of a tile of a sorted accumulator, entry by entry (R86). -/
theorem acmTile_get (k : Core) (t i : Nat) (hs : (k.acm.map (·.1)).Pairwise (· < ·)) (hi : i < 4096) :
    (acmTile k t)[i]? = some (mapGet 0 k.acm (4096 * t + i)) := by
  have hp : ((k.acm.filter fun e => e.1 / 4096 == t).map (·.1)).Pairwise (· < ·) :=
    List.Pairwise.sublist (List.Sublist.map _ List.filter_sublist) hs
  have hm : ∀ e ∈ k.acm.filter (fun e => e.1 / 4096 == t), 4096 * t ≤ e.1 := by
    intro e he
    have := (List.mem_filter.1 he).2
    have h : e.1 / 4096 = t := by simpa using this
    have h2 := Nat.div_add_mod e.1 4096
    rw [h] at h2
    omega
  rw [acmTile, denseFrom_get 4096 (4096 * t) i _ hp hm hi]
  have := mapGet_filter 0 k.acm (fun n => n / 4096 == t) (4096 * t + i)
  rw [this, if_pos]
  simp only [beq_iff_eq]
  omega

theorem listFrom_mem {vs : List Nat} : ∀ {i : Nat} {e : Nat × Nat}, e ∈ listFrom i vs → i ≤ e.1 ∧ e.1 < i + vs.length := by
  induction vs with
  | nil => intro i e h; simp [listFrom] at h
  | cons v vs ih =>
    intro i e h
    simp only [listFrom] at h
    split at h
    · have := ih h; simp only [List.length_cons]; omega
    · rcases List.mem_cons.1 h with rfl | h
      · simp
      · have := ih h; simp only [List.length_cons]; omega

theorem mapGet_listFrom (vs : List Nat) : ∀ (i j : Nat), mapGet 0 (listFrom i vs) (i + j) = vs.getD j 0 := by
  induction vs with
  | nil => intro i j; simp [listFrom, mapGet]
  | cons v vs ih =>
    intro i j
    simp only [listFrom]
    cases j with
    | zero =>
      by_cases h : v = 0
      · rw [if_pos h, mapGet_absent]
        · simp [h]
        · intro e he; have := listFrom_mem he; omega
      · simp [if_neg h, mapGet]
    | succ j =>
      have hj : i + 1 + j = i + (j + 1) := by omega
      have := ih (i + 1) j
      rw [hj] at this
      split
      · simpa using this
      · simp only [mapGet]
        rw [if_neg (by omega), this]
        simp

theorem listFrom_sorted (vs : List Nat) : ∀ i, ((listFrom i vs).map (·.1)).Pairwise (· < ·) := by
  induction vs with
  | nil => intro i; simp [listFrom]
  | cons v vs ih =>
    intro i
    simp only [listFrom]
    split
    · exact ih (i + 1)
    · simp only [List.map_cons, List.pairwise_cons]
      refine ⟨?_, ih (i + 1)⟩
      intro a ha
      obtain ⟨e, he, rfl⟩ := List.mem_map.1 ha
      have := listFrom_mem he; omega

/-- Replacing a tile replaces its entries and leaves those of every other tile (R86). -/
theorem mapGet_putAcm (k : Core) (t i : Nat) (vs : List Nat) (hv : vs.length ≤ 4096) :
    mapGet 0 (putAcm k t vs).acm i = if i / 4096 = t then vs.getD (i % 4096) 0 else mapGet 0 k.acm i := by
  have hd := Nat.div_add_mod i 4096
  have hm := Nat.mod_lt i (show 0 < 4096 by decide)
  simp only [putAcm, List.append_assoc]
  have hlow : ∀ e ∈ k.acm.filter (fun e => decide (e.1 < 4096 * t)), e.1 < 4096 * t := fun e he => by
    simpa using (List.mem_filter.1 he).2
  have hhigh : ∀ e ∈ k.acm.filter (fun e => decide (4096 * (t + 1) ≤ e.1)), 4096 * (t + 1) ≤ e.1 := fun e he => by
    simpa using (List.mem_filter.1 he).2
  have hmid : ∀ e ∈ listFrom (4096 * t) vs, 4096 * t ≤ e.1 ∧ e.1 < 4096 * (t + 1) := fun e he => by
    have := listFrom_mem he; omega
  by_cases h : i / 4096 = t
  · rw [if_pos h]
    have hb : 4096 * t ≤ i ∧ i < 4096 * (t + 1) := by rw [h] at hd; omega
    rw [mapGet_append _ _ _ _ fun e he => by have := hlow e he; omega,
      mapGet_append_left _ _ _ _ fun e he => by have := hhigh e he; omega]
    have := mapGet_listFrom vs (4096 * t) (i % 4096)
    rw [← this]; congr 1; rw [h] at hd; omega
  · rw [if_neg h]
    rcases Nat.lt_or_ge i (4096 * t) with hl | hg
    · rw [mapGet_append_left _ _ _ _ fun e he => by
        rcases List.mem_append.1 he with he | he
        · have := hmid e he; omega
        · have := hhigh e he; omega]
      rw [mapGet_filter 0 k.acm (fun n => decide (n < 4096 * t)) i]; simp [hl]
    · have hg2 : 4096 * (t + 1) ≤ i := by
        rcases Nat.lt_or_ge (i / 4096) t with hc | hc
        · omega
        · have : t + 1 ≤ i / 4096 := by omega
          omega
      rw [mapGet_append _ _ _ _ fun e he => by have := hlow e he; omega,
        mapGet_append _ _ _ _ fun e he => by have := hmid e he; omega]
      rw [mapGet_filter 0 k.acm (fun n => decide (4096 * (t + 1) ≤ n)) i]; simp [hg2]

/-- Replacing a tile keeps the entries in rising order. -/
theorem putAcm_sorted (k : Core) (t : Nat) (vs : List Nat) (hv : vs.length ≤ 4096)
    (hs : (k.acm.map (·.1)).Pairwise (· < ·)) : ((putAcm k t vs).acm.map (·.1)).Pairwise (· < ·) := by
  have sub : ∀ p : Nat × Nat → Bool, ((k.acm.filter p).map (·.1)).Pairwise (· < ·) := fun p =>
    List.Pairwise.sublist (List.Sublist.map _ List.filter_sublist) hs
  have hlow : ∀ a ∈ (k.acm.filter (fun e => decide (e.1 < 4096 * t))).map (·.1), a < 4096 * t := fun a ha => by
    obtain ⟨e, he, rfl⟩ := List.mem_map.1 ha; simpa using (List.mem_filter.1 he).2
  have hhigh : ∀ a ∈ (k.acm.filter (fun e => decide (4096 * (t + 1) ≤ e.1))).map (·.1), 4096 * (t + 1) ≤ a := fun a ha => by
    obtain ⟨e, he, rfl⟩ := List.mem_map.1 ha; simpa using (List.mem_filter.1 he).2
  have hmid : ∀ a ∈ (listFrom (4096 * t) vs).map (·.1), 4096 * t ≤ a ∧ a < 4096 * (t + 1) := fun a ha => by
    obtain ⟨e, he, rfl⟩ := List.mem_map.1 ha; have := listFrom_mem he; omega
  simp only [putAcm, List.map_append, List.pairwise_append]
  refine ⟨⟨sub _, listFrom_sorted vs _, ?_⟩, sub _, ?_⟩
  · intro a ha b hb; have := hlow a ha; have := hmid b hb; omega
  · intro a ha b hb
    have := hhigh b hb
    rcases List.mem_append.1 ha with h | h
    · have := hlow a h; omega
    · have := hmid a h; omega

/-! ## Operands without soft errors -/

theorem eccRead_clean {s : State} {c k n : Nat} (h : NoErrors s k n) : eccRead s c k n = (s, false) := by
  simp [eccRead, h.1, h.2]

theorem eccReads_clean {s : State} {c : Nat} : ∀ {l : List (Nat × Nat)}, (∀ r ∈ l, NoErrors s r.1 r.2) →
    eccReads s c l = (s, false) := by
  intro l
  induction l with
  | nil => intro _; rfl
  | cons r l ih =>
    intro h
    have h1 := eccRead_clean (c := c) (h r (by simp))
    have h2 := ih fun q hq => h q (by simp [hq])
    simp only [eccReads, List.foldl_cons, h1, Bool.or_false] at h2 ⊢
    exact h2

/-- One range of the own device: its bytes (R5). -/
theorem segRead_one {s : State} {c k n : Nat} (hk : keyStore k ≠ 8) (h : NoErrors s k n) :
    segRead s c [(k, n)] = (s, memBytes s.mem k n, false) := by
  simp [segRead, hk, eccRead_clean h]

/-- A tile whose codewords carry no error is read as it stands (R345). -/
theorem acmMeets_clean {s : State} {x : Cmd} {t : Nat} (h : TileSound s x.core t) :
    acmMeets s x t false 0 64 = (s, none) := by
  have : eccReads s x.core (accSpan x.core t false 0 64) = (s, false) := eccReads_clean (by simpa [accSpan] using h)
  simp [acmMeets, this]

/-! ## Tiles of the state -/

/-- An accumulator tile replaced: its entries are the new ones, every other entry stays (R86). -/
theorem acmAt_setAcc {s : State} {c t u i j : Nat} {vs : List Nat} (hv : vs.length ≤ 4096) (hi : i < 64) (hj : j < 64) :
    acmAt (setAcc s c t false vs) c u i j = if u = t then vs.getD (64 * i + j) 0 else acmAt s c u i j := by
  have hd : (4096 * u + 64 * i + j) / 4096 = u := by omega
  have hm : (4096 * u + 64 * i + j) % 4096 = 64 * i + j := by omega
  have h : ∀ (l : List (Nat × Nat)) (a : State), coreOf (l.foldl (fun a r => clearMark a r.1 r.2) a) c = coreOf a c := by
    intro l
    induction l with
    | nil => intro a; rfl
    | cons r l ih => intro a; rw [List.foldl_cons, ih]; rfl
  simp only [acmAt, setAcc, coreOf_modCore_same, putAcc, h]
  rw [if_neg (by decide), mapGet_putAcm _ _ _ _ hv, hd, hm]

/-- Clearing marks leaves memory alone. -/
theorem foldl_clearMark_mem (l : List (Nat × Nat)) : ∀ s : State, (l.foldl (fun a r => clearMark a r.1 r.2) s).mem = s.mem := by
  induction l with
  | nil => intro s; rfl
  | cons r l ih => intro s; rw [List.foldl_cons, ih]; rfl

@[simp] theorem setAcc_mem (s : State) (c t : Nat) (d64 : Bool) (vs : List Nat) : (setAcc s c t d64 vs).mem = s.mem := by
  simp [setAcc, foldl_clearMark_mem]

@[simp] theorem clearIf_mem (b : Bool) (s : State) (c t : Nat) (d64 : Bool) : (clearIf b s c t d64).mem = s.mem := by
  cases b <;> simp [clearIf]

/-- CLR: the entries of the tile are +0 where it is asked for (R228). -/
theorem acmAt_clearIf {s : State} {c t u i j : Nat} {b : Bool} (hi : i < 64) (hj : j < 64) :
    acmAt (clearIf b s c t false) c u i j = if b = true ∧ u = t then 0 else acmAt s c u i j := by
  cases b with
  | false => simp [clearIf]
  | true => simp [clearIf, acmAt_setAcc (vs := []) (by decide) hi hj]

/-! ## Lists cut into pieces -/

@[simp] theorem length_piecesOf (k n : Nat) : ∀ bs : List Byte, (piecesOf k n bs).length = n := by
  induction n with
  | zero => intro bs; rfl
  | succ n ih => intro bs; simp [piecesOf, ih]

theorem piecesOf_get (k n : Nat) : ∀ (bs : List Byte) (i : Nat), i < n →
    (piecesOf k n bs)[i]? = some ((bs.drop (k * i)).take k) := by
  induction n with
  | zero => intro bs i h; omega
  | succ n ih =>
    intro bs i h
    cases i with
    | zero => simp [piecesOf]
    | succ i =>
      have := ih (bs.drop k) i (by omega)
      simp only [piecesOf, List.getElem?_cons_succ, this, List.drop_drop]
      congr 3
      rw [Nat.mul_succ]; omega

theorem rowsOfList_get {α : Type} (k n : Nat) : ∀ (l : List α) (i : Nat), i < n →
    (rowsOfList k n l)[i]? = some ((l.drop (k * i)).take k) := by
  induction n with
  | zero => intro l i h; omega
  | succ n ih =>
    intro l i h
    cases i with
    | zero => simp [rowsOfList]
    | succ i =>
      have := ih (l.drop k) i (by omega)
      simp only [rowsOfList, List.getElem?_cons_succ, this, List.drop_drop]
      congr 3
      rw [Nat.mul_succ]; omega

@[simp] theorem length_memBytes (m : List Host.Cell) (n : Nat) : ∀ k, (memBytes m k n).length = n := by
  induction n with
  | zero => intro k; rfl
  | succ n ih => intro k; simp [memBytes, ih]

theorem memBytes_drop (m : List Host.Cell) (n : Nat) : ∀ (k a : Nat), (memBytes m k n).drop a = memBytes m (k + a) (n - a) := by
  induction n with
  | zero => intro k a; simp [memBytes]
  | succ n ih =>
    intro k a
    cases a with
    | zero => simp
    | succ a =>
      simp only [memBytes, List.drop_succ_cons, ih, Nat.succ_sub_succ]
      congr 1; omega

theorem memBytes_take (m : List Host.Cell) (n : Nat) : ∀ (k a : Nat), a ≤ n → (memBytes m k n).take a = memBytes m k a := by
  induction n with
  | zero => intro k a h; simp [Nat.le_zero.1 h, memBytes]
  | succ n ih =>
    intro k a h
    cases a with
    | zero => simp [memBytes]
    | succ a => simp [memBytes, ih (k + 1) a (by omega)]

/-- The codes of a vector in memory are the numbers that stand there (R5, R59). -/
theorem codesOf_memBytes (f n : Nat) (m : List Host.Cell) (k i : Nat) (h : i < n) :
    (codesOf f n (memBytes m k (fmtBits f / 8 * n)))[i]? = some (memNat m (k + fmtBits f / 8 * i) (fmtBits f / 8)) := by
  have hb : fmtBits f / 8 ≤ fmtBits f / 8 * n - fmtBits f / 8 * i := by
    rw [← Nat.mul_sub]; exact Nat.le_mul_of_pos_right _ (by omega)
  simp [codesOf, piecesOf_get _ _ _ _ h, memBytes_drop, memBytes_take _ _ _ _ hb, memNat]

/-- The codes of values rounded one by one (R237). -/
theorem encodeElems_get (f : Nat) (rm : Rm) (sat : Bool) (draw : Nat → Nat) (vs : List EV) : ∀ (e i : Nat),
    (encodeElems f rm sat draw e vs).1[i]? = vs[i]?.map fun v => (roundFmt v f rm sat (draw (e + i))).1 := by
  induction vs with
  | nil => intro e i; simp [encodeElems]
  | cons v vs ih =>
    intro e i
    cases i with
    | zero => simp [encodeElems]
    | succ i =>
      have := ih (e + 1) i
      simp only [encodeElems, List.getElem?_cons_succ, this]
      congr 2; funext v; congr 3; omega

/-- An entry of a pass: the exact sum of the entry and of its products, rounded once (R77). -/
theorem mxePass_get (f : FF) (acc : List Nat) (a b : List (List EV)) (g : Int) (za : Bool) (i j v : Nat) (x y : List EV)
    (ha : a[i]? = some x) (hb : b[j]? = some y) (hv : acc[b.length * i + j]? = some v) :
    (mxePass f acc a b g za)[b.length * i + j]? =
      some (roundRne (exactSum ((if za then [] else [f.value v]) ++ List.zipWith (fun p q => evMul p q g) x y)) f) := by
  have h : ∀ (a : List (List EV)) (i : Nat), a[i]? = some x →
      (a.flatMap fun row => b.map fun col => List.zipWith (fun p q => evMul p q g) row col)[b.length * i + j]? =
        some (List.zipWith (fun p q => evMul p q g) x y) := by
    intro a
    induction a with
    | nil => intro i h; simp at h
    | cons r a ih =>
      intro i h
      have hj : j < b.length := by
        rcases Nat.lt_or_ge j b.length with h1 | h1
        · exact h1
        · rw [List.getElem?_eq_none h1] at hb; simp at hb
      cases i with
      | zero =>
        simp only [List.getElem?_cons_zero, Option.some.injEq] at h
        subst h
        rw [List.flatMap_cons, List.getElem?_append_left (by simpa using hj)]
        simp [hb]
      | succ i =>
        have := ih i (by simpa using h)
        rw [List.flatMap_cons, List.getElem?_append_right (by simp; rw [Nat.mul_succ]; omega)]
        rw [List.length_map, show b.length * (i + 1) + j - b.length = b.length * i + j by rw [Nat.mul_succ]; omega, this]
  rw [mxePass, List.getElem?_map, (List.getElem?_zip_eq_some (z := (_, v))).2 ⟨h a i ha, hv⟩]
  cases za <;> simp

end Sys2Proof.Machine
end

