-- ==== Sys2Proof/Laws/Event.lean ====
section
/-! SUPPORT. What the operations shared by the hardware's events can do, once for each: waking slots, semaphores, filled
registers, messages, bytes that the device stores. -/

namespace Sys2Proof.Machine

/-! ## An event that happens, and one that is not enabled -/

@[simp] theorem event_some (s u : State) : event s (some u) = .next u := rfl
@[simp] theorem event_none (s : State) : event s none = .next s := rfl

/-! ## Waking -/

/-- A state whose cores and draws alone may differ. -/
theorem wakeSlots_rest (s : State) (c : Nat) (f : Nat → Slot → Bool) :
    ∃ cores fresh, wakeSlots s c f = { s with cores := cores, fresh := fresh } := by
  unfold wakeSlots
  dsimp only
  split
  · split <;> exact ⟨_, _, rfl⟩
  · exact ⟨_, _, rfl⟩


/-- Another core is as before. -/
theorem coreOf_wakeSlots_other (s : State) (c d : Nat) (f : Nat → Slot → Bool) (h : d ≠ c) :
    coreOf (wakeSlots s c f) d = coreOf s d := by
  unfold wakeSlots
  dsimp only
  split
  · rw [coreOf_setCore_other _ _ _ _ h]; split <;> rfl
  · rfl

/-- The core keeps all but its slots and its clock. -/
theorem coreOf_wakeSlots_rest (s : State) (c : Nat) (f : Nat → Slot → Bool) :
    ∃ slots stop, coreOf (wakeSlots s c f) c = { coreOf s c with slots := slots, clockStopped := stop } := by
  unfold wakeSlots
  dsimp only
  split
  · rw [coreOf_setCore_same]; exact ⟨_, _, rfl⟩
  · exact ⟨_, _, rfl⟩

@[simp] theorem coreOf_wakeSlots_sems (s : State) (c d : Nat) (f : Nat → Slot → Bool) :
    (coreOf (wakeSlots s c f) d).sems = (coreOf s d).sems := by
  by_cases h : d = c
  · subst h; obtain ⟨_, _, e⟩ := coreOf_wakeSlots_rest s d f; rw [e]
  · rw [coreOf_wakeSlots_other _ _ _ _ h]

@[simp] theorem coreOf_wakeSlots_mode (s : State) (c d : Nat) (f : Nat → Slot → Bool) :
    (coreOf (wakeSlots s c f) d).mode = (coreOf s d).mode := by
  by_cases h : d = c
  · subst h; obtain ⟨_, _, e⟩ := coreOf_wakeSlots_rest s d f; rw [e]
  · rw [coreOf_wakeSlots_other _ _ _ _ h]

/-- A slot is as before, or it waited and met the condition and is READY from a later cycle on. -/
theorem slotOf_wakeSlots (s : State) (c d n : Nat) (f : Nat → Slot → Bool) :
    slotOf (wakeSlots s c f) d n = slotOf s d n ∨
      d = c ∧ (slotOf s c n).st = .waiting ∧ f n (slotOf s c n) = true ∧
        slotOf (wakeSlots s c f) c n = readySlot (wakeCycle s c) (slotOf s c n) := by
  by_cases h : d = c
  · subst h
    unfold wakeSlots
    dsimp only
    split
    · rename_i ha
      simp only [slotOf, slotIn, coreOf_setCore_same]
      have e : ∀ l : SMap Slot, (l.map fun p => if p.2.st = .waiting && f p.1 p.2 then (p.1, readySlot (wakeCycle s d) p.2) else p) =
          l.map fun p => (p.1, (fun i (x : Slot) => if x.st = .waiting && f i x then readySlot (wakeCycle s d) x else x) p.1 p.2) := by
        intro l; apply List.map_congr_left; intro p _; dsimp only; split <;> rfl
      rw [e, mapGet_map Slot.fresh _ (fun i (x : Slot) => if x.st = .waiting && f i x then readySlot (wakeCycle s d) x else x) n]
      split
      · split
        · rename_i hc
          simp only [Bool.and_eq_true, decide_eq_true_eq] at hc
          exact .inr ⟨trivial, hc.1, hc.2, rfl⟩
        · exact .inl rfl
      · rename_i hn
        left
        have : ∀ l : SMap Slot, (mapFind l n).isSome = false → mapGet Slot.fresh l n = Slot.fresh := by
          intro l
          induction l with
          | nil => intro _; rfl
          | cons a t ih =>
            obtain ⟨k, v⟩ := a
            intro hl
            simp only [mapFind, mapGet] at hl ⊢
            split at hl
            · simp at hl
            · rename_i hk; simp only [hk, if_false]; exact ih hl
        exact (this _ (by simpa using hn)).symm
    · exact .inl rfl
  · left; simp only [slotOf]; rw [coreOf_wakeSlots_other _ _ _ _ h]

/-- Waking changes no thread. -/
@[simp] theorem threadOf_wakeSlots (s : State) (c d n : Nat) (f : Nat → Slot → Bool) :
    threadOf (wakeSlots s c f) d n = threadOf s d n := by
  rcases slotOf_wakeSlots s c d n f with h | ⟨rfl, -, -, h⟩
  · simp only [threadOf]; rw [h]
  · simp only [threadOf]; rw [h]; rfl

/-! ## Semaphores and registers -/

@[simp] theorem semOf_setSem_same (s : State) (c n : Nat) (x : Sem) : semOf (coreOf (setSem s c n x) c) n = x := by
  simp [setSem, semOf, putSem]

theorem semOf_setSem_other (s : State) (c n d m : Nat) (x : Sem) (h : d ≠ c ∨ m ≠ n) :
    semOf (coreOf (setSem s c n x) d) m = semOf (coreOf s d) m := by
  simp only [setSem, semOf, coreOf_wakeSlots_sems]
  by_cases hd : d = c
  · subst hd
    simp only [coreOf_modCore_same, putSem]
    exact mapGet_mapSet_other _ _ _ _ _ (h.resolve_left (by simp))
  · rw [coreOf_modCore_other _ _ _ _ hd]

@[simp] theorem setSem_mem (s : State) (c n : Nat) (x : Sem) : (setSem s c n x).mem = s.mem := by simp [setSem]
@[simp] theorem setSem_net (s : State) (c n : Nat) (x : Sem) : (setSem s c n x).net = s.net := by simp [setSem]
@[simp] theorem setSem_pkg (s : State) (c n : Nat) (x : Sem) : (setSem s c n x).pkg = s.pkg := by simp [setSem]
@[simp] theorem threadOf_setSem (s : State) (c n d m : Nat) (x : Sem) : threadOf (setSem s c n x) d m = threadOf s d m := by
  simp only [setSem, threadOf_wakeSlots]
  simp only [threadOf, slotOf]
  by_cases hd : d = c
  · subst hd; rw [coreOf_modCore_same]; rfl
  · rw [coreOf_modCore_other _ _ _ _ hd]

/-- A raise adds the increment, or leaves the largest value with the overflow bit (R53). -/
@[simp] theorem semOf_semAdd_same (s : State) (c n inc : Nat) :
    semOf (coreOf (semAdd s c n inc) c) n = raisedSem (semOf (coreOf s c) n) inc := by simp [semAdd]

@[simp] theorem slotOf_clearMark (s : State) (k m c n : Nat) : slotOf (clearMark s k m) c n = slotOf s c n := rfl

/-- A filled register belongs to the thread of its slot, if there is one (R23, R120). -/
theorem threadOf_fillReg (s : State) (c n r : Nat) (v : Word) :
    threadOf (fillReg s c n r v) c n = (threadOf s c n).map fun t => writeReg t r v := by
  unfold fillReg
  rw [threadOf_wakeSlots]
  simp [threadOf, modThread]

@[simp] theorem fillReg_mem (s : State) (c n r : Nat) (v : Word) : (fillReg s c n r v).mem = s.mem := by
  simp [fillReg, modThread]
@[simp] theorem fillReg_net (s : State) (c n r : Nat) (v : Word) : (fillReg s c n r v).net = s.net := by
  simp [fillReg, modThread]

/-! ## Messages -/

@[simp] theorem coreOf_dropMsg (s : State) (u c : Nat) : coreOf (dropMsg s u) c = coreOf s c := rfl
@[simp] theorem slotOf_dropMsg (s : State) (u c n : Nat) : slotOf (dropMsg s u) c n = slotOf s c n := rfl

/-- A message to the own device, or into the egress queue, is placed behind the others. -/
theorem putMsg_here (s : State) (m : Msg) (h : m.egress = true ∨ m.ddev = s.pkg.dev.toNat) :
    putMsg s m = { s with net := s.net ++ [m], uid := s.uid + 1 } := by
  unfold putMsg
  rw [if_pos]
  simpa using h

/-- An answer to a sender of the own device. -/
theorem answer_here (s : State) (m : Msg) (b : MsgBody) (h : m.sdev = s.pkg.dev.toNat) :
    ∃ e, answer s m b = { s with net := s.net ++ [e], uid := s.uid + 1 } ∧ e.ddev = m.sdev ∧ e.dcore = m.score ∧
      e.net = .reply ∧ e.body = b := by
  unfold answer
  exact ⟨_, putMsg_here _ _ (.inr h), rfl, rfl, rfl, rfl⟩

/-- What arrives is out of its queue, due, for this device, and one of the messages in flight. -/
theorem arrived_some {s : State} {uid : Nat} {m : Msg} (h : arrived s uid = some m) :
    findMsg s uid = some m ∧ m ∈ s.net ∧ m.uid = uid ∧ m.egress = false ∧ m.due ≤ s.cycle ∧ m.ddev = s.pkg.dev.toNat := by
  unfold arrived at h
  split at h
  · simp at h
  · rename_i e he
    have hm : e ∈ s.net ∧ e.uid = uid := by
      simp only [findMsg] at he
      exact ⟨List.mem_of_find?_eq_some he, by simpa using List.find?_some he⟩
    dsimp only at h
    split at h
    · simp at h
    · rename_i h0
      simp only [Bool.or_eq_true, decide_eq_true_eq, bne_iff_ne, ne_eq, not_or, Bool.not_eq_true, not_lt, not_not] at h0
      have heq : e = m := by
        split at h
        · simp at h
        split at h
        · simp at h
        split at h
        · split at h
          · simp at h
          · simpa using h
        · simpa using h
      subst heq
      exact ⟨he, hm.1, hm.2, h0.1.1, h0.1.2, h0.2⟩

/-! ## Bytes that the device stores -/


/-- Bytes outside the stored ones read as before; the stored ones read as stored. -/
theorem storeBytes_out (s : State) (k a : Nat) (bs : List Byte) (h : a < k ∨ k + bs.length ≤ a) :
    memByte (storeBytes s k bs).mem a = memByte s.mem a := memByte_memWrite_out _ _ _ _ h

theorem storeBytes_in (s : State) (k i : Nat) (bs : List Byte) (h : i < bs.length) :
    memByte (storeBytes s k bs).mem (k + i) = (bs[i]?).getD emptyByte := memByte_memWrite_in _ _ _ _ h

end Sys2Proof.Machine
end

