-- ==== Sys2Proof/Laws/Instr.lean ====
section
/-! SUPPORT. The forms that several instructions share, run once: the arithmetic forms, the levels of a CSR, and the
arithmetic of results written bit by bit or over the integers. -/

namespace Sys2Proof.Machine

open Sys2Proof.Claims

/-! ## Arithmetic forms -/

/-- A three-register form whose guard holds and whose sources are FULL completes with its result in rd. -/
theorem aluReg_at {s c n x t} (d a b : Fin 10) (p : Fin 16) (f : Word → Word → Word) (h : At s c n x t) (hg : Guarded t p)
  (hf : Full t [a, b]) (hl : LoopOk s c n t (writeReg t d (f (valOf t a) (valOf t b)))) :
  aluReg s d a b p f = .next (completed s c n t (writeReg t d (f (valOf t a) (valOf t b))) 4) := by
  unfold aluReg
  rw [runInstr_at h, guarded_holds _ hg, needRegs_full _ hf, done_ok hl]; rfl

/-- The same of a form of one source. -/
theorem aluOne_at {s c n x t} (d a : Fin 10) (p : Fin 16) (f : Word → Word) (h : At s c n x t) (hg : Guarded t p)
  (hf : Full t [a.val]) (hl : LoopOk s c n t (writeReg t d (f (valOf t a)))) :
  aluOne s d a p f = .next (completed s c n t (writeReg t d (f (valOf t a))) 4) := by
  unfold aluOne
  rw [runInstr_at h, guarded_holds _ hg, needRegs_full _ hf, done_ok hl]; rfl

/-! ## Results over the integers and bit by bit -/

theorem leadingZeros_size (x : Word) : BitVec.ofInt 64 ((64 - Nat.size x.toNat : Nat) : Int) = leadingZeros x := by
  unfold leadingZeros
  rw [BitVec.ofInt_natCast]
  congr 1
  split
  · subst_vars; simp
  · rename_i h
    have h0 : x.toNat ≠ 0 := fun e => h (BitVec.eq_of_toNat_eq (by simpa using e))
    have : Nat.size x.toNat = Nat.log2 x.toNat + 1 := by
      apply le_antisymm
      · exact Nat.size_le.mpr (Nat.lt_log2_self)
      · exact Nat.lt_size.mpr (Nat.log2_self_le h0)
    omega

theorem onesBelow_filter (x : Word) (n : Nat) : ((List.range n).filter fun i => x.getLsbD i).length = onesBelow x n := by
  induction n with
  | zero => rfl
  | succ n ih =>
    rw [List.range_succ, List.filter_append, List.length_append, ih]
    simp only [onesBelow]
    cases h : x.getLsbD n <;> simp [h]

theorem ofFnLE_and (x y : Word) : (BitVec.ofFnLE fun i : Fin 64 => and (x.getLsbD i) (y.getLsbD i)) = x &&& y := by
  apply BitVec.eq_of_getLsbD_eq; intro i hi; simp [hi]

theorem ofFnLE_or (x y : Word) : (BitVec.ofFnLE fun i : Fin 64 => or (x.getLsbD i) (y.getLsbD i)) = x ||| y := by
  apply BitVec.eq_of_getLsbD_eq; intro i hi; simp [hi]

theorem ofFnLE_xor (x y : Word) : (BitVec.ofFnLE fun i : Fin 64 => Bool.xor (x.getLsbD i) (y.getLsbD i)) = x ^^^ y := by
  apply BitVec.eq_of_getLsbD_eq; intro i hi; simp [hi]

theorem signExtend_bit (i : BitVec 14) (j : Nat) (h : j < 64) : i.getLsbD (min j 13) = (BitVec.signExtend 64 i).getLsbD j := by
  rw [BitVec.getLsbD_signExtend]
  simp only [h, decide_true, Bool.true_and]
  split
  · rw [Nat.min_eq_left (by omega)]
  · rw [Nat.min_eq_right (by omega)]; rw [BitVec.msb_eq_getLsbD_last]

theorem ofFnLE_andi (x : Word) (i : BitVec 14) : (BitVec.ofFnLE fun j : Fin 64 => and (x.getLsbD j) (i.getLsbD (min j.val 13))) =
      x &&& BitVec.signExtend 64 i := by
  rw [← ofFnLE_and]; congr 1; funext j; rw [signExtend_bit _ _ j.isLt]

theorem ofFnLE_ori (x : Word) (i : BitVec 14) : (BitVec.ofFnLE fun j : Fin 64 => or (x.getLsbD j) (i.getLsbD (min j.val 13))) =
      x ||| BitVec.signExtend 64 i := by
  rw [← ofFnLE_or]; congr 1; funext j; rw [signExtend_bit _ _ j.isLt]

theorem ofFnLE_xori (x : Word) (i : BitVec 14) : (BitVec.ofFnLE fun j : Fin 64 => Bool.xor (x.getLsbD j) (i.getLsbD (min j.val 13))) =
      x ^^^ BitVec.signExtend 64 i := by
  rw [← ofFnLE_xor]; congr 1; funext j; rw [signExtend_bit _ _ j.isLt]

theorem sshiftRight_ofInt (x : Word) (n : Nat) : BitVec.ofInt 64 (x.toInt / (2 ^ n : Nat)) = x.sshiftRight n := by
  rw [BitVec.sshiftRight_eq]
  congr 1
  rw [Int.shiftRight_eq_div_pow]

theorem ofInt_of_toInt (x : Word) : BitVec.ofInt 64 x.toInt = x := BitVec.ofInt_toInt

theorem ofInt_of_toNat (x : Word) : BitVec.ofInt 64 (x.toNat : Int) = x := by rw [BitVec.ofInt_natCast]; simp

/-! ## The levels of a CSR -/

/-- A slot that may name a listed per-slot CSR has its copy (R337, R338). -/
theorem slotCsr_of_listed {n num : Nat} (h1 : csrListed n num = true) (h3 : n < 4)
   (h4 : platformCsr num = true → n = 0) :
   (perSlot num && !slotCsr n num) = false := by
  simp only [csrListed, platformCsr, Bool.or_eq_true, Bool.and_eq_true, decide_eq_true_eq, bne_iff_ne] at h1 h4
  cases hp : perSlot num
  · rfl
  have hc : coreCsr num = false := by
    simp only [perSlot, Bool.or_eq_true, Bool.and_eq_true, decide_eq_true_eq, beq_iff_eq] at hp
    simp only [coreCsr, List.contains_eq_mem, List.mem_cons, List.not_mem_nil, or_false]
    simp only [Bool.or_eq_false_iff, decide_eq_false_iff_not, Bool.and_eq_false_iff]
    omega
  simp only [Bool.true_and, Bool.not_eq_false']
  simp only [hc, hp, Bool.false_eq_true, or_false, and_true] at h1
  simp only [perSlot, Bool.or_eq_true, Bool.and_eq_true, decide_eq_true_eq, beq_iff_eq] at hp
  rcases h1 with (h1 | h1) | h1
  · omega
  · exact h1
  · simp only [slotCsr, Bool.or_eq_true, Bool.and_eq_true, decide_eq_true_eq, beq_iff_eq]
    omega

/-- At home and at its level a listed CSR passes the checks (R337). -/
theorem csrLevel_ok {s c n x t num k} (h1 : csrListed n num = true) (h2 : (slotOf s c n).visitFrom = none) (h3 : n < 4)
   (h4 : platformCsr num = true → n = 0) :
   (Ctx.mk s c n x t).csrLevel num k = k := by
  have hc : Ctx.csrLevel.csrCopy (Ctx.mk s c n x t) num k = k := by
    unfold Ctx.csrLevel.csrCopy
    rw [show (Ctx.mk s c n x t).n = n from rfl, slotCsr_of_listed h1 h3 h4]; rfl
  simp only [Ctx.csrLevel, h1]
  simp only [Bool.not_true, Bool.false_eq_true, if_false]
  rw [needS_super _ h2 h3]
  split
  · rename_i h; rw [needP_platform _ h2 (h4 h), hc]
  · exact hc

end Sys2Proof.Machine
end

