-- ==== Sys2Proof/Tests/Slice0.lean ====
section
/-! SUPPORT. Tests: for each obligation states and operands that meet its hypotheses, words of the encoding tables and what they
decode to, terms that the checks refuse, and single steps with the results of the manual's tables. -/

namespace Sys2Proof.Tests

-- One theorem at a time: waiting theorems each hold a stack, and together they would pass the memory limit.
set_option Elab.async false

open Sys2Proof.Machine Sys2Proof.Claims

/-! ## Small states -/

/-- A FULL register. -/
def reg (v : Nat) : Reg := { val := BitVec.ofNat 64 v, full := true, rsv := false }

/-- A thread with values in a1 to a5 and zeros elsewhere, every register FULL, the PC at offset 0 of its TCM. -/
def thr (a b c d e : Nat) : Thread :=
  { freshThread 0 with regs := #v[reg 0, reg a, reg b, reg c, reg d, reg e, reg 0, reg 0, reg 0, reg 0] }

/-- A READY slot with a thread. -/
def held (t : Thread) : Slot := { Slot.fresh with st := .ready, thread := some t }

/-- A machine whose core `c` runs with a slot `x` at `n`, whose instruction is executed. -/
def mach (c n : Nat) (x : Slot) : State :=
  { State.reset with cores := [(c, { Core.fresh with mode := .running, slots := [(n, x)] })], cur := (c, n) }

def tA : Thread := thr 1 7 3 4 5
def sA : State := mach 0 4 (held tA)
/-- A thread with STRICT set and a tainted p8. -/
def tS : Thread := { tA with pw := 0x40010001#32 }
def sS : State := mach 0 4 (held tS)

/-! ## Witnesses: states and operands that meet the hypotheses of the statements -/

theorem witness_RegisterResults :
    AtHome sA 0 4 (held tA) tA ∧ Guarded tA 0 ∧ Full tA [2, 3] ∧ LoopOk sA 0 4 tA (writeReg tA 1 10#64) := by decide

theorem witness_RegisterResults_tainted :
    (regLine (.sel 1 2 3 0 8)).map (·.preds) = some [8] ∧ At sS 0 4 (held tS) tS ∧ Guarded tS 0 ∧ Full tS [2, 3] ∧
    ¬Clean tS 8 := by decide

theorem witness_PredicateResults :
    wellFormed (.por 1 8 0 0) = true ∧
    At sA 0 4 (held tA) tA ∧ Guarded tA 0 ∧ (∀ q ∈ [8, 0], Clean tA q) ∧ ¬StrictWrite tA 1 false ∧
      LoopOk sA 0 4 tA (putPred tA 1 true false) ∧
    At sS 0 4 (held tS) tS ∧ Guarded tS 0 ∧ StrictWrite tS 1 true := by decide

/-- A thread with addresses in its registers: a1 the start of its TCM, a2 its last word, a3 past it, a4 0. -/
def tJ : Thread := thr 0xFF0000000000 0xFF000003FFFC 0xFF0000040000 0 0
def sJ : State := mach 0 4 (held tJ)

theorem witness_ControlTransfers :
    At sJ 0 4 (held tJ) tJ ∧ Guarded tJ 0 ∧ Full tJ [1, 2, 3] ∧
    TargetOk sJ 0 4 tJ.pc (pcTarget tJ.pc 2) ∧ LoopOk sJ 0 4 tJ tJ ∧
    TargetOk sJ 0 4 tJ.pc (pcTarget tJ.pc 65535) ∧ (checkTarget sJ 0 4 tJ.pc (pcTarget tJ.pc 65536)).isOk = false ∧
    (checkTarget sJ 0 4 tJ.pc (pcTarget tJ.pc (-1))).isOk = false ∧
    TargetOk sJ 0 4 tJ.pc (valOf tJ 2).toNat ∧ (checkTarget sJ 0 4 tJ.pc (valOf tJ 3).toNat).isOk = false := by decide

/-- The same thread with a request unanswered, whose target must be walked. -/
def sJw : State := modCore sJ 0 fun k => { k with remote := [⟨1, tJ.tid, 0, false⟩] }

theorem witness_ControlTransfers_waits :
    ((branchLine (.bp 8 4)).map (·.preds) = some [8] ∧ At sS 0 4 (held tS) tS ∧ ¬Clean tS 8) ∧
    (match checkTarget sJ 0 4 tJ.pc (valOf tJ 3).toNat with
      | .error e => !targetWaits sJ 0 4 e
      | .ok _ => false) = true ∧
    (At sJw 0 4 (held tJ) tJ ∧ (match checkTarget sJw 0 4 tJ.pc 0x10000 with
      | .error e => targetWaits sJw 0 4 e
      | .ok _ => false) = true) := by decide

/-- Loop counts 1, 2^32 − 1, 0 and 2^32. -/
def tL : Thread := thr 1 0xFFFFFFFF 0 0x100000000 0
def sL : State := mach 0 4 (held tL)

theorem witness_LoopSetup :
    At sL 0 4 (held tL) tL ∧ Full tL [1, 2, 3, 4] ∧
    (valOf tL 1).toNat = 1 ∧ LoopOk sL 0 4 tL (loopSet tL 1 1) ∧
    (valOf tL 2).toNat = 2 ^ 32 - 1 ∧ LoopOk sL 0 4 tL (loopSet tL (2 ^ 32 - 1) 0xFFFF) ∧
    (valOf tL 3).toNat = 0 ∧ (fetchCode sL 0 4 (tL.pc + BitVec.ofNat 48 4).toNat 4).isOk = true ∧
      TargetOk sL 0 4 tL.pc ((tL.pc + BitVec.ofNat 48 4).toNat + 4) ∧
    2 ^ 32 ≤ (valOf tL 4).toNat := by decide

/-- Operands of FP32: 1.0, 2.0, a quiet NaN, a signalling NaN, −0; the same on a D core. -/
def tF : Thread := thr 0x3F800000 0x40000000 0x7FC00000 0x7F800001 0x80000000
def sF : State := mach 0 4 (held tF)
def sD : State := mach 7 4 (held tF)

theorem witness_FloatResults :
    At sF 0 4 (held tF) tF ∧ Guarded tF 0 ∧ Full tF [1, 2] ∧
      LoopOk sF 0 4 tF { writeReg tF 3 0x40400000#64 with fflags := 0#5 } ∧
    At sD 7 4 (held tF) tF ∧ LoopOk sD 7 4 tF { writeReg tF 3 0#64 with fflags := 0#5 } := by decide

theorem witness_FminResults :
    At sF 0 4 (held tF) tF ∧ Guarded tF 0 ∧ Full tF [0, 1, 2, 3, 4, 5] ∧
    (ffF32.isNan (codeOf ffF32 tF 3) = true ∧ ffF32.isNan (codeOf ffF32 tF 4) = true) ∧
    (ffF32.isNan (codeOf ffF32 tF 3) = true ∧ ffF32.isNan (codeOf ffF32 tF 1) = false) ∧
    evLt (ffF32.value (codeOf ffF32 tF 1)) (ffF32.value (codeOf ffF32 tF 2)) = true ∧
    (evLt (ffF32.value (codeOf ffF32 tF 0)) (ffF32.value (codeOf ffF32 tF 5)) = false ∧
      evLt (ffF32.value (codeOf ffF32 tF 5)) (ffF32.value (codeOf ffF32 tF 0)) = false) ∧
    LoopOk sF 0 4 tF { writeReg tF 0 0x7FC00000#64 with fflags := 0b10000#5 } := by decide

theorem witness_FloatCompare :
    wellFormed (.fcmp 1 1 2 0 .lt .f32) = true ∧ At sF 0 4 (held tF) tF ∧ Guarded tF 0 ∧ Full tF [1, 2] ∧
    ¬StrictWrite tF 1 (taintOf tF 0) ∧ LoopOk sF 0 4 tF (putPred tF 1 true false) := by decide

theorem witness_FloatSpecialCases :
    Rm.rne ≠ Rm.sr ∧ ffF32 ∈ [ffF32, ffF16, ffBf16, ffF64] ∧ ffF32.isNan 0x7FC00000 = true ∧
    ffF32.value 0x7F800000 = .inf false ∧ ffF32.value 0xFF800000 = .inf true ∧
    ffF32.value 0 = .fin false 0 (-149) ∧ ffF32.value 0x80000000 = .fin true 0 (-149) := by decide

/-- A thread with a held error. -/
def tH : Thread := { tF with held := some ⟨6, 0x1000#64, 2⟩ }
def sH : State := mach 0 4 (held tH)

theorem witness_FloatVisits :
    isDExt (.faddF64 1 2 3 0 .rne) = true ∧
    (At sF 0 4 (held tF) tF ∧ 0 % 8 ≠ 7 ∧ anyReserved tF = false ∧ pending sF 0 4 = false ∧ tF.held = none) ∧
    (At sH 0 4 (held tH) tH ∧ anyReserved tH = false ∧ pending sH 0 4 = false ∧ tH.held.isSome = true) := by decide

theorem witness_GuardRule :
    ReachesGuard (.add 1 2 3 1) sA 0 4 ∧ AtHome sA 0 4 (held tA) tA ∧ Clean tA 1 ∧ predOf tA 1 = false ∧
      LoopOk sA 0 4 tA tA ∧
    ReachesGuard (.add 1 2 3 8) sS 0 4 ∧ AtHome sS 0 4 (held tS) tS ∧ ¬Clean tS 8 := by
  decide

/-- A thread with a2 RESERVED and a3 EMPTY. -/
def tE : Thread := emptyReg (reserveReg tA 2) 3
def sE : State := mach 0 4 (held tE)

theorem witness_EmptySourceWaits :
    ReachesGuard (.add 1 2 3 0) sE 0 4 ∧ AtHome sE 0 4 (held tE) tE ∧ Guarded tE 0 ∧
    firstEmpty tE (sourceLine (.add 1 2 3 0)) = some 2 ∧ firstEmpty tE (sourceLine (.add 1 3 2 0)) = some 3 := by
  decide

/-- A CHCLOSE with its address in a3. -/
def iClose : Instr := .chclose ⟨3, 15, false, false, 0, 0, 0, 0, 0, false, 0, false, 0, 0, 0, 0x208, 0⟩

theorem witness_EmptySourceWaits_more :
    (wellFormed (.loop 2 4) = true ∧ firstEmpty tE (freeSources (.loop 2 4)) = some 2) ∧
    (wellFormed iClose = true ∧ firstEmpty tE (freeSources iClose) = some 3) ∧
    (ReachesGuard (.fork 0 9 0) sE 0 4 ∧ firstEmpty tE (sourceLine (.fork 0 9 0)) = some 2) ∧
    (ReachesGuard (.sendm 8 0 9 0) sE 0 4 ∧ firstEmpty tE (sourceLine (.sendm 8 0 9 0)) = some 2) ∧
    (ReachesGuard (.ecall 1 3 0) sE 0 4 ∧ firstEmpty tE (sourceLine (.ecall 1 3 0)) = some 3) ∧
    (ReachesGuard (.enq 8 0 9 0) sE 0 4 ∧ firstEmpty tE (sourceLine (.enq 8 0 9 0)) = some 2) := by decide

theorem witness_EmptySourceWaits_reach : reachesSources (.loop 2 4) sE 0 4 tE ∧ reachesSources iClose sE 0 4 tE :=
  ⟨trivial, fun h => absurd h (by decide), fun h => absurd h (by decide), fun h => absurd h (by decide), trivial⟩

/-- The same thread in slot 1: supervisor, not platform. -/
def sA1 : State := mach 0 1 (held tA)

theorem witness_PrivilegeTraps :
    AtHome sA 0 4 (held tA) tA ∧ levelAsked sA 0 (.tret 0) = .supervisor ∧ ¬levelHeld 4 .supervisor ∧
    levelAsked sA 0 (.csrrp 1 0 0x100#12) = .supervisor ∧ csrListed 4 0x100 = true ∧
    AtHome sA1 0 1 (held tA) tA ∧ levelAsked sA1 0 (.dbghalt 1 2 0) = .platform ∧ ¬levelHeld 1 .platform ∧
    csrListed 1 0x240 = true ∧ levelAsked sA1 0 (.csrwp 1 0 0x240#12) = .platform := by
  decide

theorem witness_AddressRoutes :
    (routeAccess sA 0 4 .read 0x800000000003FFF8#64 8).isOk = true ∧
    bits 0x800000000003FFF8 59 18 = 0 ∧ bits 0x800000000003FFF8 17 0 + 8 ≤ 262144 ∧
    262144 < bits 0x800000000003FFF9 17 0 + 8 ∧ bits 0x8000000000040000 59 18 ≠ 0 ∧
    bits 0x9000000000FFFFF8 59 24 = 0 ∧ bits 0x9000000000FFFFF8 23 0 + 8 ≤ 16777216 ∧ bits 0x9000000001000000 59 24 ≠ 0 ∧
    bits 0xF000000000000000 63 60 = 15 ∧ bits 0x1000000000000000 63 60 ∈ [1, 2, 3, 4, 5, 6, 7, 11, 12, 13, 14] := by decide

/-- Addresses: a1 the last doubleword of the own TCM, a2 a doubleword of core 1's TCM, a3 the scratchpad, a4 in region 0x0. -/
def tM : Thread := thr 0x800000000003FFF8 0xA000000400000008 0x9000000000000010 0x100 0x1122334455667788

/-- A core whose TLB maps the first 64 KiB of region 0x0 to HBM, in a partition of cluster 0 with that window. -/
def sM : State :=
  { State.reset with
    cores := [(0, { Core.fresh with
      mode := .running, slots := [(4, held tM)], tlb := [⟨0, 0, 65536, 0xF0, 4⟩] })],
    parts := [(0, { Part.unbound with st := 1, clus := 1, hbmwin := [(0, 65536)], ctab := 0x1000000#64 })],
    pkg := { Pkg.fresh with dev := 0#16 } }
def sM4 : State := { sM with cur := (0, 4) }

theorem witness_OwnAccesses :
    AtHome sM4 0 4 (held tM) tM ∧ Guarded tM 0 ∧ Full tM [1, 3, 5] ∧
    ((valOf tM 1 + BitVec.ofInt 64 ((0#11).toInt * 8)).toNat % 8 = 0 ∧
      routeAccess sM4 0 4 .read (valOf tM 1) 8 = .ok (.own (tcmKey 0 0x3FFF8)) ∧
      LoopOk sM4 0 4 tM (writeReg tM 2 0#64)) ∧
    (routeAccess sM4 0 4 .write (valOf tM 3) 4 = .ok (.own (spadKey 0 16)) ∧ inCounterTable sM4 (spadKey 0 16) 4 = false ∧
      inAsidTable sM4 (spadKey 0 16) 4 = false ∧ eccBads (eccWrite sM4.ecc (spadKey 0 16) 4) (spadKey 0 16) 4 = [] ∧
      LoopOk (threadStore sM4 0 4 (spadKey 0 16) (leBytes 4 0x55667788)) 0 4 tM tM) ∧
    inAsidTable sM4 (tcmKey 0 0x3FFF8) 8 = false ∧ unperformed sM4 0 4 = false ∧
      NoErrors sM4 (tcmKey 0 0x3FFF8) 8 := by decide

theorem witness_AddressRoutes_fabric :
    (bits 0x9000000000FFFFFF 59 24 = 0 ∧ 16777216 < bits 0x9000000000FFFFFF 23 0 + 8) ∧
    (bits 0xA000000300000000 63 60 = 10 ∧ bits 0xA000000300000000 33 32 = 3) ∧
    (bits 0xA00000000003FFFF 33 32 = 0 ∧ 262144 < bits 0xA00000000003FFFF 31 0 + 8) ∧
    (bits 0xA000000100000010 33 32 = 1 ∧ bits 0xA000000100000010 59 44 = sM4.pkg.dev.toNat ∧
      coreOfLogical sM4 (partOfCore sM4 0) (bits 0xA000000100000010 43 34) = some 0 ∧ coreOfLogical sM4 (partOfCore sM4 0) 8 = none) ∧
    bits 0xA000100000000010 59 44 ≠ sM4.pkg.dev.toNat ∧ peerBound sM4 (partOfCore sM4 0) 1 = false := by decide

theorem witness_RemoteLoadsStores :
    AtHome sM4 0 4 (held tM) tM ∧ Guarded tM 0 ∧ Full tM [5, 2] ∧
    (effAddr (valOf tM 2) 0#11 .d).toNat % 8 = 0 ∧
    routeAccess sM4 0 4 .read (effAddr (valOf tM 2) 0#11 .d) 8 = .ok (.far (tcmKey 1 8) true) ∧
    egressCount sM4 0 < 64 ∧ inCounterTable sM4 (tcmKey 1 8) 8 = false ∧ inAsidTable sM4 (tcmKey 1 8) 8 = false := by decide

theorem witness_RequestsSent :
    AtHome sM4 0 4 (held tM) tM ∧ Guarded tM 0 ∧ Full tM [2, 0, 5, 1] ∧ (coreOf sM4 0).outstanding < 64 ∧
    (valOf tM 2 + valOf tM 0).toNat % 8 = 0 ∧
    routeAccess sM4 0 4 .read (valOf tM 2 + valOf tM 0) 8 = .ok (.far (tcmKey 1 8) true) ∧
    routeAccess sM4 0 4 .write (valOf tM 2 + valOf tM 0) 8 = .ok (.far (tcmKey 1 8) true) ∧
    routeAccess sM4 0 4 .amo (valOf tM 2) 8 = .ok (.far (tcmKey 1 8) true) ∧ tcmKey 1 8 / 2 ^ 60 ≠ 4 ∧
    egressCount sM4 0 < 64 ∧ inCounterTable sM4 (tcmKey 1 8) 8 = false ∧ inAsidTable sM4 (tcmKey 1 8) 8 = false := by decide

/-- The same with a request unanswered, and with a held error. -/
def sM5 : State := modCore sM4 0 fun k => { k with remote := [⟨1, tM.tid, 0, false⟩] }
def tM6 : Thread := { tM with held := some ⟨6, 0x1000#64, 2⟩ }
def sM6 : State := setThread sM4 0 4 tM6

theorem witness_FenceWatch :
    (AtHome sM4 0 4 (held tM) tM ∧ Guarded tM 0 ∧ LoopOk sM4 0 4 tM tM ∧ pending sM4 0 4 = false ∧ tM.held = none) ∧
    (AtHome sM5 0 4 (slotOf sM5 0 4) tM ∧ pending sM5 0 4 = true) ∧
    (AtHome sM6 0 4 (slotOf sM6 0 4) tM6 ∧ pending sM6 0 4 = false ∧ tM6.held.isSome = true) ∧
    (Full tM [4, 0] ∧ (valOf tM 4).toNat % 8 = 0 ∧ bits (valOf tM 4).toNat 63 60 = 0 ∧
      routeAccess sM4 0 4 .read (valOf tM 4) 8 = .ok (.far 0x100 false) ∧ watchCount (coreOf sM4 0) < 64 ∧
      inAsidTable sM4 0x100 8 = false ∧ unperformed sM4 0 4 = false ∧ NoErrors sM4 0x100 8 ∧
      BitVec.ofNat 64 (memNat sM4.mem 0x100 8) = valOf tM 0 ∧ BitVec.ofNat 64 (memNat sM4.mem 0x100 8) ≠ valOf tM 1) := by
  decide

/-- A bundle without operands that signals 1 to semaphore 0. -/
def b0 : Bundle := ⟨15, 15, false, false, 0, 0, 0, 0, 1, false, 0, false, 0, 0, 0, 0, 0⟩

theorem witness_DecodeOfEncode :
    wellFormed (.add 1 2 3 4) = true ∧ encode (.add 1 2 3 4) = some [0x0448D000] ∧
    wellFormed (.lix 9 15 0xFFFFFFFF#32) = true ∧ (encode (.lix 9 15 0xFFFFFFFF#32)).isSome = true ∧
    wellFormed (.hodstop b0) = true ∧ (encode (.hodstop b0)).isSome = true := by decide

theorem witness_EncodeOfDecode :
    (∀ v ∈ [0x04890000], v < 2 ^ 32) ∧ decodeWords [0x04890000] = .ok (.add 2 2 4 0) ∧
    (∀ v ∈ [0xC4800000, 0xFFFFFFFF], v < 2 ^ 32) ∧ decodeWords [0xC4800000, 0xFFFFFFFF] = .ok (.lix 2 0 0xFFFFFFFF#32) := by
  decide

theorem witness_HodCommandCodes :
    wellFormed (.hseta 7 5#64) = true ∧ (encodeHod (.hseta 7 5#64)).isSome = true ∧ decodeHod 0x0B = .ok .hnop := by decide

/-- A step of a placed ADD. -/
def sP : State := State.reset.withFetchWord 32 0x04890000

/-- A PC past the TCM, with a request unanswered or not; an uncorrectable error in the context of the slot. -/
def sOut (r : List RemoteAsk) : State :=
  modCore (mach 0 0 (held { tA with pc := 0xFF0000040000#48 })) 0 fun k => { k with remote := r }
def asked : RemoteAsk := ⟨1, tA.tid, 0, false⟩
def sBadContext : State := { sP with ecc := [(regKey 0 0 0, true)] }

theorem witness_StepRunsInstruction :
    (∀ e ∈ sP.inputs.head?, sP.cycle < e.1) ∧ (runEvent sP).isNone = true ∧ (nextHod sP).isNone = true ∧
    nextIssue sP = some (0, 0) ∧ (threadOf sP 0 0).isSome = true ∧ NoErrors sP (regKey 0 0 0) 128 ∧
    (fetchCode sP 0 0 0xFF0000000000 4).isOk = true ∧ misfetch 0x04890000 0xFF0000000000 = false ∧
    misfetch 0xC4000000 0xFF0000000004 = true ∧
    (∀ r ∈ [[], [asked]], nextIssue { sOut r with phase := 1 } = some (0, 0) ∧
      (fetchCode (sOut r) 0 0 0xFF0000040000 4).isOk = false ∧ NoErrors (sOut r) (regKey 0 0 0) 128) ∧
    unperformed (sOut []) 0 0 = false ∧ unperformed (sOut [asked]) 0 0 = true ∧
    nextIssue { sBadContext with phase := 1 } = some (0, 0) ∧ eccBads sBadContext.ecc (regKey 0 0 0) 128 ≠ [] := by decide

/-- Two READY slots of priorities 1 and 2 in ready mode; rotation mode with slot 5 at turn 1. -/
def sI : State :=
  { State.reset with cores := [(0, { Core.fresh with
      mode := .running, slots := [(4, held { tA with prio := 1#3 }), (5, held { tA with prio := 2#3 })] })] }
def sR : State :=
  { State.reset with
    devTime := 0x8000
    cores := [(0, { Core.fresh with mode := .running, rot := true, rotTab := [(1, 0x8005#16)], slots := [(5, held tA)] })] }

/-- The two slots, slot 4 with a PC past its TCM and a request unanswered. -/
def sStalls : State :=
  modCore (modSlot sI 0 4 fun x => { held { tA with prio := 1#3, pc := 0xFF0000040000#48 } with age := x.age }) 0
    fun k => { k with remote := [asked] }

theorem witness_IssueSelection :
    nextIssue sI = some (0, 5) ∧ (sI.cores.map (·.1)).Nodup ∧ ((coreOf sI 0).slots.map (·.1)).Pairwise (· < ·) ∧
    (coreOf sI 0).rot = false ∧ eligible sI.cycle (coreOf sI 0) 4 (slotOf sI 0 4) = true ∧
    wouldStall sI 0 5 = false ∧ nextIssue sStalls = some (0, 4) ∧ wouldStall sStalls 0 4 = true ∧
    nextIssue sR = some (0, 5) ∧ (coreOf sR 0).rot = true ∧ ((coreOf sR 0).slots.map (·.1)).Pairwise (· < ·) := by decide

theorem witness_TimeInvariant :
    TimeKept sP ∧ (match step sP with | .next t => decide (TimeKept t) | _ => false) = true ∧
    (match step { State.reset with pkg := { Pkg.fresh with booted := true } } with | .next t => decide (t.cycle = 1 ∧ t.devTime = 0x8000) | _ => false) = true := by decide

/-- A supervisor and a platform slot. -/
def sK1 : State := mach 0 1 (held tA)
def sK0 : State := mach 0 0 (held tA)

theorem witness_UserCsrs :
    At sA 0 4 (held tA) tA ∧ Guarded tA 0 ∧ (0#12).toNat < 0x00C ∧ (11#12).toNat < 0x00C ∧
    LoopOk sA 0 4 tA (writeReg tA 1 1#64) ∧ Full tA [2] ∧ LoopOk sA 0 4 tA { tA with pw := 7#32 } := by decide

theorem witness_PrivilegedReads :
    AtHome sK1 0 1 (held tA) tA ∧ 1 < 4 ∧ csrListed 1 0x100 = true ∧ csrListed 1 0x110 = true ∧ Guarded tA 0 ∧
    AtHome sK0 0 0 (held tA) tA ∧ csrListed 0 0x200 = true ∧ csrListed 0 0x240 = true ∧ levelHeld 0 .platform ∧
    LoopOk sK1 0 1 tA (writeReg tA 1 0x80#64) := by decide

theorem witness_PrivilegedWrites :
    AtHome sK1 0 1 (held tA) tA ∧ Full tA [2] ∧ csrListed 1 0x101 = true ∧
      (csrWrite sK1 (levelOf 1) 0 1 0x101 7#64).isSome = true ∧
      (csrWrite sK1 (levelOf 1) 0 1 0x133 7#64).isNone = true ∧ csrRow (.dqbWrite 7#64) = some (0x133, 7#64) ∧
    AtHome sK0 0 0 (held tA) tA ∧ csrRow (.fabcfgWrite 0#64) = some (0x230, 0#64) ∧
      pending sK1 0 1 = false ∧ (held tA).fetched = none ∧ csrRow (.dispatch 0#64) = some (0x130, 0#64) := by decide

/-- A running core with one slot. -/
def run1 (n : Nat) (x : Slot) : Core := { Core.fresh with mode := .running, slots := [(n, x)] }

/-- Partition 0 on cluster 0 of device 0 with its counter table and windows, one core, and memory; device 1 is bound. -/
def part (k : Core) (n : Nat) (m : List Host.Cell) : State :=
  { State.reset with
    cores := [(0, k)],
    parts := [(0, { Part.unbound with st := 1, clus := 1, hbmwin := [(0, 65536)], ctab := 0x1000000#64, tdCount := 4096 })],
    mem := memWrite m (sramKey 0 0x2000008) (leBytes 8 (2 ^ 63)), 
    pkg := { Pkg.fresh with dev := 0#16, pbtab := 0x2000000#64, asidtab := 0x3000000#64 },
    cur := (0, n) }

/-- Counter 1 OPEN with count 1, counter 3 OPEN at its limit. -/
def counters (m : List Host.Cell) : List Host.Cell :=
  memWrite (memWrite m (sramKey 0 0x1000008) (leBytes 8 (cntWord false 1 0 0 1))) (sramKey 0 0x1000018)
    (leBytes 8 (cntWord false 1 0 0 0xFFFFFFFF))

/-- Packets at offsets 64, 128, 192 and 256 of the TCM: TASK of launches 1, 2 and 3, and one that is no TASK. -/
def packets : List Host.Cell :=
  let p (m : List Host.Cell) (o w : Nat) := memWrite m (tcmKey 0 o) (leBytes 8 w ++ leBytes 8 0xFF0000000000)
  p (p (p (p [] 64 0x100000003) 128 0x200000003) 192 0x300000003) 256 0x100000004

/-- Slot 0 of a core whose TCM holds the packets and at offset 512 a record of KIND 0x20; the package bound. -/
def xPw : Slot := { held tA with fetched := some 1 }
def sPw : State :=
  let s := part (run1 0 xPw) 0 (memWrite packets (tcmKey 0 520) [0x20#8])
  modPart s 0 fun p => { p with srwin := [(0, 65536)] }
/-- Words of dsp (the packet at 64, core 1), dtrec (offset 512), attest (offset 0 of the SRAM), fabcfg (device 1 of 2). -/
def vDsp : Word := 0x4000040
def vAtt : Word := 0xA000000200000000
def vFab : Word := 0x1000001000000

theorem witness_PrivilegedWrites_explicit :
    AtHome sPw 0 0 xPw tA ∧ (coreOf sPw 0).mode = .running ∧ (∀ y ∈ (coreOf sPw 0).slots, 4 ≤ y.1 → y.2.st = .free) ∧
    LoopOk sPw 0 0 tA tA ∧
    turnsTooClose { coreOf sPw 0 with rotTab := mapSet (coreOf sPw 0).rotTab 1 0x8004#16 } = false ∧
    chanAllow (coreOf sPw 0).chan ≤ chanCred (coreOf sPw 0).chan ∧ (7#64).getLsbD 63 = false ∧
    ((coreOf sPw 0).spill = [] ∧ inPartHbm sPw 0 0 1 = true) ∧ partOfCore sPw 0 = some 0 ∧
    sPw.pkg.lock = false ∧ (modPkg sPw fun p => { p with lock := true }).pkg.lock = true ∧
    (sPw.pkg.conns = [] ∧ sPw.net = [] ∧ bits vFab.toNat 63 48 ≠ sPw.pkg.dev.toNat ∧
      bits vFab.toNat 63 48 < (bits vFab.toNat 41 36 + 1) * (bits vFab.toNat 35 30 + 1) * (bits vFab.toNat 29 24 + 1)) ∧
    pending sPw 0 0 = false ∧
    (coreOfLogical sPw (partOfCore sPw 0) (bits vDsp.toNat 35 26) = some 1 ∧ bits vDsp.toNat 63 36 = 0 ∧
      bits vDsp.toNat 21 18 = 0 ∧ bits vDsp.toNat 5 0 = 0 ∧
      ctlKind (pktWord (packetOf (memBytes sPw.mem (tcmKey 0 64) 64)) 0) ≠ 5) ∧
    0x20 ≤ memNat sPw.mem (tcmKey 0 (512 + 8)) 1 ∧ (reportKey sPw 0 vAtt).isSome = true := by decide +kernel

theorem witness_PrivilegedWrites_errors :
    (let s := { sPw with ecc := [(tcmKey 0 64, true)] }
     (csrMeets sPw 0 0x130 vDsp).2 = false ∧ (csrMeets s 0 0x130 vDsp).2 = true ∧
       (csrWrite (csrMeets s 0 0x130 vDsp).1 (levelOf 0) 0 0 0x130 vDsp).isSome = true) ∧
    NoErrors sPw (tcmKey 0 64) 80 ∧ NoErrors sPw (tcmKey 0 512) 32 ∧
    (∀ k, reportKey sPw 0 vAtt = some k → NoErrors sPw k 32) := by
  refine ⟨by decide +kernel, by decide +kernel, by decide +kernel, fun k h => ⟨rfl, rfl⟩⟩

/-- a1 the packets, a2 core 1, a3 core 0 of device 1. -/
def tQ (a : Nat) : Thread := thr a 0x100 0x40000 5 0
def sQ (a : Nat) : State := part (run1 4 (held (tQ a))) 4 (counters packets)
def owns : Dest := ⟨true, 0, 1⟩
def other : Dest := ⟨false, 1, 0⟩

theorem witness_SpawnSends :
    AtHome (sQ 0x8000000000000040) 0 4 (held (tQ 0x8000000000000040)) (tQ 0x8000000000000040) ∧
    Guarded (tQ 0x8000000000000040) 0 ∧ Full (tQ 0x8000000000000040) [4, 1, 2, 3] ∧
    coreWord (sQ 0x8000000000000040) 0 0x100#64 owns ∧ coreWord (sQ 0x8000000000000040) 0 0x40000#64 other ∧
    routeAccess (sQ 0x8000000000000040) 0 4 .read 0x8000000000000040#64 64 = .ok (.own (tcmKey 0 64)) ∧
    farGuard (sQ 0x8000000000000040) (tcmKey 0 64) 64 0x8000000000000040#64 = none ∧
    egressCount (sQ 0x8000000000000040) 0 < 64 ∧ inAsidTable (sQ 0x8000000000000040) (tcmKey 0 64) 64 = false ∧
    unperformed (sQ 0x8000000000000040) 0 4 = false ∧ NoErrors (sQ 0x8000000000000040) (tcmKey 0 64) 64 ∧
    (let w (o : Nat) := packetOf (memBytes (sQ 0x8000000000000040).mem (tcmKey 0 o) 64)
     (spawnFieldsOk (spawnFcnt (sQ 0x8000000000000040) 0 true 1) (w 64) = true ∧ ctlCcid (pktWord (w 64) 0) = 1) ∧
     (spawnFieldsOk (spawnFcnt (sQ 0x8000000000000040) 0 true 2) (w 128) = true ∧ ctlCcid (pktWord (w 128) 0) = 2) ∧
     (spawnFieldsOk (spawnFcnt (sQ 0x8000000000000040) 0 true 3) (w 192) = true ∧ ctlCcid (pktWord (w 192) 0) = 3) ∧
     spawnFieldsOk (spawnFcnt (sQ 0x8000000000000040) 0 false 1) (w 64) = true ∧
     spawnFieldsOk (spawnFcnt (sQ 0x8000000000000040) 0 true 1) (w 256) = false) ∧
    (let incr (id : Nat) := match counterIncr (sQ 0x8000000000000040) (some 0) id with
       | .done _ => 0
       | .notOpen => 1
       | .limit => 2
     incr 1 = 0 ∧ incr 2 = 1 ∧ incr 3 = 2) := by decide

/-- A thread of launch `id` with a TASK packet in a0 to a7, and b in a8; a core with a deque of two entries, or none. -/
def tK (id : Nat) : Thread :=
  { thr 0xFF0000000000 0 0 0 0 with
    regs := #v[reg 3, reg 0xFF0000000000, reg 0, reg 0, reg 0, reg 0, reg 0, reg 0, reg 9, reg 0xA000000200000020],
    ccid := BitVec.ofNat 16 id }
def sK (id : Nat) (dqb : Word) : State := part { run1 4 (held (tK id)) with dqb := dqb } 4 (counters [])

theorem witness_ForkJoin :
    (AtHome (sK 1 0x1001) 0 4 (held (tK 1)) (tK 1) ∧ Guarded (tK 1) 0 ∧ Full (tK 1) (runRegs 0 ++ [8]) ∧
      ctlKind (pktWord (runWords (tK 1) 0) 0) = 3 ∧ ctlKind (pktWord (runWords (tK 1) 1) 0) ≠ 3) ∧
    dequeRoom (sK 1 0x1001) 0 = true ∧ dequeRoom (sK 1 0) 0 = false ∧
    (let incr (id : Nat) := match counterIncr (sK 1 0x1001) (partOfCore (sK 1 0x1001) 0) id with
       | .done _ => 0
       | .notOpen => 1
       | .limit => 2
     incr 1 = 0 ∧ incr 2 = 1 ∧ incr 3 = 2) ∧
    (Full (tK 1) [9] ∧ (valOf (tK 1) 9).toNat % 32 = 0 ∧ bits (valOf (tK 1) 9).toNat 63 60 = 10 ∧
      bits (valOf (tK 1) 9).toNat 33 32 = 2 ∧
      routeAccess (sK 1 0) 0 4 .amo (valOf (tK 1) 9) 32 = .ok (.far (sramKey 0 0x20) false) ∧
      inCounterTable (sK 1 0) (sramKey 0 0x20) 32 = false ∧ inAsidTable (sK 1 0) (sramKey 0 0x20) 32 = false) := by decide

theorem witness_ForkJoin_clean :
    LaunchClean (sQ 0x8000000000000040) 0 1 ∧ LaunchClean (sK 1 0x1001) 0 1 :=
  ⟨⟨fun _ _ => ⟨rfl, rfl⟩, fun _ _ => ⟨rfl, rfl⟩⟩, ⟨fun _ _ => ⟨rfl, rfl⟩, fun _ _ => ⟨rfl, rfl⟩⟩⟩

/-- Operands of GO, PRIO and ENQ: a1 own TCM, a2 core 1's TCM, a3 the largest priority, a4 the next value, a5 a QCB. -/
def tG : Thread := thr 0x8000000000000000 0xA000000400000000 7 8 0x100
def sG : State := part (run1 4 (held tG)) 4 []

theorem witness_ThreadFlow :
    AtHome sG 0 4 (held tG) tG ∧ Guarded tG 0 ∧ Full tG (runRegs 0 ++ [5, 1, 2, 3, 4]) ∧ LoopOk sG 0 4 tG tG ∧
    (coreOf sG 0).rot = false ∧ (coreOf sR 0).rot = true ∧
    (valOf tG 3).toNat < 8 ∧ LoopOk sG 0 4 tG { tG with prio := 7#3 } ∧ 8 ≤ (valOf tG 4).toNat ∧
    ((valOf tG 5).toNat % 256 = 0 ∧ bits (valOf tG 5).toNat 63 60 = 0) ∧ (valOf tG 3).toNat % 256 ≠ 0 ∧
    anyReserved tG = false ∧ pending sG 0 4 = false ∧ tG.held = none ∧
    AtHome sH 0 4 (held tH) tH ∧ Guarded tH 0 ∧ tH.held.isSome = true := by decide

theorem witness_ThreadFlow_go :
    goTarget sG 0 4 (valOf tG 1) = .stay ∧ goTarget sG 0 4 0x1000000000000000#64 = .bad 0 ∧
    goTarget sG 0 4 (valOf tG 2) = .core owns := ⟨rfl, rfl, rfl⟩

/-- Semaphore 1 at 5, semaphore 2 with a held error, semaphore 3 one below its limit. -/
def sW : State :=
  part { run1 4 (held (thr 5 6 0x100 0 0)) with
    sems := [(1, { Sem.zero with val := 5 }), (2, { Sem.zero with err := some (⟨0x20, 1#64, 2#64⟩, 0) }),
      (3, { Sem.zero with val := 0xFFFFFFFE })] } 4 []
/-- A thread with DET. -/
def tD : Thread := { thr 5 6 0x100 0 0 with pw := 0x80000001#32, lane := 1 }
def sT : State := part (run1 4 (held tD)) 4 []

theorem witness_Semaphores :
    AtHome sW 0 4 (held (thr 5 6 0x100 0 0)) (thr 5 6 0x100 0 0) ∧ Full (thr 5 6 0x100 0 0) [1, 2, 3] ∧
    (waitLine (.waitImm 1 5)).isSome = true ∧
    (semOf (coreOf sW 0) 1).val.toNat = 5 ∧ (semOf (coreOf sW 0) 2).err.isSome = true ∧
    (semOf (coreOf sW 0) 3).val.toNat + 1 = 2 ^ 32 - 1 ∧ pending sW 0 4 = false ∧
    LoopOk (semAdd sW 0 3 2) 0 4 (thr 5 6 0x100 0 0) (thr 5 6 0x100 0 0) ∧
    coreWord sW 0 0x100#64 owns ∧ canSend sW 0 4 (thr 5 6 0x100 0 0) owns (!owns.isCore 0) ∧
    AtHome sT 0 4 (held tD) tD ∧ sendWindow sT 0 tD = some 16 ∧ canSend sT 0 4 tD owns true := by decide

/-- Ring 1: 4 tiles from slot 0, window 2, TAIL 1, its first tile READY; ring 2 the same with a poisoned one; ring 3 of
another ASID; ring 4 not defined. -/
def ringCfg (base asid : Nat) : Word := BitVec.ofNat 64 (2 ^ 63 + asid * 2 ^ 49 + 2 * 2 ^ 24 + 4 * 2 ^ 12 + base)
def tRing : Thread := thr 0 1 2 (2 ^ 63 + 2 * 2 ^ 24 + 4 * 2 ^ 12 + 32) (2 ^ 63)
def sRing : State :=
  { part (run1 4 (held tRing)) 4 [] with
    clusters := [(0, { Cluster.fresh with
      rings := [(1, ⟨ringCfg 0 0, 1, 0, 0⟩), (2, ⟨ringCfg 16 0, 1, 0, 0⟩), (3, ⟨ringCfg 48 5, 0, 0, 0⟩)],
      tiles := [(0, { Tile.zero with st := .ready, ring := 1, inr := true }),
        (1, { Tile.zero with ring := 1, inr := true }), (2, { Tile.zero with ring := 1, inr := true }),
        (3, { Tile.zero with ring := 1, inr := true }),
        (16, { Tile.zero with st := .ready, poison := true, cause := 2, ring := 2, inr := true })] })] }

theorem witness_Rings :
    AtHome sRing 0 4 (held tRing) tRing ∧ Full tRing [1, 2, 3, 4, 5] ∧ pending sRing 0 4 = false ∧
    ringOwned (ringHere sRing 0 1) 0 = true ∧ ringOwned (ringHere sRing 0 2) 0 = true ∧
    ringOwned (ringHere sRing 0 3) 0 = false ∧ ringOwned (ringHere sRing 0 4) 0 = false ∧
    (tileAt (clusterOf sRing 0) 1 0#32).isSome = true ∧ (tileAt (clusterOf sRing 0) 1 1#32).isSome = true ∧
    (tileAt (clusterOf sRing 0) 1 4#32).isSome = false ∧ tileClean sRing 0 1 0#32 ∧ tileClean sRing 0 2 0#32 ∧
    (tileAt (clusterOf sRing 0) 2 0#32).map (·.poison) = some true ∧
    (tailWrite sRing 0 1 2#32).isSome = true ∧ (tailWrite sRing 0 1 5#32).isSome = false ∧
    (headWrite sRing 0 1 1#32).isSome = true ∧ (headWrite sRing 0 1 2#32).isSome = false ∧
    (let q (k : Nat) (v : Word) := match ringDefine (clusterOf sRing 0) k v 0 with
       | .done _ => 0
       | .badDef => 1
       | .foreign => 2
     q 4 (valOf tRing 4) = 0 ∧ q 4 (valOf tRing 5) = 1 ∧ q 3 (valOf tRing 4) = 2) := by decide

/-- Target words: a1 register 5 of slot 4 of core 1, a2 the same as a reply (mode 1), a3 with a return register (mode 2), a4
mode 3, a5 mode 4. -/
def tW : Thread := thr 0x104 0x1000000104 0x22000000104 0x3000000000 0x4000000000
def sS4 : State := part (run1 4 (held tW)) 4 []

/-- An item packet of launch 1 in a0 to a7, a8 core 1; a channel of core 1 with one credit. -/
def tI : Thread :=
  { tW with regs := #v[reg (2 ^ 54 + 2 ^ 32 + 5), reg 0xFF0000000000, reg 0, reg 0, reg 0, reg 0, reg 0, reg 0, reg 0x100, reg 7] }
def sCh : State := part { run1 4 (held tI) with chan := BitVec.ofNat 64 (2 ^ 63 + 2 ^ 48 + 2 ^ 32 + 1 * 2 ^ 9 + 1) } 4 []

/-- Operands of PUT: a1 a place in core 1's TCM, a2 the word for 8 doublewords from a0 and semaphore 3; of SUBS: a3 join
TAG 5, a4 ring 1, a5 leave TAG 5. -/
def tP : Thread := thr 0xA000000400000040 0x80103 5 1 0x10005
def sPut : State :=
  { part { run1 4 (held tP) with matchTab := [] } 4 [] with
    clusters := [(0, { Cluster.fresh with rings := [(1, ⟨ringCfg 0 0, 0, 0, 0⟩)] })] }
def sFull : State := modCore sPut 0 fun k => { k with matchTab := (List.range 16).map fun i => (i + 100, 1) }

/-- Group 5 with 64 rings of 64 clusters. -/
def sGroup : State :=
  { sPut with cores := sPut.cores ++ (List.range 64).map fun i => (8 * i + 8, { Core.fresh with matchTab := [(5, 2)] }) }

theorem witness_Messages :
    At sS4 0 4 (held tW) tW ∧ Guarded tW 0 ∧ Full tW [1, 2, 3, 4, 5, 0] ∧
      sendWordOk (valOf tW 1).toNat = true ∧ twMode (valOf tW 1).toNat = 0 ∧
      sendWordOk (valOf tW 2).toNat = true ∧ twMode (valOf tW 2).toNat = 1 ∧
      sendWordOk (valOf tW 3).toNat = true ∧ twMode (valOf tW 3).toNat = 2 ∧ twRreg (valOf tW 3).toNat = 2 ∧
      sendWordOk (valOf tW 4).toNat = true ∧ twMode (valOf tW 4).toNat = 3 ∧
      sendWordOk (valOf tW 5).toNat = true ∧ twMode (valOf tW 5).toNat = 4 ∧
      destOf sS4 0 (valOf tW 1).toNat = some owns ∧ 4 ≤ twSlot (valOf tW 1).toNat ∧ canSend sS4 0 4 tW owns true := by decide

theorem witness_Messages_packets :
    (At sCh 0 4 (held tI) tI ∧ chanTakes sCh 0 (pktWord (runWords tI 0) 0) 0x100 = true ∧ chanCred (coreOf sCh 0).chan = 1 ∧
      coreWord sCh 0 (valOf tI 8) owns ∧ canSend sCh 0 4 tI owns true) ∧
    (Full tI (runRegs 0 ++ [8, 9]) ∧ ctlKind (pktWord (runWords tI 0) 0) = 5 ∧ ctlChan (pktWord (runWords tI 0) 0) = true) ∧
    (At sPut 0 4 (held tP) tP ∧ bits (valOf tP 2).toNat 63 20 = 0 ∧ putWords (valOf tP 2).toNat = 8 ∧
      (valOf tP 1).toNat % 8 = 0 ∧ bits (valOf tP 1).toNat 63 60 = 10 ∧ bits (valOf tP 1).toNat 33 32 < 2 ∧
      routeAccess sPut 0 4 .write (valOf tP 1) 64 = .ok (.far (tcmKey 1 0x40) true) ∧
      putDest sPut 0 (valOf tP 1) (.far (tcmKey 1 0x40) true) = some (owns, .key (tcmKey 1 0x40)) ∧
      inAsidTable sPut (tcmKey 1 0x40) 64 = false ∧ canSend sPut 0 4 tP owns true) ∧
    (bits (valOf tP 3).toNat 63 17 = 0 ∧ (valOf tP 4).toNat < 64 ∧ ringOwned (ringOf (clusterOf sPut 0) 1) 0 = true ∧
      (coreOf sPut 0).matchTab.length < 16 ∧ 16 ≤ (coreOf sFull 0).matchTab.length ∧ (valOf tP 5).getLsbD 16 = true ∧
      otherMembers sPut 0 5 = [] ∧ ((otherMembers sGroup 0 5).filter (· != (0, 1))).length = 64) := by
  decide

/-- Device time 5 ns: targets at it, past it, and with a fraction of 17 bits; a limit of 33 bits. -/
def tT : Thread := thr 5 0 0x10000 1 0x1FFFFFFFF
def sTime : State := { mach 0 4 (held tT) with devTime := 5 * 65536 }

theorem witness_TimeInstructions :
    At sTime 0 4 (held tT) tT ∧ Guarded tT 0 ∧ Full tT [1, 2, 3, 4, 5] ∧ LoopOk sTime 0 4 tT tT ∧
    (valOf tT 1).toNat * 65536 + (valOf tT 2).toNat ≤ sTime.devTime ∧
    sTime.devTime < (valOf tT 1).toNat * 65536 + (valOf tT 4).toNat ∧ 65536 ≤ (valOf tT 3).toNat ∧
    (valOf tT 5).toNat < 2 ^ 33 := by decide

/-- A core with an ECALL queue, empty, full and off; with the break halt; a slot in its trap handler. -/
def sE0 : State := mach 0 4 (held tA)
def sEq (t : BitVec 32) : State := modCore sE0 0 fun k => { k with ecq := 0x1001, ecqt := t }
def sBk : State := modCore sE0 0 fun k => { k with dbgctl := 1 }
def xTrap : Slot := { held tA with sin := true, epc := 0xFF0000000010#48 }
def sTr : State := mach 0 1 xTrap

theorem witness_SystemInstructions :
    bits (0xC8000000#32).toNat 31 26 = 0x32 ∧ bits (0xFFFFFFFF#32).toNat 31 26 = 0x3F ∧
    AtHome sE0 0 4 (held tA) tA ∧ Guarded tA 0 ∧ Full tA [1, 2, 3, 4, 5, 6] ∧ (coreOf sE0 0).dbgctl.getLsbD 0 = false ∧
    (At sBk 0 4 (held tA) tA ∧ (coreOf sBk 0).dbgctl.getLsbD 0 = true) ∧
    (At (sEq 63) 0 4 (held tA) tA ∧ (coreOf (sEq 63) 0).ecq.getLsbD 0 = true ∧
      (coreOf (sEq 63) 0).ecqt - (coreOf (sEq 63) 0).ecqh ≠ 64#32 ∧ pending (sEq 63) 0 4 = false) ∧
    (coreOf (sEq 64) 0).ecqt - (coreOf (sEq 64) 0).ecqh = 64#32 ∧ (coreOf sE0 0).ecq.getLsbD 0 = false ∧
    (AtHome sTr 0 1 xTrap tA ∧ xTrap.sin = true ∧ TargetOk sTr 0 1 tA.pc xTrap.epc.toNat) ∧
    (AtHome sA1 0 1 (held tA) tA ∧ (held tA).sin = false ∧ LoopOk sA1 0 1 tA tA) := by decide

/-- A vector for slots 0 and 1, none for slot 2; user trap records on, with an attribute record for launch 1. -/
def xVec : Slot := { held tA with tvec := 0xFF0000000100#48 }
def sVec : State := { mach 0 1 xVec with
  cores := [(0, { Core.fresh with mode := .running, slots := [(0, xVec), (1, xVec), (2, held tA)] })] }
def sNoVec : State := mach 0 0 (held tA)
def tU : Thread := { tA with ccid := 1 }
def attrs : List Host.Cell :=
  memWrite [] (sramKey 0 0x4000040) (leBytes 2 0 ++ [1#8] ++ leBytes 5 0 ++ leBytes 8 0xFF0000000200)
def sUser (m : List Host.Cell) (en : Word) : State :=
  part { run1 4 (held tU) with utrec := en, lattr := 0xA000000204000000 } 4 m

theorem witness_TrapEntry :
    (slotOf sVec 0 1 = xVec ∧ xVec.thread = some tA ∧ xVec.visitFrom = none ∧ xVec.sin = false ∧ xVec.tvec ≠ 0#48) ∧
    (slotOf sVec 0 2 = held tA ∧ (held tA).tvec = 0#48 ∧ slotOf sVec 0 0 = xVec) ∧
    (slotOf sNoVec 0 0 = held tA ∧ (held tA).visitFrom = none ∧ xVec.st ≠ .visiting) ∧
    inAsidTable (sUser attrs 1) (recKey (coreOf (sUser attrs 1) 0) 0 4) 32 = false ∧
    ((attrOf (sUser attrs 1) 0 1).map (·.utvec) = some 0xFF0000000200 ∧
      (coreOf (sUser attrs 1) 0).utrec.getLsbD 0 = true ∧
      (memByte (sUser attrs 1).mem (recKey (coreOf (sUser attrs 1) 0) 0 4 + 2)).getLsbD 0 = false ∧
      TargetOk (sUser attrs 1) 0 4 tU.pc 0xFF0000000200) ∧
    ((attrOf (sUser attrs 0) 0 1).isSome = true ∧ (coreOf (sUser attrs 0) 0).utrec.getLsbD 0 = false) := by decide

/-- The record of slot 4 with an uncorrectable error. -/
def sTorn : State :=
  { sUser attrs 1 with ecc := [(recKey (coreOf (sUser attrs 1) 0) 0 4, true)] }

theorem witness_TrapEntry_errors :
    AttrClean (sUser attrs 1) 0 1 ∧ NoErrors (sUser attrs 1) (recKey (coreOf (sUser attrs 1) 0) 0 4) 8 ∧
    eccBad sTorn.ecc (recKey (coreOf sTorn 0) 0 4) 8 = true :=
  ⟨fun _ _ => ⟨rfl, rfl⟩, by decide +kernel, by decide +kernel⟩

/-- A supervisor slot in a partition with the live ASIDs 0 and 5; operands of TLBI, ASIDSET, the sends and ERRINJ. -/
def asids (m : List Host.Cell) : List Host.Cell :=
  memWrite (memWrite m (sramKey 0 0x3000000) (leBytes 8 (2 ^ 63 + 0x10000))) (sramKey 0 0x3000028) (leBytes 8 (2 ^ 63))
def sSup (n : Nat) (t : Thread) : State :=
  { part (run1 n (held t)) n (asids []) with pkg := { Pkg.fresh with dev := 0#16, asidtab := 0x3000000#64 } }
def tSup (v : Nat) : Thread := thr v 0x40 0 0 0

/-- An operand of ERRINJ: site, bit, kind, offset. -/
def inject (site bit kind off : Nat) : Nat := site * 2 ^ 60 + kind * 2 ^ 56 + bit * 2 ^ 30 + off

theorem witness_SupervisorInstructions :
    AtHome (sSup 1 (tSup 5)) 0 1 (held (tSup 5)) (tSup 5) ∧ Guarded (tSup 5) 0 ∧ Full (tSup 5) [1, 2] ∧
    asidLive (sSup 1 (tSup 5)) (partOfCore (sSup 1 (tSup 5)) 0) 5 = true ∧
    NoErrors (sSup 1 (tSup 5)) (asidKey (sSup 1 (tSup 5)) 5) 8 ∧ 5 ≠ (held (tSup 5)).asid.toNat ∧
    pending (sSup 1 (tSup 5)) 0 1 = false ∧ bits 0x8000000000000000 63 62 = 2 ∧ bits 0x8000000000000000 13 0 = 0 ∧
    coreWord (sSup 0 (tSup 0x100)) 0 0x100#64 owns ∧ (valOf (tSup 0x100) 2).toNat % 64 = 0 ∧
    bits (valOf (tSup 0x100) 2).toNat 63 60 = 0 ∧
    (injOk 0 = true ∧ injSite 0 = 0) ∧ injOk 1 = false ∧
    (injOk (inject 1 33 0 0) = true ∧ injOk (inject 2 63 0 0) = true ∧ injOk (inject 3 0 1 0x3FFF8) = true ∧
      injOk (inject 4 63 1 0xFFFFF8) = true ∧ injSite (inject 3 0 1 0x3FFF8) = 3) := by decide

/-- A message to core 0 from slot 4 of core 1 of the own device. -/
def msg (b : MsgBody) : Msg :=
  { uid := 9, sdev := 0, score := 1, sslot := 4, thread := 0, ddev := 0, dcore := 0, net := .request, asid := 0, part := 0,
    rpart := 64, ask := 0, towards := 0, egress := false, due := 0, body := b }

theorem witness_Seeds :
    AtHome sA 0 4 (held tA) tA ∧ Guarded tA 0 ∧ strictOf tA = false ∧
    AtHome sS 0 4 (held tS) tS ∧ Guarded tS 0 ∧ strictOf tS = true ∧
    (let m : Msg := { msg (.seedReq 4 1) with score := 0 }
     findMsg { sA with net := [m] } m.uid = some m ∧ m.due ≤ sA.cycle) := by decide

/-- A VCPY of one FP32 element from tile 0 of ring 1 to a2's address. -/
def bV : Bundle := ⟨15, 0, false, false, 0, 0, 0, 0, 1, false, 0, false, 0, 0, 0, 0x00101000, 0⟩
def tV : Thread := thr 0 0x8000000000000000 0 0 0
/-- Ring 1 with a READY tile that `r` commands read; `q` commands wait in the VXE's queue. -/
def aCmd : Cmd :=
  { uid := 77, core := 0, slot := 4, thread := 0, asid := 0, user := true, op := .vcpy bV, x := bV, a := 0, b := 0,
    aBad := false, bBad := false, fmt := 0, sca := 0, scb := 0, refs := [], refused := none, issued := 0, started := false,
    retireAt := 0, retired := false, due := 0, steps := 0, rows := 0, far := false, err := none, flags := 0, desc := [],
    ltab := [], tab := [], tabBad := false, members := [], fail := 0, poison := none, stop := false }
def sV (r : BitVec 8) (q : Nat) : State :=
  { part { run1 4 (held tV) with vxeq := List.replicate q aCmd } 4 [] with
    clusters := [(0, { Cluster.fresh with
      rings := [(1, ⟨ringCfg 0 0, 1, 0, 0⟩)],
      tiles := [(0, { Tile.zero with st := .ready, ring := 1, inr := true, readers := r })] })] }
/-- TABINV of slot 0, of every slot of the ASID, and TABPIN of slot 0 from a2's address. -/
def bTi (all : Bool) : Bundle := { b0 with w5 := if all then 16 else 0 }
def sPins : State :=
  { part (run1 4 (held tV)) 4 [] with clusters := [(0, { Cluster.fresh with pins := [(0, ⟨0, []⟩), (1, ⟨5, []⟩)] })] }

/-- The same while a kill fence of ASID 0 runs. -/
def sVk : State := { sV 0 0 with mem := memWrite (sV 0 0).mem (sramKey 0 0x3000000) (leBytes 8 (2 ^ 63 + 2 ^ 62)) }

theorem witness_CommandIssue :
    asidKilling (sV 0 0) 0 = false ∧ asidKilling sVk 0 = true ∧ AtHome sVk 0 4 (held tV) tV ∧ queueRoom sVk 0 4 1 = true ∧
    commandLine (.vcpy bV) = some (1, bV) ∧ wellFormed (.vcpy bV) = true ∧ AtHome (sV 0 0) 0 4 (held tV) tV ∧
    Full tV (bundleRegs bV) ∧ commandFp64 (.vcpy bV) bV tV = false ∧ (cmdCode (.vcpy bV)).1 = 1 ∧
    queueRoom (sV 0 15) 0 4 1 = true ∧ queueRoom (sV 0 16) 0 4 1 = false ∧
    commandTiles (.vcpy bV) bV tV 0 0 = [(1, 0#32, false)] ∧
    (let q (s : State) (k : Nat) := match issueRefs (clusterOf s 0) (.vcpy bV) 0 [(k, 0#32, false)] with
       | .taken _ _ => 0
       | .refused _ => 1
       | .full => 2
     q (sV 0 0) 1 = 0 ∧ q (sV 0 0) 2 = 1 ∧ q (sV 255 0) 1 = 2) := by decide

theorem witness_CommandIssue_tables :
    asidKilling sPins 0 = false ∧ AtHome sPins 0 4 (held tV) tV ∧ pending sPins 0 4 = false ∧ Full tV (bundleRegs (bTi true)) ∧
    queueRoom sPins 0 4 2 = true ∧ fld (bTi false).w5 3 0 = 0 ∧ (bTi true).w5.getLsbD 4 = true ∧
    (bTi false).w5.getLsbD 4 = false ∧ (mapFind (clusterOf sPins 0).pins 0).map (·.asid) = some 0 ∧
    (mapFind (clusterOf sPins 0).pins 1).map (·.asid) = some 5 := by decide

/-- Page tables of ASID 0: one leaf of 1 GiB with every permission; its entry in the ASID table. -/
def pages (m : List Host.Cell) : List Host.Cell :=
  memWrite (memWrite (memWrite (asids m) 0x10000 (leBytes 8 0x11001)) 0x11000 (leBytes 8 0x12001)) 0x12000 (leBytes 8 0xF3)

/-- A program of partition 0 with h0 = 8 and h1 = 4, with a loop stack. -/
def prog (stack : List (Nat × Word)) : Prog :=
  { pc := 0x1000#64, h := #v[8, 4, 0, 0, 0, 0, 0, 0], stack := stack, asid := 0, part := 0, user := true, core := 0, tag := 0,
    cmd := aCmd, ended := false, err := none, wwait := none, fillWait := none, sigWait := false, sigs := [] }
/-- Hod 0 runs it in place 0; ring 1 of cluster 0 has a window of 2 with TAIL − HEAD = `d`; HBM holds an HEND at 0x1010. -/
def sHod (p : Prog) (d : BitVec 32) : State :=
  { part (run1 4 (held tV)) 4 (pages (memWrite [] 0x1010 [2#8])) with
    pkg := { Pkg.fresh with dev := 0#16, asidtab := 0x3000000#64 }, hods := [(0, { Hod.fresh with progs := [(0, p)] })],
    clusters := [(0, { Cluster.fresh with rings := [(1, ⟨ringCfg 0 0, d, 0, 0⟩)] })] }
def deep : List (Nat × Word) := [(2, 0x1010#64), (1, 0#64), (1, 0#64), (1, 0#64)]

theorem witness_HodRegisters :
    Runs (sHod (prog []) 0) (prog []) ∧
    (BitVec.ofNat 64 ((prog []).h[0].toNat + 8)).toNat % 8 = 0 ∧
    (hodRead (sHod (prog []) 0) (prog []) 16#64 8).2.isOk = true ∧
    (BitVec.ofNat 64 ((prog []).h[1].toNat + 0)).toNat % 8 ≠ 0 ∧
    ¬(bits (BitVec.ofNat 64 ((prog []).h[0].toNat + 2 ^ 63)).toNat 63 60 = 0 ∨
      bits (BitVec.ofNat 64 ((prog []).h[0].toNat + 2 ^ 63)).toNat 63 60 = 10) := by decide

theorem witness_HodWindow :
    Runs (sHod (prog []) 0) (prog []) ∧
    ringOwned (ringOf (clusterOf (sHod (prog []) 0) 0) 1) 0 = true ∧ ringW (ringOf (clusterOf (sHod (prog []) 0) 0) 1) = 2 ∧
    ringOwned (ringOf (clusterOf (sHod (prog []) 0) 0) 2) 0 = false ∧
    (let r := ringOf (clusterOf (sHod (prog []) 1) 0) 1
     (r.tail - r.head).toNat + 1 ≤ ringW r ∧ ringW r < (r.tail - r.head).toNat + 2) := by decide

/-- Device 1 reached by port 0. -/
def sFar : State := modPkg (modPart (sHod (prog []) 0) 0 fun p => { p with fport := 1 }) fun p => { p with xm1 := 1#6, plive := 1#24, pbtab := 0x2000000#64 }
/-- A fill of ring 1, unclaimed, or claimed at index 0 and done or poisoned. -/
def fill (idx : Option Nat) (cause : Option Nat) : Fill :=
  ⟨5, false, 0, 0, 77, 0, 0, 1, idx, 0, 1, 8, 0, 0, none, 0, 0, 0, cause⟩

theorem witness_HodCommands :
    Runs (sHod (prog []) 0) (prog []) ∧ (prog []).stack.length < 4 ∧
    Runs (sHod (prog deep) 0) (prog deep) ∧ 4 ≤ (prog deep).stack.length ∧
    Runs (sHod (prog [(1, 0#64)]) 0) (prog [(1, 0#64)]) ∧
    (skipLoop (prog []) 65536 (sHod (prog []) 0) 0x1010#64 0).2 = some 0x1020#64 ∧
    (fillLine (.hsfill 0 127#10 1#6 0#7 63#6 0#64)).isSome = true ∧
    (fillLine (.hfill 0 1#10 1#6 0#7 1023#10 0#64)).isSome = true ∧
    ringOwned (ringOf (clusterOf (sHod (prog []) 0) 0) 1) 0 = true ∧ ringOwned (ringOf (clusterOf (sHod (prog []) 0) 0) 2) 0 = false ∧
    (2 * 8 ≤ 8192 ∧ (8192 < (63 + 1) * (8 * (1023 + 1)))) ∧
    progFills (sHod (prog []) 0) 0 0 = false ∧
    progFills { sHod (prog []) 0 with fills := [{ fill none none with byHod := true }] } 0 0 = true ∧
    (peerBound sFar (partNum 0) 1 = true ∧ (routePort sFar (partNum 0) 0 0 1).isSome = true ∧
      (linkSend sFar (hsigMsg sFar (prog []) 1 0 3 1) 0).isSome = true ∧ peerBound (sHod (prog []) 0) (partNum 0) 2 = false) ∧
    coreOfLogical (sHod (prog []) 0) (partNum 0) 7 = some 7 ∧
    coreOfLogical (sHod (prog []) 0) (partNum 0) 8 = none := by decide

/-- A slot whose thread waits. -/
def waits (w : Wait) (t : Thread) : Slot := { held t with st := .waiting, wait := w }
def sWt (w : Wait) (t : Thread) : State := part (run1 4 (waits w t)) 4 []

theorem witness_WaitEnds :
    Waits (sWt (.fence 5) tA) 0 4 (waits (.fence 5) tA) tA (.fence 5) ∧ pending (sWt (.fence 5) tA) 0 4 = false ∧
      LoopOk (sWt (.fence 5) tA) 0 4 tA tA ∧ tA.held = none ∧ tH.held.isSome = true ∧
    Waits (sWt (.watch 0x100 0x100#64 2 true) tA) 0 4 (waits (.watch 0x100 0x100#64 2 true) tA) tA
      (.watch 0x100 0x100#64 2 true) ∧ NoErrors (sWt (.watch 0x100 0x100#64 2 true) tA) (0x100 + 0x100 % 64) 8 ∧
    (let x := { waits (.sem 1) tA with limit := 5#32, waitCount := 5 }
     Waits (part (run1 4 x) 4 []) 0 4 x tA (.sem 1) ∧ countedWait (.sem 1) = true ∧ x.limit.toNat ≤ x.waitCount) ∧
    Waits (sWt (.time 0) tA) 0 4 (waits (.time 0) tA) tA (.time 0) ∧
    Waits (sWt (.divide 0) tA) 0 4 (waits (.divide 0) tA) tA (.divide 0) ∧
    Waits (sWt (.yield 0) tA) 0 4 (waits (.yield 0) tA) tA (.yield 0) ∧
    (Waits (sWt (.subs 5 false 1) tA) 0 4 (waits (.subs 5 false 1) tA) tA (.subs 5 false 1) ∧
      (subsTable (reissueSlot (sWt (.subs 5 false 1) tA) 0 4) 0 5 false 1).isSome = true) ∧
    (let s := modCore (sWt (.subs 5 false 1) tA) 0 fun k => { k with matchTab := (List.range 16).map fun i => (i + 100, 1) }
     slotOf s 0 4 = waits (.subs 5 false 1) tA ∧ subsTable (reissueSlot s 0 4) 0 5 false 1 = none) ∧
    (Waits (sWt (.tlbi 3) tA) 0 4 (waits (.tlbi 3) tA) tA (.tlbi 3) ∧
      ∀ m ∈ (sWt (.tlbi 3) tA).net, oldAccess (sWt (.tlbi 3) tA) (some 0) 3 m = false) := by decide

theorem witness_WaitEnds_retire :
    (Waits (sWt .exit tU) 0 4 (waits .exit tU) tU .exit ∧ mayRetire (sWt .exit tU) 0 4 = true ∧ tU.stage = none) ∧
    (Waits (sWt .cancel tH) 0 4 (waits .cancel tH) tH .cancel ∧ mayRetire (sWt .cancel tH) 0 4 = true ∧
      tH.held.isSome = true) ∧
    (Waits (sWt (.abort ⟨1, 1, 0, 0, 0, 0, 0⟩) tU) 0 4 (waits (.abort ⟨1, 1, 0, 0, 0, 0, 0⟩) tU) tU
      (.abort ⟨1, 1, 0, 0, 0, 0, 0⟩)) ∧
    (let x := { held tU with cancelled := true }
     slotOf (part (run1 4 x) 4 []) 0 4 = x ∧ slotRuns (coreOf (part (run1 4 x) 4 []) 0) 4 = true ∧
       x.visitFrom = none) ∧
    (let x := { held tU with cancelled := true, visitFrom := some (3, 5) }
     slotOf (part (run1 4 x) 4 []) 0 4 = x ∧ slotRuns (coreOf (part (run1 4 x) 4 []) 0) 4 = true) := by decide

def sNet (x : Slot) (m : List Host.Cell) (b : MsgBody) : State :=
  { part (run1 4 x) 4 m with net := [msg b], uid := 100, pkg := { Pkg.fresh with dev := 0#16, asidtab := 0x3000000#64 } }

theorem witness_Arrivals :
    Lands (sNet (held tA) [] (.send 4 2 7 3)) (msg (.send 4 2 7 3)) ∧
    Lands (sNet Slot.fresh [] (.send 4 2 7 3)) (msg (.send 4 2 7 3)) ∧ (slotOf (sNet Slot.fresh [] .credit) 0 4).st = .free ∧
    Lands (sNet { Slot.fresh with st := .visiting } [] (.send 4 2 7 3)) (msg (.send 4 2 7 3)) ∧
    Lands (sNet (held tA) [] (.sigr 255 1)) (msg (.sigr 255 1)) ∧
    Lands (sNet (held tA) [] (.signal 3 1 none 5)) (msg (.signal 3 1 none 5)) ∧
    signalWaits (sNet (held tA) [] (.signal 3 1 none 5)) (msg (.signal 3 1 none 5)) = false ∧
    Lands (sNet (held tA) [] (.reply 4 9 7 false)) (msg (.reply 4 9 7 false)) ∧
    (slotOf (without (sNet (held tA) [] (.reply 4 9 7 false)) (msg (.reply 4 9 7 false))) 0 4).st = .ready ∧
    Lands (sNet (held tA) [] (.enqReply 4 9 true)) (msg (.enqReply 4 9 true)) ∧
    Lands (sNet (held tA) [] (.seedReply 4 9 7)) (msg (.seedReply 4 9 7)) ∧
    Lands (sNet (held tA) [] (.stnAck 4)) (msg (.stnAck 4)) ∧
    Lands (sNet (held tA) [] (.farFault 4 none false 6 0)) (msg (.farFault 4 none false 6 0)) ∧
    (Lands (sNet (waits (.load 8) tA) [] (.ldData 4 2 8 7 none)) (msg (.ldData 4 2 8 7 none)) ∧
      (slotOf (sNet (waits (.load 8) tA) [] .credit) 0 4).wait = .load 8) ∧
    (Lands (sNet (waits (.fetch 8) tA) [] (.ldData 4 2 8 7 none)) (msg (.ldData 4 2 8 7 none)) ∧
      (slotOf (sNet (waits (.fetch 8) tA) [] .credit) 0 4).wait = .fetch 8) ∧
    Lands (sNet (held tA) [] .credit) (msg .credit) := by decide

/-- A far-end fault for a thread named 7 that has moved from slot 4 to slot 5. -/
def mMoved : Msg := { msg (.farFault 4 none false 6 0) with towards := 7 }
def sMoved : State :=
  { part { run1 5 (held { tA with tid := 7 }) with mode := .running } 4 [] with net := [mMoved], uid := 100 }

theorem witness_Arrivals_moved :
    (Lands sMoved mMoved ∧ (slotOf (without sMoved mMoved) 0 4).st = .free ∧
      threadHere (noteAnswer (lowerOutstanding (without sMoved mMoved) 0 false) 0 mMoved) 7 = true) ∧
    forSlot (sNet (held tA) [] .credit) 0 4 (msg .credit) = true ∧
    (slotOf (sNet (waits (.loadOwn 8) tA) [] .credit) 0 4).wait = .loadOwn 8 := by decide

/-- An access of 8 bytes to offset 0x40 of core 0's TCM; a join of a record there with a count. -/
def access (k : AccKind) : Access := ⟨k, .key (tcmKey 0 0x40), 8, 0xA000000000000040#64, 5, 0, .add, 2, false, false, false, 5, 3, 1, 8⟩
def join : Access := { access .join with size := 32 }
/-- A join record at the access's place: count, the continuation's packet at 0x400 (a CONT of launch 1), core 0. -/
def record (count : Nat) : List Host.Cell :=
  pages (counters (memWrite (memWrite [] (tcmKey 0 0x40) (leBytes 8 count ++ leBytes 8 0x400 ++ leBytes 8 0)) 0x400
    (leBytes 8 (2 ^ 32 + 4) ++ leBytes 8 0xFF0000000000)))

theorem witness_AccessesPerformed :
    (let s := sNet (held tA) [] (.access (access .ld))
     arrived s 9 = some (msg (.access (access .ld))) ∧ targetKey s (msg .credit) (access .ld) = some (tcmKey 0 0x40) ∧
       farGuard s (tcmKey 0 0x40) 8 0xA000000000000040#64 = none ∧ NoErrors s (tcmKey 0 0x40) 8 ∧
       inAsidTable s (tcmKey 0 0x40) 8 = false ∧ (msg .credit).sdev = s.pkg.dev.toNat) ∧
    taking (sNet (held tA) [] (.access (access .put))) (msg (.access (access .put))) = .apply ∧
    accessTaking (sNet (held tA) [] (.access (access .st))) (msg (.access (access .st))) (tcmKey 0 0x40) = .apply ∧
    amoNew .add 64 0 5 0 = some 5 ∧ amoNew .cas 64 1 5 0 = none ∧
    memNat (record 0) (tcmKey 0 0x40) 8 = 0 ∧ memNat (record 2) (tcmKey 0 0x40) 8 = 2 ∧
    (let s := sNet (held tA) (record 1) (.access join)
     let s1 := storeBytes (dropMsg s 9) (tcmKey 0 0x40) (leBytes 8 0)
     let s2 := match transNow s1 (some 0) 0 true .read (memNat s.mem (tcmKey 0 0x48) 8) 64 with
       | .ok q => (eccRead s1 1 q 64).1
       | .error _ => s1
     memNat s.mem (tcmKey 0 0x40) 8 = 1 ∧
       (joinPacket s2 (some 0) 0 true (memNat s.mem (tcmKey 0 0x48) 8) (memNat s.mem (tcmKey 0 0x50) 2)).isSome = true) ∧
    (let s := sNet (held tA) (memWrite (record 1) (tcmKey 0 0x48) (leBytes 8 0x404)) (.access join)
     let s1 := storeBytes (dropMsg s 9) (tcmKey 0 0x40) (leBytes 8 0)
     let s2 := match transNow s1 (some 0) 0 true .read (memNat s.mem (tcmKey 0 0x48) 8) 64 with
       | .ok q => (eccRead s1 1 q 64).1
       | .error _ => s1
     memNat s.mem (tcmKey 0 0x40) 8 = 1 ∧
       (joinPacket s2 (some 0) 0 true (memNat s.mem (tcmKey 0 0x48) 8) (memNat s.mem (tcmKey 0 0x50) 2)).isNone = true) := by
  decide

/-- Memory with the attribute record of launch 1: ASID 0, the format table at 0x300 with one entry, the QCB at 0x200. -/
def world (m : List Host.Cell) : List Host.Cell :=
  pages (counters (memWrite m (sramKey 0 0x4000040)
    (leBytes 2 0 ++ [1#8] ++ leBytes 5 0 ++ leBytes 8 0 ++ leBytes 24 0 ++ leBytes 8 0x200 ++ leBytes 8 0x300 ++ leBytes 2 1)))
/-- A TASK packet of launch 1; a deque of two entries in page 1 of the TCM with that packet as its only one. -/
def task : Packet := ⟨#v[0x100000003, 0xFF0000000000, 2, 3, 4, 5, 6, 7], 8, 9, none, none, true, none⟩
def dequeMem : List Host.Cell :=
  memWrite (memWrite [] (tcmKey 0 0x1008) (leBytes 4 1)) (tcmKey 0 0x1040) (packetBytes task.words)
def sSpawn (m : List Host.Cell) (box : List Msg) (dqb : Word) : State :=
  { part { run1 5 (held tA) with lattr := 0xA000000204000000, inbox := box, dqb := dqb } 5 (world m) with
    pkg := { Pkg.fresh with dev := 0#16, asidtab := 0x3000000#64 }, uid := 100 }
def attr1 : Attr := ⟨0, 0, 0, 0, 0, 0x200, 0x300, 1⟩
def zeros16 : List Byte := List.replicate 16 0#8

theorem witness_SpawnsPackets :
    (coreOf (sSpawn [] [msg (.packet task)] 0) 0).inbox = [msg (.packet task)] ∧
    spawnTerms (sSpawn [] [msg (.packet task)] 0) 0 task.words = some (attr1, zeros16) ∧
    Spawns (sSpawn [] [msg (.packet task)] 0) 0 4 task attr1 zeros16 ∧
    (let t := spawnThread (sSpawn [] [] 0) 0 task zeros16
     TargetOk (sSpawn [] [] 0) 0 4 t.pc t.pc.toNat) := by decide

theorem witness_SpawnsPackets_deque :
    (let s := sSpawn dequeMem [] 0x1001
     let q := dequeOf s 0
     q.log ≠ 0 ∧ dequeLen q = 1 ∧ (coreOf s 0).spill = [] ∧ slotFor (coreOf s 0) 0 = true ∧
       packetOf (memBytes s.mem (tcmKey 0 (dequeEntry q (q.bot + 2 ^ 32 - 1)).1) 64) = task.words ∧
       eccBad s.ecc (tcmKey 0 (dequeEntry q (q.bot + 2 ^ 32 - 1)).1) 64 = false ∧
       eccBad s.ecc (tcmKey 0 (dequeEntry q (q.bot + 2 ^ 32 - 1)).2) 16 = false ∧
       Spawns (storeBytes s (tcmKey 0 q.base) (leBytes 4 ((q.top + 1) % 2 ^ 32))) 0 4 { task with a0 := 0, a1 := 0 } attr1 zeros16) ∧
    (let s := { sSpawn [] [] 0 with net := [msg (.packet { task with status := some 3 })] }
     Lands s (msg (.packet { task with status := some 3 })) ∧
       (targetIncr (dropMsg s 9) 0 { task with counted := false, status := some 3 }).isOk = true ∧
       (targetIncr (dropMsg s 9) 0 { task with
         counted := false, status := some 3, words := task.words.set 0 0x200000003 }).isOk = false) := by decide

/-- A core with a free slot 4 and a migrating thread for it; slot 5 VISITING with its thread on its way home. -/
def sGo (b : MsgBody) : State := { part (run1 5 { Slot.fresh with st := .visiting }) 5 [] with net := [msg b] }
/-- A fork entry of slot 5, published in the deque of page 1. -/
def entry : ForkEntry := ⟨5, tA.tid, 0, task.words, 8, 9, 3⟩
def sFork : State := part { run1 5 (held tA) with forkQ := [entry], dqb := 0x1001 } 5 []
/-- A QCB at 0x200 with two positions in a ring at 0x800 and `tail`, `claim`; CLOSED or not. -/
def qcb (closed : Bool) (tail claim : Nat) : List Host.Cell :=
  memWrite (memWrite (memWrite [] 0x200
    (leBytes 8 0x800 ++ leBytes 4 2 ++ leBytes 2 0 ++ leBytes 1 (if closed then 3 else 1) ++ leBytes 9 0 ++ leBytes 8 0xA00)) 0x240
      (leBytes 8 tail)) 0x280 (leBytes 8 claim)
def sQcb (w : Wait) (m : List Host.Cell) : State :=
  { part { run1 4 (waits w (tK 1)) with lattr := 0xA000000204000000 } 4 (world m) with
    pkg := { Pkg.fresh with dev := 0#16, asidtab := 0x3000000#64 }, uid := 100 }

theorem witness_ThreadMoves :
    (Lands (sGo (.migrate tA)) (msg (.migrate tA)) ∧ freeUserSlot (coreOf (sGo (.migrate tA)) 0) = some 4 ∧
      launchCancelled (sGo (.migrate tA)) (partOfCore (sGo (.migrate tA)) 0) 0 = false) ∧
    Lands (sGo (.visit tA 3 6 0)) (msg (.visit tA 3 6 0)) ∧
    (Lands (sGo (.visitReturn tA 5 none false)) (msg (.visitReturn tA 5 none false)) ∧
      (coreOf (sGo .credit) 0).visitBox = []) ∧
    ((coreOf sFork 0).forkQ.find? (forkOpen (coreOf sFork 0)) = some entry ∧ earlierAccess sFork 0 entry.thread 3 = false) := by decide

theorem witness_ThreadMoves_queue :
    (let s := sQcb .fork (qcb false 0 0)
     Waits s 0 4 (waits .fork (tK 1)) (tK 1) .fork ∧ pending s 0 4 = false ∧ launchQcb s 0 (tK 1) = 0x200 ∧
       (openQcb s 0 4 0x200).isOk = true ∧ qcbClosed (qcbAt s 0x200 0) = false ∧ qcbFull (qcbAt s 0x200 0) = false ∧
       (qcbAt s 0x200 0).claim = (qcbAt s 0x200 0).tail ∧ (qcbPlace s 0 4 (qcbAt s 0x200 0) 0).isOk = true) ∧
    (let s := sQcb (.enq 8 0x200 0 false) (qcb true 0 0)
     Waits s 0 4 (waits (.enq 8 0x200 0 false) (tK 1)) (tK 1) (.enq 8 0x200 0 false) ∧ (openQcb s 0 4 0x200).isOk = true ∧
       qcbClosed (qcbAt s 0x200 0) = true) ∧
    qcbFull (qcbAt (sQcb (.enq 8 0x200 0 false) (qcb false 2 2)) 0x200 0) = true ∧
    (let s := sQcb (.enq 8 0x200 1 true) (qcb false 1 2)
     Waits s 0 4 (waits (.enq 8 0x200 1 true) (tK 1)) (tK 1) (.enq 8 0x200 1 true) ∧ s.enqs = [] ∧ pending s 0 4 = false ∧
       memNat s.mem (0x200 + 64) 8 = 1) ∧
    (let s := { sQcb .fork (qcb false 1 2) with enqs := [⟨0, 4, 0, (tK 1).tid, 8, 0x200, 1⟩] }
     s.enqs.find? (fun k => k.core == 0 && k.slot == 4) = some ⟨0, 4, 0, (tK 1).tid, 8, 0x200, 1⟩ ∧
       memNat s.mem (0x200 + 64) 8 = 1 ∧ earlierAccess s 0 (tK 1).tid s.uid = false) := by
  decide +kernel

/-! ## Tiles, engines, hods, the mortar network -/

/-- The fill in the list of fills, with its command. -/
def sFill (f : Fill) : State :=
  { part (run1 4 (held tV)) 4 [] with
    cycle := 1, fills := [f],
    clusters := [(0, { Cluster.fresh with
      rings := [(1, ⟨ringCfg 0 0, 1, 0, 0⟩)],
      tiles := [(0, { Tile.zero with st := .filling, ring := 1, inr := true }), (1, { Tile.zero with ring := 1, inr := true })],
      active := [{ aCmd with op := .copy b0, x := b0 }] })] }
/-- Started commands that retire now: one of the VXE, a row command of the MXE with its rows to make, one of a GCE. -/
def aRun : Cmd := { aCmd with started := true }
def alRun : Cmd := { aRun with op := .ald b0, x := b0 }
def sRet (x : Cmd) : State := { part { run1 4 (held tV) with active := [x] } 4 [] with cycle := 1 }
def sRetG : State :=
  { part (run1 4 (held tV)) 4 [] with
    cycle := 1, clusters := [(0, { Cluster.fresh with active := [{ aRun with op := .copy b0, x := b0 }] })] }

theorem witness_TileFills :
    (let s := sFill (fill none none)
     let r := ringOf (clusterOf s 0) 1
     (s.fills.find? fun g => g.uid == 5) = some (fill none none) ∧ ringOwned r 0 = true ∧
       (r.tail - r.head).toNat < ringW r) ∧
    popped (ringOf (clusterOf (sFill (fill (some 0) none)) 0) 1) 0#32 = false ∧
    (fill (some 0) none).due ≤ (sFill (fill (some 0) none)).cycle ∧ (fill (some 0) none).byHod = false ∧
    (∀ g ∈ (sFill (fill none none)).fills, g.index = none ∨ g.claimedAt ≠ (sFill (fill none none)).cycle) ∧
    (gceCmd (sFill (fill none none)) 0 77).isSome = true ∧
    (let f : Fill := { fill (some 0) none with byHod := true, src := 8, rb := 8 }
     let s := { sHod (prog []) 0 with cycle := 1, fills := [f] }
     mapFind (hodOf s f.unit).progs f.prog = some (prog []) ∧ (s.fills.find? fun g => g.uid == f.uid) = some f ∧
       popped (ringOf (clusterOf s 0) 1) 0#32 = false ∧ segGuard s [(fillKey s f, 8192)] = none ∧
       (hodRows (prog []) f f.rows s 0).2.isOk = true ∧
       (tileWrite (hodRows (prog []) f f.rows s 0).1 0 (fillKey s f) (List.replicate 8192 0#8)).2 = false) ∧
    (fill (some 0) (some 3)).cause = some 3 ∧ (fill (some 0) (some 3)).claimedAt < (sFill (fill none none)).cycle ∧
    (let due (s : State) (y : Cmd) : Bool :=
       y.uid == 77 && y.core == 0 && y.started && !y.retired && decide (y.retireAt ≤ s.cycle)
     ((coreOf (sRet aRun) 0).active.find? (due (sRet aRun)) = some aRun ∧ stopsAtRow aRun.op = false) ∧
     ((coreOf (sRet alRun) 0).active.find? (due (sRet alRun)) = some alRun ∧ stopsAtRow alRun.op = true ∧ alRun.rows < 64) ∧
     ((coreOf sRetG 0).active.find? (due sRetG) = none ∧
       (clusterOf sRetG 0).active.find? (due sRetG) = some { aRun with op := .copy b0, x := b0 })) := by decide +kernel

/-- A fill of a hod of one row of 8 bytes. -/
def hFill : Fill := { fill (some 0) none with byHod := true, src := 8, rb := 8 }
def sHf : State := { sHod (prog []) 0 with cycle := 1, fills := [hFill] }

theorem witness_TileFills_data :
    mapFind (hodOf sHf hFill.unit).progs hFill.prog = some (prog []) ∧ hodPaused sHf (prog []).part = false ∧
    hFill.idx = none ∧ hFill.rows * hFill.rb ≤ 8192 ∧ hFill.due ≤ sHf.cycle ∧ hFill.cause = none ∧
    segGuard sHf [(fillKey sHf hFill, 8192)] = none ∧ NoErrors sHf (fillKey sHf hFill) 8192 ∧
    (∀ j, j < hFill.rows → hodSegs sHf (prog []) (hFill.src + BitVec.ofNat 64 j * hFill.stride) hFill.rb =
        .ok [(8, hFill.rb)] ∧ keyStore 8 ≠ 8 ∧ NoErrors sHf 8 hFill.rb) := by decide +kernel

/-- A command that may start, in the queue of the MXE, the VXE or the GCE of core 0; a copy with a descriptor of one element. -/
def mCmd : Cmd := { aCmd with op := .aclr { b0 with w5 := 1 }, x := { b0 with w5 := 1 } }
def gCmd : Cmd :=
  { aCmd with
    op := .copy b0, x := b0,
    desc := leBytes 16 1 ++ leBytes 8 1 ++ leBytes 8 1 ++ leBytes 16 4 ++ leBytes 16 4 }
def sEng (f : Core → Core) (g : Cluster → Cluster) : State :=
  { part (f (run1 4 (held tV))) 4 [] with cycle := 1, devTime := 0x8000, clusters := [(0, g Cluster.fresh)] }
def sMxe : State := sEng (fun k => { k with mxeq := [mCmd] }) id
def sVxe : State := sEng (fun k => { k with vxeq := [aCmd] }) id
def sGce : State := sEng id fun g => { g with gceq := [gCmd] }
/-- The rotation table names slot 4 at turn 1, whose MXE command has started; a started GCE command; commands that are due. -/
def mRun : Cmd := { mCmd with started := true }
def sTurn : State := sEng (fun k => { k with rot := true, rotTab := [(1, 0x8004#16)], active := [mRun] }) id
def gRun : Cmd := { gCmd with started := true, retireAt := never, due := never }
/-- The rotation lane of a command in the queue; a hold that runs a pass out; a row command at a hold; a stopped, a held and a
filling grid command; a multicast that has ended. -/
def sLane : State := sEng (fun k => { k with rot := true, rotTab := [(1, 0x8004#16)], mxeq := [mCmd] }) id
def sHeldStep : State := sEng (fun k => { k with rot := true, mode := .stopping, active := [mRun] }) id
def sHeldRow : State := sEng (fun k => { k with mode := .stopping, active := [{ alRun with retireAt := 60 }] }) id
def gFill : Cmd := { gRun with x := { b0 with flags := 2 }, op := .copy { b0 with flags := 2 }, members := [(0, 1)] }
def sGrid (m : CoreMode) (x : Cmd) : State := sEng (fun k => { k with mode := m }) fun g => { g with active := [x] }
def cEnd : Cmd := { aCmd with op := .mcast b0, x := b0, started := true, retired := true }
def sStep : State := sEng id fun g => { g with active := [gRun] }
def mEnd : Cmd := { mRun with retired := true }
def vEnd : Cmd := { aCmd with started := true, retired := true }
def gEnd : Cmd := { gCmd with started := true, retired := true }

theorem witness_EngineCommands :
    ((coreOf sMxe 0).rot = false ∧ (coreOf sMxe 0).mxeq = [mCmd] ∧ mayStart sMxe mCmd = true ∧
      (coreOf sMxe 0).mxeFree ≤ sMxe.cycle) ∧
    ((coreOf sVxe 0).vxeq = [aCmd] ∧ mayStart sVxe aCmd = true) ∧
    (nextGce sGce 0 = some gCmd ∧ mayStart sGce gCmd = true ∧ (∀ y ∈ (clusterOf sGce 0).active, gceStepping y = false)) ∧
    ((rotEntry (coreOf sTurn 0) (turnOf sTurn)).getLsbD 15 = true ∧
      ((coreOf sTurn 0).active.find? fun y => stepsLeft y && y.slot == 4) = some mRun ∧ (coreOf sTurn 0).rot = true) ∧
    (rowsHeld sTurn (coreOf sTurn 0) = none ∧ rowsHeld sLane (coreOf sLane 0) = none ∧
      rowsHeld sHeldStep (coreOf sHeldStep 0) = none ∧ (rowsHeld sHeldRow (coreOf sHeldRow 0)).isSome = true) ∧
    (isHeldMode (coreOf sHeldStep 0).mode = true ∧
      ((coreOf sHeldStep 0).active.find? fun y => stepsLeft y && runsOut y) = some mRun) ∧
    ((coreOf sLane 0).active = [] ∧ ((coreOf sLane 0).mxeq.find? fun y => y.slot == 4) = some mCmd ∧
      mayStart sLane mCmd = true ∧ laneBlocked (coreOf sLane 0) mCmd = false ∧
      (rotEntry (coreOf sLane 0) (turnOf sLane)).getLsbD 15 = true) ∧
    (((clusterOf (sGrid .running { gRun with stop := true }) 0).active.find? gceStepping) = some { gRun with stop := true } ∧
      ((clusterOf (sGrid .stopping gRun) 0).active.find? gceStepping) = some gRun ∧
      isHeldMode (coreOf (sGrid .stopping gRun) 0).mode = true ∧
      ((clusterOf (sGrid .running gFill) 0).active.find? gceStepping) = some gFill ∧ gFill.fills = true ∧
      (∃ p ∈ gFill.members.zipIdx, gFill.fail.testBit p.2 = false) ∧ gRun.steps % (gridCount gRun).2 = 0) ∧
    (gceCmd (sGrid .running cEnd) 0 77 = some cEnd ∧ gceStepping cEnd = false ∧ isMcast cEnd.op = true ∧
      fillsOf (sGrid .running cEnd) 77 = [] ∧ writesOut (sGrid .running cEnd) (cmdTid (sGrid .running cEnd) cEnd) = false) ∧
    (((clusterOf sStep 0).active.find? gceStepping) = some gRun ∧ gRun.poison = none ∧ gRun.fills = false ∧ gRun.stop = false ∧
      tileFills sStep gRun (gRun.steps / (gridCount gRun).2) = [] ∧ (gridOf gRun).isOk = true) ∧
    ((activeCmd (sEng (fun k => { k with active := [mEnd] }) id) 0 77 = some mEnd) ∧ (cmdCode mEnd.op).1 = 0 ∧
      (cmdCode vEnd.op).1 = 1 ∧ mEnd.err = none ∧ mEnd.x.inc.toNat ≠ 0 ∧ vEnd.x.inc.toNat ≠ 0) ∧
    (gceCmd (sEng id fun g => { g with active := [gEnd] }) 0 77 = some gEnd ∧ gceStepping gEnd = false ∧
      isMcast gEnd.op = false) := by decide +kernel

theorem witness_EngineCommands_now :
    rowsStopped (coreOf sMxe 0) = false ∧
    SignalsNow (sEng (fun k => { k with active := [mEnd] }) id) mEnd ∧ SignalsNow (sGrid .running cEnd) cEnd := by decide +kernel

/-! Engine commands with operands in the own TCM: A at offset 0, B and Y at 0x1000, D at 0x2000; E4M3 by E5M2 for MMA. -/

def sOp (op : Bundle → Instr) (b : Bundle) (f : Core → Cmd → Core) : State :=
  sEng (fun k => f k { aCmd with op := op b, x := b, a := 0x8000000000000000#64, b := 0x8000000000001000#64 }) id
def xOp (op : Bundle → Instr) (b : Bundle) : Cmd :=
  { aCmd with op := op b, x := b, a := 0x8000000000000000#64, b := 0x8000000000001000#64 }
def bMma : Bundle := { b0 with flags := 3, w7 := 0x8C800000 }
def sMma (op : Bundle → Instr) (b : Bundle) : State := sOp op b fun k x => { k with mxeq := [x] }

theorem witness_FloatSpecialCases_mxe :
    (∀ e ∈ ([(.mma, bMma), (.aclr, { b0 with w5 := 3 }), (.atrn, { b0 with w5 := 0x21 })] : List ((Bundle → Instr) × Bundle)),
      let s := sMma e.1 e.2
      let x := xOp e.1 e.2
      (coreOf s 0).rot = false ∧ rowsStopped (coreOf s 0) = false ∧ (coreOf s 0).mxeq = [x] ∧ mayStart s x = true ∧
        (coreOf s 0).mxeFree ≤ s.cycle ∧ (coreOf s 0).inject = none ∧ AcmSorted s 0 ∧ TileSound s 0 x.tileC) ∧
    passFmts bMma 0 = (3, 4) ∧ passShape 3 4 = some (64, 64, 0) ∧ bMma.flag 0 = true ∧ bMma.flag 1 = true ∧
    ReadsAt (sMma .mma bMma) (xOp .mma bMma) 0x8000000000000000#64 4096 (tcmKey 0 0) ∧
    ReadsAt (sMma .mma bMma) (xOp .mma bMma) 0x8000000000001000#64 4096 (tcmKey 0 0x1000) := by decide +kernel

/-- ALD of FP32 with ADD, AST with CLR and ACVT to E4M3, started, with their rows to make. -/
def xRow (op : Bundle → Instr) (b : Bundle) : Cmd := { xOp op b with started := true }
def sRow (op : Bundle → Instr) (b : Bundle) : State := sOp op b fun k x => { k with active := [{ x with started := true }] }
def bRow (fd : Nat) : Bundle := { b0 with flags := 1, w5 := BitVec.ofNat 32 (16 * fd + 2) }

theorem witness_FloatSpecialCases_ald :
    (let s := sRow .ald (bRow 0)
     let x := xRow .ald (bRow 0)
     activeCmd s 0 x.uid = some x ∧ x.retireAt ≤ s.cycle ∧ AcmSorted s 0 ∧ TileSound s 0 x.tileC ∧ fld (bRow 0).w5 8 4 = 0 ∧
       (x.rowShape 0).1 = 256 ∧
       ∀ i < 64, ReadsAt s x (x.a + BitVec.ofNat 64 (i * 256)) 256 (tcmKey 0 (i * 256))) := by decide +kernel

theorem witness_FloatSpecialCases_ast :
    (let s := sRow .ast (bRow 0)
     let x := xRow .ast (bRow 0)
     activeCmd s 0 x.uid = some x ∧ (x.rowShape (acvtFmt x.x x.fmt)).1 = 512 ∧
       ∀ i < 64, WritesAt s x (x.a + BitVec.ofNat 64 (i * 512)) 512 (tcmKey 0 0 + i * 512)) := by decide +kernel

theorem witness_FloatSpecialCases_acvt :
    (let s := sRow .acvt (bRow 3)
     let x := xRow .acvt (bRow 3)
     activeCmd s 0 x.uid = some x ∧ acvtFmt x.x x.fmt = 3 ∧ (x.rowShape (acvtFmt x.x x.fmt)).1 = 64 ∧
       ∀ i < 64, WritesAt s x (x.a + BitVec.ofNat 64 (i * 64)) 64 (tcmKey 0 0 + i * 64)) := by decide +kernel

/-- VADD of FP32 with Y at 0x2000, VFMA with D its addend, VCPY: four elements each, D at 0x1000. -/
def bVec : Bundle := { b0 with w5 := 0x80002000, w6 := 3 }
def sVec4 (op : Bundle → Instr) : State := sOp op bVec fun k x => { k with vxeq := [x] }

theorem witness_FloatSpecialCases_vxe :
    (∀ op ∈ ([.vadd, .vfma, .vcpy] : List (Bundle → Instr)),
      let s := sVec4 op
      let x := xOp op bVec
      (coreOf s 0).vxeq = [x] ∧ mayStart s x = true ∧ (coreOf s 0).vxeFree ≤ s.cycle ∧ (coreOf s 0).inject = none) ∧
    bVec.vn = 4 ∧ bVec.vfs = 0 ∧ bVec.vfd = 0 ∧ bVec.vta = false ∧ bVec.vys = false ∧
    freeAddr bVec.w5 = 0x8000000000002000#64 := by decide +kernel

theorem witness_FloatSpecialCases_vxe_operands :
    ∀ op ∈ ([.vadd, .vfma, .vcpy] : List (Bundle → Instr)),
      let s := sVec4 op
      let x := xOp op bVec
      ReadsAt s x x.a 16 (tcmKey 0 0) ∧ ReadsAt s x 0x8000000000002000#64 16 (tcmKey 0 0x2000) ∧
      ReadsAt s x x.b 16 (tcmKey 0 0x1000) ∧ WritesAt s x x.b 16 (tcmKey 0 0x1000) ∧
      SameOrApart (tcmKey 0 0x1000) 16 (tcmKey 0 0) 16 ∧ SameOrApart (tcmKey 0 0x1000) 16 (tcmKey 0 0x2000) 16 := by
  decide +kernel

theorem witness_FloatSpecialCases_values :
    ∀ v ∈ [EV.fin false 3 (-1), EV.fin true 0 0, EV.fin true 5 2], IsFinite v = true := by decide

/-- HODRUN of tag 0 on hod 0 with its program at 0x1000, and HODSTOP; a request at the hod; a program that has ended. -/
def rCmd : Cmd := { aCmd with op := .hodrun b0, x := b0, a := 0x1000#64, b := 9#64 }
def hCmd : Cmd := { aCmd with op := .hodstop b0, x := b0 }
def sHq (q : List Cmd) (h : Hod) : State :=
  { part { run1 4 (held tV) with hodq := q } 4 (pages []) with
    cycle := 1, pkg := { Pkg.fresh with dev := 0#16, asidtab := 0x3000000#64 }, hods := [(0, h)] }
def sHreq (ps : SMap Prog) : State := sHq [] { Hod.fresh with queue := [⟨rCmd, 0, 1⟩], progs := ps }
def ended : Prog := { prog [] with ended := true, cmd := rCmd }

theorem witness_HodPrograms :
    ((coreOf (sHq [rCmd] Hod.fresh) 0).hodq = [rCmd] ∧ mayStart (sHq [rCmd] Hod.fresh) rCmd = true ∧
      (progAddrErr (sHq [rCmd] Hod.fresh) rCmd) = none) ∧
    mayStart (sHq [hCmd] Hod.fresh) hCmd = true ∧
    ((hodOf (sHreq []) 0).queue.find? (fun r => decide (r.due ≤ (sHreq []).cycle)) = some ⟨rCmd, 0, 1⟩ ∧
      0 < availHods (sHreq []) ∧ (runningProgs (hodOf (sHreq []) 0)).length < 32) ∧
    (∃ p ∈ runningProgs (hodOf (sHreq [(0, prog [])]) 0), p.2.asid = rCmd.asid ∧ p.2.tag = rCmd.hodTag) ∧
    (mapFind (hodOf (sHq [] { Hod.fresh with progs := [(0, ended)] }) 0).progs 0 = some ended ∧
      progFills (sHq [] { Hod.fresh with progs := [(0, ended)] }) 0 0 = false ∧ ended.sigs = []) := by decide +kernel

/-- CHOPEN of a FIX chain in slot 0; the chain open with one position of two joined and admitted; CHJOIN of binding 0. -/
def bOpen : Bundle := { b0 with flags := 1, w5 := 0x10000 }
def oCmd : Cmd := { aCmd with op := .chopen bOpen, x := bOpen }
def chain : Chain := { Chain.free with st := 1, gen := 7, fix := true, n := 2 }
def bJoin : Bundle := { b0 with flags := 1 }
def jCmd : Cmd := { aCmd with op := .chjoin bJoin, x := bJoin, started := true }
/-- A binding of core 1's chain at position 0 and a send that consumed it; a stored row of position 0. -/
def bind : Binding := ⟨1, 0, 0, 7, 0, true, none, false⟩
def beatRows : List (Nat × List Nat) := [(0, List.replicate 64 0)]
def sMor (f : Core → Core) (b : MsgBody) : State :=
  { part (f (run1 4 (held tV))) 4 [] with cycle := 1, net := [{ msg b with net := .mortar }], uid := 100 }
def withChain (k : Core) : Core := { k with chains := [(0, chain)] }
def sent0 : Send := ⟨0, bind, false, 0, beatRows⟩

theorem witness_MortarEvents :
    (let s := sMor (fun k => { k with mniq := [oCmd] }) .credit
     (coreOf s 0).mniq = [oCmd] ∧ mayStart s oCmd = true ∧ mniRuns (coreOf s 0) = false ∧
       (chainOf s 0 0).st = 0 ∧ bOpen.flag 0 = true ∧ quarterUsed s 0 0 = false ∧ quarterUsed s 0 1 = false) ∧
    (let s := sMor withChain (.joinReq 0 0 1 false)
     arrived s 9 = some { msg (.joinReq 0 0 1 false) with net := .mortar } ∧ (chainOf s 0 0).st = 1 ∧ 1 < (chainOf s 0 0).n ∧
       (chainOf s 0 0).joined = [] ∧ (chainOf s 0 1).st ≠ 1 ∧ (chainOf s 0 0).n ≤ 2 ∧ (chainOf s 0 0).asid = (msg .credit).asid) ∧
    (let h := { chain with joined := [(1, 2, 0, false)], fix := false }
     let s := sMor (fun k => { k with chains := [(0, h)] }) (.joinReq 0 0 0 false)
     (∃ j ∈ (chainOf s 0 0).joined, j.1 = 1) ∧ (∀ j ∈ (chainOf s 0 0).joined, j.1 ≠ 0) ∧ (chainOf s 0 0).fix = false ∧
       0 < (chainOf s 0 0).n ∧ (chainOf s 0 0).st = 1) ∧
    (∀ b ∈ ([.admission 0 0 7, .evictNotice 0 0 7, .evictAck 0 0 7, .chevictReq 0 5, .joinReply 0 7 none true true] : List MsgBody),
      arrived (sMor withChain b) 9 = some { msg b with net := .mortar }) ∧
    ((chainOf (sMor withChain .credit) 0 0).st ≠ 0 ∧ (chainOf (sMor id .credit) 0 0).st = 0) ∧
    (joinCmd (sMor (fun k => { k with active := [jCmd] }) (.joinReply 0 7 none true true)) 0 0 = some jCmd) ∧
    (let s := sMor withChain (.beat 0 0 7 0 [])
     (coreOf s 0).lastBeat ≠ some s.cycle ∧ (chainOf s 0 0).gen.toNat = 7 ∧ (chainOf s 0 0).gen.toNat ≠ 8 ∧
       mapGet 0 (chainOf s 0 0).accepted 0 ≠ 63 ∧ mapGet 0 { chain with accepted := [(0, 63)] }.accepted 0 = 63) ∧
    (let s := sMor (fun k => { k with sends := [(77, sent0)], active := [mRun] }) (.beatAck 0 0 7)
     ((coreOf s 0).sends.find? fun e => isBinding e.2.bind 1 0 0 7) = some (77, sent0) ∧
       (activeCmd (dropSend (dropMsg s 9) 0 77 sent0) 0 77).isSome = true) := by decide

theorem witness_MortarEvents_rows :
    (let s := sMor (fun k => { k with sends := [(77, sent0)], active := [mRun] }) .credit
     (coreOf s 0).sends.find? (fun e => e.2.num == 0 && sendReady s 0 e.1 e.2) = some (77, sent0) ∧
       sent0.rows = [(0, List.replicate 64 0)]) ∧
    (let h := { chain with stored := [(0, 0, List.replicate 64 0)] }
     let s := sMor (fun k => { k with chains := [(0, h)] }) .credit
     (coreOf s 0).lastApply ≠ some s.cycle ∧ (coreOf s 0).lastBeat ≠ some s.cycle ∧ (chainOf s 0 0).st = 1 ∧
       (chainOf s 0 0).done ≠ (chainOf s 0 0).n ∧ { chain with done := 2 }.done = { chain with done := 2 }.n ∧
       ((chainOf s 0 0).stored.find? fun q => rowReady (chainOf s 0 0) q.1 q.2.1).isSome = true) := by decide

/-! ## FIX cells, pre-emption, partitions, counters, the host, connections, time -/

/-- Codes of A34: a NaN, both infinities, −0, 1.0, and a small number. -/
theorem witness_FixCells :
    ffA34.value ffA34.nan = .nan ∧ ffA34.value ffA34.infc = .inf false ∧
    ffA34.value (ffA34.withSign true ffA34.infc) = .inf true ∧ ffA34.value (ffA34.withSign true 0) = .fin true 0 (-533) ∧
    ffA34.value 0xFF800000 = .fin false (2 ^ 23) (-23) ∧ ([0, 5, 7] : List Nat).length ≤ 256 ∧
    ([0, 5, 7] : List Nat).Perm [7, 0, 5] := by decide

/-- A descriptor at 0x800 of HBM whose image of launch 1 lies at 0x1000, and the header of an image there. -/
def descMem (done : Nat) : List Host.Cell :=
  let h := leBytes 4 0x56455250 ++ leBytes 4 1 ++ leBytes 2 0 ++ leBytes 8 57344 ++ List.replicate 46 0#8
  memWrite (memWrite (world []) 0x800
    (leBytes 8 0x1000 ++ leBytes 8 0x100000 ++ leBytes 2 1 ++ leBytes 6 0 ++ leBytes 8 (done * 57344) ++ leBytes 4 done))
    0x1000 (if done = 1 then h else [])
def headOf : List Byte :=
  leBytes 4 0x56455250 ++ leBytes 4 1 ++ leBytes 2 0 ++ leBytes 8 57344 ++ List.replicate 46 0#8
/-- Core 0 with a user thread of ASID 5, and a request on its way to it. -/
def sPre (f : Core → Core) (done : Nat) (b : MsgBody) : State :=
  { part (f { run1 4 { held tA with asid := 5 } with lattr := 0xA000000204000000 }) 4 (descMem done) with
    net := [msg b], uid := 100, cycle := 1, pkg := { Pkg.fresh with dev := 0#16, asidtab := 0x3000000#64 } }
def coreOp (b : MsgBody) : CoreOp := ⟨msg b, 0, 0, 0, 0x1000, 1, 57344, 0⟩
def pre : MsgBody := .preempt 4 2 0x800 0
def res (v : Word) : MsgBody := .resume 4 2 v 0
def gone (k : Core) : Core :=
  { k with mode := .preempted, slots := [], guestAsid := some 0, savedSeq := 1, savedHead := headOf, op := some (coreOp (res 0x800)) }

theorem witness_Preemption :
    (let s := sPre id 0 pre
     arrived s 9 = some (msg pre) ∧ findMsg s 9 = some (msg pre) ∧ (msg pre).part = (partOfCore s 0).getD 64 ∧
       (coreOf s 0).op = none ∧ (coreOf s 0).mode = .running ∧
       (preemptOp (wakeIdle (dropMsg s 9) 0) (msg pre) 0x800 0).isSome = true) ∧
    (let s := sPre (fun k => { k with mode := .partHalt }) 0 pre
     arrived s 9 = some (msg pre) ∧ (coreOf s 0).mode ≠ .running) ∧
    (let s := sPre (fun k => { k with mode := .preempted }) 1 (res 0x800)
     arrived s 9 = some (msg (res 0x800)) ∧ (coreOf s 0).mode = .preempted ∧ (coreOf s 0).op = none) ∧
    (let s := sPre (fun k => { k with mode := .debugHalt }) 1 (res 0)
     arrived s 9 = some (msg (res 0)) ∧ (coreOf s 0).mode = .debugHalt) ∧
    arrived (sPre id 0 (.debugHalt 4 2)) 9 = some (msg (.debugHalt 4 2)) := by decide +kernel

theorem witness_Preemption_phases :
    (let s := sPre (fun k => { k with mode := .stopping, op := some (coreOp pre) }) 0 .credit
     (coreOf s 0).op = some (coreOp pre) ∧ (coreOp pre).due ≤ s.cycle ∧ saveWaits s 0 = false) ∧
    (let s := sPre (fun k => { k with mode := .saving, op := some (coreOp pre) }) 0 .credit
     (coreOf s 0).mode = .saving ∧ (coreOp pre).req.sdev = s.pkg.dev.toNat) ∧
    (let s := sPre gone 1 .credit
     (coreOf s 0).mode = .preempted ∧ guestGone s 0 = true ∧ resumeImage s 0 (coreOp (res 0x800)).req = some (0x1000, 57344)) ∧
    (let s := sPre (fun k => { gone k with mode := .restoring }) 1 .credit
     (coreOf s 0).mode = .restoring ∧ (coreOf s 0).op = some (coreOp (res 0x800)) ∧
       (coreOp (res 0x800)).req.sdev = s.pkg.dev.toNat) := by decide +kernel

/-- A core with an entry in its spill queue; with a watchdog at its count; a page walk; a kill fence of ASID 5. -/
def sCore (f : Core → Core) : State := sPre f 0 .credit
def theWalk (asid : Nat) : Walk := ⟨3, 0, 4, asid, 0x40, 0⟩
def sWalk (asid : Nat) : State :=
  { sCore (fun k => { k with slots := [(4, waits (.walk 3 false) tA)] }) with walks := [theWalk asid] }
def theKill (begun : Bool) : Kill := ⟨7, begun, 5, 0, some (0, 4, 1), 3, 0, false⟩
def sKill (begun : Bool) : State := { part (run1 4 (held tA)) 4 (asids []) with
  kills := [theKill begun], pkg := { Pkg.fresh with dev := 0#16, asidtab := 0x3000000#64 } }

theorem witness_CoreEvents :
    (let s := sCore fun k => { k with spill := [msg (.packet task)], qwd := 5, wdCount := 5, scrub := 1, rot := true }
     (coreOf s 0).mode = .running ∧ (coreOf s 0).spill = [msg (.packet task)] ∧
       (coreOf s 0).spillNext ≤ s.cycle ∧ (coreOf s 0).inbox.length < Config.inboxSize ∧
       (coreOf s 0).qwd ≠ 0#64 ∧ (coreOf s 0).wdFired = false ∧ (coreOf s 0).qwd.toNat ≤ (coreOf s 0).wdCount ∧
       (coreOf s 0).scrub ≠ 0#32 ∧ (coreOf s 0).rot = true) ∧
    (let s := sCore fun k => { k with slots := [(4, waits .idle tA)] }
     (coreOf s 0).rot = false ∧ (coreOf s 0).clockStopped = false ∧
       ∀ y ∈ (coreOf s 0).slots, y.2.st = .free ∨ y.2.st = .waiting) ∧
    (let s := sWalk 0
     (s.walks.find? fun y => y.uid == 3) = some (theWalk 0) ∧ (theWalk 0).due ≤ s.cycle ∧
       (slotOf s 0 4).wait = .walk 3 false ∧ walkFollows s (theWalk 0) = false ∧ (walkTables s (partOfCore s 0) 0 0x40).isOk = true) ∧
    (walkTables (sWalk 5) (partOfCore (sWalk 5) 0) 5 0x40).isOk = false ∧
    (((sKill false).kills.find? fun y => y.uid == 7) = some (theKill false) ∧ (theKill false).due ≤ (sKill false).cycle) ∧
    (((sKill true).kills.find? fun y => y.uid == 7) = some (theKill true) ∧ killedMsgs (sKill true) (theKill true) = [] ∧
      killWaits (sKill true) (theKill true) = false ∧ threadOf (sKill true) 0 4 = some tA) := by decide +kernel

/-- Partition 0 in a state with a command; its eight cores held by a HALT. -/
def sPart (st : Nat) (cmd : Option PartCmd) : State :=
  { part (run1 4 (held tA)) 4 [] with
    cycle := 1,
    cores := (List.range 8).map fun c => (c, { Core.fresh with mode := .partHalt }),
    parts := [(0, { Part.unbound with st := st, clus := 1, hbmwin := [(0, 65536)], ctab := 0x1000000#64, cmd := cmd })] }

theorem witness_PartitionCommands :
    partLine (.halt 0) = some (0, 2, [1]) ∧ partBusy (part (run1 4 (held tA)) 4 []) = false ∧
    refusalStatus (part (run1 4 (held tA)) 4 []) 0 2 = 0 ∧ (coreOf (part (run1 4 (held tA)) 4 []) 0).mode = .running ∧
    0 ∈ coresOfPart (part (run1 4 (held tA)) 4 []) 0 ∧
    partLine (.bind 1) = some (1, 1, [0]) ∧ partLine (.reset 1) = some (1, 6, [1, 2]) ∧
    (partOf (part (run1 4 (held tA)) 4 []) 1).st ∉ [1, 2] ∧
    (let c : PartCmd := ⟨2, 1, 1, 0⟩
     (partOf (sPart 1 (some c)) 0).cmd = some c ∧ c.phase ≠ 0 ∧ c.due ≤ (sPart 1 (some c)).cycle ∧
       (∀ k ∈ coresOfPart (sPart 1 (some c)) 0, holdable (coreOf (sPart 1 (some c)) k) = false) ∧
       halted (sPart 1 (some c)) 0 = true) ∧
    fencing (sPart 2 (some ⟨7, 2, 1, 0⟩)) 0 = false ∧
    (let s := modCore (sPart 1 (some ⟨2, 1, 1, 0⟩)) 3 fun k => { k with mode := .running }
     3 ∈ coresOfPart s 0 ∧ holdable (coreOf s 3) = true) ∧
    (partOf (sPart 2 (some ⟨7, 1, 1, 0⟩)) 0).cmd = some ⟨7, 1, 1, 0⟩ := by decide +kernel

/-- Counters: 1 OPEN with count 1; 2 of level 2, OPEN; 4 DONE. -/
def sCnt : State :=
  part (run1 4 (held tU)) 4 (memWrite (memWrite (counters []) (sramKey 0 0x1000010) (leBytes 8 (cntWord false 2 0 0 0)))
    (sramKey 0 0x1000020) (leBytes 8 (cntWord false 1 1 0 0)))

theorem witness_CounterCommands :
    (let r := counterRead sCnt (some 0)
     (∀ i ∈ [1, 2, 4, 7], NoErrors sCnt (counterKey sCnt 0 i) 8) ∧ cntLevel (r 7) = 0 ∧
       eccBad sCnt.ecc (counterKey sCnt 0 0) 524288 = false ∧ counterOpen sCnt (some 0) 2 = true ∧ cntLevel (r 2) = 2 ∧
       cntCount (r 2) < 2 ^ 32 - 1 ∧
       cntLevel (r 1) ≠ 0 ∧ cntState (r 1) = 0 ∧ cntCount (r 1) ≠ 0 ∧ counterChildren sCnt 0 1 = [] ∧
       cntLevel (r 4) ≠ 0 ∧ cntState (r 4) = 1 ∧ counterOpen sCnt (some 0) 4 = false) ∧
    (partOfCore sCnt 0 = some 0 ∧ (slotOf sCnt 0 4).thread = some tU ∧ tU.ccid = 1 ∧ (slotOf sCnt 0 4).st ≠ .free) := by
  decide +kernel

/-- The mailbox open, hacl range 0 on the first 2 MiB of HBM, a QCB at 0x200, the core debuggable from the host. -/
def sHost (busy : Bool) (f : Core → Core) (m : List Host.Cell) : State :=
  { part (f { run1 4 (held tA) with dbgctl := 2 }) 4 m with
    pkg := { Pkg.fresh with dev := 0#16, busy := busy, hacl := [(0, BitVec.ofNat 64 (2 ^ 63 + 2 ^ 28))] } }

theorem witness_HostInterface :
    (sHost true id []).pkg.busy = true ∧ (sHost false id []).pkg.busy = false ∧
    (coreOf (sHost false id []) 0).dbgctl.getLsbD 1 = true ∧ (coreOf (sHost false id []) 0).mode = .running ∧
    (coreOf (sHost false (fun k => { k with mode := .debugHalt }) []) 0).mode = .debugHalt ∧
    (partOf (sHost false id []) 0).st ≠ 0 ∧ (partOf (sHost false id []) 1).st = 0 ∧
    haclAllows (sHost false id []) 0x40 64 = true ∧ haclAllows (sHost false id []) (2 ^ 21 - 63) 64 = false ∧
    (let s := sHost false id (qcb false 0 0)
     let q := qcbAt s 0x200 (fieldAt (memBytes s.mem 0x200 16) 12 2)
     haclAllows s 0x200 256 = true ∧ haclAllows s (0x800 + 64 * (q.claim % q.cap)) 64 = true ∧ q.ok = true ∧ q.side = 0xA00) ∧
    ((modPkg (sHost false id []) fun p => { p with cmdArea := List.replicate 64 0#8 }).pkg.cmdArea.length = 64 ∧
      (mailboxEnd (modPkg (sHost true id []) fun p => { p with mbox := some ([], 0) })).isSome = true) ∧
    (summary (sHost false id [])).length ≤ 2 ^ 20 ∧ (0 : Nat) < (summary (sHost false id [])).length ∧
    (State.reset.pkg.booted = false ∧ State.reset.pkg.bootStatus = 0#64) := by decide +kernel

/-- A QCB without a side ring. -/
def qcbPlain (closed : Bool) (tail claim : Nat) : List Host.Cell := memWrite (qcb closed tail claim) 0x218 (leBytes 8 0)

theorem witness_HostInterface_append :
    ∀ e ∈ [(false, 0, false), (true, 0, true), (false, 2, true)],
      let s := sHost false id (qcbPlain e.1 0 e.2.1)
      let q := qcbAt s 0x200 (fieldAt (memBytes s.mem 0x200 16) 12 2)
      haclAllows s (0x800 + 64 * (q.claim % q.cap)) 64 = true ∧ q.ok = true ∧ q.side = 0 ∧
        (qcbClosed q || qcbFull q) = e.2.2 := by decide +kernel

/-- A link packet from device 1, and a connection to it with a packet sent `n` times that is not acknowledged. -/
def linkPkt (cls seq : Nat) : LinkPkt := ⟨1, 0, cls, seq, 0, 0, 4, 0, 0, 0, 0, 0, 0, .send 4 2 7 3⟩
def theConn (n : Nat) : Conn :=
  { Conn.fresh with classes := #v[⟨6, 5, [(linkPkt 0 5, n, 0)], []⟩, ConnClass.fresh, ConnClass.fresh] }
def sConn (x : Conn) (ports : SMap Port) : State :=
  { part (run1 4 (held tA)) 4 [] with
    cycle := 40000, net := [{ msg (.send 4 2 7 3) with egress := true }],
    pkg := { Pkg.fresh with dev := 0#16, xm1 := 1#6, plive := 1#24, ports := ports, conns := [(1, x)] } }

theorem witness_Connections :
    (let s := sConn (theConn 1) [(1, ⟨0xFF, 2, 0⟩), (2, ⟨0xFF, 1, 0⟩)]
     s.pkg.dev ≠ 0xFFFF#16 ∧ mapFind s.pkg.conns 1 = some (theConn 1) ∧ (theConn 1).up = true ∧ (theConn 1).resident = true ∧
       (linkPkt 0 5).seq = (connClass (theConn 1) 0).recvSeq ∧ (linkPkt 0 260).seq = ((connClass (theConn 1) 0).recvSeq + 255) % 2 ^ 32 ∧
       (linkPkt 0 5, 1, 0) ∈ (connClass (connOf s 1) 0).unacked ∧ unanswered s (linkPkt 0 5, 1, 0) = true ∧
       (portOf s 1).st = 2 ∧ (portOf s 2).st = 1 ∧ (portOf s 2).lanes ≠ 0#8) ∧
    ((theConn 9).classes.toList.any fun q => q.unacked.any fun e => unanswered (sConn (theConn 9) []) e && e.2.1 == 9) = true ∧
    (routePort (sConn { theConn 1 with up := false } []) none 0 0 1).isSome = true ∧
    (let x := { theConn 1 with resident := false, waiting := [linkPkt 0 7] }
     connOf (sConn x []) 1 = x ∧ x.up = true ∧ x.waiting ≠ []) ∧
    (let s := sConn (theConn 1) []
     let m := { msg (.send 4 2 7 3) with egress := true }
     findMsg s 9 = some m ∧ m.egress = true ∧ m.net ≠ .timediv ∧ m.due ≤ s.cycle ∧ firstOfQueue s m = true ∧
       m.ddev = s.pkg.dev.toNat) := by decide

/-- A boundary clock; a time-division packet in its egress queue, on its way, or late. -/
def tdMsg (egress : Bool) (due : Nat) : Msg := { msg (.send 4 2 7 3) with net := .timediv, egress := egress, due := due }
def sTd (tctl : Word) (m : Msg) : State :=
  { part (run1 4 { waits (.window 9) tA with }) 4 [] with
    cycle := 1, devTime := 2 ^ 26, net := [m], pkg := { Pkg.fresh with dev := 0#16, tctl := tctl, good := 15, missed := 2 } }

theorem witness_TimeEvents :
    hasUpstream (sTd 3 (tdMsg true 1)) = true ∧ 15 ≤ (sTd 3 (tdMsg true 1)).pkg.good ∧
    (sTd 3 (tdMsg true 1)).pkg.tctl.getLsbD 0 = true ∧ (sTd 3 (tdMsg true 1)).pkg.tctl.getLsbD 1 = true ∧
    (sTd 3 (tdMsg true 1)).pkg.nextSync ≤ (sTd 3 (tdMsg true 1)).cycle ∧
    (let s := sTd 3 (tdMsg true 1)
     findMsg s 9 = some (tdMsg true 1) ∧ (tdMsg true 1).due ≤ deviceCycle s ∧ (slotOf s 1 4).wait = .none) ∧
    (let s := sTd 3 (tdMsg false 1)
     findMsg s 9 = some (tdMsg false 1) ∧ (tdDeliver (tdPostpone s 0) (tdMsg false 1)).isSome = true ∧ (tdMsg false 1).due ≤ deviceCycle s ∧
       (∀ e ∈ tdDue s 0, tdBefore e (tdMsg false 1) = false) ∧
       (match taking (tdPostpone s 0) (tdMsg false 1) with | .apply => true | _ => false) = true) ∧
    (tdDeliver (sTd 3 (tdMsg false 0)) (tdMsg false 0)).isSome = true ∧
    (let m := { tdMsg false 1 with body := .sigr 3 1 }
     findMsg (sTd 3 m) 9 = some m ∧ taking (tdPostpone (sTd 3 m) 0) m = .apply ∧ taking (sTd 3 m) m = .apply) ∧
    (let m := { tdMsg false 1 with body := .packet task }
     let s := modCore (sTd 3 m) 0 fun k => { k with inbox := List.replicate 256 m }
     findMsg s 9 = some m ∧ tdDeliver (tdPostpone s 0) m = none) := by decide +kernel

/-! ## Words written from the tables of the manual (R133, R137, R138, R140, R275) and what they decode to -/

theorem test_decode_integer_1 : ∀ e ∈ ([
    (0x06494C00, (.add 9 2 5 3)),
    (0x06494C01, (.sub 9 2 5 3)),
    (0x06494C02, (.mul 9 2 5 3)),
    (0x06494C03, (.mulh 9 2 5 3)),
    (0x06494C04, (.mulhu 9 2 5 3)),
    (0x06494C05, (.div 9 2 5 3)),
    (0x06494C06, (.divu 9 2 5 3)),
    (0x06494C07, (.rem 9 2 5 3)),
    (0x06494C08, (.remu 9 2 5 3)),
    (0x06494C09, (.and 9 2 5 3)),
    (0x06494C0A, (.or 9 2 5 3)),
    (0x06494C0B, (.xor 9 2 5 3))] : List (Nat × Instr)),
    decodeWords [e.1] = .ok e.2 ∧ encode e.2 = some [e.1] := by decide

theorem test_decode_integer_2 : ∀ e ∈ ([
    (0x06494C0C, (.shl 9 2 5 3)),
    (0x06494C0D, (.shr 9 2 5 3)),
    (0x06494C0E, (.sar 9 2 5 3)),
    (0x06494C0F, (.min 9 2 5 3)),
    (0x06494C10, (.max 9 2 5 3)),
    (0x06494C11, (.minu 9 2 5 3)),
    (0x06494C12, (.maxu 9 2 5 3)),
    (0x06481813, (.clz 9 2 6)),
    (0x06481814, (.popc 9 2 6)),
    (0x0A49AAAB, (.addi 9 2 6 0x2aab#14)),
    (0x0E49AAAB, (.andi 9 2 6 0x2aab#14)),
    (0x1249AAAB, (.ori 9 2 6 0x2aab#14))] : List (Nat × Instr)),
    decodeWords [e.1] = .ok e.2 ∧ encode e.2 = some [e.1] := by decide

theorem test_decode_integer_3 : ∀ e ∈ ([
    (0x1649AAAB, (.xori 9 2 6 0x2aab#14)),
    (0x1A49802B, (.shli 9 2 6 0x2b#6)),
    (0x1E49802B, (.shri 9 2 6 0x2b#6)),
    (0x2249802B, (.sari 9 2 6 0x2b#6)),
    (0x266EAAAB, (.lui 9 11 0x2aaab#18))] : List (Nat × Instr)),
    decodeWords [e.1] = .ok e.2 ∧ encode e.2 = some [e.1] := by decide

theorem test_decode_predicates : ∀ e ∈ ([
    (0x2B494C09, (.cmp 13 2 5 3 .gtu)),
    (0x2F49A6AB, (.cmpi 13 2 6 .gtu 0x2ab#10)),
    (0x336D8C00, (.pand 13 11 6 3)),
    (0x336D8C01, (.por 13 11 6 3)),
    (0x336D8C02, (.pxor 13 11 6 3)),
    (0x336C1803, (.pnot 13 11 6)),
    (0x336C1804, (.pmov 13 11 6)),
    (0x36494C0D, (.sel 9 2 5 3 13)),
    (0x3A494C00, (.rnd 9 2 5 3)),
    (0x3A402C01, (.seed 9 11)),
    (0x3E42C009, (.csrr 9 11 0x9#12)),
    (0x3C26E009, (.csrw 9 11 0x9#12))] : List (Nat × Instr)),
    decodeWords [e.1] = .ok e.2 ∧ encode e.2 = some [e.1] := by decide

theorem test_decode_control : ∀ e ∈ ([
    (0x401AAAAB, (.br 0x1aaaab#21)),
    (0x435AAAAB, (.bp 13 0x1aaaab#21)),
    (0x437AAAAB, (.bpN 13 0x1aaaab#21)),
    (0x46DAAAAB, (.btag 0xb#4 0x1aaaab#21)),
    (0x46FAAAAB, (.btagN 0xb#4 0x1aaaab#21)),
    (0x4A6AAAAB, (.call 9 0x2aaaab#22)),
    (0x4C26EAAB, (.jr 9 11 0x2aab#14)),
    (0x5026C000, (.ret 9 11)),
    (0x5640AAAB, (.loop 9 0xaaab#16)),
    (0x5AABAAAB, (.loopx 0x2ab#10 0xaaab#16))] : List (Nat × Instr)),
    decodeWords [e.1] = .ok e.2 ∧ encode e.2 = some [e.1] := by decide

theorem test_decode_floats : ∀ e ∈ ([
    (0xA2494C38, (.fadd 9 2 5 3 .rup .bf16)),
    (0xA2494CB8, (.fmul 9 2 5 3 .rup .bf16)),
    (0xA2494D38, (.ffma 9 2 5 3 .rup .bf16)),
    (0xA2494D88, (.fmin 9 2 5 3 .bf16)),
    (0xA7494CF0, (.fcmp 13 2 5 3 .gt .bf16)),
    (0xA6494F4C, (.fcvt 9 2 5 3 .i32 .f16 .sr)),
    (0xAA494C30, (.faddF64 9 2 5 3 .rup)),
    (0xAA494CB0, (.fmulF64 9 2 5 3 .rup)),
    (0xAA494D30, (.ffmaF64 9 2 5 3 .rup)),
    (0xAA494D80, (.fminF64 9 2 5 3)),
    (0xAF494CE0, (.fcmpF64 13 2 5 3 .gt)),
    (0xAE494F7C, (.fcvtF64 9 2 5 3 .i32 .f64 .sr))] : List (Nat × Instr)),
    decodeWords [e.1] = .ok e.2 ∧ encode e.2 = some [e.1] := by decide

theorem test_decode_memory : ∀ e ∈ ([
    (0x6249AEAB, (.ld 9 2 6 .w true 0x6ab#11)),
    (0x6649A6AB, (.st 9 2 6 .w 0x6ab#11)),
    (0x6A49AAEB, (.ldAcq 9 2 6 .w true .sys 0x6b#7)),
    (0x6A49A6EB, (.stRel 9 2 6 .w .sys 0x6b#7)),
    (0x6E494C02, (.ldn 9 2 5 3 .w)),
    (0x6E494E02, (.stn 9 2 5 3 .w)),
    (0x72494FB9, (.amo 9 2 5 3 .acqrel .sys true .cas)),
    (0x74003405, (.fence 13 .sys)),
    (0x76494D00, (.watch 9 2 5 3))] : List (Nat × Instr)),
    decodeWords [e.1] = .ok e.2 ∧ encode e.2 = some [e.1] := by decide

theorem test_decode_threads : ∀ e ∈ ([
    (0x82494C00, (.spawn 9 2 5 3)),
    (0x80249801, (.fork 9 2 6)),
    (0x80242C02, (.join 9 11)),
    (0x80003403, (.exit 13)),
    (0x80003404, (.yield 13)),
    (0x80242C05, (.prio 9 11)),
    (0x83494C06, (.enq 13 2 5 3)),
    (0x80242C07, (.go 9 11)),
    (0x92419800, (.time 9 6 6)),
    (0x90249801, (.waitt 9 2 6)),
    (0x90242C02, (.waitlim 9 11))] : List (Nat × Instr)),
    decodeWords [e.1] = .ok e.2 ∧ encode e.2 = some [e.1] := by decide

theorem test_decode_semaphores_1 : ∀ e ∈ ([
    (0x842AC2AB, (.waitImm 0xab#8 0x2ab#10)),
    (0x866AC400, (.waitReg 9 0xab#8)),
    (0x842ACAAB, (.sig 0xab#8 0x2ab#10)),
    (0x866ACEAB, (.sigr 9 0xab#8 0x2ab#10)),
    (0x842AD2AB, (.semsetImm 0xab#8 0x2ab#10)),
    (0x866AD400, (.semsetReg 9 0xab#8)),
    (0x866AD800, (.semrd 9 0xab#8)),
    (0x876ADEAB, (.test 13 0xab#8 0x2ab#10)),
    (0x8A4AC2AB, (.waita 9 0x2b#6 0x2ab#10)),
    (0x888AC40D, (.testa 13 2 0x2b#6)),
    (0x8A4AC800, (.rtail 9 0x2b#6)),
    (0x8A4AC801, (.rtailGet 9 0x2b#6))] : List (Nat × Instr)),
    decodeWords [e.1] = .ok e.2 ∧ encode e.2 = some [e.1] := by decide

theorem test_decode_semaphores_2 : ∀ e ∈ ([
    (0x8A4ACC00, (.rhead 9 0x2b#6)),
    (0x8A4ACC01, (.rheadGet 9 0x2b#6)),
    (0x8A4AD000, (.ringdef 9 0x2b#6)),
    (0x8E494C0B, (.send 9 2 5 3 0xb#4)),
    (0x8E494D00, (.sendm 9 2 5 3)),
    (0x8E494E00, (.put 9 2 5 3)),
    (0x8C249B00, (.subs 9 2 6))] : List (Nat × Instr)),
    decodeWords [e.1] = .ok e.2 ∧ encode e.2 = some [e.1] := by decide

theorem test_decode_system_1 : ∀ e ∈ ([
    (0xB0242C00, (.trap 9 11)),
    (0xB0003401, (.tret 13)),
    (0xB2481802, (.ecall 9 2 6)),
    (0xB0003403, (.ebreak 13)),
    (0xB0003404, (.idle 13)),
    (0xB2481805, (.dbghalt 9 2 6)),
    (0xB642CAAB, (.csrrp 9 11 0xaab#12)),
    (0xB426EAAB, (.csrwp 9 11 0xaab#12)),
    (0xB8249800, (.tlbi 9 2 6)),
    (0xB8242C01, (.asidset 9 11)),
    (0xBA481802, (.kill 9 2 6)),
    (0xBA494C03, (.preempt 9 2 5 3))] : List (Nat × Instr)),
    decodeWords [e.1] = .ok e.2 ∧ encode e.2 = some [e.1] := by decide

theorem test_decode_system_2 : ∀ e ∈ ([
    (0xBA494C04, (.resume 9 2 5 3)),
    (0xB8242C05, (.errinj 9 11))] : List (Nat × Instr)),
    decodeWords [e.1] = .ok e.2 ∧ encode e.2 = some [e.1] := by decide

theorem test_decode_mxe : ∀ e ∈ ([
    ([0xC0009BE4, 0x21000123, 0x45670000, 0x11111111, 0x22222222, 0x14600903, 0x00000000, 0x80C00000],
      .mma ⟨3, 7, true, true, 4, 0x21, 0x123, 0x45, 0x67, false, 0, false, 0x11111111, 0x22222222, 0x14600903, 0x0, 0x80C00000⟩),
    ([0xC0011B82, 0x21000123, 0x45670000, 0x11111111, 0x22222222, 0x14000003, 0x1C000000, 0x00000000],
      .mmas ⟨3, 7, false, false, 2, 0x21, 0x123, 0x45, 0x67, false, 0, false, 0x11111111, 0x22222222, 0x14000003, 0x1C000000, 0x0⟩),
    ([0xC001FF80, 0x21000123, 0x45670000, 0x00000000, 0x00000000, 0x00008421, 0x00000000, 0x00000000],
      .aclr ⟨15, 15, false, false, 0, 0x21, 0x123, 0x45, 0x67, false, 0, false, 0x0, 0x0, 0x8421, 0x0, 0x0⟩),
    ([0xC0021F81, 0x21000123, 0x45670000, 0x11111111, 0x00000000, 0x00000129, 0x00000280, 0x00000000],
      .ald ⟨3, 15, false, false, 1, 0x21, 0x123, 0x45, 0x67, false, 0, false, 0x11111111, 0x0, 0x129, 0x280, 0x0⟩),
    ([0xC0029F85, 0x21000123, 0x45670000, 0x11111111, 0x00000000, 0x00000008, 0x00000200, 0x00000000],
      .ast ⟨3, 15, false, false, 5, 0x21, 0x123, 0x45, 0x67, false, 0, false, 0x11111111, 0x0, 0x8, 0x200, 0x0⟩),
    ([0xC0031B83, 0x21000123, 0x4567C800, 0x11111111, 0x22222222, 0x0000AA63, 0x00000040, 0xDEADBEEF],
      .acvt ⟨3, 7, false, false, 3, 0x21, 0x123, 0x45, 0x67, true, 4, true, 0x11111111, 0x22222222, 0xAA63, 0x40, 0xDEADBEEF⟩),
    ([0xC0039B83, 0x21000123, 0x45670000, 0x11111111, 0x22222222, 0x0000000B, 0x000007FF, 0x00000000],
      .achk ⟨3, 7, false, false, 3, 0x21, 0x123, 0x45, 0x67, false, 0, false, 0x11111111, 0x22222222, 0xB, 0x7FF, 0x0⟩),
    ([0xC0047F81, 0x21000123, 0x45670000, 0x00000000, 0x00000000, 0x0000210C, 0x00000000, 0x00000000],
      .msum ⟨15, 15, false, false, 1, 0x21, 0x123, 0x45, 0x67, false, 0, false, 0x0, 0x0, 0x210C, 0x0, 0x0⟩),
    ([0xC004FF84, 0x21000123, 0x45670000, 0x00000000, 0x00000000, 0x00000046, 0x00000000, 0x00000000],
      .atrn ⟨15, 15, false, false, 4, 0x21, 0x123, 0x45, 0x67, false, 0, false, 0x0, 0x0, 0x46, 0x0, 0x0⟩)] : List (List Nat × Instr)),
    decodeWords e.1 = .ok e.2 ∧ encode e.2 = some e.1 := by decide +kernel

theorem test_decode_vxe_1 : ∀ e ∈ ([
    ([0xC0809B80, 0x21000123, 0x4567B000, 0x11111111, 0x22222222, 0x80000040, 0x0040003F, 0x00000000],
      .vadd ⟨3, 7, false, false, 0, 0x21, 0x123, 0x45, 0x67, true, 3, false, 0x11111111, 0x22222222, 0x80000040, 0x40003F, 0x0⟩),
    ([0xC0811BC0, 0x21000123, 0x45670000, 0x11111111, 0x22222222, 0x00000000, 0x0832C03F, 0x00003C00],
      .vsub ⟨3, 7, true, false, 0, 0x21, 0x123, 0x45, 0x67, false, 0, false, 0x11111111, 0x22222222, 0x0, 0x832C03F, 0x3C00⟩),
    ([0xC0819B80, 0x21000123, 0x4567B000, 0x11111111, 0x22222222, 0x800000C0, 0x0040003F, 0x00000000],
      .vmul ⟨3, 7, false, false, 0, 0x21, 0x123, 0x45, 0x67, true, 3, false, 0x11111111, 0x22222222, 0x800000C0, 0x40003F, 0x0⟩),
    ([0xC0821BC0, 0x21000123, 0x45670000, 0x11111111, 0x22222222, 0x00000000, 0x0832C03F, 0x00003C00],
      .vfma ⟨3, 7, true, false, 0, 0x21, 0x123, 0x45, 0x67, false, 0, false, 0x11111111, 0x22222222, 0x0, 0x832C03F, 0x3C00⟩),
    ([0xC0829B80, 0x21000123, 0x4567B000, 0x11111111, 0x22222222, 0x80000140, 0x0040003F, 0x00000000],
      .vmax ⟨3, 7, false, false, 0, 0x21, 0x123, 0x45, 0x67, true, 3, false, 0x11111111, 0x22222222, 0x80000140, 0x40003F, 0x0⟩),
    ([0xC0831BC0, 0x21000123, 0x45670000, 0x11111111, 0x22222222, 0x00000000, 0x0832C03F, 0x00003C00],
      .vmin ⟨3, 7, true, false, 0, 0x21, 0x123, 0x45, 0x67, false, 0, false, 0x11111111, 0x22222222, 0x0, 0x832C03F, 0x3C00⟩),
    ([0xC0839B80, 0x21000123, 0x45670000, 0x11111111, 0x22222222, 0x00000000, 0x00800FFF, 0x00000000],
      .vabs ⟨3, 7, false, false, 0, 0x21, 0x123, 0x45, 0x67, false, 0, false, 0x11111111, 0x22222222, 0x0, 0x800FFF, 0x0⟩),
    ([0xC0841B80, 0x21000123, 0x45670000, 0x11111111, 0x22222222, 0x00000000, 0x08800FFF, 0x00000000],
      .vneg ⟨3, 7, false, false, 0, 0x21, 0x123, 0x45, 0x67, false, 0, false, 0x11111111, 0x22222222, 0x0, 0x8800FFF, 0x0⟩),
    ([0xC0849B80, 0x21000123, 0x45670000, 0x11111111, 0x22222222, 0x00000000, 0x10800FFF, 0x00000000],
      .vexp2 ⟨3, 7, false, false, 0, 0x21, 0x123, 0x45, 0x67, false, 0, false, 0x11111111, 0x22222222, 0x0, 0x10800FFF, 0x0⟩),
    ([0xC0851B80, 0x21000123, 0x45670000, 0x11111111, 0x22222222, 0x00000000, 0x00800FFF, 0x00000000],
      .vlog2 ⟨3, 7, false, false, 0, 0x21, 0x123, 0x45, 0x67, false, 0, false, 0x11111111, 0x22222222, 0x0, 0x800FFF, 0x0⟩),
    ([0xC0859B80, 0x21000123, 0x45670000, 0x11111111, 0x22222222, 0x00000000, 0x08800FFF, 0x00000000],
      .vrcp ⟨3, 7, false, false, 0, 0x21, 0x123, 0x45, 0x67, false, 0, false, 0x11111111, 0x22222222, 0x0, 0x8800FFF, 0x0⟩),
    ([0xC0861B80, 0x21000123, 0x45670000, 0x11111111, 0x22222222, 0x00000000, 0x10800FFF, 0x00000000],
      .vrsq ⟨3, 7, false, false, 0, 0x21, 0x123, 0x45, 0x67, false, 0, false, 0x11111111, 0x22222222, 0x0, 0x10800FFF, 0x0⟩)] : List (List Nat × Instr)),
    decodeWords e.1 = .ok e.2 ∧ encode e.2 = some e.1 := by decide +kernel

theorem test_decode_vxe_2 : ∀ e ∈ ([
    ([0xC0869B80, 0x21000123, 0x45670000, 0x11111111, 0x22222222, 0x00000000, 0x00800FFF, 0x00000000],
      .vtanh ⟨3, 7, false, false, 0, 0x21, 0x123, 0x45, 0x67, false, 0, false, 0x11111111, 0x22222222, 0x0, 0x800FFF, 0x0⟩),
    ([0xC0871B80, 0x21000123, 0x4567C000, 0x11111111, 0x22222222, 0x00001234, 0x0180001F, 0x90000000],
      .vcvt ⟨3, 7, false, false, 0, 0x21, 0x123, 0x45, 0x67, true, 4, false, 0x11111111, 0x22222222, 0x1234, 0x180001F, 0x90000000⟩),
    ([0xC0879B8F, 0x21000123, 0x45670000, 0x11111111, 0x22222222, 0xFFFFFF00, 0x0140003F, 0x00000000],
      .vcmp ⟨3, 7, false, false, 15, 0x21, 0x123, 0x45, 0x67, false, 0, false, 0x11111111, 0x22222222, 0xFFFFFF00, 0x140003F, 0x0⟩),
    ([0xC0881B81, 0x21000123, 0x45670000, 0x11111111, 0x22222222, 0x00000100, 0x1080003F, 0x80000100],
      .vsel ⟨3, 7, false, false, 1, 0x21, 0x123, 0x45, 0x67, false, 0, false, 0x11111111, 0x22222222, 0x100, 0x1080003F, 0x80000100⟩),
    ([0xC0889B84, 0x21000123, 0x45670000, 0x11111111, 0x22222222, 0x00000000, 0x2000003F, 0x00000000],
      .vred ⟨3, 7, false, false, 4, 0x21, 0x123, 0x45, 0x67, false, 0, false, 0x11111111, 0x22222222, 0x0, 0x2000003F, 0x0⟩),
    ([0xC0891B82, 0x21000123, 0x45670000, 0x11111111, 0x22222222, 0x00000000, 0x8440003F, 0x00000000],
      .vscan ⟨3, 7, false, false, 2, 0x21, 0x123, 0x45, 0x67, false, 0, false, 0x11111111, 0x22222222, 0x0, 0x8440003F, 0x0⟩),
    ([0xC0899B80, 0x21000123, 0x45670000, 0x11111111, 0x22222222, 0x00000000, 0x18C0003F, 0x00000010],
      .vtrn ⟨3, 7, false, false, 0, 0x21, 0x123, 0x45, 0x67, false, 0, false, 0x11111111, 0x22222222, 0x0, 0x18C0003F, 0x10⟩),
    ([0xC08A7B80, 0x21000123, 0x45670000, 0x00000000, 0x22222222, 0x00000000, 0x1820003F, 0x0000007F],
      .vbcst ⟨15, 7, false, false, 0, 0x21, 0x123, 0x45, 0x67, false, 0, false, 0x0, 0x22222222, 0x0, 0x1820003F, 0x7F⟩),
    ([0xC08A9B80, 0x21000123, 0x45670000, 0x11111111, 0x22222222, 0x0000004D, 0x8400003F, 0x00000000],
      .vrng ⟨3, 7, false, false, 0, 0x21, 0x123, 0x45, 0x67, false, 0, false, 0x11111111, 0x22222222, 0x4D, 0x8400003F, 0x0⟩),
    ([0xC08B1BC0, 0x21000123, 0x45670000, 0x11111111, 0x22222222, 0x00000000, 0x5AD3F00F, 0x00000000],
      .vcpy ⟨3, 7, true, false, 0, 0x21, 0x123, 0x45, 0x67, false, 0, false, 0x11111111, 0x22222222, 0x0, 0x5AD3F00F, 0x0⟩)] : List (List Nat × Instr)),
    decodeWords e.1 = .ok e.2 ∧ encode e.2 = some e.1 := by decide +kernel

theorem test_decode_gce : ∀ e ∈ ([
    ([0xC1009FC3, 0x21000123, 0x45670000, 0x11111111, 0x00000000, 0x80000040, 0x00000000, 0x37E00000],
      .copy ⟨3, 15, true, false, 3, 0x21, 0x123, 0x45, 0x67, false, 0, false, 0x11111111, 0x0, 0x80000040, 0x0, 0x37E00000⟩),
    ([0xC1011B80, 0x21000123, 0x45670000, 0x11111111, 0x22222222, 0x90000080, 0xE0000007, 0x00000000],
      .rstr ⟨3, 7, false, false, 0, 0x21, 0x123, 0x45, 0x67, false, 0, false, 0x11111111, 0x22222222, 0x90000080, 0xE0000007, 0x0⟩),
    ([0xC1019B81, 0x21000123, 0x45670000, 0x11111111, 0x22222222, 0x90000080, 0x80000008, 0x34000000],
      .prlg ⟨3, 7, false, false, 1, 0x21, 0x123, 0x45, 0x67, false, 0, false, 0x11111111, 0x22222222, 0x90000080, 0x80000008, 0x34000000⟩),
    ([0xC1021F82, 0x21000123, 0x45670000, 0x11111111, 0x00000000, 0x80000040, 0x80000004, 0x00900000],
      .gath ⟨3, 15, false, false, 2, 0x21, 0x123, 0x45, 0x67, false, 0, false, 0x11111111, 0x0, 0x80000040, 0x80000004, 0x900000⟩),
    ([0xC1029B80, 0x21000123, 0x45670000, 0x11111111, 0x22222222, 0x80000040, 0x80000004, 0x00000000],
      .scat ⟨3, 7, false, false, 0, 0x21, 0x123, 0x45, 0x67, false, 0, false, 0x11111111, 0x22222222, 0x80000040, 0x80000004, 0x0⟩),
    ([0xC1031F80, 0x21000123, 0x45670000, 0x11111111, 0x00000000, 0x80000040, 0x80000010, 0x000001FF],
      .mcast ⟨3, 15, false, false, 0, 0x21, 0x123, 0x45, 0x67, false, 0, false, 0x11111111, 0x0, 0x80000040, 0x80000010, 0x1FF⟩),
    ([0xC1039F80, 0x00000000, 0x45670000, 0x11111111, 0x00000000, 0x0000000F, 0x00000000, 0x00000000],
      .tabpin ⟨3, 15, false, false, 0, 0x0, 0x0, 0x45, 0x67, false, 0, false, 0x11111111, 0x0, 0xF, 0x0, 0x0⟩),
    ([0xC1047F80, 0x00000000, 0x45670000, 0x00000000, 0x00000000, 0x00000010, 0x00000000, 0x00000000],
      .tabinv ⟨15, 15, false, false, 0, 0x0, 0x0, 0x45, 0x67, false, 0, false, 0x0, 0x0, 0x10, 0x0, 0x0⟩)] : List (List Nat × Instr)),
    decodeWords e.1 = .ok e.2 ∧ encode e.2 = some e.1 := by decide +kernel

theorem test_decode_hod : ∀ e ∈ ([
    ([0xC1809B80, 0x21000123, 0x45670000, 0x11111111, 0x22222222, 0xBEEF002F, 0x00001234, 0x00005678],
      .hodrun ⟨3, 7, false, false, 0, 0x21, 0x123, 0x45, 0x67, false, 0, false, 0x11111111, 0x22222222, 0xBEEF002F, 0x1234, 0x5678⟩),
    ([0xC1817F80, 0x21000123, 0x45670000, 0x00000000, 0x00000000, 0xBEEF0005, 0x00000000, 0x00000000],
      .hodstop ⟨15, 15, false, false, 0, 0x21, 0x123, 0x45, 0x67, false, 0, false, 0x0, 0x0, 0xBEEF0005, 0x0, 0x0⟩)] : List (List Nat × Instr)),
    decodeWords e.1 = .ok e.2 ∧ encode e.2 = some e.1 := by decide +kernel

theorem test_decode_mni : ∀ e ∈ ([
    ([0xC200FF80, 0x00000000, 0x0A010000, 0x00000000, 0x00000000, 0x09070102, 0x00000000, 0x00000000],
      .chopen ⟨15, 15, false, false, 0, 0x0, 0x0, 0xA, 0x1, false, 0, false, 0x0, 0x0, 0x9070102, 0x0, 0x0⟩),
    ([0xC2011181, 0x00000000, 0x0B010000, 0x00000000, 0x00000000, 0x00000501, 0x00000000, 0x00000000],
      .chjoin ⟨2, 3, false, false, 1, 0x0, 0x0, 0xB, 0x1, false, 0, false, 0x0, 0x0, 0x501, 0x0, 0x0⟩),
    ([0xC2019B83, 0x21000123, 0x45670000, 0x11111111, 0x22222222, 0x00000005, 0x00000208, 0x00000000],
      .chclose ⟨3, 7, false, false, 3, 0x21, 0x123, 0x45, 0x67, false, 0, false, 0x11111111, 0x22222222, 0x5, 0x208, 0x0⟩),
    ([0xC2021F80, 0x21000123, 0x45670000, 0x11111111, 0x00000000, 0x00000006, 0x00000000, 0x00000000],
      .chstat ⟨3, 15, false, false, 0, 0x21, 0x123, 0x45, 0x67, false, 0, false, 0x11111111, 0x0, 0x6, 0x0, 0x0⟩),
    ([0xC2029F80, 0x21000123, 0x45670000, 0x11111111, 0x00000000, 0x00000000, 0x00000000, 0x00000000],
      .chevict ⟨3, 15, false, false, 0, 0x21, 0x123, 0x45, 0x67, false, 0, false, 0x11111111, 0x0, 0x0, 0x0, 0x0⟩)] : List (List Nat × Instr)),
    decodeWords e.1 = .ok e.2 ∧ encode e.2 = some e.1 := by decide +kernel

theorem test_decode_hod_commands : ∀ e ∈ ([
    (0x00000000000000001234567800000001, .hloop 0x12345678),
    (0x00000000000000000000000000000002, .hend),
    (0x000000000000FEDC0000000000000503, .hseta 5 0xFEDC),
    (0x000000000000FEDC0000000000106503, .hsetaLd 5 6 0xFEDC),
    (0xFFFFFFFFFFFFFFF80000000000001704, .hadda 7 1 0xFFFFFFFFFFFFFFF8),
    (0x00000000000004000064A43F00F00305, .hfill 3 63 41 100 15 0x400),
    (0x00000000000004000064A43F02500306, .hsfill 3 63 41 100 37 0x400),
    (0x00000000000004000064A43F00F04307, .hgath 3 4 63 41 100 15 0x400),
    (0x00000000000000000064A400ABC00008, .hwwait 41 100 0xABC),
    (0x00000000000000FF02FBBEA509900009, .hsig 0x2A5 0xBEEF 0x99 255),
    (0x0000000000000000FFFFFFFE0000000A, .hjmp 0xFFFFFFFE),
    (0x0000000000000000000000000000000B, .hnop),
    (0x0000000000000000000000000000000C, .hstop)] : List (Nat × Instr)),
    decodeHod e.1 = .ok e.2 ∧ encodeHod e.2 = some e.1 := by decide +kernel

/-! ## Terms that the checks refuse -/

/-- A bundle with all fields zero and no substitution registers, and one with addresses in fields A and B. -/
def bz : Bundle := ⟨15, 15, false, false, 0, 0, 0, 0, 0, false, 0, false, 0, 0, 0, 0, 0⟩
def ba : Bundle := { bz with substA := 3, substB := 7 }
/-- Word 6 of a VXE command: formats FS and FD and the count less one. -/
def vw (fs fd n : Nat) : BitVec 32 := BitVec.ofNat 32 (fs * 2 ^ 27 + fd * 2 ^ 22 + n)

theorem test_refused_scalar : ∀ i ∈ ([
    .cmp 1 2 3 0 .un, .cmpi 1 2 0 .ord 0, .csrr 0 0 0x00C, .csrw 0 0 0x100, .bp 0 4, .loop 0 0, .loopx 4 0,
    .fadd 0 1 2 0 .sr .f32, .fmul 0 1 2 0 .sr .f16, .ffma 0 1 2 0 .sr .bf16, .fcmp 8 1 2 0 .ltu .f32,
    .fcvt 0 1 0 0 .f64 .f32 .rne, .fcvt 0 1 0 0 .f32 .f64 .rne, .fcvt 0 1 2 0 .f32 .f16 .rne,
    .faddF64 0 1 2 0 .sr, .fmulF64 0 1 2 0 .sr, .ffmaF64 0 1 2 0 .sr, .fcmpF64 8 1 2 0 .geu,
    .fcvtF64 0 1 0 0 .f32 .f16 .rne, .fcvtF64 0 1 2 0 .f64 .f16 .rne, .ld 0 1 0 .d true 0,
    .ldAcq 0 1 0 .d true .sys 0, .amo 0 1 2 0 .none .core false .add, .amo 0 1 2 0 .none .thr true .fadd,
    .enq 7 1 2 0, .sig 4 0, .sigr 1 4 0, .test 7 4 1, .testa 7 1 2] : List Instr), wellFormed i = false := by decide

theorem test_refused_hod : ∀ i ∈ ([.hfill 0 1023 1 0 1 0, .hsfill 0 1023 1 0 8 0, .hgath 0 1 512 1 0 1 0, .hsig 0 0 0 0] :
    List Instr), wellFormed i = false := by decide

theorem test_refused_mxe : ∀ i ∈ ([
    .aclr { bz with substA := 12, w5 := 1 }, .aclr { bz with substB := 10, w5 := 1 }, .aclr { bz with rm := 1, w5 := 1 },
    .aclr { bz with satv := true, w5 := 1 }, .acvt { ba with substB := 15, rov := true, rm := 5 },
    .mma { ba with rov := true }, .mma { ba with flags := 8 }, .mma { ba with flags := 1, popA := true },
    .mma { ba with flags := 1, w5 := 0x04000000 }, .mma { ba with flags := 1, w5 := 0x4000 }, .mma { ba with flags := 2, popB := true },
    .mma { ba with flags := 2, w5 := 0x100000 }, .mma { ba with flags := 2, w5 := 0x100 }, .mma { ba with w5 := 0x10 },
    .mma { ba with w6 := 0x04000000 }, .mmas { ba with w6 := 1 }, .mmas { ba with flags := 1, w6 := 0x04000000 },
    .mma { ba with w7 := 1 }, .mma { ba with w7 := 0xBC000000 }, .mma { ba with w7 := 0x04000000 },
    .mma { ba with w7 := 0x80000000, w5 := 0x4000 }, .mma { ba with w7 := 0x80000000, w5 := 0x100 },
    .aclr bz, .aclr { bz with w5 := 0x10001 }, .aclr { bz with w5 := 1, fieldA := 1 }, .aclr { bz with w5 := 1, popB := true },
    .aclr { bz with w5 := 1, w6 := 1 }, .aclr { bz with w5 := 1, w7 := 1 }, .aclr { bz with w5 := 1, flags := 1 },
    .ald { bz with w5 := 0x50 }, .ald { bz with popA := true }, .ald { bz with w6 := 4 }, .ald { bz with flags := 4 },
    .ald { bz with flags := 4, w5 := 0xE1 }, .ald { bz with substB := 1 }, .ald { bz with flags := 2 }, .ald { bz with w7 := 1 },
    .ast { bz with w5 := 16 }, .ast { bz with flags := 4, w5 := 1 }, .ast { bz with w6 := 3 },
    .acvt { bz with w5 := 0xF0 }, .acvt { bz with w5 := 0x120 }, .acvt { bz with w5 := 0xE0 }, .acvt { bz with w6 := 12 },
    .acvt { bz with w6 := 248 }, .acvt { bz with w5 := 0x10000 }, .acvt { bz with fieldB := 1 },
    .achk { bz with w6 := 1 }, .achk { bz with substB := 1 }, .achk { bz with flags := 1, w6 := 0x800 },
    .msum { bz with w5 := 0x10 }, .msum { bz with w5 := 0x4000 }, .msum { bz with flags := 2 },
    .atrn { bz with flags := 4, w5 := 0x10 }, .atrn { bz with w5 := 0x100 }] : List Instr), wellFormed i = false := by decide +kernel

theorem test_refused_vxe : ∀ i ∈ ([
    .vadd { ba with w5 := 0x80000000, popB := true }, .vadd { ba with w5 := 0x80000000, w6 := 0x40000 },
    .vadd { ba with w5 := 0x80000000, popA := true }, .vadd { ba with w5 := 0x80000000, w6 := 0x1000 },
    .vadd { ba with w5 := 0x80000000, rov := true, rm := 4 }, .vadd { ba with w5 := 0x80000000, flags := 2 },
    .vadd { ba with w5 := 0x70000000 }, .vadd { ba with w5 := 0x80000000, w7 := 1 }, .vadd { ba with w5 := 0x80000000, w6 := vw 6 0 0 },
    .vadd { ba with w5 := 0x80000000, w6 := vw 0 0x12 0 }, .vadd { ba with w6 := vw 0xE 0xE 0 ||| 0x200000 },
    .vadd { ba with w6 := vw 3 0 0 ||| 0x200000, w7 := 0x100 }, .vadd { ba with w6 := 0x200000, w5 := 1 },
    .vadd { ba with w6 := 0x100000, flags := 1 }, .vabs { ba with w7 := 1 }, .vneg { ba with w5 := 1 },
    .vexp2 { ba with w6 := vw 3 0 0 }, .vlog2 { ba with w6 := vw 0 5 0 }, .vcvt { ba with w6 := vw 6 7 31 },
    .vcvt { ba with w6 := vw 6 0 30, w7 := 0x80000000 }, .vcvt { ba with w6 := vw 6 0 31 }, .vcvt { ba with w7 := 1 },
    .vcvt { ba with w6 := 0x200000 }, .vcmp { ba with w5 := 0x80000000, flags := 8 },
    .vcmp { ba with w5 := 0x80000000, w6 := vw 5 0 0, flags := 20 }, .vsel { ba with w5 := 0x80000000, w6 := vw 0 1 0, w7 := 0x80000000 },
    .vsel { ba with w5 := 0x80000000 }, .vsel { ba with flags := 1, w6 := 0x100000, w7 := 0x80000000 },
    .vred { ba with flags := 6 }, .vscan { ba with flags := 1 }, .vtrn { ba with w7 := 0 }, .vtrn { ba with w7 := 4097, w6 := vw 0 0 4095 },
    .vtrn { ba with w7 := 3, w6 := vw 0 0 63 }, .vtrn { ba with w7 := 1, w6 := vw 0 1 0 }, .vbcst { ba with w6 := 0x200000 },
    .vbcst { ba with w5 := 1 }, .vrng { ba with w6 := vw 0 1 0 }, .vrng { ba with w6 := vw 5 5 0 }, .vrng { ba with w6 := 0x100000 },
    .vcpy { ba with w6 := vw 0 1 0 }, .vcpy { ba with w6 := vw 0xB 0xB 7 }] : List Instr), wellFormed i = false := by decide +kernel

theorem test_refused_gce : ∀ i ∈ ([
    .copy { ba with w5 := 0x80000000, popB := true }, .copy { ba with w5 := 0x80000000, flags := 4 },
    .copy { ba with w5 := 0x80000000, w7 := 0x200 }, .copy { ba with w5 := 0x80000000, popA := true },
    .copy { ba with w5 := 0x80000000, w7 := 0x04000000 }, .copy { ba with w5 := 0x80000000, w7 := 0x100000 },
    .copy { ba with w5 := 0x80000000, flags := 2 }, .copy { ba with w5 := 0x80000004 }, .copy { ba with w5 := 0x70000000 },
    .copy { ba with w5 := 0x80000000, w6 := 1 }, .copy { ba with w5 := 0x80000000, w7 := 1 },
    .rstr { ba with w5 := 0x80000000, w6 := 0x80000004 }, .prlg { ba with w5 := 0x80000000, w6 := 0xE0000010 },
    .gath { ba with w5 := 0x80000000, w6 := 0x80000002 }, .scat { bz with w5 := 0x80000000, w6 := 0x80000000, flags := 2 },
    .mcast { bz with w5 := 0x80000000, w6 := 0x80000008 }, .mcast { ba with w5 := 0x80000000, w6 := 0x80000010 },
    .tabpin { bz with w5 := 16 }, .tabpin { bz with waitSem := 1 }, .tabpin { bz with threshold := 1 }, .tabinv { bz with w5 := 17 },
    .tabinv { bz with w5 := 32 }, .tabinv { bz with fieldA := 1 }] : List Instr), wellFormed i = false := by decide +kernel

theorem test_refused_mni : ∀ i ∈ ([
    .hodrun { ba with w5 := 48 }, .hodrun { ba with w5 := 64 }, .hodrun { ba with w5 := 0xFFFF0000 }, .hodrun { ba with popA := true },
    .hodstop { bz with w5 := 48 }, .hodstop { bz with w5 := 63 }, .hodstop { bz with w6 := 1 },
    .chopen { bz with w5 := 0x0C00, flags := 1 }, .chopen { bz with w5 := 0x100, flags := 1 }, .chopen { bz with w6 := 418, flags := 1 },
    .chopen { bz with w6 := 0x5EA, flags := 1 }, .chopen { bz with w5 := 0x0F00 }, .chopen { bz with w6 := 1 },
    .chopen { bz with w5 := 0x10 }, .chopen { bz with w7 := 1 }, .chjoin { ba with w5 := 1 }, .chjoin { ba with w5 := 0x4000 },
    .chjoin { ba with flags := 2 }, .chclose { ba with w6 := 0 }, .chclose { bz with w6 := 504 }, .chclose { bz with w6 := 516 },
    .chclose { bz with w5 := 16 }, .chstat { ba with w5 := 0 }, .chstat { bz with flags := 1 }, .chevict { bz with w5 := 1 }] :
    List Instr), wellFormed i = false := by decide +kernel

/-- Illegal words: reserved bits, unlisted majors, selectors and codes, a register above a9 (R128, R129, R132, R134). -/
theorem test_refused_words :
    decodeWords [0xFFFFFFFF] = .error .major ∧ decodeWords [0x5C000000] = .error .major ∧
    decodeWords [0x04000015] = .error .selector ∧ decodeWords [0x06800000] = .error .register ∧
    decodeWords [0x74000006] = .error .code ∧ decodeWords [0x04004013] = .error .reserved ∧
    decodeWords [0x64000800] = .error .reserved ∧ decodeWords [0xC4001000, 0] = .error .selector := by decide

/-! ## One step each, with results that the manual's tables give (R70, R157 to R161, R168 to R177) -/

/-- Register a3 and fflags of slot 4 of core 0 after an instruction on a1 = x and a2 = y with a3 = z. -/
def after (i : Instr) (x y z : Nat) : Option (Nat × Nat) :=
  match exec i (mach 0 4 (held (thr x y z 0 0))) with
  | .next u => (threadOf u 0 4).map fun t => ((regOf t 3).val.toNat, t.fflags.toNat)
  | _ => none

theorem test_results_integer : ∀ e ∈ ([
    (.div 3 1 2 0, 0x8000000000000000, 0xFFFFFFFFFFFFFFFF, 0x8000000000000000), (.rem 3 1 2 0, 0x8000000000000000, 0xFFFFFFFFFFFFFFFF, 0),
    (.div 3 1 2 0, 0xFFFFFFFFFFFFFFF9, 2, 0xFFFFFFFFFFFFFFFD), (.rem 3 1 2 0, 0xFFFFFFFFFFFFFFF9, 2, 0xFFFFFFFFFFFFFFFF),
    (.divu 3 1 2 0, 7, 0, 0xFFFFFFFFFFFFFFFF), (.remu 3 1 2 0, 7, 0, 7),
    (.mulh 3 1 2 0, 0xFFFFFFFFFFFFFFFF, 0xFFFFFFFFFFFFFFFF, 0), (.mulhu 3 1 2 0, 0xFFFFFFFFFFFFFFFF, 0xFFFFFFFFFFFFFFFF, 0xFFFFFFFFFFFFFFFE),
    (.shl 3 1 2 0, 3, 65, 6), (.clz 3 1 0, 0, 0, 0x40), (.lui 3 0 0x048D1, 0, 0, 0x12344000), (.addi 3 1 0 0x1678, 0x12344000, 0, 0x12345678)] :
    List (Instr × Nat × Nat × Nat)), after e.1 e.2.1 e.2.2.1 0 = some (e.2.2.2, 0) := by decide +kernel

theorem test_results_float : ∀ e ∈ ([
    (.fadd 3 1 2 0 .rne .f32, 0x7F7FFFFF, 0x7F7FFFFF, 0, 0x7F800000, 10), (.fadd 3 1 2 0 .rtz .f32, 0x7F7FFFFF, 0x7F7FFFFF, 0, 0x7F7FFFFF, 10),
    (.fadd 3 1 2 0 .rdn .f32, 0x3F800000, 0xBF800000, 0, 0x80000000, 0), (.ffma 3 1 2 0 .rne .f32, 0x3F800001, 0x3F7FFFFF, 0xBF800000, 0x337FFFFE, 0),
    (.fmul 3 1 2 0 .rne .f32, 0x3F800001, 0x3F7FFFFF, 0, 0x3F800000, 2), (.fmin 3 1 2 0 .f32, 0, 0x80000000, 0, 0x80000000, 0),
    (.fmin 3 1 2 0 .f32, 0x7FC00000, 0x3F800000, 0, 0x3F800000, 0), (.fcvt 3 1 0 0 .f32 .i32 .rne, 0x40200000, 0, 0, 2, 2),
    (.fcvt 3 1 0 0 .f32 .e4m3 .rne, 0x43E88000, 0, 0, 0x7F, 10)] :
    List (Instr × Nat × Nat × Nat × Nat × Nat)), after e.1 e.2.1 e.2.2.1 e.2.2.2.1 = some e.2.2.2.2 := by decide +kernel

/-- The manual's example of RND, the test vector of R72. -/
theorem test_rnd : after (.rnd 3 1 2 0) 0 0 0 = some (0xE169C58D6627E8D5, 0) := by decide +kernel

/-- The word at the PC is fetched and run: NOP moves the PC on (R147). -/
theorem test_step_nop :
    (match step (State.reset.withFetchWord 32 0x40000001) with
     | .next u => (threadOf u 0 0).map (·.pc)
     | _ => none) = (threadOf (State.reset.withFetchWord 32 0x40000001) 0 0).map (·.pc + 4) := by decide +kernel

end Sys2Proof.Tests
end

/-! FMIN (R173): the exact order of values, the cases of the operation on codes, and the instruction in every format. -/
section

namespace Sys2Proof.Machine

open Sys2Proof.Claims

/-! ## The order of exact values -/

/-- Of two values at most one is less than the other: two finite ones are compared on the same grid both ways. -/
theorem evLt_asymm {x y : EV} (h : evLt x y = true) : evLt y x = false := by
  cases x with
  | nan => cases h
  | inf s =>
    cases y with
    | nan => cases h
    | inf t => simp_all [evLt]
    | fin t n g => simp_all [evLt]
  | fin s m e =>
    cases y with
    | nan => cases h
    | inf t => simp_all [evLt]
    | fin t n g =>
      have grid : (if g < e then g else e) = if e < g then e else g := by split <;> split <;> omega
      simp only [evLt, decide_eq_true_eq] at h
      simp only [evLt, grid, decide_eq_false_iff_not, not_lt]
      exact h.le

/-! ## FMIN of two codes -/

section
variable {f : FF} {x y : Nat}

/-- A signalling NaN sets NV, whatever the code that is chosen (R69, R173). -/
theorem fpMin_flags (f : FF) (x y : Nat) :
    (fpMin f x y).2 = if f.isSnan x || f.isSnan y then 0b10000#5 else 0#5 := by
  have hnv : nvSnan f [x, y] = if f.isSnan x || f.isSnan y then 0b10000#5 else 0#5 := by simp [nvSnan, flagNV]
  rw [← hnv]
  unfold fpMin
  repeat' split
  all_goals rfl

theorem fpMin_both_nan (hx : f.isNan x = true) (hy : f.isNan y = true) : (fpMin f x y).1 = f.nan := by
  simp [fpMin, hx, hy]

theorem fpMin_left_nan (hx : f.isNan x = true) (hy : f.isNan y = false) : (fpMin f x y).1 = y := by
  simp [fpMin, hx, hy]

theorem fpMin_right_nan (hx : f.isNan x = false) (hy : f.isNan y = true) : (fpMin f x y).1 = x := by
  simp [fpMin, hx, hy]

theorem fpMin_of_lt (hx : f.isNan x = false) (hy : f.isNan y = false) (h : evLt (f.value x) (f.value y) = true) :
    (fpMin f x y).1 = x := by
  simp [fpMin, hx, hy, h]

theorem fpMin_of_gt (hx : f.isNan x = false) (hy : f.isNan y = false) (h : evLt (f.value y) (f.value x) = true) :
    (fpMin f x y).1 = y := by
  simp [fpMin, hx, hy, h, evLt_asymm h]

/-- Neither value is less: the sign of the first code decides, which puts −0 below +0. -/
theorem fpMin_of_equal (hx : f.isNan x = false) (hy : f.isNan y = false)
    (h1 : evLt (f.value x) (f.value y) = false) (h2 : evLt (f.value y) (f.value x) = false) :
    (fpMin f x y).1 = if f.sign x = true then x else y := by
  simp [fpMin, hx, hy, h1, h2]

end

/-! ## The instruction -/

/-- A floating-point operation on two registers whose guard holds and whose sources are FULL completes: rd takes the code
zero-extended, and the flags are ORed into fflags (R154, R177). -/
theorem fpTwo_ok {s c n x t} (f : FF) (d a b : Fin 10) (p : Fin 16) (g : Nat → Nat → Nat × BitVec 5)
    (hg : Guarded t p) (hf : Full t [a.val, b.val])
    (hl : LoopOk s c n t (addFlags (writeReg t d (BitVec.ofNat 64 (g (codeOf f t a) (codeOf f t b)).1))
      (g (codeOf f t a) (codeOf f t b)).2)) :
    (Ctx.mk s c n x t).fpTwo f d a b p g =
      .ok (completed s c n t (addFlags (writeReg t d (BitVec.ofNat 64 (g (codeOf f t a) (codeOf f t b)).1))
        (g (codeOf f t a) (codeOf f t b)).2) 4) := by
  unfold Ctx.fpTwo
  rw [guarded_holds _ hg]
  exact (needRegs_full _ hf).trans (done_ok hl)

/-- The rows of FMIN: the arithmetic formats on every core, FP64 in the D extension. -/
theorem minLine_eq_some {i : Instr} {f : FF} {dx : Bool} {d a b : Fin 10} {p : Fin 16}
    (h : minLine i = some (f, dx, d, a, b, p)) :
    (∃ k, i = .fmin d a b p k ∧ f = ffArith k) ∨ (i = .fminF64 d a b p ∧ f = ffF64 ∧ dx = true) := by
  unfold minLine at h
  split at h
  · cases h; exact .inl ⟨_, rfl, rfl⟩
  · cases h; exact .inr ⟨rfl, rfl, rfl⟩
  · cases h

/-- FMIN in every format is `fpMin` on the codes of its registers (R173, R176). -/
theorem exec_minLine {i : Instr} {f : FF} {dx : Bool} {d a b : Fin 10} {p : Fin 16}
    (hi : minLine i = some (f, dx, d, a, b, p)) {s : State} {c n : Nat} {x : Slot} {t : Thread} (h : At s c n x t)
    (hd : dx = true → c % 8 = 7) (hg : Guarded t p) (hf : Full t [a.val, b.val])
    (hl : LoopOk s c n t (addFlags (writeReg t d (BitVec.ofNat 64 (fpMin f (codeOf f t a) (codeOf f t b)).1))
      (fpMin f (codeOf f t a) (codeOf f t b)).2)) :
    exec i s = .next (completed s c n t
      (addFlags (writeReg t d (BitVec.ofNat 64 (fpMin f (codeOf f t a) (codeOf f t b)).1))
        (fpMin f (codeOf f t a) (codeOf f t b)).2) 4) := by
  obtain ⟨k, rfl, rfl⟩ | ⟨rfl, rfl, hdx⟩ := minLine_eq_some hi
  · change execFmin d a b p k s = _
    rw [execFmin, runInstr_at h, fpTwo_ok _ _ _ _ _ _ hg hf hl, settleBody_ok]
  · have hD : isDCore c = true := by simpa [isDCore, Config.coresPerCluster] using hd hdx
    change execFminF64 d a b p s = _
    rw [execFminF64, runInstr_at h, onD_here _ hD, fpTwo_ok _ _ _ _ _ _ hg hf hl, settleBody_ok]

/-- Settles O6: the code written is that of `fpMin`, whose cases are those of R173. -/
theorem fminResults : Obligations.FminResults := by
  intro i f dx d a b p hi s c n x t h hd hg hf y z
  refine ⟨(fpMin f y z).1, fpMin_both_nan, fpMin_left_nan, fpMin_right_nan, fun hy hz => ?_, ?_⟩
  · exact ⟨fpMin_of_lt hy hz, fpMin_of_gt hy hz, fpMin_of_equal hy hz⟩
  · rw [← fpMin_flags f y z]
    exact exec_minLine hi h hd hg hf

end Sys2Proof.Machine
end

/-! Hod registers and the window wait (R277, R279, R282): what a hod's read leaves unchanged, a command of the current program,
HSETA, HADDA and HWWAIT. -/
section

namespace Sys2Proof.Machine

open Sys2Proof.Claims

/-! ## A read of a hod keeps the current program

A read may count and log the soft errors that it meets (R345, R346), so its state can differ from the one before. -/

@[simp] theorem countSoft_hodCur (s : State) (c num : Nat) : (countSoft s c num).hodCur = s.hodCur := by
  unfold countSoft
  split <;> rfl

@[simp] theorem logSoft_hodCur (s : State) (k : Nat) : (logSoft s k).hodCur = s.hodCur := rfl

/-- A fold of steps that each keep the current program keeps it. -/
theorem foldl_hodCur {α : Type} {f : State → α → State} (hf : ∀ s a, (f s a).hodCur = s.hodCur) (l : List α) (s : State) :
    (l.foldl f s).hodCur = s.hodCur :=
  List.foldlRecOn (motive := fun u => u.hodCur = s.hodCur) l f rfl fun u hu a _ => (hf u a).trans hu

@[simp] theorem meetInjected_hodCur (s : State) (c k n : Nat) : (meetInjected s c k n).hodCur = s.hodCur :=
  foldl_hodCur (fun u _ => countSoft_hodCur u c 0x12B) _ _

@[simp] theorem eccRead_hodCur (s : State) (c k n : Nat) : (eccRead s c k n).1.hodCur = s.hodCur := by
  unfold eccRead
  dsimp only
  split
  · rfl
  · rw [foldl_hodCur (by simp), foldl_hodCur (by simp), meetInjected_hodCur]

@[simp] theorem segRead_hodCur (c : Nat) (l : List (Nat × Nat)) (s : State) : (segRead s c l).1.hodCur = s.hodCur := by
  induction l generalizing s with
  | nil => rfl
  | cons g r ih =>
    simp only [segRead, ih]
    split
    · rfl
    · exact eccRead_hodCur s c g.1 g.2

theorem hodRead_hodCur (s : State) (p : Prog) (a : Word) (n : Nat) : (hodRead s p a n).1.hodCur = s.hodCur := by
  unfold hodRead
  split
  · rfl
  · exact segRead_hodCur _ _ s

/-- Outside regions 0x0 and 0xA a hod reads nothing, and the state stays (R277, R278). -/
theorem hodRead_outside {s : State} {p : Prog} {a : Word} {n : Nat} (h : ¬(bits a.toNat 63 60 = 0 ∨ bits a.toNat 63 60 = 10)) :
    hodRead s p a n = (s, .error (2, 0)) := by
  have hs : hodSegs s p a n = .error (2, 0) := by
    unfold hodSegs
    rw [if_pos (by simpa using h)]
  rw [hodRead, hs]

/-! ## A command of the current program -/

/-- A command of a program that runs is carried out on it. -/
theorem runHod_of_runs {s : State} {p : Prog} (h : Runs s p) (f : Nat → Nat → Prog → State) :
    runHod s f = .next (f s.hodCur.1 s.hodCur.2 p) := by
  obtain ⟨hp, he⟩ := h
  simp [runHod, hp, he]

/-- The place of the current program, named in a state that keeps it. -/
theorem putProg_eq_ranOn {s u : State} (h : u.hodCur = s.hodCur) (p : Prog) :
    putProg u s.hodCur.1 s.hodCur.2 p = ranOn u p := by
  rw [ranOn, h]

/-! ## HSETA and HADDA -/

/-- HSETA with LD fails at an address that is not 8-byte aligned, before any read (R277, R282). -/
theorem exec_hsetaLd_misaligned {s : State} {p : Prog} (h : Runs s p) (a b : Fin 8) (v : Word)
    (hy : (hReg p b + v).toNat % 8 ≠ 0) : exec (.hsetaLd a b v) s = .next (ranOn s (failed p)) := by
  change execHsetaLd a b v s = _
  rw [execHsetaLd, runHod_of_runs h]
  simp only [if_pos hy]
  rfl

/-- The program after the read of an HSETA with LD: ended where the read failed, else past the command with the bytes in hA
(R277, R282). -/
def afterLoad (p : Prog) (a : Fin 8) : Except (Nat × Nat) (List Byte) → Prog
  | .error _ => failed p
  | .ok bs => { past p with h := p.h.set a (BitVec.ofNat 64 (leNat bs)) }

/-- HSETA with LD does as the read at its aligned address (R277). -/
theorem exec_hsetaLd_aligned {s s1 : State} {p : Prog} {r : Except (Nat × Nat) (List Byte)} (h : Runs s p) (a b : Fin 8)
    (v : Word) (hy : (hReg p b + v).toNat % 8 = 0) (hr : hodRead s p (hReg p b + v) 8 = (s1, r)) :
    exec (.hsetaLd a b v) s = .next (ranOn s1 (afterLoad p a r)) := by
  have hc : s1.hodCur = s.hodCur := by simpa [hr] using hodRead_hodCur s p (hReg p b + v) 8
  change execHsetaLd a b v s = _
  rw [execHsetaLd, runHod_of_runs h, ← putProg_eq_ranOn hc]
  cases r <;> simp only [hy, hr, ne_eq, not_true_eq_false, if_false] <;> rfl

/-- Settles O41: HSETA and HADDA write one register; HSETA with LD fails at a misaligned address, and else does as its read
does, which outside regions 0x0 and 0xA is an error. -/
theorem hodRegisters : Obligations.HodRegisters := by
  intro s p a b v h
  have hsum : BitVec.ofNat 64 (p.h[b].toNat + v.toNat) = hReg p b + v := rfl
  refine ⟨?_, ?_, ?_⟩
  · change execHseta a v s = _
    rw [execHseta, runHod_of_runs h]
    rfl
  · change execHadda a b v s = _
    rw [execHadda, runHod_of_runs h]
    rfl
  · rw [hsum]
    refine ⟨fun _ _ => exec_hsetaLd_aligned h a b v, fun _ _ => exec_hsetaLd_aligned h a b v, fun hbad => ?_⟩
    by_cases hy : (hReg p b + v).toNat % 8 = 0
    · exact exec_hsetaLd_aligned h a b v hy (hodRead_outside (hbad.resolve_left (not_not_intro hy)))
    · exact exec_hsetaLd_misaligned h a b v hy

/-! ## HWWAIT -/

/-- The window of a wait, in the terms of R279. -/
theorem windowHolds_iff (s : State) (cl ring n : Nat) :
    windowHolds s (cl, ring, n) = true ↔
      ((ringOf (clusterOf s cl) ring).tail - (ringOf (clusterOf s cl) ring).head).toNat + n ≤
        ringW (ringOf (clusterOf s cl) ring) :=
  decide_eq_true_iff

/-- A program at an HWWAIT starts no command while the window does not hold. -/
theorem progReady_window_closed {s : State} {q : Prog} {w : Nat × Nat × Nat} (hq : q.wwait = some w)
    (hw : windowHolds s w = false) (h k : Nat) : progReady s h (k, q) = false := by
  simp [progReady, hq, hw]

section
variable {s : State} {p : Prog} {ring : BitVec 6} {cl : BitVec 7} {m : BitVec 12}

/-- A ring that the program's ASID does not own, or a count above its W, is a program error (R282). -/
theorem exec_hwwait_refused (h : Runs s p)
    (hr : ringOwned (ringOf (clusterOf s cl.toNat) ring.toNat) p.asid = false ∨
      ringW (ringOf (clusterOf s cl.toNat) ring.toNat) < m.toNat + 1) :
    exec (.hwwait ring cl m) s = .next (ranOn s (failed p)) := by
  change execHwwait ring cl m s = _
  rw [execHwwait, runHod_of_runs h]
  dsimp only
  rw [if_pos (by simpa using hr)]
  rfl

/-- On a ring of the program's ASID with n at most W, HWWAIT goes on or waits, by the window alone (R279). -/
theorem exec_hwwait_allowed (h : Runs s p)
    (ho : ringOwned (ringOf (clusterOf s cl.toNat) ring.toNat) p.asid = true)
    (hn : m.toNat + 1 ≤ ringW (ringOf (clusterOf s cl.toNat) ring.toNat)) :
    exec (.hwwait ring cl m) s = .next (ranOn s (if windowHolds s (cl.toNat, ring.toNat, m.toNat + 1) then past p
      else { p with wwait := some (cl.toNat, ring.toNat, m.toNat + 1) })) := by
  change execHwwait ring cl m s = _
  rw [execHwwait, runHod_of_runs h]
  dsimp only
  rw [if_neg (by simpa [ho] using hn)]
  split <;> rfl

end

/-- Settles O42: the check of the ring and of n comes first, then the window decides; a waiting program is not ready while
its window does not hold. -/
theorem hodWindow : Obligations.HodWindow := by
  intro s p ring cl m h r n
  refine ⟨fun ho hn => ⟨fun hw => ?_, fun hw => ?_⟩, exec_hwwait_refused h, fun u i q hq hw k => ?_⟩
  · rw [exec_hwwait_allowed h ho hn, if_pos ((windowHolds_iff s _ _ _).mpr hw)]
  · rw [exec_hwwait_allowed h ho hn, if_neg fun hh => absurd ((windowHolds_iff s _ _ _).mp hh) (not_le.mpr hw)]
  · exact progReady_window_closed hq
      (Bool.eq_false_iff.mpr fun hh => absurd ((windowHolds_iff u _ _ _).mp hh) (not_le.mpr hw)) i k

end Sys2Proof.Machine
end

/-! The cells of a FIX chain (R296): what one contribution adds to a cell, whatever the cell holds; a row of contributions;
the bound of S and the independence of order. -/
section

namespace Sys2Proof.Machine

/-! ## A magnitude on the grid of the window -/

/-- The magnitude `m · 2^q` rounded down to an integer, and whether nothing was dropped: the grid step inside `cellAdd`. -/
def gridFloor (m : Nat) (q : Int) : Nat × Bool :=
  if 0 ≤ q then (m * 2 ^ q.toNat, true) else (m / 2 ^ (-q).toNat, m % 2 ^ (-q).toNat == 0)

theorem gridFloor_of_nonneg (m n : Nat) : gridFloor m n = (m * 2 ^ n, true) := by
  simp [gridFloor]

theorem gridFloor_of_neg (m : Nat) {n : Nat} (hn : 0 < n) : gridFloor m (-n) = (m / 2 ^ n, m % 2 ^ n == 0) := by
  simp [gridFloor, hn.ne']

theorem gridFloor_eq_floor (m : Nat) (q : Int) : ((gridFloor m q).1 : Int) = ⌊(m : ℚ) * (2 : ℚ) ^ q⌋ := by
  rcases le_or_gt 0 q with hq | hq
  · lift q to Nat using hq
    rw [gridFloor_of_nonneg, zpow_natCast]
    exact_mod_cast (Int.floor_natCast (R := ℚ) (m * 2 ^ q)).symm
  · obtain ⟨n, rfl⟩ : ∃ n : Nat, q = -n := ⟨(-q).toNat, by omega⟩
    rw [gridFloor_of_neg m (by omega), zpow_neg, zpow_natCast, ← div_eq_mul_inv]
    exact_mod_cast (Rat.floor_natCast_div_natCast m (2 ^ n)).symm

theorem gridFloor_exact_iff (m : Nat) (q : Int) :
    (gridFloor m q).2 = true ↔ (m : ℚ) * (2 : ℚ) ^ q = (gridFloor m q).1 := by
  rcases le_or_gt 0 q with hq | hq
  · lift q to Nat using hq
    simp [gridFloor_of_nonneg]
  · obtain ⟨n, rfl⟩ : ∃ n : Nat, q = -n := ⟨(-q).toNat, by omega⟩
    rw [gridFloor_of_neg m (by omega), zpow_neg, zpow_natCast, ← div_eq_mul_inv, beq_iff_eq,
      div_eq_iff (by positivity), ← Nat.dvd_iff_mod_eq_zero]
    refine ⟨fun h => by exact_mod_cast (Nat.div_mul_cancel h).symm, fun h => ?_⟩
    exact Dvd.intro_left (m / 2 ^ n) (by exact_mod_cast h.symm)

/-! ## One contribution -/

/-- What `x` adds to a cell: its integer to S, its flags to the flags. -/
def contribution (b : Int) (x : Nat) : Int × BitVec 5 := cellAdd b (0, 0#5) x

section
variable {b : Int} {x : Nat}

theorem contribution_nan (h : ffA34.value x = .nan) : contribution b x = (0, 16#5) := by
  simp [contribution, cellAdd, h, cellNan]

theorem contribution_inf {neg : Bool} (h : ffA34.value x = .inf neg) :
    contribution b x = (0, if neg then 4#5 else 8#5) := by
  simp [contribution, cellAdd, h, cellNinf, cellPinf]

/-- A finite contribution: cut to 2^86 − 1, negated by its sign; NZ unless it is −0, OUT if it was cut or rounded. -/
theorem contribution_fin {neg : Bool} {m : Nat} {e : Int} (h : ffA34.value x = .fin neg m e) :
    let g := gridFloor m (e - b)
    let w : Int := if 2 ^ 86 ≤ g.1 then 2 ^ 86 - 1 else g.1
    contribution b x = (if neg then -w else w,
      (if neg = true ∧ m = 0 then 0#5 else 2#5) ||| if 2 ^ 86 ≤ g.1 ∨ g.2 = false then 1#5 else 0#5) := by
  simp [contribution, cellAdd, h, cellNz, cellOut, gridFloor]

/-- Addition to a cell does not look at the cell: every contribution adds the same integer and ORs the same flags. -/
theorem cellAdd_eq_contribution (b : Int) (k : Int × BitVec 5) (x : Nat) :
    cellAdd b k x = (k.1 + (contribution b x).1, k.2 ||| (contribution b x).2) := by
  unfold contribution cellAdd
  split
  · simp
  · simp
  · simp [BitVec.or_assoc]

theorem contribution_natAbs_lt (b : Int) (x : Nat) : (contribution b x).1.natAbs < 2 ^ 86 := by
  cases h : ffA34.value x with
  | nan => simp [contribution_nan h]
  | inf neg => simp [contribution_inf h]
  | fin neg m e =>
    rw [contribution_fin h]
    cases neg <;> dsimp only <;> split <;> omega

/-- The integer and OUT of a finite contribution, read off its exact magnitude in units of 2^B. -/
theorem contribution_fin_exact {neg : Bool} {m : Nat} {e : Int} (h : ffA34.value x = .fin neg m e) :
    let v : ℚ := m * (2 : ℚ) ^ (e - b)
    let w : Int := if 2 ^ 86 ≤ v then 2 ^ 86 - 1 else ⌊v⌋
    contribution b x = (if neg then -w else w,
      (if neg = true ∧ m = 0 then 0#5 else 2#5) ||| if v = w then 0#5 else 1#5) := by
  intro v w
  rw [contribution_fin h]
  have hfloor : ((gridFloor m (e - b)).1 : Int) = ⌊v⌋ := gridFloor_eq_floor m (e - b)
  have hexact : (gridFloor m (e - b)).2 = true ↔ v = (gridFloor m (e - b)).1 := gridFloor_exact_iff m (e - b)
  have hsat : 2 ^ 86 ≤ (gridFloor m (e - b)).1 ↔ 2 ^ 86 ≤ v := by
    rw [← Nat.cast_le (α := Int), hfloor, Int.le_floor]
    norm_num
  by_cases hv : 2 ^ 86 ≤ v
  · have hw : w = 2 ^ 86 - 1 := if_pos hv
    have hne : v ≠ w := by
      rw [hw]
      push_cast
      linarith
    rw [if_neg hne, hw]
    simp only [hsat.mpr hv, true_or, if_true]
  · have hw : w = ⌊v⌋ := if_neg hv
    have hcast : ((gridFloor m (e - b)).1 : ℚ) = w := by
      rw [hw, ← hfloor, Int.cast_natCast]
    have hout : (gridFloor m (e - b)).2 = false ↔ ¬ v = w := by rw [← hcast, ← hexact, Bool.not_eq_true]
    simp only [hsat, hv, false_or, if_false, hout, ite_not, hfloor, hw]

end

/-! ## A row of contributions -/

theorem fixRow_append_singleton (b : Int) (cells : SMap (Int × BitVec 5)) (row : Nat) (vals : List Nat) (x : Nat) :
    fixRow b cells row (vals ++ [x]) = mapSet (fixRow b cells row vals) (64 * row + vals.length)
      (cellAdd b (mapGet (0, 0#5) (fixRow b cells row vals) (64 * row + vals.length)) x) := by
  simp [fixRow, List.zipIdx_append]

/-- A row leaves the cells past its last value as they were. -/
theorem mapGet_fixRow_past {b : Int} {cells : SMap (Int × BitVec 5)} {row j : Nat} {vals : List Nat} (h : vals.length ≤ j) :
    mapGet (0, 0#5) (fixRow b cells row vals) (64 * row + j) = mapGet (0, 0#5) cells (64 * row + j) := by
  induction vals using List.reverseRecOn with
  | nil => rfl
  | append_singleton vals y ih =>
    rw [List.length_append, List.length_singleton] at h
    rw [fixRow_append_singleton, mapGet_mapSet_other _ _ _ _ _ (by omega), ih (by omega)]

/-- A row adds each of its values to the cell of that value's column. -/
theorem mapGet_fixRow {b : Int} {cells : SMap (Int × BitVec 5)} {row j x : Nat} {vals : List Nat} (h : vals[j]? = some x) :
    mapGet (0, 0#5) (fixRow b cells row vals) (64 * row + j) = cellAdd b (mapGet (0, 0#5) cells (64 * row + j)) x := by
  induction vals using List.reverseRecOn with
  | nil => cases h
  | append_singleton vals y ih =>
    rw [fixRow_append_singleton]
    by_cases hj : j = vals.length
    · subst hj
      obtain rfl : y = x := by simpa using h
      rw [mapGet_mapSet_same, mapGet_fixRow_past le_rfl]
    · have hlt : j < vals.length := by
        have := (List.getElem?_eq_some_iff.mp h).1
        rw [List.length_append, List.length_singleton] at this
        omega
      rw [mapGet_mapSet_other _ _ _ _ _ (by omega)]
      exact ih (by rwa [List.getElem?_append_left hlt] at h)

/-! ## Many contributions -/

/-- Each contribution moves S by less than 2^86. -/
theorem foldl_cellAdd_natAbs_le (b : Int) (l : List Nat) (k : Int × BitVec 5) :
    (l.foldl (cellAdd b) k).1.natAbs ≤ k.1.natAbs + l.length * (2 ^ 86 - 1) := by
  induction l generalizing k with
  | nil => simp
  | cons x l ih =>
    have hx := contribution_natAbs_lt b x
    have hsum := Int.natAbs_add_le k.1 (contribution b x).1
    calc ((x :: l).foldl (cellAdd b) k).1.natAbs
        ≤ (k.1 + (contribution b x).1).natAbs + l.length * (2 ^ 86 - 1) := by
          simpa only [List.foldl_cons, cellAdd_eq_contribution] using ih (cellAdd b k x)
      _ ≤ k.1.natAbs + (x :: l).length * (2 ^ 86 - 1) := by
          rw [List.length_cons]
          omega

/-- Two contributions commute: integers add and flags OR in any order. -/
theorem cellAdd_right_comm (b : Int) (k : Int × BitVec 5) (x y : Nat) :
    cellAdd b (cellAdd b k x) y = cellAdd b (cellAdd b k y) x := by
  simp only [cellAdd_eq_contribution, Prod.mk.injEq]
  exact ⟨add_right_comm _ _ _, by rw [BitVec.or_assoc, BitVec.or_comm (contribution b x).2, ← BitVec.or_assoc]⟩

theorem foldl_cellAdd_perm (b : Int) (k : Int × BitVec 5) {l r : List Nat} (h : l.Perm r) :
    l.foldl (cellAdd b) k = r.foldl (cellAdd b) k :=
  have : RightCommutative (cellAdd b) := ⟨cellAdd_right_comm b⟩
  h.foldl_eq k

/-- Settles O53: a contribution adds what it adds to an empty cell, so contributions commute, and each is below 2^86. -/
theorem fixCells : Obligations.FixCells := by
  refine ⟨fun b k x => ⟨fun h => ?_, fun h => ?_, fun h => ?_, fun neg m e h => ?_⟩, fun _ => rfl,
    fun _ _ _ _ _ _ => mapGet_fixRow, fun b l hl => ?_, fun b k _ _ => foldl_cellAdd_perm b k⟩
  · simp [cellAdd_eq_contribution, contribution_nan h]
  · simp [cellAdd_eq_contribution, contribution_inf h]
  · simp [cellAdd_eq_contribution, contribution_inf h]
  · intro v w
    rw [cellAdd_eq_contribution, contribution_fin_exact h]
    exact ⟨rfl, (BitVec.or_assoc _ _ _).symm⟩
  · have hS := foldl_cellAdd_natAbs_le b l (0, 0#5)
    rw [Int.natAbs_zero] at hS
    omega

end Sys2Proof.Machine
end

/-! Device time (R396, R397): what a step does to the cycle count and to device time. -/
section

namespace Sys2Proof.Machine

/-- What happens within a cycle leaves the cycle count and device time. -/
theorem keepTime_next {s t : State} {o : Host.Outcome State Fault Refusal} (h : keepTime s o = .next t) :
    t.cycle = s.cycle ∧ t.devTime = s.devTime := by
  cases o with
  | next u => cases h; exact ⟨rfl, rfl⟩
  | fault r => cases h
  | refused r => cases h

/-- A step ends the cycle, or it keeps the cycle count and device time. -/
theorem step_time_or_tick {s t : State} (h : step s = .next t) :
    (t.cycle = s.cycle ∧ t.devTime = s.devTime) ∨ t = tick s := by
  have own : stepOwn s = .next t → (t.cycle = s.cycle ∧ t.devTime = s.devTime) ∨ t = tick s := by
    intro h
    unfold stepOwn at h
    split at h
    · exact .inl (keepTime_next h)
    · split at h
      · exact .inl (keepTime_next h)
      · cases h; exact .inr rfl
  unfold step at h
  split at h
  · split at h
    · exact .inl (keepTime_next h)
    · exact own h
  · exact own h

theorem stepTime_cycle (s : State) : (stepTime s).cycle = s.cycle := by
  unfold stepTime
  split <;> rfl

theorem stepTime_devTime (s : State) : (stepTime s).devTime = s.devTime + s.pkg.tstep := by
  unfold stepTime
  split
  · simp [*]
  · rfl

theorem stepTime_of_no_step {s : State} (h : s.pkg.tstep = 0) : stepTime s = s := by
  unfold stepTime
  rw [if_pos h]

theorem tick_cycle (s : State) : (tick s).cycle = s.cycle + 1 := stepTime_cycle _

/-- The end of a cycle advances device time by one cycle and by the forward step that has been set (R397). -/
theorem tick_devTime (s : State) : (tick s).devTime = s.devTime + 0x8000 + s.pkg.tstep := stepTime_devTime _

theorem tick_pkg_of_no_step {s : State} (h : s.pkg.tstep = 0) : (tick s).pkg = s.pkg := by
  rw [tick, stepTime_of_no_step]
  exact h

/-- Settles O25: only the end of a cycle moves device time, by at least the cycle's 0x8000 units. -/
theorem timeInvariant : Obligations.TimeInvariant := by
  intro s t h
  obtain ⟨hc, hd⟩ | rfl := step_time_or_tick h
  · exact ⟨fun hk => by simpa only [Claims.TimeKept, hc, hd] using hk, .inl ⟨hc, hd⟩⟩
  · refine ⟨fun hk => ?_, .inr ⟨tick_cycle s, tick_devTime s, tick_pkg_of_no_step⟩⟩
    simp only [Claims.TimeKept, Config.cycleUnits, tick_cycle, tick_devTime] at hk ⊢
    omega

end Sys2Proof.Machine
end

/-! Words of scalar instructions (R128 to R134): the fields of a word, the steps of the decoder that answer, and encoding as the
inverse of decoding, one lemma for each decoder of a major opcode. -/
section

namespace Sys2Proof

/-! ## Fields of a number -/

theorem bits_lt (x hi lo : Nat) : bits x hi lo < 2 ^ (hi + 1 - lo) := Nat.mod_lt _ (by positivity)

/-- A field is its upper part above its lower part. -/
theorem bits_split (x : Nat) {hi mid lo : Nat} (h1 : lo ≤ mid) (h2 : mid ≤ hi) :
    bits x hi lo = bits x hi (mid + 1) * 2 ^ (mid + 1 - lo) + bits x mid lo := by
  obtain ⟨a, rfl⟩ := Nat.exists_eq_add_of_le h1
  obtain ⟨b, rfl⟩ := Nat.exists_eq_add_of_le h2
  have hs : x / 2 ^ (lo + a + 1) = x / 2 ^ lo / 2 ^ (a + 1) := by rw [Nat.div_div_eq_div_mul, ← pow_add, add_assoc]
  simp only [bits, hs]
  rw [show lo + a + b + 1 - lo = a + 1 + b by omega, show lo + a + b + 1 - (lo + a + 1) = b by omega,
    show lo + a + 1 - lo = a + 1 by omega, pow_add 2 (a + 1) b, Nat.mod_mul]
  ring

/-- The parts of a word that the R format leaves to the opcode: the major and the func field (R128). -/
def rBase (w : Nat) : Nat := bits w 31 26 * 2 ^ 26 + bits w 9 0

/-- A word of the R format; an absent register is 0 (R128). -/
def rWord (base d a b p : Nat) : Nat := packWord base [(d, 22), (a, 18), (b, 14), (p, 10)]

/-- A word of the I format (R128). -/
def iWord (base d a p i : Nat) : Nat := packWord base [(d, 22), (a, 18), (p, 14), (i, 0)]

section
variable {w : Nat} (hw : w < 2 ^ 32)
include hw

/-- Every word has the shape of the R format. -/
theorem eq_rWord : w = rWord (rBase w) (bits w 25 22) (bits w 21 18) (bits w 17 14) (bits w 13 10) := by
  simp only [rWord, rBase, packWord, bits]
  omega

/-- Every word has the shape of the I format. -/
theorem eq_iWord : w = iWord (bits w 31 26 * 2 ^ 26) (bits w 25 22) (bits w 21 18) (bits w 17 14) (bits w 13 0) := by
  simp only [iWord, packWord, bits]
  omega

end

/-! ## Steps of the decoder that answer -/

theorem dec_bind_ok {α β : Type} {x : Dec α} {f : α → Dec β} {b : β} : x >>= f = .ok b ↔ ∃ a, x = .ok a ∧ f a = .ok b := by
  cases x <;> simp [bind, Except.bind]

theorem dec_pure_ok {α : Type} {a b : α} : (pure a : Dec α) = .ok b ↔ a = b := by simp [pure, Except.pure]

theorem decReg_ok {n : Nat} {r : Fin 10} : decReg n = .ok r ↔ n = r.val := by
  unfold decReg
  split
  · simp [Fin.ext_iff]
  · simp only [reduceCtorEq, false_iff]; omega

theorem decRsv_ok {n : Nat} {u : Unit} : decRsv n = .ok u ↔ n = 0 := by
  unfold decRsv
  split <;> simp [*]

theorem decCode_ok {α : Type} {o : Option α} {x : α} : decCode o = .ok x ↔ o = some x := by
  cases o <;> simp [decCode]

/-- A field of at most four bits as a predicate. -/
theorem decPred_bits {w hi lo : Nat} (h : hi + 1 - lo ≤ 4) : (decPred (bits w hi lo)).val = bits w hi lo :=
  Nat.mod_eq_of_lt ((bits_lt w hi lo).trans_le (Nat.pow_le_pow_right (by decide) h))

/-- A field as a bit vector of at least its width. -/
theorem toNat_bits {w hi lo n : Nat} (h : hi + 1 - lo ≤ n) : (BitVec.ofNat n (bits w hi lo)).toNat = bits w hi lo :=
  Nat.mod_eq_of_lt ((bits_lt w hi lo).trans_le (Nat.pow_le_pow_right (by decide) h))

theorem bit_zero_or_one (w n : Nat) : bits w n n = 0 ∨ bits w n n = 1 := by
  have := bits_lt w n n
  rw [Nat.add_sub_cancel_left, pow_one] at this
  omega

/-- A field of one bit as a Boolean. -/
theorem toNat_beq_bit (w n : Nat) : (bits w n n == 1).toNat = bits w n n := by
  obtain h | h := bit_zero_or_one w n <;> rw [h] <;> rfl

/-- An annotation field has two bits, and every value of it is listed (R132). -/
theorem Ann.ofCode_some {n : Nat} {c : Ann} (hn : n < 4) : Ann.ofCode n = some c ↔ n = c.code := by
  interval_cases n <;> cases c <;> decide

theorem Cc.ofCode_some {n : Nat} {c : Cc} : Cc.ofCode n = some c ↔ n = c.code := by
  refine ⟨fun h => ?_, fun h => h ▸ Cc.ofCode_code c⟩
  unfold Cc.ofCode at h
  split at h <;> cases h <;> rfl

theorem Rm.ofCode_some {n : Nat} {c : Rm} : Rm.ofCode n = some c ↔ n = c.code := by
  refine ⟨fun h => ?_, fun h => h ▸ Rm.ofCode_code c⟩
  unfold Rm.ofCode at h
  split at h <;> cases h <;> rfl

theorem AFmt.ofCode_some {n : Nat} {c : AFmt} : AFmt.ofCode n = some c ↔ n = c.code := by
  refine ⟨fun h => ?_, fun h => h ▸ AFmt.ofCode_code c⟩
  unfold AFmt.ofCode at h
  split at h <;> cases h <;> rfl

theorem CFmt.ofCode_some {n : Nat} {c : CFmt} : CFmt.ofCode n = some c ↔ n = c.code := by
  refine ⟨fun h => ?_, fun h => h ▸ CFmt.ofCode_code c⟩
  unfold CFmt.ofCode at h
  split at h <;> cases h <;> rfl

theorem Scope.ofCode_some {n : Nat} {c : Scope} : Scope.ofCode n = some c ↔ n = c.code := by
  refine ⟨fun h => ?_, fun h => h ▸ Scope.ofCode_code c⟩
  unfold Scope.ofCode at h
  split at h <;> cases h <;> rfl

theorem Sz.ofCode_some {n : Nat} {c : Sz} : Sz.ofCode n = some c ↔ n = c.code := by
  refine ⟨fun h => ?_, fun h => h ▸ Sz.ofCode_code c⟩
  unfold Sz.ofCode at h
  split at h <;> cases h <;> rfl

theorem AmoOp.ofCode_some {n : Nat} {c : AmoOp} : AmoOp.ofCode n = some c ↔ n = c.code := by
  refine ⟨fun h => ?_, fun h => h ▸ AmoOp.ofCode_code c⟩
  unfold AmoOp.ofCode at h
  split at h <;> cases h <;> rfl

end Sys2Proof
end

/-! The formats of scalar words (R128): what decodes in a format, as an equation on the word. -/
section

namespace Sys2Proof

section
variable {w : Nat} (hw : w < 2 ^ 32)
include hw

/-- The fields of a word of the R format are what it is built of. -/
theorem eq_rWord_iff {d a b p : Nat} (hd : d < 16) (ha : a < 16) (hb : b < 16) (hp : p < 16) :
    w = rWord (rBase w) d a b p ↔ bits w 25 22 = d ∧ bits w 21 18 = a ∧ bits w 17 14 = b ∧ bits w 13 10 = p := by
  constructor
  · intro h
    have h1 := bits_lt w 25 22
    have h2 := bits_lt w 21 18
    have h3 := bits_lt w 17 14
    have h4 := bits_lt w 13 10
    have e := (eq_rWord hw).symm.trans h
    simp only [rWord, packWord] at e
    omega
  · rintro ⟨rfl, rfl, rfl, rfl⟩
    exact eq_rWord hw

/-- The same of the I format. -/
theorem eq_iWord_iff {d a p j : Nat} (hd : d < 16) (ha : a < 16) (hp : p < 16) (hj : j < 2 ^ 14) :
    w = iWord (bits w 31 26 * 2 ^ 26) d a p j ↔
      bits w 25 22 = d ∧ bits w 21 18 = a ∧ bits w 17 14 = p ∧ bits w 13 0 = j := by
  constructor
  · intro h
    have h1 := bits_lt w 25 22
    have h2 := bits_lt w 21 18
    have h3 := bits_lt w 17 14
    have h4 := bits_lt w 13 0
    have e := (eq_iWord hw).symm.trans h
    simp only [iWord, packWord] at e
    omega
  · rintro ⟨rfl, rfl, rfl, rfl⟩
    exact eq_iWord hw

variable {i : Instr}

theorem decR3_ok {k : Fin 10 → Fin 10 → Fin 10 → Fin 16 → Instr} :
    decR3 w k = .ok i ↔ ∃ d a b p, w = rWord (rBase w) d.val a.val b.val p.val ∧ k d a b p = i := by
  simp only [decR3, dec_bind_ok, dec_pure_ok, decReg_ok]
  constructor
  · rintro ⟨d, hd, a, ha, b, hb, rfl⟩
    refine ⟨d, a, b, _, ?_, rfl⟩
    rw [← hd, ← ha, ← hb, decPred_bits (by decide)]
    exact eq_rWord hw
  · rintro ⟨d, a, b, p, h, rfl⟩
    obtain ⟨hd, ha, hb, hp⟩ := (eq_rWord_iff hw (by omega) (by omega) (by omega) (by omega)).mp h
    exact ⟨d, hd, a, ha, b, hb, by rw [hp]; congr; exact Fin.ofNat_val_eq_self p⟩

theorem decRda_ok {k : Fin 10 → Fin 10 → Fin 16 → Instr} :
    decRda w k = .ok i ↔ ∃ d a p, w = rWord (rBase w) d.val a.val 0 p.val ∧ k d a p = i := by
  simp only [decRda, dec_bind_ok, dec_pure_ok, decReg_ok, decRsv_ok]
  constructor
  · rintro ⟨-, hb, d, hd, a, ha, rfl⟩
    refine ⟨d, a, _, ?_, rfl⟩
    rw [← hd, ← ha, decPred_bits (by decide)]
    exact (eq_rWord hw).trans (by rw [hb])
  · rintro ⟨d, a, p, h, rfl⟩
    obtain ⟨hd, ha, hb, hp⟩ := (eq_rWord_iff hw (by omega) (by omega) (by omega) (by omega)).mp h
    exact ⟨(), hb, d, hd, a, ha, by rw [hp]; congr; exact Fin.ofNat_val_eq_self p⟩

theorem decRab_ok {k : Fin 10 → Fin 10 → Fin 16 → Instr} :
    decRab w k = .ok i ↔ ∃ a b p, w = rWord (rBase w) 0 a.val b.val p.val ∧ k a b p = i := by
  simp only [decRab, dec_bind_ok, dec_pure_ok, decReg_ok, decRsv_ok]
  constructor
  · rintro ⟨-, hd, a, ha, b, hb, rfl⟩
    refine ⟨a, b, _, ?_, rfl⟩
    rw [← ha, ← hb, decPred_bits (by decide)]
    exact (eq_rWord hw).trans (by rw [hd])
  · rintro ⟨a, b, p, h, rfl⟩
    obtain ⟨hd, ha, hb, hp⟩ := (eq_rWord_iff hw (by omega) (by omega) (by omega) (by omega)).mp h
    exact ⟨(), hd, a, ha, b, hb, by rw [hp]; congr; exact Fin.ofNat_val_eq_self p⟩

theorem decRa_ok {k : Fin 10 → Fin 16 → Instr} :
    decRa w k = .ok i ↔ ∃ a p, w = rWord (rBase w) 0 a.val 0 p.val ∧ k a p = i := by
  simp only [decRa, dec_bind_ok, dec_pure_ok, decReg_ok, decRsv_ok]
  constructor
  · rintro ⟨-, hd, -, hb, a, ha, rfl⟩
    refine ⟨a, _, ?_, rfl⟩
    rw [← ha, decPred_bits (by decide)]
    exact (eq_rWord hw).trans (by rw [hd, hb])
  · rintro ⟨a, p, h, rfl⟩
    obtain ⟨hd, ha, hb, hp⟩ := (eq_rWord_iff hw (by omega) (by omega) (by omega) (by omega)).mp h
    exact ⟨(), hd, (), hb, a, ha, by rw [hp]; congr; exact Fin.ofNat_val_eq_self p⟩

theorem decRp_ok {k : Fin 16 → Instr} : decRp w k = .ok i ↔ ∃ p, w = rWord (rBase w) 0 0 0 p.val ∧ k p = i := by
  have hs : bits w 25 14 = bits w 25 22 * 2 ^ 8 + bits w 21 18 * 2 ^ 4 + bits w 17 14 := by
    simp only [bits]
    omega
  simp only [decRp, dec_bind_ok, dec_pure_ok, decRsv_ok, hs]
  constructor
  · rintro ⟨-, h0, rfl⟩
    refine ⟨_, ?_, rfl⟩
    rw [decPred_bits (by decide)]
    exact (eq_rWord hw).trans (by rw [show bits w 25 22 = 0 by omega, show bits w 21 18 = 0 by omega,
      show bits w 17 14 = 0 by omega])
  · rintro ⟨p, h, rfl⟩
    obtain ⟨hd, ha, hb, hp⟩ := (eq_rWord_iff hw (by omega) (by omega) (by omega) (by omega)).mp h
    exact ⟨(), by omega, by rw [hp]; congr; exact Fin.ofNat_val_eq_self p⟩

theorem decRpd_ok {k : Fin 16 → Fin 10 → Fin 10 → Fin 16 → Instr} :
    decRpd w k = .ok i ↔ ∃ d a b p, w = rWord (rBase w) d.val a.val b.val p.val ∧ k d a b p = i := by
  simp only [decRpd, dec_bind_ok, dec_pure_ok, decReg_ok]
  constructor
  · rintro ⟨a, ha, b, hb, rfl⟩
    refine ⟨_, a, b, _, ?_, rfl⟩
    rw [← ha, ← hb, decPred_bits (by decide), decPred_bits (by decide)]
    exact eq_rWord hw
  · rintro ⟨d, a, b, p, h, rfl⟩
    obtain ⟨hd, ha, hb, hp⟩ := (eq_rWord_iff hw (by omega) (by omega) (by omega) (by omega)).mp h
    exact ⟨a, ha, b, hb, by rw [hd, hp]; congr <;> exact Fin.ofNat_val_eq_self _⟩

theorem decI_ok {k : Fin 10 → Fin 10 → Fin 16 → BitVec 14 → Instr} :
    decI w k = .ok i ↔ ∃ d a p j, w = iWord (bits w 31 26 * 2 ^ 26) d.val a.val p.val j.toNat ∧ k d a p j = i := by
  simp only [decI, dec_bind_ok, dec_pure_ok, decReg_ok]
  constructor
  · rintro ⟨d, hd, a, ha, rfl⟩
    refine ⟨d, a, _, _, ?_, rfl⟩
    rw [← hd, ← ha, decPred_bits (by decide), toNat_bits (by decide)]
    exact eq_iWord hw
  · rintro ⟨d, a, p, j, h, rfl⟩
    obtain ⟨hd, ha, hp, hj⟩ := (eq_iWord_iff hw (by omega) (by omega) (by omega) (by omega)).mp h
    exact ⟨d, hd, a, ha, by rw [hp, hj, BitVec.ofNat_toNat, BitVec.setWidth_eq]; congr; exact Fin.ofNat_val_eq_self p⟩

theorem decShift_ok {k : Fin 10 → Fin 10 → Fin 16 → BitVec 6 → Instr} :
    decShift w k = .ok i ↔ ∃ d a p j, w = iWord (bits w 31 26 * 2 ^ 26) d.val a.val p.val j.toNat ∧ k d a p j = i := by
  have hs : bits w 13 0 = bits w 13 6 * 2 ^ 6 + bits w 5 0 := bits_split w (by decide) (by decide)
  simp only [decShift, dec_bind_ok, dec_pure_ok, decReg_ok, decRsv_ok]
  constructor
  · rintro ⟨-, h0, d, hd, a, ha, rfl⟩
    refine ⟨d, a, _, _, ?_, rfl⟩
    rw [← hd, ← ha, decPred_bits (by decide), toNat_bits (by decide)]
    exact (eq_iWord hw).trans (by rw [hs, h0, zero_mul, zero_add])
  · rintro ⟨d, a, p, j, h, rfl⟩
    obtain ⟨hd, ha, hp, hj⟩ := (eq_iWord_iff hw (by omega) (by omega) (by omega) (by omega)).mp h
    have h5 := bits_lt w 5 0
    refine ⟨(), by omega, d, hd, a, ha, ?_⟩
    rw [hp, show bits w 5 0 = j.toNat by omega, BitVec.ofNat_toNat, BitVec.setWidth_eq]
    congr
    exact Fin.ofNat_val_eq_self p

end

end Sys2Proof
end

/-! Encoding undoes the decoding of a scalar word (R129, R134), one lemma for each decoder of a major opcode. -/
section

namespace Sys2Proof

section
variable {w m : Nat} {i : Instr}

theorem rBase_of {f : Nat} (hm : bits w 31 26 = m) (hf : bits w 9 0 = f) : rBase w = m * 2 ^ 26 + f := by rw [rBase, hm, hf]

variable (hw : w < 2 ^ 32)
include hw

/-! ## Words of the R format -/

section
variable {base : Nat} (hb : rBase w = base)
include hb

theorem r3_word {k : Fin 10 → Fin 10 → Fin 10 → Fin 16 → Instr} (h : decR3 w k = .ok i) :
    ∃ d a b p, k d a b p = i ∧ packWord base [(d.val, 22), (a.val, 18), (b.val, 14), (p.val, 10)] = w := by
  obtain ⟨d, a, b, p, e, rfl⟩ := (decR3_ok hw).mp h
  exact ⟨d, a, b, p, rfl, by rw [e, hb]; rfl⟩

theorem rpd_word {k : Fin 16 → Fin 10 → Fin 10 → Fin 16 → Instr} (h : decRpd w k = .ok i) :
    ∃ d a b p, k d a b p = i ∧ packWord base [(d.val, 22), (a.val, 18), (b.val, 14), (p.val, 10)] = w := by
  obtain ⟨d, a, b, p, e, rfl⟩ := (decRpd_ok hw).mp h
  exact ⟨d, a, b, p, rfl, by rw [e, hb]; rfl⟩

theorem rda_word {k : Fin 10 → Fin 10 → Fin 16 → Instr} (h : decRda w k = .ok i) :
    ∃ d a p, k d a p = i ∧ packWord base [(d.val, 22), (a.val, 18), (p.val, 10)] = w := by
  obtain ⟨d, a, p, e, rfl⟩ := (decRda_ok hw).mp h
  exact ⟨d, a, p, rfl, by rw [e, hb]; simp [rWord, packWord]⟩

theorem rab_word {k : Fin 10 → Fin 10 → Fin 16 → Instr} (h : decRab w k = .ok i) :
    ∃ a b p, k a b p = i ∧ packWord base [(a.val, 18), (b.val, 14), (p.val, 10)] = w := by
  obtain ⟨a, b, p, e, rfl⟩ := (decRab_ok hw).mp h
  exact ⟨a, b, p, rfl, by rw [e, hb]; simp [rWord, packWord]⟩

theorem ra_word {k : Fin 10 → Fin 16 → Instr} (h : decRa w k = .ok i) :
    ∃ a p, k a p = i ∧ packWord base [(a.val, 18), (p.val, 10)] = w := by
  obtain ⟨a, p, e, rfl⟩ := (decRa_ok hw).mp h
  exact ⟨a, p, rfl, by rw [e, hb]; simp [rWord, packWord]⟩

theorem rp_word {k : Fin 16 → Instr} (h : decRp w k = .ok i) : ∃ p, k p = i ∧ packWord base [(p.val, 10)] = w := by
  obtain ⟨p, e, rfl⟩ := (decRp_ok hw).mp h
  exact ⟨p, rfl, by rw [e, hb]; simp [rWord, packWord]⟩

end

theorem encode_decInt (hm : bits w 31 26 = 0x01) (h : decInt w = .ok i) : encodeScalar i = some w := by
  unfold decInt at h
  split at h
  iterate 19
    next hf =>
      obtain ⟨d, a, b, p, rfl, e⟩ := r3_word hw (rBase_of hm hf) h
      exact congrArg some e
  iterate 2
    next hf =>
      obtain ⟨d, a, p, rfl, e⟩ := rda_word hw (rBase_of hm hf) h
      exact congrArg some e
  cases h

theorem encode_decCmp (hm : bits w 31 26 = 0x0A) (h : decCmp w = .ok i) : encodeScalar i = some w := by
  simp only [decCmp, dec_bind_ok, decRsv_ok, decCode_ok, Cc.ofCode_some] at h
  obtain ⟨-, h0, c, hc, h⟩ := h
  have hf : bits w 9 0 = c.code := by rw [bits_split w (mid := 3) (by decide) (by decide), h0, hc, zero_mul, zero_add]
  obtain ⟨d, a, b, p, rfl, e⟩ := rpd_word hw (rBase_of hm hf) h
  refine congrArg some (Eq.trans ?_ e)
  simp only [packWord]
  omega

theorem encode_decCmpi (hm : bits w 31 26 = 0x0B) (h : decCmpi w = .ok i) : encodeScalar i = some w := by
  simp only [decCmpi, dec_bind_ok, dec_pure_ok, decReg_ok, decCode_ok, Cc.ofCode_some] at h
  obtain ⟨a, ha, c, hc, rfl⟩ := h
  refine congrArg some (Eq.trans ?_ (eq_rWord hw).symm)
  simp only [packWord, rWord, rBase, hm, decPred_bits (w := w) (show 25 + 1 - 22 ≤ 4 by decide),
    decPred_bits (w := w) (show 17 + 1 - 14 ≤ 4 by decide), toNat_bits (w := w) (show 9 + 1 - 0 ≤ 10 by decide)]
  omega

theorem encode_decPlogic (hm : bits w 31 26 = 0x0C) (h : decPlogic w = .ok i) : encodeScalar i = some w := by
  have e := eq_rWord hw
  unfold decPlogic at h
  split at h
  iterate 3
    next hf =>
      cases h
      refine congrArg some (Eq.trans ?_ e.symm)
      simp (disch := decide) only [packWord, rWord, rBase_of hm hf, decPred_bits]
      omega
  iterate 2
    next hf =>
      simp only [dec_bind_ok, dec_pure_ok, decRsv_ok] at h
      obtain ⟨-, h0, rfl⟩ := h
      refine congrArg some (Eq.trans ?_ e.symm)
      simp (disch := decide) only [packWord, rWord, rBase_of hm hf, decPred_bits]
      omega
  cases h

theorem encode_decSel (hm : bits w 31 26 = 0x0D) (h : decSel w = .ok i) : encodeScalar i = some w := by
  simp only [decSel, dec_bind_ok, decRsv_ok] at h
  obtain ⟨-, h0, h⟩ := h
  have hf : bits w 9 0 = (decPred (bits w 3 0)).val := by
    rw [bits_split w (mid := 3) (by decide) (by decide), h0, zero_mul, zero_add, decPred_bits (by decide)]
  obtain ⟨d, a, b, p, rfl, e⟩ := r3_word hw (rBase_of hm hf) h
  refine congrArg some (Eq.trans ?_ e)
  simp only [packWord]
  omega

theorem encode_decRnd (hm : bits w 31 26 = 0x0E) (h : decRnd w = .ok i) : encodeScalar i = some w := by
  unfold decRnd at h
  split at h
  next hf =>
    obtain ⟨d, a, b, p, rfl, e⟩ := r3_word hw (rBase_of hm hf) h
    exact congrArg some e
  next hf =>
    simp only [dec_bind_ok, dec_pure_ok, decRsv_ok, decReg_ok] at h
    obtain ⟨-, h0, d, hd, rfl⟩ := h
    have hs : bits w 21 14 = bits w 21 18 * 2 ^ 4 + bits w 17 14 := bits_split w (by decide) (by decide)
    refine congrArg some (Eq.trans ?_ (eq_rWord hw).symm)
    simp (disch := decide) only [packWord, rWord, rBase_of hm hf, decPred_bits]
    omega
  · cases h

theorem encode_decAmo (hm : bits w 31 26 = 0x1C) (h : decAmo w = .ok i) : encodeScalar i = some w := by
  simp only [decAmo, dec_bind_ok, decCode_ok, Ann.ofCode_some (bits_lt w 9 8), Scope.ofCode_some, AmoOp.ofCode_some] at h
  obtain ⟨n, hn, c, hc, o, ho, h⟩ := h
  have hx := toNat_beq_bit w 4
  generalize (bits w 4 4 == 1) = x at h hx
  have hf : bits w 9 0 = n.code * 2 ^ 8 + (c.code * 2 ^ 5 + (x.toNat * 2 ^ 4 + o.code)) := by
    rw [bits_split w (mid := 7) (by decide) (by decide), bits_split w (mid := 4) (hi := 7) (by decide) (by decide),
      bits_split w (mid := 3) (hi := 4) (by decide) (by decide), hn, hc, ho, hx]
  obtain ⟨d, a, b, p, rfl, e⟩ := r3_word hw (rBase_of hm hf) h
  refine congrArg some (Eq.trans ?_ e)
  simp only [packWord]
  omega

theorem encode_decMemN (hm : bits w 31 26 = 0x1B) (h : decMemN w = .ok i) : encodeScalar i = some w := by
  simp only [decMemN, dec_bind_ok, decRsv_ok, decCode_ok, Sz.ofCode_some] at h
  obtain ⟨-, h0, z, hz, h⟩ := h
  have hf : bits w 9 0 = bits w 9 9 * 2 ^ 9 + z.code := by
    rw [bits_split w (mid := 8) (by decide) (by decide), bits_split w (mid := 1) (hi := 8) (by decide) (by decide), h0, hz,
      zero_mul, zero_add]
  obtain ⟨d, a, b, p, rfl, e⟩ := r3_word hw (rBase_of hm hf) h
  refine Eq.trans ?_ (congrArg some e)
  obtain hb | hb := bit_zero_or_one w 9
  · rw [if_pos hb]
    refine congrArg some ?_
    simp only [packWord]
    omega
  · rw [if_neg (by omega)]
    refine congrArg some ?_
    simp only [packWord]
    omega

theorem encode_decFence (hm : bits w 31 26 = 0x1D) (h : decFence w = .ok i) : encodeScalar i = some w := by
  unfold decFence at h
  split at h
  next h0 =>
    simp only [dec_bind_ok, decRsv_ok, decCode_ok, Scope.ofCode_some] at h
    obtain ⟨-, h1, c, hc, h⟩ := h
    have hf : bits w 9 0 = c.code := by
      rw [bits_split w (mid := 7) (by decide) (by decide), bits_split w (mid := 2) (hi := 7) (by decide) (by decide), h0, h1,
        hc]
      omega
    obtain ⟨p, rfl, e⟩ := rp_word hw (rBase_of hm hf) h
    refine congrArg some (Eq.trans ?_ e)
    simp only [packWord]
    omega
  split at h
  next hf =>
    obtain ⟨d, a, b, p, rfl, e⟩ := r3_word hw (rBase_of hm hf) h
    exact congrArg some e
  · cases h

theorem encode_decThread (hm : bits w 31 26 = 0x20) (h : decThread w = .ok i) : encodeScalar i = some w := by
  unfold decThread at h
  split at h
  next hf => obtain ⟨d, a, b, p, rfl, e⟩ := r3_word hw (rBase_of hm hf) h; exact congrArg some e
  next hf => obtain ⟨a, b, p, rfl, e⟩ := rab_word hw (rBase_of hm hf) h; exact congrArg some e
  next hf => obtain ⟨a, p, rfl, e⟩ := ra_word hw (rBase_of hm hf) h; exact congrArg some e
  iterate 2 next hf => obtain ⟨p, rfl, e⟩ := rp_word hw (rBase_of hm hf) h; exact congrArg some e
  next hf => obtain ⟨a, p, rfl, e⟩ := ra_word hw (rBase_of hm hf) h; exact congrArg some e
  next hf => obtain ⟨d, a, b, p, rfl, e⟩ := rpd_word hw (rBase_of hm hf) h; exact congrArg some e
  next hf => obtain ⟨a, p, rfl, e⟩ := ra_word hw (rBase_of hm hf) h; exact congrArg some e
  cases h

theorem encode_decMsg (hm : bits w 31 26 = 0x23) (h : decMsg w = .ok i) : encodeScalar i = some w := by
  simp only [decMsg, dec_bind_ok, decRsv_ok] at h
  obtain ⟨-, h0, h⟩ := h
  have hs : bits w 9 0 = bits w 9 8 * 2 ^ 8 + bits w 3 0 := by
    rw [bits_split w (mid := 7) (by decide) (by decide), bits_split w (mid := 3) (hi := 7) (by decide) (by decide), h0,
      zero_mul, zero_add]
  split at h
  next hf =>
    rw [hf] at hs
    obtain ⟨d, a, b, p, rfl, e⟩ := r3_word hw (rBase_of hm hs) h
    refine congrArg some (Eq.trans ?_ e)
    simp (disch := decide) only [packWord, toNat_bits]
    omega
  iterate 2
    next hf =>
      simp only [dec_bind_ok, decRsv_ok] at h
      obtain ⟨-, h1, h⟩ := h
      rw [hf, h1] at hs
      obtain ⟨d, a, b, p, rfl, e⟩ := r3_word hw (rBase_of hm hs) h
      exact congrArg some e
  next h1 h2 h3 =>
    simp only [dec_bind_ok, decRsv_ok] at h
    obtain ⟨-, h4, h⟩ := h
    have hlt : bits w 9 8 < 2 ^ 2 := bits_lt w 9 8
    have h5 : bits w 9 8 = 3 := by
      change _ ≠ _ at h1 h2 h3
      omega
    rw [h5, h4] at hs
    obtain ⟨a, b, p, rfl, e⟩ := rab_word hw (rBase_of hm hs) h
    exact congrArg some e

theorem encode_decTime (hm : bits w 31 26 = 0x24) (h : decTime w = .ok i) : encodeScalar i = some w := by
  unfold decTime at h
  split at h
  next hf =>
    simp only [dec_bind_ok, dec_pure_ok, decRsv_ok, decReg_ok] at h
    obtain ⟨-, h0, d, hd, f, hg, rfl⟩ := h
    refine congrArg some (Eq.trans ?_ (eq_rWord hw).symm)
    simp (disch := decide) only [packWord, rWord, rBase_of hm hf, decPred_bits]
    omega
  next hf => obtain ⟨a, b, p, rfl, e⟩ := rab_word hw (rBase_of hm hf) h; exact congrArg some e
  next hf => obtain ⟨a, p, rfl, e⟩ := ra_word hw (rBase_of hm hf) h; exact congrArg some e
  cases h

theorem encode_decTrap (hm : bits w 31 26 = 0x2C) (h : decTrap w = .ok i) : encodeScalar i = some w := by
  unfold decTrap at h
  split at h
  next hf => obtain ⟨a, p, rfl, e⟩ := ra_word hw (rBase_of hm hf) h; exact congrArg some e
  next hf => obtain ⟨p, rfl, e⟩ := rp_word hw (rBase_of hm hf) h; exact congrArg some e
  next hf => obtain ⟨d, a, p, rfl, e⟩ := rda_word hw (rBase_of hm hf) h; exact congrArg some e
  iterate 2 next hf => obtain ⟨p, rfl, e⟩ := rp_word hw (rBase_of hm hf) h; exact congrArg some e
  next hf => obtain ⟨d, a, p, rfl, e⟩ := rda_word hw (rBase_of hm hf) h; exact congrArg some e
  cases h

theorem encode_decPriv (hm : bits w 31 26 = 0x2E) (h : decPriv w = .ok i) : encodeScalar i = some w := by
  unfold decPriv at h
  split at h
  next hf => obtain ⟨a, b, p, rfl, e⟩ := rab_word hw (rBase_of hm hf) h; exact congrArg some e
  next hf => obtain ⟨a, p, rfl, e⟩ := ra_word hw (rBase_of hm hf) h; exact congrArg some e
  next hf => obtain ⟨d, a, p, rfl, e⟩ := rda_word hw (rBase_of hm hf) h; exact congrArg some e
  iterate 2 next hf => obtain ⟨d, a, b, p, rfl, e⟩ := r3_word hw (rBase_of hm hf) h; exact congrArg some e
  next hf => obtain ⟨a, p, rfl, e⟩ := ra_word hw (rBase_of hm hf) h; exact congrArg some e
  cases h

/-! ## Floating point -/

theorem encode_decFarith (hm : bits w 31 26 = 0x28) (h : decFarith w false = .ok i) : encodeScalar i = some w := by
  simp only [decFarith, dec_bind_ok, decRsv_ok, decCode_ok, Rm.ofCode_some, AFmt.ofCode_some, Bool.false_eq_true, if_false] at h
  obtain ⟨-, h0, r, hr, f, hg, h⟩ := h
  have hs : bits w 9 0 = bits w 9 7 * 2 ^ 7 + (r.code * 2 ^ 4 + f.code * 2 ^ 2) := by
    rw [bits_split w (mid := 6) (by decide) (by decide), bits_split w (mid := 3) (hi := 6) (by decide) (by decide),
      bits_split w (mid := 1) (hi := 3) (by decide) (by decide), h0, hr, hg, add_zero]
  split at h
  iterate 3
    next hf =>
      rw [hf] at hs
      obtain ⟨d, a, b, p, rfl, e⟩ := r3_word hw (rBase_of hm hs) h
      refine congrArg some (Eq.trans ?_ e)
      simp only [packWord]
      omega
  next hf =>
    simp only [dec_bind_ok, decRsv_ok] at h
    obtain ⟨-, h1, h⟩ := h
    rw [hf, ← hr, h1] at hs
    obtain ⟨d, a, b, p, rfl, e⟩ := r3_word hw (rBase_of hm hs) h
    refine congrArg some (Eq.trans ?_ e)
    simp only [packWord]
    omega
  cases h

theorem encode_decFarith_f64 (hm : bits w 31 26 = 0x2A) (h : decFarith w true = .ok i) : encodeScalar i = some w := by
  simp only [decFarith, dec_bind_ok, decRsv_ok, decCode_ok, Rm.ofCode_some, if_true] at h
  obtain ⟨-, h0, r, hr, h⟩ := h
  split at h
  next hg =>
    have hs : bits w 9 0 = bits w 9 7 * 2 ^ 7 + r.code * 2 ^ 4 := by
      rw [bits_split w (mid := 6) (by decide) (by decide), bits_split w (mid := 3) (hi := 6) (by decide) (by decide),
        bits_split w (mid := 1) (hi := 3) (by decide) (by decide), h0, hr, hg, zero_mul, add_zero, add_zero]
    split at h
    iterate 3
      next hf =>
        rw [hf] at hs
        obtain ⟨d, a, b, p, rfl, e⟩ := r3_word hw (rBase_of hm hs) h
        refine congrArg some (Eq.trans ?_ e)
        simp only [packWord]
        omega
    next hf =>
      simp only [dec_bind_ok, decRsv_ok] at h
      obtain ⟨-, h1, h⟩ := h
      rw [hf, ← hr, h1] at hs
      obtain ⟨d, a, b, p, rfl, e⟩ := r3_word hw (rBase_of hm hs) h
      exact congrArg some e
    · cases h
  · cases h

/-- The func field of a compare and of a conversion (R174, R175). -/
theorem encode_decFcmp (hm : bits w 31 26 = 0x29) (h : decFcmp w false = .ok i) : encodeScalar i = some w := by
  unfold decFcmp at h
  split at h
  next hb =>
    simp only [dec_bind_ok, decRsv_ok, decCode_ok, Cc.ofCode_some, AFmt.ofCode_some, Bool.false_eq_true, if_false] at h
    obtain ⟨-, h0, c, hc, f, hg, h⟩ := h
    have hs : bits w 9 0 = c.code * 2 ^ 5 + f.code * 2 ^ 3 := by
      rw [bits_split w (mid := 8) (by decide) (by decide), bits_split w (mid := 4) (hi := 8) (by decide) (by decide),
        bits_split w (mid := 2) (hi := 4) (by decide) (by decide), hb, h0, hc, hg, zero_mul, zero_add, add_zero]
    obtain ⟨d, a, b, p, rfl, e⟩ := rpd_word hw (rBase_of hm hs) h
    refine congrArg some (Eq.trans ?_ e)
    simp only [packWord]
    omega
  next hb =>
    simp only [dec_bind_ok, decCode_ok, CFmt.ofCode_some, Rm.ofCode_some, Bool.false_eq_true, if_false] at h
    obtain ⟨f, hg, t, ht, r, hr, h⟩ := h
    have hs : bits w 9 0 = 2 ^ 9 + (f.code * 2 ^ 6 + (t.code * 2 ^ 3 + r.code)) := by
      rw [bits_split w (mid := 8) (by decide) (by decide), bits_split w (mid := 5) (hi := 8) (by decide) (by decide),
        bits_split w (mid := 2) (hi := 5) (by decide) (by decide), (bit_zero_or_one w 9).resolve_left hb, hg, ht, hr, one_mul]
    obtain ⟨d, a, b, p, rfl, e⟩ := r3_word hw (rBase_of hm hs) h
    refine congrArg some (Eq.trans ?_ e)
    simp only [packWord]
    omega

theorem encode_decFcmp_f64 (hm : bits w 31 26 = 0x2B) (h : decFcmp w true = .ok i) : encodeScalar i = some w := by
  unfold decFcmp at h
  split at h
  next hb =>
    simp only [dec_bind_ok, decRsv_ok, decCode_ok, Cc.ofCode_some, if_true] at h
    obtain ⟨-, h0, c, hc, h⟩ := h
    split at h
    next hg =>
      have hs : bits w 9 0 = c.code * 2 ^ 5 := by
        rw [bits_split w (mid := 8) (by decide) (by decide), bits_split w (mid := 4) (hi := 8) (by decide) (by decide),
          bits_split w (mid := 2) (hi := 4) (by decide) (by decide), hb, h0, hc, hg, zero_mul, zero_mul, zero_add, add_zero,
          add_zero]
      obtain ⟨d, a, b, p, rfl, e⟩ := rpd_word hw (rBase_of hm hs) h
      refine congrArg some (Eq.trans ?_ e)
      simp only [packWord]
      omega
    · cases h
  next hb =>
    simp only [dec_bind_ok, decCode_ok, CFmt.ofCode_some, Rm.ofCode_some, if_true] at h
    obtain ⟨f, hg, t, ht, r, hr, h⟩ := h
    have hs : bits w 9 0 = 2 ^ 9 + (f.code * 2 ^ 6 + (t.code * 2 ^ 3 + r.code)) := by
      rw [bits_split w (mid := 8) (by decide) (by decide), bits_split w (mid := 5) (hi := 8) (by decide) (by decide),
        bits_split w (mid := 2) (hi := 5) (by decide) (by decide), (bit_zero_or_one w 9).resolve_left hb, hg, ht, hr, one_mul]
    obtain ⟨d, a, b, p, rfl, e⟩ := r3_word hw (rBase_of hm hs) h
    refine congrArg some (Eq.trans ?_ e)
    simp only [packWord]
    omega

end

end Sys2Proof
end

/-! Encoding undoes the decoding of a scalar word (R129, R134): the majors with other formats, and every major. -/
section

namespace Sys2Proof

section
variable {w : Nat} {i : Instr} (hw : w < 2 ^ 32)
include hw

theorem i_word {m base : Nat} (hm : bits w 31 26 = m) (hb : m * 2 ^ 26 = base)
    {k : Fin 10 → Fin 10 → Fin 16 → BitVec 14 → Instr} (h : decI w k = .ok i) :
    ∃ d a p j, k d a p j = i ∧ packWord base [(d.val, 22), (a.val, 18), (p.val, 14), (j.toNat, 0)] = w := by
  obtain ⟨d, a, p, j, e, rfl⟩ := (decI_ok hw).mp h
  exact ⟨d, a, p, j, rfl, by rw [e, hm, hb]; rfl⟩

theorem shift_word {m base : Nat} (hm : bits w 31 26 = m) (hb : m * 2 ^ 26 = base)
    {k : Fin 10 → Fin 10 → Fin 16 → BitVec 6 → Instr} (h : decShift w k = .ok i) :
    ∃ d a p j, k d a p j = i ∧ packWord base [(d.val, 22), (a.val, 18), (p.val, 14), (j.toNat, 0)] = w := by
  obtain ⟨d, a, p, j, e, rfl⟩ := (decShift_ok hw).mp h
  exact ⟨d, a, p, j, rfl, by rw [e, hm, hb]; rfl⟩

theorem csr_word {m : Nat} (hm : bits w 31 26 = m) {r u : Fin 10 → Fin 16 → BitVec 12 → Instr} (h : decCsr w r u = .ok i) :
    (∃ d p c, r d p c = i ∧ packWord (m * 2 ^ 26) [(d.val, 22), (p.val, 14), (c.toNat, 0)] = w) ∨
      ∃ a p c, u a p c = i ∧ packWord (m * 2 ^ 26 + 0x2000) [(a.val, 18), (p.val, 14), (c.toNat, 0)] = w := by
  have e := eq_iWord hw
  simp only [decCsr, dec_bind_ok, decRsv_ok] at h
  obtain ⟨-, h0, h⟩ := h
  have hs : bits w 13 0 = bits w 13 13 * 2 ^ 13 + (bits w 12 12 * 2 ^ 12 + bits w 11 0) := by
    simp only [bits]
    omega
  split at h
  next hb =>
    simp only [dec_bind_ok, dec_pure_ok, decRsv_ok, decReg_ok] at h
    obtain ⟨-, h1, d, hd, rfl⟩ := h
    refine .inl ⟨d, _, _, rfl, Eq.trans ?_ e.symm⟩
    simp (disch := decide) only [packWord, iWord, decPred_bits, toNat_bits, hm]
    omega
  next hb =>
    have hb1 := (bit_zero_or_one w 13).resolve_left hb
    simp only [dec_bind_ok, dec_pure_ok, decRsv_ok, decReg_ok] at h
    obtain ⟨-, h1, a, ha, rfl⟩ := h
    refine .inr ⟨a, _, _, rfl, Eq.trans ?_ e.symm⟩
    simp (disch := decide) only [packWord, iWord, decPred_bits, toNat_bits, hm]
    omega

theorem encode_decLui (hm : bits w 31 26 = 0x09)
    (h : (do let d ← decReg (bits w 25 22); return .lui d (decPred (bits w 21 18)) (BitVec.ofNat 18 (bits w 17 0)) : Dec Instr) =
      .ok i) : encodeScalar i = some w := by
  have hs : bits w 17 0 = bits w 17 14 * 2 ^ 14 + bits w 13 0 := bits_split w (by decide) (by decide)
  simp only [dec_bind_ok, dec_pure_ok, decReg_ok] at h
  obtain ⟨d, hd, rfl⟩ := h
  refine congrArg some (Eq.trans ?_ (eq_iWord hw).symm)
  simp (disch := decide) only [packWord, iWord, decPred_bits, toNat_bits, hm]
  omega

theorem encode_decCall (hm : bits w 31 26 = 0x12)
    (h : (do let d ← decReg (bits w 25 22); return .call d (BitVec.ofNat 22 (bits w 21 0)) : Dec Instr) = .ok i) :
    encodeScalar i = some w := by
  have hs : bits w 21 0 = bits w 21 18 * 2 ^ 18 + bits w 17 0 := bits_split w (by decide) (by decide)
  have hs' : bits w 17 0 = bits w 17 14 * 2 ^ 14 + bits w 13 0 := bits_split w (by decide) (by decide)
  simp only [dec_bind_ok, dec_pure_ok, decReg_ok] at h
  obtain ⟨d, hd, rfl⟩ := h
  refine congrArg some (Eq.trans ?_ (eq_iWord hw).symm)
  simp (disch := decide) only [packWord, iWord, toNat_bits, hm]
  omega

/-- A word of the B format: bits 25 to 22, the bit N and the offset (R128). -/
theorem eq_branchWord :
    w = packWord (bits w 31 26 * 2 ^ 26 + bits w 21 21 * 2 ^ 21) [(bits w 25 22, 22), (bits w 20 0, 0)] := by
  simp only [packWord, bits]
  omega

theorem encode_decBranch (hm : bits w 31 26 = 0x10) (h : decBranch w false = .ok i) : encodeScalar i = some w := by
  have e := eq_branchWord hw
  have hp := decPred_bits (w := w) (show 25 + 1 - 22 ≤ 4 by decide)
  simp only [decBranch, Bool.false_eq_true, if_false] at h
  obtain hn | hn := bit_zero_or_one w 21
  · rw [hm, hn] at e
    rw [if_pos hn] at h
    split at h
    next h0 =>
      cases h
      rw [h0] at hp
      refine congrArg some (Eq.trans ?_ e.symm)
      simp (disch := decide) only [packWord, toNat_bits, ← hp, Fin.val_zero]
      omega
    · cases h
      refine congrArg some (Eq.trans ?_ e.symm)
      simp (disch := decide) only [packWord, toNat_bits, hp]
      omega
  · rw [hm, hn] at e
    rw [if_neg (by omega)] at h
    cases h
    refine congrArg some (Eq.trans ?_ e.symm)
    simp (disch := decide) only [packWord, toNat_bits, hp]
    omega

theorem encode_decBranch_tag (hm : bits w 31 26 = 0x11) (h : decBranch w true = .ok i) : encodeScalar i = some w := by
  have e := eq_branchWord hw
  simp only [decBranch, if_true] at h
  obtain hn | hn := bit_zero_or_one w 21
  · rw [hm, hn] at e
    rw [if_pos hn] at h
    cases h
    refine congrArg some (Eq.trans ?_ e.symm)
    simp (disch := decide) only [packWord, toNat_bits]
    omega
  · rw [hm, hn] at e
    rw [if_neg (by omega)] at h
    cases h
    refine congrArg some (Eq.trans ?_ e.symm)
    simp (disch := decide) only [packWord, toNat_bits]
    omega

theorem encode_decJump (hm : bits w 31 26 = 0x13) (h : decJump w false = .ok i) : encodeScalar i = some w := by
  simp only [decJump, dec_bind_ok, dec_pure_ok, decReg_ok, decRsv_ok, Bool.false_eq_true, if_false] at h
  obtain ⟨-, h0, a, ha, rfl⟩ := h
  refine congrArg some (Eq.trans ?_ (eq_iWord hw).symm)
  simp (disch := decide) only [packWord, iWord, decPred_bits, toNat_bits, hm]
  omega

theorem encode_decJump_ret (hm : bits w 31 26 = 0x14) (h : decJump w true = .ok i) : encodeScalar i = some w := by
  simp only [decJump, dec_bind_ok, dec_pure_ok, decReg_ok, decRsv_ok, if_true] at h
  obtain ⟨-, h0, a, ha, -, h1, rfl⟩ := h
  refine congrArg some (Eq.trans ?_ (eq_iWord hw).symm)
  simp (disch := decide) only [packWord, iWord, decPred_bits, hm]
  omega

/-- A word of the L format (R128, R168). -/
theorem eq_loopWord : w = packWord (bits w 31 26 * 2 ^ 26) [(bits w 25 16, 16), (bits w 15 0, 0)] := by
  simp only [packWord, bits]
  omega

theorem encode_decLoop (hm : bits w 31 26 = 0x15) (h : decLoop w = .ok i) : encodeScalar i = some w := by
  have e := eq_loopWord hw
  have hs : bits w 25 16 = bits w 25 22 * 2 ^ 6 + bits w 21 16 := bits_split w (by decide) (by decide)
  simp only [decLoop, dec_bind_ok, dec_pure_ok, decReg_ok, decRsv_ok] at h
  obtain ⟨-, h0, a, ha, rfl⟩ := h
  refine congrArg some (Eq.trans ?_ e.symm)
  simp (disch := decide) only [packWord, toNat_bits, hm]
  omega

theorem encode_decLoopx (hm : bits w 31 26 = 0x16) :
    encodeScalar (.loopx (BitVec.ofNat 10 (bits w 25 16)) (BitVec.ofNat 16 (bits w 15 0))) = some w := by
  refine congrArg some (Eq.trans ?_ (eq_loopWord hw).symm)
  simp (disch := decide) only [packWord, toNat_bits, hm]
  omega

/-! ## Loads and stores -/

omit hw in
/-- The immediate part of a load or store: size, the bit X, offset (R186, R189). -/
theorem mem_immediate (w : Nat) : bits w 13 0 = bits w 13 12 * 2 ^ 12 + (bits w 11 11 * 2 ^ 11 + bits w 10 0) := by
  simp only [bits]
  omega

omit hw in
/-- The same with acquire or release, and the scope (R189). -/
theorem memA_immediate (w : Nat) : bits w 13 0 =
    bits w 13 12 * 2 ^ 12 + (bits w 11 11 * 2 ^ 11 + (bits w 10 10 * 2 ^ 10 + (bits w 9 7 * 2 ^ 7 + bits w 6 0))) := by
  simp only [bits]
  omega

theorem encode_decMem (hm : bits w 31 26 = 0x18) (h : decMem w false = .ok i) : encodeScalar i = some w := by
  have hs := mem_immediate w
  have hx := toNat_beq_bit w 11
  simp only [decMem, dec_bind_ok, dec_pure_ok, decReg_ok, decCode_ok, Sz.ofCode_some, Bool.false_eq_true, if_false] at h
  obtain ⟨d, hd, a, ha, z, hz, rfl⟩ := h
  refine congrArg some (Eq.trans ?_ (eq_iWord hw).symm)
  simp (disch := decide) only [packWord, iWord, decPred_bits, toNat_bits, hm]
  omega

theorem encode_decMem_store (hm : bits w 31 26 = 0x19) (h : decMem w true = .ok i) : encodeScalar i = some w := by
  have hs := mem_immediate w
  simp only [decMem, dec_bind_ok, dec_pure_ok, decReg_ok, decRsv_ok, decCode_ok, Sz.ofCode_some, if_true] at h
  obtain ⟨d, hd, a, ha, z, hz, -, h0, rfl⟩ := h
  refine congrArg some (Eq.trans ?_ (eq_iWord hw).symm)
  simp (disch := decide) only [packWord, iWord, decPred_bits, toNat_bits, hm]
  omega

theorem encode_decMemA (hm : bits w 31 26 = 0x1A) (h : decMemA w = .ok i) : encodeScalar i = some w := by
  have hs := memA_immediate w
  simp only [decMemA, dec_bind_ok, decReg_ok, decCode_ok, Sz.ofCode_some, Scope.ofCode_some] at h
  obtain ⟨d, hd, a, ha, z, hz, c, hc, h⟩ := h
  split at h
  next hr =>
    simp only [dec_bind_ok, dec_pure_ok, decRsv_ok] at h
    obtain ⟨-, h0, rfl⟩ := h
    refine congrArg some (Eq.trans ?_ (eq_iWord hw).symm)
    simp (disch := decide) only [packWord, iWord, decPred_bits, toNat_bits, hm]
    omega
  next hr =>
    have hr0 := (bit_zero_or_one w 10).resolve_right hr
    have hx := toNat_beq_bit w 11
    cases dec_pure_ok.mp h
    refine congrArg some (Eq.trans ?_ (eq_iWord hw).symm)
    simp (disch := decide) only [packWord, iWord, decPred_bits, toNat_bits, hm]
    omega

/-! ## Semaphores and rings -/

theorem encode_decSem (hm : bits w 31 26 = 0x21) (h : decSem w = .ok i) : encodeScalar i = some w := by
  have e := eq_rWord hw
  have hs : bits w 21 14 = bits w 21 18 * 2 ^ 4 + bits w 17 14 := bits_split w (by decide) (by decide)
  unfold decSem at h
  split at h
  case h_9 => cases h
  case h_8 hf =>
    cases h
    refine congrArg some (Eq.trans ?_ e.symm)
    simp (disch := decide) only [packWord, rWord, rBase, decPred_bits, toNat_bits, hm, hf]
    omega
  case h_4 hf =>
    simp only [dec_bind_ok, dec_pure_ok, decReg_ok] at h
    obtain ⟨a, ha, rfl⟩ := h
    refine congrArg some (Eq.trans ?_ e.symm)
    simp (disch := decide) only [packWord, rWord, rBase, toNat_bits, hm, hf]
    omega
  case h_1 hf | h_3 hf | h_5 hf =>
    simp only [dec_bind_ok, dec_pure_ok, decRsv_ok] at h
    obtain ⟨-, h0, rfl⟩ := h
    refine congrArg some (Eq.trans ?_ e.symm)
    simp (disch := decide) only [packWord, rWord, rBase, toNat_bits, hm, hf]
    omega
  case h_2 hf | h_6 hf | h_7 hf =>
    simp only [dec_bind_ok, dec_pure_ok, decRsv_ok, decReg_ok] at h
    obtain ⟨-, h0, a, ha, rfl⟩ := h
    refine congrArg some (Eq.trans ?_ e.symm)
    simp (disch := decide) only [packWord, rWord, rBase, toNat_bits, hm, hf]
    omega

theorem encode_decRing (hm : bits w 31 26 = 0x22) (h : decRing w = .ok i) : encodeScalar i = some w := by
  have e := eq_rWord hw
  have hk : bits w 21 18 * 2 ^ 4 + bits w 17 14 = bits w 21 20 * 2 ^ 6 + bits w 19 14 := by
    rw [← bits_split w (hi := 21) (mid := 19) (lo := 14) (by decide) (by decide)]
    exact (bits_split w (hi := 21) (mid := 17) (lo := 14) (by decide) (by decide)).symm
  simp only [decRing, dec_bind_ok, decReg_ok, decRsv_ok] at h
  obtain ⟨-, h0, a, ha, h⟩ := h
  split at h
  case h_6 => cases h
  case h_1 hf =>
    cases dec_pure_ok.mp h
    refine congrArg some (Eq.trans ?_ e.symm)
    simp (disch := decide) only [packWord, rWord, rBase, toNat_bits, hm, hf]
    omega
  case h_2 hf =>
    have hs : bits w 9 0 = bits w 9 4 * 2 ^ 4 + bits w 3 0 := bits_split w (by decide) (by decide)
    simp only [dec_bind_ok, dec_pure_ok, decRsv_ok] at h
    obtain ⟨-, h1, rfl⟩ := h
    refine congrArg some (Eq.trans ?_ e.symm)
    simp (disch := decide) only [packWord, rWord, rBase, decPred_bits, toNat_bits, hm, hf]
    omega
  case h_3 hf | h_4 hf =>
    have hs : bits w 9 0 = bits w 9 1 * 2 ^ 1 + bits w 0 0 := bits_split w (by decide) (by decide)
    simp only [dec_bind_ok, dec_pure_ok, decRsv_ok] at h
    obtain ⟨-, h1, rfl⟩ := h
    obtain hg | hg := bit_zero_or_one w 0
    · rw [if_pos hg]
      refine congrArg some (Eq.trans ?_ e.symm)
      simp (disch := decide) only [packWord, rWord, rBase, toNat_bits, hm, hf]
      omega
    · rw [if_neg (by omega)]
      refine congrArg some (Eq.trans ?_ e.symm)
      simp (disch := decide) only [packWord, rWord, rBase, toNat_bits, hm, hf]
      omega
  case h_5 hf =>
    simp only [dec_bind_ok, dec_pure_ok, decRsv_ok] at h
    obtain ⟨-, h1, rfl⟩ := h
    refine congrArg some (Eq.trans ?_ e.symm)
    simp (disch := decide) only [packWord, rWord, rBase, toNat_bits, hm, hf]
    omega

/-- A scalar word that decodes is the encoding of its instruction (R129, R134). -/
theorem encode_decMajor (h : decMajor w = .ok i) : encodeScalar i = some w := by
  unfold decMajor at h
  split at h
  next hm => exact encode_decInt hw hm h
  iterate 4 next hm => obtain ⟨d, a, p, j, rfl, e⟩ := i_word hw hm rfl h; exact congrArg some e
  iterate 3 next hm => obtain ⟨d, a, p, j, rfl, e⟩ := shift_word hw hm rfl h; exact congrArg some e
  next hm => exact encode_decLui hw hm h
  next hm => exact encode_decCmp hw hm h
  next hm => exact encode_decCmpi hw hm h
  next hm => exact encode_decPlogic hw hm h
  next hm => exact encode_decSel hw hm h
  next hm => exact encode_decRnd hw hm h
  next hm =>
    obtain ⟨d, p, c, rfl, e⟩ | ⟨a, p, c, rfl, e⟩ := csr_word hw hm h
    · exact congrArg some e
    · exact congrArg some e
  next hm => exact encode_decBranch hw hm h
  next hm => exact encode_decBranch_tag hw hm h
  next hm => exact encode_decCall hw hm h
  next hm => exact encode_decJump hw hm h
  next hm => exact encode_decJump_ret hw hm h
  next hm => exact encode_decLoop hw hm h
  next hm => cases h; exact encode_decLoopx hw hm
  next hm => exact encode_decMem hw hm h
  next hm => exact encode_decMem_store hw hm h
  next hm => exact encode_decMemA hw hm h
  next hm => exact encode_decMemN hw hm h
  next hm => exact encode_decAmo hw hm h
  next hm => exact encode_decFence hw hm h
  next hm => exact encode_decThread hw hm h
  next hm => exact encode_decSem hw hm h
  next hm => exact encode_decRing hw hm h
  next hm => exact encode_decMsg hw hm h
  next hm => exact encode_decTime hw hm h
  next hm => exact encode_decFarith hw hm h
  next hm => exact encode_decFcmp hw hm h
  next hm => exact encode_decFarith_f64 hw hm h
  next hm => exact encode_decFcmp_f64 hw hm h
  next hm => exact encode_decTrap hw hm h
  next hm =>
    obtain ⟨d, p, c, rfl, e⟩ | ⟨a, p, c, rfl, e⟩ := csr_word hw hm h
    · exact congrArg some e
    · exact congrArg some e
  next hm => exact encode_decPriv hw hm h
  cases h

end

end Sys2Proof
end

/-! Decoding undoes the encoding of a scalar instruction (R128 to R134): the fields of a packed word, and every instruction. -/
section

namespace Sys2Proof

/-! ## Fields of a packed word -/

theorem bits_add_above {v l x hi lo : Nat} (h : hi < l) : bits (v * 2 ^ l + x) hi lo = bits x hi lo := by
  obtain ⟨k, rfl⟩ := Nat.exists_eq_add_of_lt h
  by_cases hlo : lo ≤ hi
  · obtain ⟨j, rfl⟩ := Nat.exists_eq_add_of_le hlo
    rw [bits, bits, show v * 2 ^ (lo + j + k + 1) + x = x + 2 ^ lo * (2 ^ (j + 1) * (v * 2 ^ k)) by ring,
      Nat.add_mul_div_left _ _ (by positivity), show lo + j + 1 - lo = j + 1 by omega, Nat.add_mul_mod_self_left]
  · rw [bits, bits, show hi + 1 - lo = 0 by omega, pow_zero, Nat.mod_one, Nat.mod_one]

theorem bits_add_below {v l x hi lo : Nat} (h : v * 2 ^ l + x % 2 ^ lo < 2 ^ lo) :
    bits (v * 2 ^ l + x) hi lo = bits x hi lo := by
  have hx : v * 2 ^ l + x = v * 2 ^ l + x % 2 ^ lo + 2 ^ lo * (x / 2 ^ lo) := by
    rw [Nat.add_assoc, Nat.mod_add_div]
  rw [bits, bits, hx, Nat.add_mul_div_left _ _ (by positivity), Nat.div_eq_of_lt h, Nat.zero_add]

theorem bits_add_at {v x hi lo : Nat} (hv : v < 2 ^ (hi + 1 - lo)) (hlo : lo ≤ hi) (hx : x % 2 ^ (hi + 1) < 2 ^ lo) :
    bits (v * 2 ^ lo + x) hi lo = v := by
  have he : v * 2 ^ lo + x = x / 2 ^ (hi + 1) * 2 ^ (hi + 1) + (v * 2 ^ lo + x % 2 ^ (hi + 1)) := by
    rw [Nat.mul_comm (x / _)]
    have := Nat.div_add_mod x (2 ^ (hi + 1))
    omega
  rw [he, bits_add_above (Nat.lt_succ_self hi), bits, Nat.add_comm, Nat.mul_comm, Nat.add_mul_div_left _ _ (by positivity),
    Nat.div_eq_of_lt hx, Nat.zero_add, Nat.mod_eq_of_lt hv]

section
variable {v l base hi lo : Nat} {fs : List (Nat × Nat)}

/-- A field above the one that is read does not matter. -/
theorem packWord_above (h : hi < l) : bits (packWord base ((v, l) :: fs)) hi lo = bits (packWord base fs) hi lo :=
  bits_add_above h

/-- Nor does one below it that leaves no carry. -/
theorem packWord_below (h : v * 2 ^ l + packWord base fs % 2 ^ lo < 2 ^ lo) :
    bits (packWord base ((v, l) :: fs)) hi lo = bits (packWord base fs) hi lo :=
  bits_add_below h

/-- A field is read at its place. -/
theorem packWord_at (hv : v < 2 ^ (hi + 1 - lo)) (hlo : lo ≤ hi) (hx : packWord base fs % 2 ^ (hi + 1) < 2 ^ lo) :
    bits (packWord base ((v, lo) :: fs)) hi lo = v :=
  bits_add_at hv hlo hx

theorem packWord_nil : bits (packWord base []) hi lo = base / 2 ^ lo % 2 ^ (hi + 1 - lo) := by
  rw [packWord, bits]

end

theorem packWord_base (base : Nat) (fs : List (Nat × Nat)) : packWord base fs = base + packWord 0 fs := by
  induction fs with
  | nil => rfl
  | cons f fs ih => rw [packWord, packWord, ih]; omega

/-- The major opcode is that of the fixed bits, where the fields stay below it. -/
theorem packWord_major {base : Nat} {fs : List (Nat × Nat)} (h : packWord (base % 2 ^ 26) fs < 2 ^ 26) :
    bits (packWord base fs) 31 26 = base / 2 ^ 26 % 2 ^ 6 := by
  rw [packWord_base] at h ⊢
  simp only [bits]
  omega

/-- A field above fields that end below it is 0. -/
theorem packWord_end {base hi lo : Nat} {fs : List (Nat × Nat)} (h : packWord base fs % 2 ^ 26 < 2 ^ lo) (hi26 : hi < 26) :
    bits (packWord base fs) hi lo = 0 := by
  rw [← Nat.div_add_mod (packWord base fs) (2 ^ 26), Nat.mul_comm, bits_add_above hi26, bits, Nat.div_eq_of_lt h, Nat.zero_mod]

/-! ## Steps of the decoder on fields -/

theorem dec_ok_bind {α β : Type} (a : α) (f : α → Dec β) : ((Except.ok a : Dec α) >>= f) = f a := by
  simp [bind, Except.bind]
theorem dec_pure_eq {α : Type} (a : α) : (pure a : Dec α) = .ok a := by simp [pure, Except.pure]
theorem decReg_val (d : Fin 10) : decReg d.val = .ok d := by simp [decReg]
theorem decRsv_zero : decRsv 0 = .ok () := by simp [decRsv]
theorem decPred_val (p : Fin 16) : decPred p.val = p := Fin.ofNat_val_eq_self p
theorem decCode_some {α : Type} (x : α) : decCode (some x) = .ok x := by simp [decCode]
theorem ofNat_toNat_self {n : Nat} (x : BitVec n) : BitVec.ofNat n x.toNat = x := by simp
theorem toNat_beq_one (b : Bool) : (b.toNat == 1) = b := by cases b <;> rfl


section
variable {base : Nat} {low : List (Nat × Nat)} {d a b : Fin 10} {p q : Fin 16} (h : packWord base low % 2 ^ 26 < 2 ^ 10)
include h

/-- A word with the fields of the R format above its func part, read in that format. -/
theorem decR3_fields {k : Fin 10 → Fin 10 → Fin 10 → Fin 16 → Instr} :
    decR3 (packWord base ((d.val, 22) :: (a.val, 18) :: (b.val, 14) :: (p.val, 10) :: low)) k = .ok (k d a b p) := by
  simp (disch := ((try simp only [packWord]); omega)) only [decR3, packWord_above, packWord_at, decReg_val, decPred_val,
    dec_ok_bind, dec_pure_eq]

theorem decRpd_fields {k : Fin 16 → Fin 10 → Fin 10 → Fin 16 → Instr} :
    decRpd (packWord base ((q.val, 22) :: (a.val, 18) :: (b.val, 14) :: (p.val, 10) :: low)) k = .ok (k q a b p) := by
  simp (disch := ((try simp only [packWord]); omega)) only [decRpd, packWord_above, packWord_at, decReg_val, decPred_val,
    dec_ok_bind, dec_pure_eq]

theorem decRda_fields {k : Fin 10 → Fin 10 → Fin 16 → Instr} :
    decRda (packWord base ((d.val, 22) :: (a.val, 18) :: (p.val, 10) :: low)) k = .ok (k d a p) := by
  simp (disch := ((try simp only [packWord]); omega)) only [decRda, packWord_above, packWord_at, packWord_end, decRsv_zero,
    decReg_val, decPred_val, dec_ok_bind, dec_pure_eq]

theorem decRab_fields {k : Fin 10 → Fin 10 → Fin 16 → Instr} :
    decRab (packWord base ((a.val, 18) :: (b.val, 14) :: (p.val, 10) :: low)) k = .ok (k a b p) := by
  simp (disch := ((try simp only [packWord]); omega)) only [decRab, packWord_above, packWord_at, packWord_end, decRsv_zero,
    decReg_val, decPred_val, dec_ok_bind, dec_pure_eq]

theorem decRa_fields {k : Fin 10 → Fin 16 → Instr} :
    decRa (packWord base ((a.val, 18) :: (p.val, 10) :: low)) k = .ok (k a p) := by
  simp (disch := ((try simp only [packWord]); omega)) only [decRa, packWord_above, packWord_at, packWord_end, decRsv_zero,
    decReg_val, decPred_val, dec_ok_bind, dec_pure_eq]

theorem decRp_fields {k : Fin 16 → Instr} : decRp (packWord base ((p.val, 10) :: low)) k = .ok (k p) := by
  simp (disch := ((try simp only [packWord]); omega)) only [decRp, packWord_at, packWord_end, decRsv_zero, decPred_val,
    dec_ok_bind, dec_pure_eq]

end

theorem Cc.code_lt (c : Cc) : c.code < 16 := by cases c <;> decide
theorem Rm.code_lt (c : Rm) : c.code < 8 := by cases c <;> decide
theorem AFmt.code_lt (c : AFmt) : c.code < 4 := by cases c <;> decide
theorem CFmt.code_lt (c : CFmt) : c.code < 8 := by cases c <;> decide
theorem Scope.code_lt (c : Scope) : c.code < 8 := by cases c <;> decide
theorem Sz.code_lt (c : Sz) : c.code < 4 := by cases c <;> decide
theorem Ann.code_lt (c : Ann) : c.code < 4 := by cases c <;> decide
theorem AmoOp.code_lt (c : AmoOp) : c.code < 16 := by cases c <;> decide

/-- The code 0 of a rounding mode (R67). -/
theorem Rm.ofCode_zero : Rm.ofCode 0 = some .rne := Rm.ofCode_code .rne

/-- The guard p0 of a plain branch. -/
theorem decPred_zero : decPred 0 = 0 := rfl

/-- Instructions with a field of a code, or with a predicate that is not p0. -/
def Instr.coded : Instr → Bool
  | .bp .. | .cmp .. | .cmpi .. | .fmin .. | .faddF64 .. | .fmulF64 .. | .ffmaF64 .. | .fcmpF64 .. | .st .. | .ldn ..
  | .stn .. | .fence .. | .fadd .. | .fmul .. | .ffma .. | .fcmp .. | .stRel .. | .fcvt .. | .fcvtF64 .. | .ld .. | .ldAcq ..
  | .amo .. => true
  | _ => false

/-- Instructions whose decoder reads their fields itself, none of them a code. -/
def Instr.ownFields : Instr → Bool
  | .addi .. | .andi .. | .ori .. | .xori .. | .shli .. | .shri .. | .sari .. | .lui .. | .csrr .. | .csrw .. | .csrrp ..
  | .csrwp .. | .br .. | .bpN .. | .btag .. | .btagN .. | .call .. | .jr .. | .ret .. | .loop .. | .loopx .. | .waitImm ..
  | .waitReg .. | .sig .. | .sigr .. | .semsetImm .. | .semsetReg .. | .semrd .. | .test .. | .waita .. | .testa .. | .rtail ..
  | .rtailGet .. | .rhead .. | .rheadGet .. | .ringdef .. | .pand .. | .por .. | .pxor .. | .pnot .. | .pmov .. | .sel ..
  | .seed .. | .time .. | .send .. => true
  | _ => false

theorem decMajor_encodeScalar_of_coded {i : Instr} {w : Nat} (hc : i.coded = true) (hi : wellFormed i = true)
    (h : encodeScalar i = some w) : decMajor w = .ok i := by
  cases i
  case bp p _ =>
    have hp : p ≠ 0 := by simpa [wellFormed] using hi
    cases h
    simp (disch := ((try simp only [packWord]); omega)) only [decMajor, packWord_major, decBranch, hp,
      packWord_at, packWord_above, packWord_below, packWord_nil, decCode_some, decReg_val, decRsv_zero, decPred_val,
      ofNat_toNat_self, dec_ok_bind, dec_pure_eq, reduceIte, Nat.reducePow, Nat.reduceDiv, Nat.reduceMod, Nat.reduceAdd,
      Nat.reduceSub, one_ne_zero, OfNat.ofNat_ne_zero, Bool.false_eq_true, Nat.zero_div, Nat.zero_mod]
  case cmp _ _ _ _ c | cmpi _ _ _ c _ | fmin _ _ _ _ c | faddF64 _ _ _ _ c | fmulF64 _ _ _ _ c | ffmaF64 _ _ _ _ c
      | fcmpF64 _ _ _ _ c | st _ _ _ c _ | ldn _ _ _ _ c | stn _ _ _ _ c | fence _ c =>
    have := c.code_lt
    cases h
    simp (disch := ((try simp only [packWord]); omega)) only [decMajor, packWord_major, decCmp, decCmpi, decFarith,
      decFcmp, decMem, decMemN, decFence, decR3_fields, decRpd_fields, decRp_fields, Cc.ofCode_code, Rm.ofCode_code,
      AFmt.ofCode_code, Scope.ofCode_code, Sz.ofCode_code, Rm.ofCode_zero,
      packWord_at, packWord_above, packWord_below, packWord_nil, decCode_some, decReg_val, decRsv_zero, decPred_val,
      ofNat_toNat_self, dec_ok_bind, dec_pure_eq, reduceIte, Nat.reducePow, Nat.reduceDiv, Nat.reduceMod, Nat.reduceAdd,
      Nat.reduceSub, one_ne_zero, OfNat.ofNat_ne_zero, Bool.false_eq_true, Nat.zero_div, Nat.zero_mod]
  case fadd _ _ _ _ m c | fmul _ _ _ _ m c | ffma _ _ _ _ m c | fcmp _ _ _ _ m c | stRel _ _ _ m c _ =>
    have := c.code_lt
    have := m.code_lt
    cases h
    simp (disch := ((try simp only [packWord]); omega)) only [decMajor, packWord_major, decFarith, decFcmp, decMemA,
      decR3_fields, decRpd_fields, Cc.ofCode_code, Rm.ofCode_code, AFmt.ofCode_code, Scope.ofCode_code, Sz.ofCode_code,
      packWord_at, packWord_above, packWord_below, packWord_nil, decCode_some, decReg_val, decRsv_zero, decPred_val,
      ofNat_toNat_self, dec_ok_bind, dec_pure_eq, reduceIte, Nat.reducePow, Nat.reduceDiv, Nat.reduceMod, Nat.reduceAdd,
      Nat.reduceSub, one_ne_zero, OfNat.ofNat_ne_zero, Bool.false_eq_true, Nat.zero_div, Nat.zero_mod]
  case fcvt _ _ _ _ f m c | fcvtF64 _ _ _ _ f m c =>
    have := c.code_lt
    have := m.code_lt
    have := f.code_lt
    cases h
    simp (disch := ((try simp only [packWord]); omega)) only [decMajor, packWord_major, decFcmp, decR3_fields, Rm.ofCode_code,
      CFmt.ofCode_code,
      packWord_at, packWord_above, packWord_below, packWord_nil, decCode_some, decReg_val, decRsv_zero, decPred_val,
      ofNat_toNat_self, dec_ok_bind, dec_pure_eq, reduceIte, Nat.reducePow, Nat.reduceDiv, Nat.reduceMod, Nat.reduceAdd,
      Nat.reduceSub, one_ne_zero, OfNat.ofNat_ne_zero, Bool.false_eq_true, Nat.zero_div, Nat.zero_mod]
  case amo _ _ _ _ f m x c =>
    have := c.code_lt
    have := m.code_lt
    have := f.code_lt
    have := x.toNat_lt
    cases h
    simp (disch := ((try simp only [packWord]); omega)) only [decMajor, packWord_major, decAmo, decR3_fields, Ann.ofCode_code, AmoOp.ofCode_code, Scope.ofCode_code, toNat_beq_one,
      packWord_at, packWord_above, packWord_below, packWord_nil, decCode_some, decReg_val, decRsv_zero, decPred_val,
      ofNat_toNat_self, dec_ok_bind, dec_pure_eq, reduceIte, Nat.reducePow, Nat.reduceDiv, Nat.reduceMod, Nat.reduceAdd,
      Nat.reduceSub, one_ne_zero, OfNat.ofNat_ne_zero, Bool.false_eq_true, Nat.zero_div, Nat.zero_mod]
  case ld _ _ _ c x _ =>
    have := c.code_lt
    have := x.toNat_lt
    cases h
    simp (disch := ((try simp only [packWord]); omega)) only [decMajor, packWord_major, decMem, Sz.ofCode_code, toNat_beq_one,
      packWord_at, packWord_above, packWord_below, packWord_nil, decCode_some, decReg_val, decRsv_zero, decPred_val,
      ofNat_toNat_self, dec_ok_bind, dec_pure_eq, reduceIte, Nat.reducePow, Nat.reduceDiv, Nat.reduceMod, Nat.reduceAdd,
      Nat.reduceSub, one_ne_zero, OfNat.ofNat_ne_zero, Bool.false_eq_true, Nat.zero_div, Nat.zero_mod]
  case ldAcq _ _ _ f x c _ =>
    have := c.code_lt
    have := f.code_lt
    have := x.toNat_lt
    cases h
    simp (disch := ((try simp only [packWord]); omega)) only [decMajor, packWord_major, decMemA, Scope.ofCode_code,
      Sz.ofCode_code, toNat_beq_one, zero_ne_one,
      packWord_at, packWord_above, packWord_below, packWord_nil, decCode_some, decReg_val, decRsv_zero, decPred_val,
      ofNat_toNat_self, dec_ok_bind, dec_pure_eq, reduceIte, Nat.reducePow, Nat.reduceDiv, Nat.reduceMod, Nat.reduceAdd,
      Nat.reduceSub, one_ne_zero, OfNat.ofNat_ne_zero, Bool.false_eq_true, Nat.zero_div, Nat.zero_mod]
  all_goals cases hc

theorem decMajor_encodeScalar_of_ownFields {i : Instr} {w : Nat} (hc : i.ownFields = true) (h : encodeScalar i = some w) :
    decMajor w = .ok i := by
  cases i
  case addi | andi | ori | xori | shli | shri | sari | lui | csrr | csrw | csrrp | csrwp | br | bpN | btag | btagN | call | jr
      | ret | loop | loopx | waitImm | waitReg | sig | sigr | semsetImm | semsetReg | semrd | test | waita | testa | rtail
      | rtailGet | rhead | rheadGet | ringdef | pand | por | pxor | pnot | pmov | sel | seed | time | send =>
    cases h
    simp (disch := ((try simp only [packWord]); omega)) only [decMajor, packWord_major, decI, decShift, decCsr, decBranch,
      decJump, decLoop, decSem, decRing, decPlogic, decSel, decRnd, decTime, decMsg, decR3_fields, packWord_at, packWord_above,
      packWord_below, packWord_nil, decReg_val, decRsv_zero, decPred_val, decPred_zero, ofNat_toNat_self, dec_ok_bind,
      dec_pure_eq, reduceIte, Nat.reducePow, Nat.reduceDiv, Nat.reduceMod, Nat.reduceAdd, Nat.reduceSub, one_ne_zero,
      OfNat.ofNat_ne_zero, Bool.false_eq_true, Nat.zero_div, Nat.zero_mod]
  all_goals cases hc

/-- Decoding gives a scalar instruction back from its word. -/
theorem decMajor_encodeScalar {i : Instr} {w : Nat} (hi : wellFormed i = true) (h : encodeScalar i = some w) :
    decMajor w = .ok i := by
  by_cases hc : i.coded = true
  · exact decMajor_encodeScalar_of_coded hc hi h
  by_cases ho : i.ownFields = true
  · exact decMajor_encodeScalar_of_ownFields ho h
  cases i
  case add | sub | mul | mulh | mulhu | div | divu | rem | remu | and | or | xor | shl | shr | sar | min | max | minu | maxu
      | clz | popc | rnd | watch | spawn | fork | join | exit | yield | prio | enq | go | sendm | put | subs | waitt | waitlim
      | trap | tret | ecall | ebreak | idle | dbghalt | tlbi | asidset | kill | preempt | resume | errinj =>
    cases h
    simp (disch := ((try simp only [packWord]); omega)) only [decMajor, packWord_major, decInt, decRnd, decFence, decThread,
      decMsg, decTime, decTrap, decPriv, packWord_above, packWord_nil, decR3_fields, decRpd_fields, decRda_fields,
      decRab_fields, decRa_fields, decRp_fields, decRsv_zero, dec_ok_bind, reduceIte, Nat.reducePow, Nat.reduceDiv,
      Nat.reduceMod, Nat.reduceAdd, Nat.reduceSub, one_ne_zero, OfNat.ofNat_ne_zero]
  case fminF64 =>
    cases h
    simp (disch := ((try simp only [packWord]); omega)) only [decMajor, packWord_major, decFarith, decR3_fields, Rm.ofCode_zero,
      packWord_at, packWord_above, packWord_below, packWord_nil, decCode_some, decReg_val, decRsv_zero, decPred_val,
      ofNat_toNat_self, dec_ok_bind, dec_pure_eq, reduceIte, Nat.reducePow, Nat.reduceDiv, Nat.reduceMod, Nat.reduceAdd,
      Nat.reduceSub, one_ne_zero, OfNat.ofNat_ne_zero, Bool.false_eq_true, Nat.zero_div, Nat.zero_mod]
  all_goals first | exact absurd rfl hc | exact absurd rfl ho | cases h

end Sys2Proof
end

/-! Bundles, the two-word form and the words of a whole instruction: decoding and encoding are inverse (R124, R137 to R140). -/
section

namespace Sys2Proof

/-! ## Command bundles -/

/-- A bundle's words are those of the command that its engine and code name. -/
theorem decCommand_of_encodeBundle {i : Instr} {ws : List Nat} (h : encodeBundle i = some ws) :
    ∃ x e c, ws = x.words e c ∧ decCommand e c x = .ok i ∧ e < 8 ∧ c < 256 := by
  cases i <;> cases h <;> exact ⟨_, _, _, rfl, rfl, by omega, by omega⟩

theorem encodeBundle_of_decCommand {e c : Nat} {x : Bundle} {i : Instr} (h : decCommand e c x = .ok i) :
    encodeBundle i = some (x.words e c) ∧ encodeScalar i = none ∧ (∀ d p v, i ≠ .lix d p v) := by
  unfold decCommand at h
  split at h <;> cases h <;> exact ⟨rfl, rfl, by simp⟩

section
variable {x : Bundle} {e c : Nat} (he : e < 8) (hc : c < 256)
include he hc

/-- The first word of a bundle: its major opcode, engine and command code. -/
theorem words_head {w : Nat} (hw : (x.words e c).head? = some w) :
    bits w 31 26 = 0x30 ∧ bits w 25 23 = e ∧ bits w 22 15 = c := by
  simp only [Bundle.words, List.head?_cons, Option.some.injEq] at hw
  have := x.substA.isLt
  have := x.substB.isLt
  have := x.popA.toNat_lt
  have := x.popB.toNat_lt
  have := x.flags.isLt
  simp only [bits]
  omega

end

/-- The fields of a bundle are read back from its words. -/
theorem decBundle_words (x : Bundle) {e c : Nat} (he : e < 8) (hc : c < 256) {w0 w1 w2 w3 w4 w5 w6 w7 : Nat}
    (hw : x.words e c = [w0, w1, w2, w3, w4, w5, w6, w7]) : decBundle w0 w1 w2 w3 w4 w5 w6 w7 = x ∧ bits w2 10 0 = 0 := by
  obtain ⟨sa, sb, pa, pb, fl, ws, th, ss, inc, rov, rm, sv, fa, fb, v5, v6, v7⟩ := x
  simp only [Bundle.words, List.cons.injEq, and_true] at hw
  obtain ⟨rfl, rfl, rfl, rfl, rfl, rfl, rfl, rfl⟩ := hw
  have := sa.isLt
  have := sb.isLt
  have := pa.toNat_lt
  have := pb.toNat_lt
  have := fl.isLt
  have := ws.isLt
  have := th.isLt
  have := ss.isLt
  have := inc.isLt
  have := rov.toNat_lt
  have := rm.isLt
  have := sv.toNat_lt
  refine ⟨?_, by simp only [bits]; omega⟩
  simp only [decBundle, Bundle.mk.injEq, ofNat_toNat_self, and_true]
  refine ⟨?_, ?_, ?_, ?_, ?_, ?_, ?_, ?_, ?_, ?_, ?_, ?_⟩
  all_goals first
    | exact BitVec.eq_of_toNat_eq (by rw [toNat_bits (by omega)]; simp only [bits]; omega)
    | exact (congrArg (· == 1) (by simp only [bits]; omega)).trans (toNat_beq_one _)

section
variable {w : Nat} (hw : w < 2 ^ 32)
include hw

/-- The fields of a bundle's first word (R138). -/
theorem bundleWord0_fields (hm : bits w 31 26 = 0x30) :
    0xC0000000 + bits w 25 23 * 2 ^ 23 + bits w 22 15 * 2 ^ 15 + bits w 14 11 * 2 ^ 11 + bits w 10 7 * 2 ^ 7 +
      bits w 6 6 * 2 ^ 6 + bits w 5 5 * 2 ^ 5 + bits w 4 0 = w := by
  simp only [bits] at *
  omega

/-- Those of its second word. -/
theorem bundleWord1_fields : bits w 31 24 * 2 ^ 24 + bits w 23 0 = w := by
  simp only [bits]
  omega

/-- Those of its third word. -/
theorem bundleWord2_fields (hr : bits w 10 0 = 0) :
    bits w 31 24 * 2 ^ 24 + bits w 23 16 * 2 ^ 16 + bits w 15 15 * 2 ^ 15 + bits w 14 12 * 2 ^ 12 + bits w 11 11 * 2 ^ 11 =
      w := by
  simp only [bits] at *
  omega

end

/-- The words of a bundle are those of its fields. -/
theorem words_decBundle {w0 w1 w2 w3 w4 w5 w6 w7 : Nat} (hw : ∀ v ∈ [w0, w1, w2, w3, w4, w5, w6, w7], v < 2 ^ 32)
    (hm : bits w0 31 26 = 0x30) (hr : bits w2 10 0 = 0) :
    (decBundle w0 w1 w2 w3 w4 w5 w6 w7).words (bits w0 25 23) (bits w0 22 15) = [w0, w1, w2, w3, w4, w5, w6, w7] := by
  simp only [List.forall_mem_cons] at hw
  obtain ⟨h0, h1, h2, h3, h4, h5, h6, h7, -⟩ := hw
  simp (disch := omega) only [Bundle.words, decBundle, toNat_beq_bit, toNat_bits]
  simp only [bundleWord0_fields h0 hm, bundleWord1_fields h1, bundleWord2_fields h2 hr, BitVec.toNat_ofNat,
    Nat.mod_eq_of_lt, h3, h4, h5, h6, h7]

theorem decCheck_ok {i j : Instr} : decCheck i = .ok j ↔ wellFormed i = true ∧ i = j := by
  cases h : wellFormed i <;> simp [decCheck, h]

theorem decodeBundle_ok {w0 w1 w2 w3 w4 w5 w6 w7 : Nat} {i : Instr} :
    decodeBundle w0 w1 w2 w3 w4 w5 w6 w7 = .ok i ↔ bits w2 10 0 = 0 ∧ wellFormed i = true ∧
      decCommand (bits w0 25 23) (bits w0 22 15) (decBundle w0 w1 w2 w3 w4 w5 w6 w7) = .ok i := by
  simp only [decodeBundle, dec_bind_ok, decRsv_ok, decCheck_ok]
  constructor
  · rintro ⟨-, hr, j, hj, hf, rfl⟩
    exact ⟨hr, hf, hj⟩
  · rintro ⟨hr, hf, hj⟩
    exact ⟨(), hr, i, hj, hf, rfl⟩

/-! ## The two-word form -/

theorem decodeLix_ok {w0 w1 : Nat} {i : Instr} (h0 : w0 < 2 ^ 32) (hm : bits w0 31 26 = 0x31) (h1 : w1 < 2 ^ 32)
    (h : decodeLix w0 w1 = .ok i) : encode i = some [w0, w1] ∧ wellFormed i = true := by
  unfold decodeLix at h
  split at h
  · cases h
  next hs =>
    simp only [dec_bind_ok, decRsv_ok, decReg_ok, dec_pure_ok] at h
    obtain ⟨-, hr, d, hd, rfl⟩ := h
    refine ⟨?_, rfl⟩
    rw [encode, ← hd, decPred_bits (by omega), BitVec.toNat_ofNat, Nat.mod_eq_of_lt h1]
    simp only [bits, Option.some.injEq, List.cons.injEq, and_true] at *
    omega

theorem decodeLix_word (d : Fin 10) (p : Fin 16) (v : BitVec 32) :
    decodeLix (0xC4000000 + d.val * 2 ^ 22 + p.val * 2 ^ 18) v.toNat = .ok (.lix d p v) := by
  have h1 : bits (0xC4000000 + d.val * 2 ^ 22 + p.val * 2 ^ 18) 17 12 = 0 := by simp only [bits]; omega
  have h2 : bits (0xC4000000 + d.val * 2 ^ 22 + p.val * 2 ^ 18) 11 0 = 0 := by simp only [bits]; omega
  have h3 : bits (0xC4000000 + d.val * 2 ^ 22 + p.val * 2 ^ 18) 25 22 = d.val := by simp only [bits]; omega
  have h4 : bits (0xC4000000 + d.val * 2 ^ 22 + p.val * 2 ^ 18) 21 18 = p.val := by simp only [bits]; omega
  rw [decodeLix, h1, h2, h3, h4, decReg_val, decRsv_zero, decPred_val, ofNat_toNat_self]
  rfl

/-! ## The words of an instruction -/

theorem decMajor_error {w : Nat} {i : Instr} (h : decMajor w = .ok i) : bits w 31 26 ≠ 0x30 ∧ bits w 31 26 ≠ 0x31 := by
  constructor <;> intro hm <;> simp [decMajor, hm] at h

theorem decodeScalar_ok {w : Nat} {i : Instr} : decodeScalar w = .ok i ↔ decMajor w = .ok i ∧ wellFormed i = true := by
  unfold decodeScalar
  split
  next j hj => simp only [decCheck_ok, hj, Except.ok.injEq]; grind
  next e he => simp [he]

section
variable {w0 : Nat} {ws : List Nat}

theorem decodeWords_scalar (h0 : bits w0 31 26 ≠ 0x30) (h1 : bits w0 31 26 ≠ 0x31) :
    decodeWords (w0 :: ws) = decodeScalar w0 := by
  unfold decodeWords
  split <;> simp_all

end

/-- Settles O18: the words of a well-formed instruction are a bundle's, a two-word form's or one scalar word, and each of the
three decoders reads its fields back. -/
theorem decodeOfEncode : Obligations.DecodeOfEncode := by
  intro i ws hi h
  unfold encode at h
  split at h
  next d p v =>
    cases h
    have hm : bits (0xC4000000 + d.val * 2 ^ 22 + p.val * 2 ^ 18) 31 26 = 0x31 := by simp only [bits]; omega
    simp only [decodeWords, hm, decodeLix_word]
  · split at h
    next w hw =>
      cases h
      have hd := decMajor_encodeScalar hi hw
      obtain ⟨h0, h1⟩ := decMajor_error hd
      rw [decodeWords_scalar h0 h1, decodeScalar_ok]
      exact ⟨hd, hi⟩
    · obtain ⟨x, e, c, hx, hc, he, hl⟩ := decCommand_of_encodeBundle h
      obtain ⟨w0, w1, w2, w3, w4, w5, w6, w7, hws⟩ : ∃ w0 w1 w2 w3 w4 w5 w6 w7, x.words e c = [w0, w1, w2, w3, w4, w5, w6, w7] :=
        ⟨_, _, _, _, _, _, _, _, rfl⟩
      obtain ⟨hm, hen, hco⟩ := words_head he hl (by rw [hws, List.head?_cons])
      obtain ⟨hb, hr⟩ := decBundle_words x he hl hws
      rw [hx, hws]
      simp only [decodeWords, hm, decodeBundle_ok, hen, hco, hb]
      exact ⟨hr, hi, hc⟩

/-- Settles O19: by the decoder of the word's major opcode. -/
theorem encodeOfDecode : Obligations.EncodeOfDecode := by
  intro w ws i hw h
  by_cases h0 : bits w 31 26 = 0x30
  · match ws with
    | w1 :: w2 :: w3 :: w4 :: w5 :: w6 :: w7 :: _ =>
      simp only [decodeWords, h0, decodeBundle_ok] at h
      obtain ⟨hr, hi, hc⟩ := h
      have hv : ∀ v ∈ [w, w1, w2, w3, w4, w5, w6, w7], v < 2 ^ 32 := fun v hv => hw v (by simp at hv ⊢; grind)
      obtain ⟨he, hs, hl⟩ := encodeBundle_of_decCommand hc
      refine ⟨hi, ?_⟩
      rw [words_decBundle hv h0 hr] at he
      rw [encode, hs, he, wordCount, h0]
      · rfl
      · exact hl
    | [] | [_] | [_, _] | [_, _, _] | [_, _, _, _] | [_, _, _, _, _] | [_, _, _, _, _, _] => simp [decodeWords, h0] at h
  by_cases h1 : bits w 31 26 = 0x31
  · match ws with
    | w1 :: _ =>
      simp only [decodeWords, h1] at h
      obtain ⟨he, hi⟩ := decodeLix_ok (hw w (by simp)) h1 (hw w1 (by simp)) h
      exact ⟨hi, by rw [he, wordCount, h1]; rfl⟩
    | [] => simp [decodeWords, h1] at h
  rw [decodeWords_scalar h0 h1, decodeScalar_ok] at h
  have he := encode_decMajor (hw w (by simp)) h.1
  refine ⟨h.2, ?_⟩
  have hc : wordCount w = 1 := by unfold wordCount; split <;> simp_all
  rw [hc, List.take_succ_cons, List.take_zero]
  unfold encode
  split
  · cases he
  · rw [he]

end Sys2Proof
end

/-! Hod commands: encoding and decoding are inverse (R275, R282). -/
section

namespace Sys2Proof

theorem decHreg_ok {n : Nat} {r : Fin 8} : decHreg n = .ok r ↔ n = r.val := by
  unfold decHreg
  split
  · rw [Except.ok.injEq, Fin.ext_iff]
  · simp only [reduceCtorEq, false_iff]; omega

theorem decodeHod_ok {v : Nat} {i : Instr} :
    decodeHod v = .ok i ↔ bits v 19 16 = 0 ∧ decHodOp v = .ok i ∧ wellFormed i = true := by
  simp only [decodeHod, dec_bind_ok, decRsv_ok, decCheck_ok]
  constructor
  · rintro ⟨-, hr, j, hj, hf, rfl⟩
    exact ⟨hr, hj, hf⟩
  · rintro ⟨hr, hj, hf⟩
    exact ⟨(), hr, i, hj, hf, rfl⟩

/-- A number is its two parts at any cut, for the cuts between the fields of the hod commands. -/
theorem hodCuts {v : Nat} (hv : v < 2 ^ 128) :
    v = bits v 127 64 * 2 ^ 64 + bits v 63 0 ∧ v = bits v 127 8 * 2 ^ 8 + bits v 7 0 ∧
    bits v 63 0 = bits v 63 32 * 2 ^ 32 + bits v 31 0 ∧
    bits v 63 0 = bits v 63 20 * 2 ^ 20 + bits v 19 0 ∧
    bits v 31 0 = bits v 31 20 * 2 ^ 20 + bits v 19 0 ∧
    bits v 31 0 = bits v 31 8 * 2 ^ 8 + bits v 7 0 ∧
    bits v 19 0 = bits v 19 16 * 2 ^ 16 + bits v 15 0 ∧
    bits v 15 0 = bits v 15 12 * 2 ^ 12 + bits v 11 0 ∧
    bits v 15 0 = bits v 15 8 * 2 ^ 8 + bits v 7 0 ∧
    bits v 11 0 = bits v 11 8 * 2 ^ 8 + bits v 7 0 ∧
    bits v 31 20 = bits v 31 21 * 2 ^ 1 + bits v 20 20 ∧
    bits v 31 20 = bits v 31 30 * 2 ^ 10 + bits v 29 20 ∧
    bits v 31 20 = bits v 31 26 * 2 ^ 6 + bits v 25 20 ∧
    bits v 31 20 = bits v 31 28 * 2 ^ 8 + bits v 27 20 ∧
    bits v 63 32 = bits v 63 55 * 2 ^ 23 + bits v 54 32 ∧
    bits v 54 32 = bits v 54 48 * 2 ^ 16 + bits v 47 32 ∧
    bits v 47 32 = bits v 47 42 * 2 ^ 10 + bits v 41 32 ∧
    bits v 63 32 = bits v 63 58 * 2 ^ 26 + bits v 57 32 ∧
    bits v 57 32 = bits v 57 42 * 2 ^ 10 + bits v 41 32 ∧
    bits v 127 64 = bits v 127 72 * 2 ^ 8 + bits v 71 64 := by
  refine ⟨by simp only [bits]; omega, by simp only [bits]; omega, ?_⟩
  refine ⟨?_, ?_, ?_, ?_, ?_, ?_, ?_, ?_, ?_, ?_, ?_, ?_, ?_, ?_, ?_, ?_, ?_, ?_⟩
  all_goals exact bits_split v (by omega) (by omega)

/-- The low byte of a hod command that decodes is its OP. -/
theorem encodeHod_decHodOp {v : Nat} {i : Instr} (hv : v < 2 ^ 128) (hr : bits v 19 16 = 0) (h : decHodOp v = .ok i) :
    encodeHod i = some v := by
  have hcut := hodCuts hv
  unfold decHodOp at h
  split at h
  all_goals try simp only [dec_bind_ok, decRsv_ok, decHreg_ok, dec_pure_ok, decFill] at h
  case h_1 ho =>
    obtain ⟨-, h1, -, h2, -, h3, rfl⟩ := h
    refine congrArg some ?_
    simp (disch := decide) only [toNat_bits]
    omega
  case h_2 ho | h_11 ho | h_12 ho =>
    obtain ⟨-, h1, rfl⟩ := h
    refine congrArg some ?_
    omega
  case h_3 ho =>
    obtain ⟨-, h1, -, h2, a, ha, h⟩ := h
    split at h
    next hb20 =>
      simp only [dec_bind_ok, decHreg_ok, dec_pure_ok] at h
      obtain ⟨b, hb, rfl⟩ := h
      refine congrArg some ?_
      simp (disch := decide) only [toNat_bits]
      omega
    next hb20 =>
      simp only [dec_bind_ok, decRsv_ok, dec_pure_ok] at h
      obtain ⟨-, hb, rfl⟩ := h
      have := bit_zero_or_one v 20
      refine congrArg some ?_
      simp (disch := decide) only [toNat_bits]
      omega
  case h_4 ho =>
    obtain ⟨-, h1, a, ha, b, hb, rfl⟩ := h
    refine congrArg some ?_
    simp (disch := decide) only [toNat_bits]
    omega
  case h_5 ho | h_6 ho =>
    obtain ⟨-, h1, -, h2, a, ha, -, h3, rfl⟩ := h
    refine congrArg some ?_
    simp (disch := decide) only [toNat_bits]
    omega
  case h_7 ho =>
    obtain ⟨-, h1, a, ha, b, hb, -, h2, rfl⟩ := h
    refine congrArg some ?_
    simp (disch := decide) only [toNat_bits]
    omega
  case h_8 ho | h_9 ho =>
    obtain ⟨-, h1, -, h2, -, h3, -, h4, rfl⟩ := h
    refine congrArg some ?_
    simp (disch := decide) only [toNat_bits]
    omega
  case h_10 ho =>
    obtain ⟨-, h1, -, h2, rfl⟩ := h
    refine congrArg some ?_
    simp (disch := decide) only [toNat_bits]
    omega
  case h_13 => cases h

theorem decHreg_val (r : Fin 8) : decHreg r.val = .ok r := by simp [decHreg]

/-- The fields of a hod command are read back at their places. -/
theorem decHodOp_encodeHod {v : Nat} {i : Instr} (h : encodeHod i = some v) :
    bits v 19 16 = 0 ∧ decHodOp v = .ok i := by
  cases i
  case hloop n =>
    have hv : v = packWord 0x01 [(n.toNat, 32)] := (Option.some.inj h).symm.trans (by simp only [packWord]; omega)
    rw [hv]
    simp (disch := ((try simp only [packWord]); omega)) only [decHodOp, decFill, packWord_at, packWord_above, packWord_below, packWord_nil,
      decHreg_val, decRsv_zero, ofNat_toNat_self, dec_ok_bind, dec_pure_eq, reduceIte, Nat.reducePow, Nat.reduceDiv,
      Nat.reduceMod, Nat.reduceAdd, Nat.reduceSub, zero_ne_one, Nat.zero_div, Nat.zero_mod, and_self]
  case hend =>
    have hv : v = packWord 0x02 [] := (Option.some.inj h).symm.trans rfl
    rw [hv]
    simp (disch := ((try simp only [packWord]); omega)) only [decHodOp, decFill, packWord_at, packWord_above, packWord_below, packWord_nil,
      decHreg_val, decRsv_zero, ofNat_toNat_self, dec_ok_bind, dec_pure_eq, reduceIte, Nat.reducePow, Nat.reduceDiv,
      Nat.reduceMod, Nat.reduceAdd, Nat.reduceSub, zero_ne_one, Nat.zero_div, Nat.zero_mod, and_self]
  case hseta a i =>
    have hv : v = packWord 0x03 [(a.val, 8), (i.toNat, 64)] := (Option.some.inj h).symm.trans (by simp only [packWord]; omega)
    rw [hv]
    simp (disch := ((try simp only [packWord]); omega)) only [decHodOp, decFill, packWord_at, packWord_above, packWord_below, packWord_nil,
      decHreg_val, decRsv_zero, ofNat_toNat_self, dec_ok_bind, dec_pure_eq, reduceIte, Nat.reducePow, Nat.reduceDiv,
      Nat.reduceMod, Nat.reduceAdd, Nat.reduceSub, zero_ne_one, Nat.zero_div, Nat.zero_mod, and_self]
  case hsetaLd a b i =>
    have hv : v = packWord 0x03 [(a.val, 8), (b.val, 12), (1, 20), (i.toNat, 64)] := (Option.some.inj h).symm.trans (by simp only [packWord]; omega)
    rw [hv]
    simp (disch := ((try simp only [packWord]); omega)) only [decHodOp, decFill, packWord_at, packWord_above, packWord_below, packWord_nil,
      decHreg_val, decRsv_zero, ofNat_toNat_self, dec_ok_bind, dec_pure_eq, reduceIte, Nat.reducePow, Nat.reduceDiv,
      Nat.reduceMod, Nat.reduceAdd, Nat.reduceSub, zero_ne_one, Nat.zero_div, Nat.zero_mod, and_self]
  case hadda a b i =>
    have hv : v = packWord 0x04 [(a.val, 8), (b.val, 12), (i.toNat, 64)] := (Option.some.inj h).symm.trans (by simp only [packWord]; omega)
    rw [hv]
    simp (disch := ((try simp only [packWord]); omega)) only [decHodOp, decFill, packWord_at, packWord_above, packWord_below, packWord_nil,
      decHreg_val, decRsv_zero, ofNat_toNat_self, dec_ok_bind, dec_pure_eq, reduceIte, Nat.reducePow, Nat.reduceDiv,
      Nat.reduceMod, Nat.reduceAdd, Nat.reduceSub, zero_ne_one, Nat.zero_div, Nat.zero_mod, and_self]
  case hfill a r k c rb st =>
    have hv : v = packWord 0x05 [(a.val, 8), (rb.toNat, 20), (r.toNat, 32), (k.toNat, 42), (c.toNat, 48), (st.toNat, 64)] := (Option.some.inj h).symm.trans (by simp only [packWord]; omega)
    rw [hv]
    simp (disch := ((try simp only [packWord]); omega)) only [decHodOp, decFill, packWord_at, packWord_above, packWord_below, packWord_nil,
      decHreg_val, decRsv_zero, ofNat_toNat_self, dec_ok_bind, dec_pure_eq, reduceIte, Nat.reducePow, Nat.reduceDiv,
      Nat.reduceMod, Nat.reduceAdd, Nat.reduceSub, zero_ne_one, Nat.zero_div, Nat.zero_mod, and_self]
  case hsfill a r k c rb st =>
    have hv : v = packWord 0x06 [(a.val, 8), (rb.toNat, 20), (r.toNat, 32), (k.toNat, 42), (c.toNat, 48), (st.toNat, 64)] := (Option.some.inj h).symm.trans (by simp only [packWord]; omega)
    rw [hv]
    simp (disch := ((try simp only [packWord]); omega)) only [decHodOp, decFill, packWord_at, packWord_above, packWord_below, packWord_nil,
      decHreg_val, decRsv_zero, ofNat_toNat_self, dec_ok_bind, dec_pure_eq, reduceIte, Nat.reducePow, Nat.reduceDiv,
      Nat.reduceMod, Nat.reduceAdd, Nat.reduceSub, zero_ne_one, Nat.zero_div, Nat.zero_mod, and_self]
  case hgath a b r k c rb st =>
    have hv : v = packWord 0x07 [(a.val, 8), (b.val, 12), (rb.toNat, 20), (r.toNat, 32), (k.toNat, 42), (c.toNat, 48), (st.toNat, 64)] := (Option.some.inj h).symm.trans (by simp only [packWord]; omega)
    rw [hv]
    simp (disch := ((try simp only [packWord]); omega)) only [decHodOp, decFill, packWord_at, packWord_above, packWord_below, packWord_nil,
      decHreg_val, decRsv_zero, ofNat_toNat_self, dec_ok_bind, dec_pure_eq, reduceIte, Nat.reducePow, Nat.reduceDiv,
      Nat.reduceMod, Nat.reduceAdd, Nat.reduceSub, zero_ne_one, Nat.zero_div, Nat.zero_mod, and_self]
  case hwwait k c n =>
    have hv : v = packWord 0x08 [(n.toNat, 20), (k.toNat, 42), (c.toNat, 48)] := (Option.some.inj h).symm.trans (by simp only [packWord]; omega)
    rw [hv]
    simp (disch := ((try simp only [packWord]); omega)) only [decHodOp, decFill, packWord_at, packWord_above, packWord_below, packWord_nil,
      decHreg_val, decRsv_zero, ofNat_toNat_self, dec_ok_bind, dec_pure_eq, reduceIte, Nat.reducePow, Nat.reduceDiv,
      Nat.reduceMod, Nat.reduceAdd, Nat.reduceSub, zero_ne_one, Nat.zero_div, Nat.zero_mod, and_self]
  case hsig core dev n inc =>
    have hv : v = packWord 0x09 [(n.toNat, 20), (core.toNat, 32), (dev.toNat, 42), (inc.toNat, 64)] := (Option.some.inj h).symm.trans (by simp only [packWord]; omega)
    rw [hv]
    simp (disch := ((try simp only [packWord]); omega)) only [decHodOp, decFill, packWord_at, packWord_above, packWord_below, packWord_nil,
      decHreg_val, decRsv_zero, ofNat_toNat_self, dec_ok_bind, dec_pure_eq, reduceIte, Nat.reducePow, Nat.reduceDiv,
      Nat.reduceMod, Nat.reduceAdd, Nat.reduceSub, zero_ne_one, Nat.zero_div, Nat.zero_mod, and_self]
  case hjmp n =>
    have hv : v = packWord 0x0A [(n.toNat, 32)] := (Option.some.inj h).symm.trans (by simp only [packWord]; omega)
    rw [hv]
    simp (disch := ((try simp only [packWord]); omega)) only [decHodOp, decFill, packWord_at, packWord_above, packWord_below, packWord_nil,
      decHreg_val, decRsv_zero, ofNat_toNat_self, dec_ok_bind, dec_pure_eq, reduceIte, Nat.reducePow, Nat.reduceDiv,
      Nat.reduceMod, Nat.reduceAdd, Nat.reduceSub, zero_ne_one, Nat.zero_div, Nat.zero_mod, and_self]
  case hnop =>
    have hv : v = packWord 0x0B [] := (Option.some.inj h).symm.trans rfl
    rw [hv]
    simp (disch := ((try simp only [packWord]); omega)) only [decHodOp, decFill, packWord_at, packWord_above, packWord_below, packWord_nil,
      decHreg_val, decRsv_zero, ofNat_toNat_self, dec_ok_bind, dec_pure_eq, reduceIte, Nat.reducePow, Nat.reduceDiv,
      Nat.reduceMod, Nat.reduceAdd, Nat.reduceSub, zero_ne_one, Nat.zero_div, Nat.zero_mod, and_self]
  case hstop =>
    have hv : v = packWord 0x0C [] := (Option.some.inj h).symm.trans rfl
    rw [hv]
    simp (disch := ((try simp only [packWord]); omega)) only [decHodOp, decFill, packWord_at, packWord_above, packWord_below, packWord_nil,
      decHreg_val, decRsv_zero, ofNat_toNat_self, dec_ok_bind, dec_pure_eq, reduceIte, Nat.reducePow, Nat.reduceDiv,
      Nat.reduceMod, Nat.reduceAdd, Nat.reduceSub, zero_ne_one, Nat.zero_div, Nat.zero_mod, and_self]
  all_goals cases h

/-- Settles O20: each command's fields stand at places of their own, and every other bit is reserved. -/
theorem hodCommandCodes : Obligations.HodCommandCodes := by
  refine ⟨fun i v hi h => ?_, fun i v hv h => ?_⟩
  · obtain ⟨hr, hd⟩ := decHodOp_encodeHod h
    exact decodeHod_ok.mpr ⟨hr, hd, hi⟩
  · obtain ⟨hr, hd, -⟩ := decodeHod_ok.mp h
    exact encodeHod_decHodOp hv hr hd

end Sys2Proof
end

/-! Register instructions (R157 to R161, R164, R180): each form is its line of the table, over the integers. -/
section

namespace Sys2Proof.Machine

open Sys2Proof.Claims

/-! ## Results over the integers -/

theorem ofInt_toNat_add (x y : Word) : BitVec.ofInt 64 (x.toNat + y.toNat) = x + y := by
  rw [BitVec.ofInt_add, ofInt_of_toNat, ofInt_of_toNat]

theorem ofInt_toNat_sub (x y : Word) : BitVec.ofInt 64 (x.toNat - y.toNat) = x - y := by
  rw [Int.sub_eq_add_neg, BitVec.ofInt_add, BitVec.ofInt_neg, ofInt_of_toNat, ofInt_of_toNat, BitVec.sub_eq_add_neg]

theorem ofInt_toNat_mul (x y : Word) : BitVec.ofInt 64 (x.toNat * y.toNat) = x * y := by
  rw [BitVec.ofInt_mul, ofInt_of_toNat, ofInt_of_toNat]

theorem ofInt_toNat_addi (x : Word) (i : BitVec 14) :
    BitVec.ofInt 64 (x.toNat + i.toInt) = x + BitVec.signExtend 64 i := by
  rw [BitVec.ofInt_add, ofInt_of_toNat]; rfl

theorem ofInt_toNat_shl (x : Word) (n : Nat) : BitVec.ofInt 64 ((x.toNat * 2 ^ n : Nat) : Int) = x <<< n := by
  rw [BitVec.ofInt_natCast, BitVec.shiftLeft_eq_mul_twoPow]
  apply BitVec.eq_of_toNat_eq
  simp [BitVec.toNat_mul, BitVec.toNat_twoPow, Nat.shiftLeft_eq]

theorem ofInt_toNat_shr (x : Word) (n : Nat) : BitVec.ofInt 64 ((x.toNat / 2 ^ n : Nat) : Int) = x >>> n := by
  rw [BitVec.ofInt_natCast]
  apply BitVec.eq_of_toNat_eq
  rw [BitVec.toNat_ushiftRight, Nat.shiftRight_eq_div_pow, BitVec.toNat_ofNat]
  exact Nat.mod_eq_of_lt ((Nat.div_le_self _ _).trans_lt x.isLt)

theorem ofInt_min (x y : Word) : BitVec.ofInt 64 (min x.toInt y.toInt) = if x.slt y then x else y := by
  rw [BitVec.slt]
  split <;> rename_i h <;> simp only [decide_eq_true_eq] at h
  · rw [min_eq_left h.le, ofInt_of_toInt]
  · rw [min_eq_right (by omega), ofInt_of_toInt]

theorem ofInt_max (x y : Word) : BitVec.ofInt 64 (max x.toInt y.toInt) = if x.slt y then y else x := by
  rw [BitVec.slt]
  split <;> rename_i h <;> simp only [decide_eq_true_eq] at h
  · rw [max_eq_right h.le, ofInt_of_toInt]
  · rw [max_eq_left (by omega), ofInt_of_toInt]

theorem ofInt_minu (x y : Word) : BitVec.ofInt 64 ((min x.toNat y.toNat : Nat) : Int) = if x.ult y then x else y := by
  rw [BitVec.ult]
  split <;> rename_i h <;> simp only [decide_eq_true_eq] at h
  · rw [min_eq_left h.le, ofInt_of_toNat]
  · rw [min_eq_right (by omega), ofInt_of_toNat]

theorem ofInt_maxu (x y : Word) : BitVec.ofInt 64 ((max x.toNat y.toNat : Nat) : Int) = if x.ult y then y else x := by
  rw [BitVec.ult]
  split <;> rename_i h <;> simp only [decide_eq_true_eq] at h
  · rw [max_eq_right h.le, ofInt_of_toNat]
  · rw [max_eq_left (by omega), ofInt_of_toNat]

theorem ofInt_lui (i : BitVec 18) : BitVec.ofInt 64 (i.toInt * 2 ^ 14) = BitVec.signExtend 64 i <<< 14 := by
  rw [BitVec.ofInt_mul, BitVec.shiftLeft_eq_mul_twoPow]; rfl

theorem mulHigh_toNat (x y : Word) :
    BitVec.ofInt 64 ((x.toNat * y.toNat / 2 ^ 64 : Nat) : Int) = mulHigh x.toNat y.toNat := by
  rw [mulHigh, ofInt]; push_cast; rfl

/-- The quotient and remainder of the division group over the integers (R157). -/
theorem divSigned_eq (x y : Word) :
    BitVec.ofInt 64 (if y.toInt = 0 then -1 else x.toInt.tdiv y.toInt) = divSigned x y := by
  unfold divSigned
  have : y.toInt = 0 ↔ y = 0#64 := by rw [← BitVec.toInt_inj]; simp
  simp only [this]
  split <;> rfl

theorem divUnsigned_eq (x y : Word) :
    BitVec.ofInt 64 (if y.toNat = 0 then -1 else ((x.toNat / y.toNat : Nat) : Int)) = divUnsigned x y := by
  unfold divUnsigned
  have : y.toNat = 0 ↔ y = 0#64 := by rw [← BitVec.toNat_inj]; simp
  simp only [this]
  split
  · rfl
  · rw [BitVec.ofInt_natCast]

theorem remSigned_eq (x y : Word) :
    BitVec.ofInt 64 (if y.toInt = 0 then x.toInt else x.toInt - y.toInt * x.toInt.tdiv y.toInt) = remSigned x y := by
  unfold remSigned divSigned
  have : y.toInt = 0 ↔ y = 0#64 := by rw [← BitVec.toInt_inj]; simp
  simp only [this]
  split
  · rw [ofInt_of_toInt]
  · rw [Int.sub_eq_add_neg, BitVec.ofInt_add, BitVec.ofInt_neg, BitVec.ofInt_mul, ofInt_of_toInt, ofInt_of_toInt,
      BitVec.sub_eq_add_neg]; rfl

theorem remUnsigned_eq (x y : Word) :
    BitVec.ofInt 64 (if y.toNat = 0 then (x.toNat : Int) else ((x.toNat % y.toNat : Nat) : Int)) = remUnsigned x y := by
  unfold remUnsigned divUnsigned
  have : y.toNat = 0 ↔ y = 0#64 := by rw [← BitVec.toNat_inj]; simp
  simp only [this]
  split
  · rw [ofInt_of_toNat]
  · have hm : ((x.toNat % y.toNat : Nat) : Int) = x.toNat - y.toNat * (x.toNat / y.toNat : Nat) := by
      rw [Int.natCast_mod, Int.emod_def]; push_cast; rfl
    rw [hm, Int.sub_eq_add_neg, BitVec.ofInt_add, BitVec.ofInt_neg, BitVec.ofInt_mul, ofInt_of_toNat, ofInt_of_toNat,
      BitVec.ofInt_natCast, BitVec.sub_eq_add_neg]

/-! ## The forms as lines of the table -/

/-- What a register instruction does: guard, sources, predicates read as data, result in rd. -/
def lineBody (r : RegLine) (x : Ctx) : Body :=
  x.guardedN r.size r.p <| x.needRegs r.regs <|
    match r.preds with
    | [] => x.finish x.s (writeReg x.t r.d (r.val x.t)) r.size
    | q :: _ => (x.readPred q).bind fun _ => x.finish x.s (writeReg x.t r.d (r.val x.t)) r.size

theorem aluReg_eq {s : State} {d a b : Fin 10} {p : Fin 16} {f : Word → Word → Word} {v : Thread → Word}
    (h : ∀ t, v t = f (valOf t a) (valOf t b)) :
    aluReg s d a b p f = runInstr s (lineBody { d := d, regs := [a, b], preds := [], p := p, size := 4, val := v }) := by
  unfold aluReg lineBody
  simp only [h]; rfl

theorem aluOne_eq {s : State} {d a : Fin 10} {p : Fin 16} {f : Word → Word} {v : Thread → Word}
    (h : ∀ t, v t = f (valOf t a)) :
    aluOne s d a p f = runInstr s (lineBody { d := d, regs := [a], preds := [], p := p, size := 4, val := v }) := by
  unfold aluOne lineBody
  simp only [h]; rfl

theorem needRegs_nil (x : Ctx) (k : Body) : x.needRegs [] k = k := by simp [Ctx.needRegs]

theorem exec_regLine {i : Instr} {r : RegLine} (h : regLine i = some r) (s : State) :
    exec i s = runInstr s (lineBody r) := by
  cases i <;> cases h
  case add => exact aluReg_eq fun t => ofInt_toNat_add _ _
  case sub => exact aluReg_eq fun t => ofInt_toNat_sub _ _
  case mul => exact aluReg_eq fun t => ofInt_toNat_mul _ _
  case mulh => exact aluReg_eq (f := fun x y => mulHigh x.toInt y.toInt) fun t => rfl
  case mulhu => exact aluReg_eq (f := fun x y => mulHigh x.toNat y.toNat) fun t => mulHigh_toNat _ _
  case and => exact aluReg_eq fun t => ofFnLE_and _ _
  case or => exact aluReg_eq fun t => ofFnLE_or _ _
  case xor => exact aluReg_eq fun t => ofFnLE_xor _ _
  case shl => exact aluReg_eq (f := fun x y => x <<< shiftAmount y) fun t => ofInt_toNat_shl _ _
  case shr => exact aluReg_eq (f := fun x y => x >>> shiftAmount y) fun t => ofInt_toNat_shr _ _
  case sar => exact aluReg_eq (f := fun x y => x.sshiftRight (shiftAmount y)) fun t => sshiftRight_ofInt _ _
  case min => exact aluReg_eq (f := fun x y => if x.slt y then x else y) fun t => ofInt_min _ _
  case max => exact aluReg_eq (f := fun x y => if x.slt y then y else x) fun t => ofInt_max _ _
  case minu => exact aluReg_eq (f := fun x y => if x.ult y then x else y) fun t => ofInt_minu _ _
  case maxu => exact aluReg_eq (f := fun x y => if x.ult y then y else x) fun t => ofInt_maxu _ _
  case clz => exact aluOne_eq (f := leadingZeros) fun t => leadingZeros_size _
  case popc => exact aluOne_eq (f := popCount) fun t => congrArg (BitVec.ofNat 64) (onesBelow_filter _ 64)
  case addi _ _ _ i => exact aluOne_eq (f := fun x => x + BitVec.signExtend 64 i) fun t => ofInt_toNat_addi _ _
  case andi _ _ _ i => exact aluOne_eq (f := fun x => x &&& BitVec.signExtend 64 i) fun t => ofFnLE_andi _ _
  case ori _ _ _ i => exact aluOne_eq (f := fun x => x ||| BitVec.signExtend 64 i) fun t => ofFnLE_ori _ _
  case xori _ _ _ i => exact aluOne_eq (f := fun x => x ^^^ BitVec.signExtend 64 i) fun t => ofFnLE_xori _ _
  case shli _ _ _ n => exact aluOne_eq (f := fun x => x <<< n.toNat) fun t => ofInt_toNat_shl _ _
  case shri _ _ _ n => exact aluOne_eq (f := fun x => x >>> n.toNat) fun t => ofInt_toNat_shr _ _
  case sari _ _ _ n => exact aluOne_eq (f := fun x => x.sshiftRight n.toNat) fun t => sshiftRight_ofInt _ _
  case rnd => exact aluReg_eq (f := rndWord) fun t => rfl
  case lui d p i =>
    change execLui d p i s = _
    simp only [execLui, lineBody, line0, needRegs_nil, ofInt_lui]; rfl
  case lix d p i =>
    change execLix d p i s = _
    simp only [execLix, lineBody, line0, needRegs_nil]; rfl
  case sel d a b p c =>
    change execSel d a b p c s = _
    unfold execSel lineBody
    congr 1
    funext ⟨s, k, n, x, t⟩
    refine congrArg ((Ctx.mk s k n x t).guarded p) (congrArg ((Ctx.mk s k n x t).needRegs [a, b]) ?_)
    change _ = ((Ctx.mk s k n x t).readPred c).bind _
    by_cases hq : Clean t c
    · rw [readPred_clean hq]; rfl
    · rw [readPred_strict hq]; rfl

/-- The division group in the same way, its slot waiting afterwards (R158). -/
theorem divReg_eq {s : State} {d a b : Fin 10} {p : Fin 16} {f : Word → Word → Word} {v : Thread → Word}
    (h : ∀ t, v t = f (valOf t a) (valOf t b)) :
    divReg s d a b p f = runInstr s fun x => x.guarded p <| x.needRegs [a, b] <|
      (x.done (writeReg x.t d (v x.t))).map fun s1 => waitSlot s1 x.c x.n (.divide (x.s.cycle + 32)) := by
  unfold divReg
  simp only [h]

theorem exec_divLine {i : Instr} {r : RegLine} (h : divLine i = some r) (s : State) :
    exec i s = runInstr s fun x => x.guarded r.p <| x.needRegs r.regs <|
      (x.done (writeReg x.t r.d (r.val x.t))).map fun s1 => waitSlot s1 x.c x.n (.divide (x.s.cycle + 32)) := by
  cases i <;> cases h
  case div => exact divReg_eq (f := divSigned) fun t => divSigned_eq _ _
  case divu => exact divReg_eq (f := divUnsigned) fun t => divUnsigned_eq _ _
  case rem => exact divReg_eq (f := remSigned) fun t => remSigned_eq _ _
  case remu => exact divReg_eq (f := remUnsigned) fun t => remUnsigned_eq _ _

theorem regLine_preds {i : Instr} {r : RegLine} (h : regLine i = some r) : r.preds.length ≤ 1 := by
  cases i <;> cases h <;> simp [line2, line2s, line1, line0, lineBits, line1Bits]

/-- Settles O1: every form runs the body of its line. -/
theorem registerResults : Obligations.RegisterResults := by
  refine ⟨fun i r hr s c n x t h hg hf hc hl => ?_, fun i r hr s c n x t h hg hf q hq hc => ?_,
    fun i r hr s c n x t h hg hf hl => ?_⟩
  · rw [exec_regLine hr, runInstr_at h, lineBody, guardedN_holds _ _ hg, needRegs_full _ hf]
    split
    next => rw [finish_ok _ hl, settleBody_ok]
    next q _ hp => rw [readPred_clean (hc q (by simp [hp])), Except.bind, finish_ok _ hl, settleBody_ok]
  · rw [exec_regLine hr, runInstr_at h, lineBody, guardedN_holds _ _ hg, needRegs_full _ hf]
    have hlen := regLine_preds hr
    obtain ⟨q', hq'⟩ : ∃ k, r.preds = [k] := List.length_eq_one_iff.mp (by have := List.length_pos_of_mem hq; omega)
    obtain rfl : q = q' := by simpa [hq'] using hq
    simp only [hq']
    rw [readPred_strict hc]
    rfl
  · rw [exec_divLine hr, runInstr_at h, guarded_holds _ hg, needRegs_full _ hf, done_ok hl]
    rfl

end Sys2Proof.Machine
end

/-! Compares and predicate instructions (R155, R162, R163): each form is its line, with the taints that it reads. -/
section

namespace Sys2Proof.Machine

open Sys2Proof.Claims

/-- The integer conditions of R162 on the words. -/
theorem ccInt_eq_condition {c : Cc} (h : c.intOk = true) (x y : Word) :
    ccInt c x y = condition c x.toNat y.toNat x.toInt y.toInt := by
  have heq : (x == y) = decide (x.toNat = y.toNat) := by
    rw [beq_eq_decide]; exact decide_eq_decide.mpr BitVec.toNat_inj.symm
  cases c
  case un | ord => cases h
  all_goals simp only [ccInt, condition, BitVec.slt, BitVec.ult, bne, heq, ← decide_not, not_lt, ne_eq]

/-- Predicates read one after the other, each of which may be the determinism trap (R22). -/
def readPreds (x : Ctx) : List Nat → Body → Body
  | [], k => k
  | q :: qs, k => (x.readPred q).bind fun _ => readPreds x qs k

/-- What a predicate instruction does. -/
def predBody (r : PredLine) (x : Ctx) : Body :=
  x.guarded r.p <| x.needRegs r.regs <| readPreds x r.preds <| x.writePred r.d (r.val x.t) (r.taint x.t)

/-- A predicate that is read has its value in the thread. -/
theorem readPred_bind (x : Ctx) (q : Nat) (f : Bool → Body) :
    (x.readPred q).bind f = (x.readPred q).bind fun _ => f (predOf x.t q) := by
  obtain ⟨s, c, n, x, t⟩ := x
  by_cases h : Clean t q
  · rw [readPred_clean h]; rfl
  · rw [readPred_strict h]; rfl

theorem predTwo_eq {s : State} {d a b p : Fin 16} {f : Bool → Bool → Bool} :
    predTwo s d a b p f =
      runInstr s (predBody ⟨d, [], [a, b], p, fun t => f (predOf t a) (predOf t b)⟩) := by
  unfold predTwo predBody
  congr 1
  funext x
  rw [needRegs_nil]
  refine congrArg (x.guarded p) ?_
  refine (readPred_bind x a _).trans (congrArg _ (funext fun _ => (readPred_bind x b _).trans ?_))
  simp [readPreds, PredLine.taint, Bool.or_assoc]

theorem predOne_eq {s : State} {d a p : Fin 16} {f : Bool → Bool} :
    predOne s d a p f = runInstr s (predBody ⟨d, [], [a], p, fun t => f (predOf t a)⟩) := by
  unfold predOne predBody
  congr 1
  funext x
  rw [needRegs_nil]
  refine congrArg (x.guarded p) ((readPred_bind x a _).trans ?_)
  simp [readPreds, PredLine.taint]

theorem exec_predLine {i : Instr} {r : PredLine} (h : predLine i = some r) (hi : wellFormed i = true) (s : State) :
    exec i s = runInstr s (predBody r) := by
  cases i <;> cases h
  case cmp d a b p c =>
    change execCmp d a b p c s = _
    unfold execCmp predBody
    simp only [ccInt_eq_condition hi, readPreds, PredLine.taint, List.any_cons, List.any_nil, Bool.or_false]
  case cmpi d a p c i =>
    have hs : (BitVec.signExtend 64 i).toInt = i.toInt := BitVec.toInt_signExtend_of_le (by omega)
    change execCmpi d a p c i s = _
    unfold execCmpi predBody
    simp only [ccInt_eq_condition hi, readPreds, PredLine.taint, List.any_cons, List.any_nil, Bool.or_false, hs]
  case pand => exact predTwo_eq
  case por => exact predTwo_eq
  case pxor => exact predTwo_eq
  case pnot => exact predOne_eq
  case pmov => exact predOne_eq (f := fun u => u)

section
variable {s : State} {c n : Nat} {x : Slot} {t : Thread}

theorem readPreds_clean {qs : List Nat} (k : Body) (h : ∀ q ∈ qs, Clean t q) : readPreds (Ctx.mk s c n x t) qs k = k := by
  induction qs with
  | nil => rfl
  | cons q qs ih =>
    simp only [List.forall_mem_cons] at h
    rw [readPreds, readPred_clean h.1, Except.bind, ih h.2]

/-- The first tainted predicate under STRICT traps. -/
theorem readPreds_strict {qs : List Nat} {q : Nat} (k : Body)
    (h : qs.find? (fun k => strictOf t && taintOf t k) = some q) :
    readPreds (Ctx.mk s c n x t) qs k =
      (Ctx.mk s c n x t).trap 0x09 (BitVec.setWidth 64 t.pw) (BitVec.ofNat 64 q) := by
  induction qs with
  | nil => cases h
  | cons a qs ih =>
    rw [readPreds]
    cases ha : (strictOf t && taintOf t a)
    · have hc : Clean t a := by simpa [Clean] using ha
      rw [List.find?_cons_of_neg (by simp [ha])] at h
      rw [readPred_clean hc, Except.bind, ih h]
    · have hc : ¬Clean t a := by simpa [Clean] using ha
      rw [List.find?_cons_of_pos (by simp [ha])] at h
      cases h
      rw [readPred_strict hc]; rfl

end

theorem not_strictWrite_of_clean {t : Thread} {r : PredLine} (hg : Clean t r.p) (hc : ∀ q ∈ r.preds, Clean t q) (d : Nat) :
    ¬StrictWrite t d (r.taint t) := by
  rintro ⟨ht, -, -, hs⟩
  simp only [PredLine.taint, List.any_cons, Bool.or_eq_true, List.any_eq_true] at ht
  rcases ht with ht | ⟨q, hq, ht⟩
  · exact hg ⟨hs, ht⟩
  · exact hc q hq ⟨hs, ht⟩

/-- Settles O2: every form runs the body of its line. -/
theorem predicateResults : Obligations.PredicateResults := by
  intro i r hr hi s c n x t h
  rw [exec_predLine hr hi, runInstr_at h, predBody]
  refine ⟨fun hg hf hc hl => ?_, fun hg => ?_, fun hg hf q hq => ?_⟩
  · rw [guarded_holds _ hg, needRegs_full _ hf, readPreds_clean _ hc, writePred_ok (not_strictWrite_of_clean hg.1 hc _),
      done_ok hl, settleBody_ok]
  · rw [Ctx.guarded, guardedN_strict _ _ hg]; rfl
  · rw [guarded_holds _ hg, needRegs_full _ hf, readPreds_strict _ hq]; rfl

end Sys2Proof.Machine
end

/-! Transfers of control and the hardware loop (R126, R131, R165 to R169). -/
section

namespace Sys2Proof.Machine

open Sys2Proof.Claims

/-- Four times an offset, sign-extended (R131). -/
theorem ofInt_four_mul {w : Nat} (o : BitVec w) : BitVec.ofInt 64 (4 * o.toInt) = BitVec.signExtend 64 o <<< 2 := by
  rw [BitVec.ofInt_mul, BitVec.shiftLeft_eq_mul_twoPow, BitVec.mul_comm]; rfl

theorem pcTarget_eq {w : Nat} (pc : Pc) (o : BitVec w) : pcTarget pc o.toInt = pcRel pc o := by
  have hp : BitVec.ofInt 64 (pc.toNat : Int) = BitVec.setWidth 64 pc := by
    rw [BitVec.ofInt_natCast]
    apply BitVec.eq_of_toNat_eq
    simp
  rw [pcTarget, pcRel, BitVec.ofInt_add, ofInt_four_mul, hp]

/-- What a branch does (R165). -/
def branchBody (r : BranchLine) (x : Ctx) : Body :=
  readPreds x r.preds <| if r.taken x.t then x.jump x.t (pcTarget x.t.pc r.off) else x.done x.t

theorem exec_branchLine {i : Instr} {r : BranchLine} (h : branchLine i = some r) (s : State) :
    exec i s = runInstr s (branchBody r) := by
  cases i <;> cases h
  case br o =>
    change execBr o s = _
    unfold execBr branchBody
    simp only [readPreds, pcTarget_eq, if_true]
  case bp p o =>
    change execBp p o s = _
    unfold execBp branchBody
    simp only [pcTarget_eq]
    exact congrArg _ (funext fun x => readPred_bind x p _)
  case bpN p o =>
    change execBpN p o s = _
    unfold execBpN branchBody
    simp only [pcTarget_eq]
    exact congrArg _ (funext fun x => readPred_bind x p _)
  case btag g o =>
    change execBtag g o s = _
    unfold execBtag branchBody
    simp only [readPreds, pcTarget_eq]; rfl
  case btagN g o =>
    change execBtagN g o s = _
    unfold execBtagN branchBody
    simp only [readPreds, pcTarget_eq]; rfl

/-- A branch reads one predicate at most. -/
theorem branchLine_preds {i : Instr} {r : BranchLine} (h : branchLine i = some r) {q : Nat} (hq : q ∈ r.preds) :
    r.preds = [q] := by
  cases i <;> cases h <;> simp_all

section
variable {s : State} {c n : Nat} {x : Slot} {t u : Thread}

/-- A transfer of control whose target fails its check (R126, R356). -/
theorem jump_fails {a : Nat} {e : TrapInfo} (h : checkTarget s c n t.pc a = .error e) :
    (targetWaits s c n e = false → settleBody c n ((Ctx.mk s c n x t).jump u a) = takeTrap s c n e none) ∧
    (targetWaits s c n e = true → settleBody c n ((Ctx.mk s c n x t).jump u a) =
      { waitSlot s c n .drain with stalled := true }) := by
  unfold Ctx.jump
  simp only [h]
  constructor <;> intro hw <;> simp only [hw] <;> rfl

/-- An instruction that is a checked transfer to `a` fails with its target. -/
theorem targetFails_of_jump {i : Instr} {a : Nat}
    (h : exec i s = .next (settleBody c n ((Ctx.mk s c n x t).jump u a))) : TargetFails i s c n t a := fun e he =>
  ⟨fun hw => by rw [h, (jump_fails he).1 hw], fun hw => by rw [h, (jump_fails he).2 hw]⟩

theorem exec_of_jump_ok {i : Instr} {a : Nat} (h : exec i s = .next (settleBody c n ((Ctx.mk s c n x t).jump u a)))
    (hk : TargetOk s c n t.pc a) : exec i s = .next (withThread s c n { u with pc := BitVec.ofNat 48 a }) := by
  rw [h, jump_ok hk, settleBody_ok]

end

theorem setWidth_pc_add_four (pc : Pc) : BitVec.setWidth 64 pc + 4#64 = BitVec.ofNat 64 (pc.toNat + 4) := by
  apply BitVec.eq_of_toNat_eq
  simp

/-- Settles O3: each transfer is a checked jump to its target. -/
theorem controlTransfers : Obligations.ControlTransfers := by
  refine ⟨fun i r hr s c n x t h => ?_, fun s c n x t h => ⟨fun d o => ?_, fun a p k hg hf => ?_, fun a p hg hf => ?_⟩⟩
  · have he : exec i s = .next (settleBody c n (branchBody r (Ctx.mk s c n x t))) := by
      rw [exec_branchLine hr, runInstr_at h]
    refine ⟨fun q hq hc => ?_, fun hc => ?_⟩
    · have hs : r.preds.find? (fun k => strictOf t && taintOf t k) = some q := by
        rw [branchLine_preds hr hq]; simpa [Clean] using hc
      rw [he, branchBody, readPreds_strict _ hs]; rfl
    · rw [branchBody, readPreds_clean _ hc] at he
      refine ⟨fun ht hk => ?_, fun ht hl => ?_, fun ht => ?_⟩
      · rw [ht, if_pos rfl] at he
        exact exec_of_jump_ok he hk
      · rw [he, ht, if_neg Bool.false_ne_true, done_ok hl, settleBody_ok]
      · rw [ht, if_pos rfl] at he
        exact targetFails_of_jump he
  · have he : exec (.call d o) s = .next (settleBody c n ((Ctx.mk s c n x t).jump
        (writeReg t d (BitVec.ofNat 64 (t.pc.toNat + 4))) (pcTarget t.pc o.toInt))) := by
      change execCall d o s = _
      rw [execCall, runInstr_at h, pcTarget_eq, setWidth_pc_add_four]
    exact ⟨exec_of_jump_ok he, targetFails_of_jump he⟩
  · have he : exec (.jr a p k) s = .next (settleBody c n ((Ctx.mk s c n x t).jump t
        (BitVec.ofInt 64 ((valOf t a).toNat + 4 * k.toInt)).toNat)) := by
      change execJr a p k s = _
      rw [execJr, runInstr_at h, guarded_holds _ hg, needRegs_full _ hf, BitVec.ofInt_add, ofInt_of_toNat, ofInt_four_mul]
    exact ⟨exec_of_jump_ok he, targetFails_of_jump he⟩
  · have he : exec (.ret a p) s = .next (settleBody c n ((Ctx.mk s c n x t).jump t (valOf t a).toNat)) := by
      change execRet a p s = _
      rw [execRet, runInstr_at h, guarded_holds _ hg, needRegs_full _ hf]
    exact ⟨exec_of_jump_ok he, targetFails_of_jump he⟩

/-! ## The hardware loop -/

theorem leNat_lt (bs : List Byte) : leNat bs < 256 ^ bs.length := by
  induction bs with
  | nil => simp [leNat]
  | cons b bs ih =>
    have := b.isLt
    rw [leNat, List.length_cons, pow_succ]
    omega

theorem length_codeBytes (s : State) (tid k n : Nat) : (codeBytes s tid k n).length = n := by
  induction n generalizing k with
  | zero => rfl
  | succ n ih => rw [codeBytes, List.length_cons, ih]

theorem length_fetchCode {s : State} {c n a len : Nat} {bs : List Byte} (h : fetchCode s c n a len = .ok bs) :
    bs.length = len := by
  unfold fetchCode at h
  repeat' split at h
  all_goals cases h
  exact length_codeBytes _ _ _ _

/-- The size of an instruction by its first word (R124, R137, R138). -/
theorem bytesOfInstr_eq {w : Nat} (h : w < 2 ^ 32) : bytesOfInstr w = 4 * wordCount w := by
  have hb : bits w 31 26 = w / 2 ^ 26 := by
    rw [bits]
    omega
  unfold bytesOfInstr wordCount
  rw [hb]
  split
  next h0 => simp only [h0]
  next h0 =>
    split
    next h1 => simp only [h1]
    next h1 => split <;> simp_all

section
variable {s : State} {c n : Nat} {x : Slot} {t : Thread} {k : Nat} {e : BitVec 16}

/-- A count of 1 or more sets the loop registers. -/
theorem startLoop_set (hk : k ≠ 0) : (Ctx.mk s c n x t).startLoop k e = (Ctx.mk s c n x t).done (loopSet t k e.toNat) := by
  rw [Ctx.startLoop, if_neg hk]; rfl

/-- A count of 0 skips the body by the word at its end. -/
theorem startLoop_zero {bs : List Byte} (hb : fetchCode s c n (t.pc + BitVec.ofNat 48 (4 * e.toNat)).toNat 4 = .ok bs) :
    (Ctx.mk s c n x t).startLoop 0 e = (Ctx.mk s c n x t).jump (loopSet t 0 e.toNat)
      ((t.pc + BitVec.ofNat 48 (4 * e.toNat)).toNat + bytesOfInstr (leNat bs)) := by
  have hlt : leNat bs < 2 ^ 32 := by simpa [length_fetchCode hb] using leNat_lt bs
  rw [Ctx.startLoop, if_pos rfl, bytesOfInstr_eq hlt]
  simp only [hb]
  rfl

end

/-- Settles O4: LOOP and LOOPX start their loop with the count of a register or of the instruction. -/
theorem loopSetup : Obligations.LoopSetup := by
  intro i s c n x t k e h hi
  have hstart : e ≠ 0#16 → k < 2 ^ 32 → exec i s = .next (settleBody c n ((Ctx.mk s c n x t).startLoop k e)) := by
    intro he hk
    rcases hi with ⟨a, rfl, hf, rfl⟩ | ⟨m, rfl, rfl⟩
    · change execLoop a e s = _
      rw [execLoop, runInstr_at h]
      simp only [if_neg he]
      rw [needRegs_full _ hf, if_neg (by omega)]
    · change execLoopx m e s = _
      rw [execLoopx, runInstr_at h]
      simp only [if_neg he]
  refine ⟨fun he h0 hk hl => ?_, fun he h0 bs hb => ?_, fun he hk a ha => ?_, fun he => ?_⟩
  · rw [hstart he hk, startLoop_set (by omega), done_ok hl, settleBody_ok]
  · subst h0
    intro y hy
    rw [hstart he (by omega), startLoop_zero hb, jump_ok hy, settleBody_ok]
  · rcases hi with ⟨b, rfl, hf, rfl⟩ | ⟨m, rfl, -⟩
    · cases ha
      change execLoop a e s = _
      rw [execLoop, runInstr_at h]
      simp only [if_neg he]
      rw [needRegs_full _ hf, if_pos hk]
      simp only [BitVec.ofNat_toNat, BitVec.setWidth_eq]; rfl
    · cases ha
  · subst he
    rcases hi with ⟨a, rfl, -⟩ | ⟨m, rfl, -⟩
    · change execLoop a 0#16 s = _
      rw [execLoop, runInstr_at h]; rfl
    · change execLoopx m 0#16 s = _
      rw [execLoopx, runInstr_at h]; rfl

end Sys2Proof.Machine
end

/-! Scalar floating point (R154, R171 to R177): arithmetic, conversion and FCMP as lines of the tables. -/
section

namespace Sys2Proof.Machine

open Sys2Proof.Claims

/-- The D core of a cluster (R10). -/
theorem isDCore_of_mod {c : Nat} (h : c % 8 = 7) : isDCore c = true := by simpa [isDCore, Config.coresPerCluster] using h

/-- An instruction that needs a D core runs its body there (R176). -/
def dBody (dx : Bool) (k : Ctx → Body) (x : Ctx) : Body := if dx then x.onD (k x) else k x

theorem dBody_here {s : State} {c n : Nat} {x : Slot} {t : Thread} {dx : Bool} (k : Ctx → Body) (h : dx = true → c % 8 = 7) :
    dBody dx k (Ctx.mk s c n x t) = k (Ctx.mk s c n x t) := by
  unfold dBody
  split
  next hd => exact onD_here _ (isDCore_of_mod (h hd))
  next => rfl

/-- What a floating-point instruction with a result in rd does. -/
def floatBody (r : FloatLine) (x : Ctx) : Body :=
  x.guarded r.p <| x.needRegs r.regs <| x.done (addFlags (writeReg x.t r.d (r.out x.t).1) (r.out x.t).2)

theorem exec_floatLine {i : Instr} {r : FloatLine} (h : floatLine i = some r) (s : State) :
    exec i s = runInstr s (dBody r.dExt (floatBody r)) := by
  cases i <;> cases h <;> rfl

/-- Settles O5: every form runs the body of its line. -/
theorem floatResults : Obligations.FloatResults := by
  intro i r hr s c n x t h hd hg hf u hl
  rw [exec_floatLine hr, runInstr_at h, dBody_here _ hd, floatBody, guarded_holds _ hg, needRegs_full _ hf]
  exact congrArg (fun b => Host.Outcome.next (settleBody c n b)) (done_ok hl)

/-! ## FCMP -/

theorem value_eq_nan_iff {f : FF} {x : Nat} : f.value x = .nan ↔ f.isNan x = true := by
  unfold FF.value
  dsimp only
  split
  next h => simp [h]
  next h =>
    simp only [h, Bool.false_eq_true, iff_false]
    repeat' split
    all_goals simp

theorem evLt_nan {x y : EV} (h : x = .nan ∨ y = .nan) : evLt x y = false := by
  rcases h with rfl | rfl
  · rfl
  · cases x <;> rfl

theorem evEq_nan {x y : EV} (h : x = .nan ∨ y = .nan) : evEq x y = false := by
  rcases h with rfl | rfl <;> simp [evEq]

/-- The conditions of R174 on the exact values, for the conditions that FCMP has. -/
theorem ccFp_eq_condition {c : Cc} (h : c.fpOk = true) (f : FF) (y z : Nat) :
    ccFp c (f.value y) (f.value z) = fpCondition c (f.isNan y || f.isNan z) (evEq (f.value y) (f.value z))
      (evLt (f.value y) (f.value z)) (evLt (f.value z) (f.value y)) := by
  have hun : (f.value y == .nan || f.value z == .nan) = (f.isNan y || f.isNan z) := by
    rw [Bool.eq_iff_iff]
    simp [value_eq_nan_iff]
  cases hu : (f.isNan y || f.isNan z)
  · cases c
    case ltu | geu | leu | gtu => cases h
    all_goals simp [ccFp, fpCondition, hun, hu]
  · have hn : f.value y = .nan ∨ f.value z = .nan := by simpa [value_eq_nan_iff] using hu
    cases c
    case ltu | geu | leu | gtu => cases h
    all_goals simp [ccFp, fpCondition, hun, hu, evLt_nan hn, evLt_nan hn.symm, evEq_nan hn]

theorem fpCmp_flags {c : Cc} (f : FF) (y z : Nat) : (fpCmp f c y z).2 = fpCompareFlags f c y z := by
  have hs : ccSignals c = (c == .lt || c == .ge || c == .le || c == .gt) := by cases c <;> rfl
  simp only [fpCmp, fpCompareFlags, hs, flagNV, List.any_cons, List.any_nil, Bool.or_false]

/-- The rows of FCMP: the arithmetic formats on every core, FP64 in the D extension. -/
theorem exec_cmpLine {i : Instr} {f : FF} {dx : Bool} {d : Fin 16} {a b : Fin 10} {p : Fin 16} {k : Cc}
    (h : cmpLine i = some (f, dx, d, a, b, p, k)) (hi : wellFormed i = true) (s : State) :
    exec i s = runInstr s (dBody dx fun x => x.fpCompare f d a b p k) ∧ k.fpOk = true := by
  cases i <;> cases h <;> exact ⟨rfl, hi⟩

/-- Settles O7: FCMP writes the condition of the exact values; its flags do not change where it goes on. -/
theorem floatCompare : Obligations.FloatCompare := by
  intro i f dx d a b p k hk hi s c n x t h hd hg hf y z v u hl
  obtain ⟨he, hok⟩ := exec_cmpLine hk hi s
  have hr : fpCmp f k y z = (v, fpCompareFlags f k y z) :=
    Prod.ext (ccFp_eq_condition hok f y z) (fpCmp_flags f y z)
  have hstrict : ¬StrictWrite (addFlags t (fpCompareFlags f k y z)) d.val (taintOf t p) := fun ⟨ht, _, _, hs⟩ => hg.1 ⟨hs, ht⟩
  have hw : (Ctx.mk s c n x (addFlags t (fpCompareFlags f k y z))).writePred d v (taintOf t p) =
      .ok (completed s c n (addFlags t (fpCompareFlags f k y z)) u 4) :=
    (writePred_ok hstrict).trans (done_ok hl)
  rw [he, runInstr_at h, dBody_here _ hd, Ctx.fpCompare, guarded_holds _ hg, needRegs_full _ hf]
  change Host.Outcome.next (settleBody c n
    ((Ctx.mk s c n x (addFlags t (fpCmp f k y z).2)).writePred d (fpCmp f k y z).1 (taintOf t p))) = _
  rw [hr, hw]
  rfl

end Sys2Proof.Machine
end

/-! Visits to a D core (R37, R176, R329). -/
section

namespace Sys2Proof.Machine

open Sys2Proof.Claims

/-- An instruction of the D extension asks for a D core before anything else (R142 step 3). -/
theorem exec_dExt {i : Instr} (h : isDExt i = true) (s : State) : ∃ k : Ctx → Body, exec i s = runInstr s fun x => x.onD (k x) := by
  cases i <;> cases h
  case faddF64 d a b p m => exact ⟨fun x => x.fpTwo ffF64 d a b p (fpAdd ffF64 m), rfl⟩
  case fmulF64 d a b p m => exact ⟨fun x => x.fpTwo ffF64 d a b p (fpMul ffF64 m), rfl⟩
  case ffmaF64 d a b p m => exact ⟨fun x => x.fpThree ffF64 d a b p m, rfl⟩
  case fminF64 d a b p => exact ⟨fun x => x.fpTwo ffF64 d a b p (fpMin ffF64), rfl⟩
  case fcmpF64 d a b p k => exact ⟨fun x => x.fpCompare ffF64 d a b p k, rfl⟩
  case fcvtF64 d a b p f g m => exact ⟨fun x => x.fpConvert d a b p f g m, rfl⟩

section
variable {s : State} {c n : Nat} {x : Slot} {t : Thread} (hc : c % 8 ≠ 7) (hr : anyReserved t = false)
  (hp : pending s c n = false)
include hc hr hp

theorem onD_away (k : Body) : (Ctx.mk s c n x t).onD k = (Ctx.mk s c n x t).deliverHeld s (.error (.gone
    (modSlot (postHere s c n (c / 8 * 8 + 7) .request
      (.visit { t with pw := t.pw ||| 0x20000000#32 } c n x.asid.toNat)) c n fun y =>
      { restSlot y with st := .visiting, wait := .none, age := 0, thread := none }))) := by
  have hD : isDCore c = false := by simpa [isDCore, Config.coresPerCluster] using hc
  simp only [Ctx.onD, hD, hr, hp, Bool.or_self, Bool.false_eq_true, if_false]
  rfl

end

section
variable {s : State} {c n : Nat} {x : Slot} {t : Thread}

theorem deliverHeld_none {s1 : State} {k : Body} (h : t.held = none) : (Ctx.mk s c n x t).deliverHeld s1 k = k := by
  simp only [Ctx.deliverHeld, h]

theorem deliverHeld_some {s1 : State} {k : Body} {e : HeldErr} (h : t.held = some e) :
    (Ctx.mk s c n x t).deliverHeld s1 k =
      .error (.trap (modThread s1 c n fun u => { u with held := none }) (heldTrap e) none) := by
  simp only [Ctx.deliverHeld, h]

/-- A message within the device that takes no egress space stands behind the others. -/
theorem postHere_eq (s : State) (c n d : Nat) (net : Net) (b : MsgBody) :
    postHere s c n d net b =
      { s with net := s.net ++ [mkMsg s c n s.pkg.dev.toNat d net false b], uid := s.uid + 1 } :=
  putMsg_here _ _ (.inr rfl)

end

/-- Settles O9: away from a D core the thread departs, after a held error is delivered. -/
theorem floatVisits : Obligations.FloatVisits := by
  intro i hi s c n x t h hc hr hp
  obtain ⟨k, hk⟩ := exec_dExt hi s
  have he : exec i s = .next (settleBody c n ((Ctx.mk s c n x t).onD (k (Ctx.mk s c n x t)))) := by rw [hk, runInstr_at h]
  rw [onD_away hc hr hp] at he
  refine ⟨fun hh => ?_, fun e hh => ?_⟩
  · rw [deliverHeld_none hh, settleBody_gone, postHere_eq] at he
    refine ⟨_, he, by simp, by simp, rfl, fun d m hdm => slotOf_modSlot_other _ _ _ _ _ _ hdm, _, rfl, ?_⟩
    exact ⟨rfl, rfl, rfl, rfl, rfl, rfl, rfl⟩
  · rw [deliverHeld_some hh, settleBody_trap] at he
    exact he

end Sys2Proof.Machine
end

/-! The checks of an instruction in their order: level, guard, source registers (R130, R136, R142). -/
section

namespace Sys2Proof.Machine

open Sys2Proof.Claims

/-- An instruction is what its body comes to. -/
theorem runInstr_of_body {s : State} {c n : Nat} {x : Slot} {t : Thread} {body : Ctx → Body} {b : Body} (h : At s c n x t)
    (hb : body (Ctx.mk s c n x t) = b) : runInstr s body = .next (settleBody c n b) := by
  rw [runInstr_at h, hb]

theorem visitFrom_atHome {s : State} {c n : Nat} {x : Slot} {t : Thread} (h : AtHome s c n x t) :
    (slotOf s c n).visitFrom = none := by
  obtain ⟨⟨-, hx, -⟩, hv⟩ := h
  rw [hx, hv]

section
variable {s : State} {c n : Nat} {x : Slot} {t : Thread}

/-- The instruction comes to its guard, and behind it to its source registers. -/
def GuardsSources (o : Host.Outcome State Fault Refusal) (s : State) (c n : Nat) (x : Slot) (t : Thread) (size p : Nat)
    (rs : List Nat) : Prop :=
  ∃ k : Body, o = .next (settleBody c n ((Ctx.mk s c n x t).guardedN size p ((Ctx.mk s c n x t).needRegs rs k)))

theorem GuardsSources.of_body {body : Ctx → Body} {size p : Nat} {rs : List Nat} {k : Body} (h : At s c n x t)
    (hb : body (Ctx.mk s c n x t) = (Ctx.mk s c n x t).guardedN size p ((Ctx.mk s c n x t).needRegs rs k)) :
    GuardsSources (runInstr s body) s c n x t size p rs :=
  ⟨k, runInstr_of_body h hb⟩

/-- One without sources. -/
theorem GuardsSources.of_nil {body : Ctx → Body} {size p : Nat} {k : Body} (h : At s c n x t)
    (hb : body (Ctx.mk s c n x t) = (Ctx.mk s c n x t).guardedN size p k) :
    GuardsSources (runInstr s body) s c n x t size p [] :=
  ⟨k, by rw [needRegs_nil]; exact runInstr_of_body h hb⟩

/-- A register run among the sources (R195). -/
theorem needRun_eq (y : Ctx) (a : Fin 10) (others : List Nat) (k : Body) :
    ∃ k', y.needRun a others k = y.needRegs (sourceLine.runLine a ++ others) k' := by
  unfold Ctx.needRun sourceLine.runLine
  split <;> exact ⟨_, rfl⟩

theorem GuardsSources.of_run {body : Ctx → Body} {size p : Nat} {a : Fin 10} {others : List Nat} {k : Body} (h : At s c n x t)
    (hb : body (Ctx.mk s c n x t) = (Ctx.mk s c n x t).guardedN size p ((Ctx.mk s c n x t).needRun a others k)) :
    GuardsSources (runInstr s body) s c n x t size p (sourceLine.runLine a ++ others) := by
  obtain ⟨k', hk⟩ := needRun_eq (Ctx.mk s c n x t) a others k
  exact ⟨k', runInstr_of_body h (by rw [hb, hk])⟩

/-- A listed CSR at the level that its number asks. -/
theorem csrLevel_reached {num : Nat} {k : Body} (hl : csrListed n num = true) (hv : (slotOf s c n).visitFrom = none)
    (h : levelHeld n (if 0x200 ≤ num ∧ num ≤ 0x2FF ∧ num ≠ 0x262 then .platform else .supervisor)) :
    (Ctx.mk s c n x t).csrLevel num k = k := by
  split at h
  next =>
    have hn : n = 0 := h
    exact csrLevel_ok hl hv (by omega) fun _ => hn
  next hp => exact csrLevel_ok hl hv h fun h4 => absurd (by simpa [platformCsr, and_assoc] using h4) hp

variable (h : AtHome s c n x t)
include h

theorem guardsSources_of_guardLine {i : Instr} {p : Fin 16} {size : Nat} (hi : guardLine i = some (p, size))
    (hr : ReachesGuard i s c n) : GuardsSources (exec i s) s c n x t size p (sourceLine i) := by
  obtain ⟨hlev, hd, hm⟩ := hr
  have hv := visitFrom_atHome h
  cases i <;> cases hi
  case add | sub | mul | mulh | mulhu | div | divu | rem | remu | and | or | xor | shl | shr | sar | min | max | minu | maxu
      | clz | popc | addi | andi | ori | xori | shli | shri | sari | cmp | cmpi | sel | rnd | fadd | fmul | ffma | fmin | fcmp
      | fcvt | ld | st | ldAcq | stRel | stn | watch | join | prio | put | send | waitt | waitlim | trap | jr | ret =>
    dsimp only [exec, execAdd, execSub, execMul, execMulh, execMulhu, execDiv, execDivu, execRem, execRemu, execAnd, execOr,
      execXor, execShl, execShr, execSar, execMin, execMax, execMinu, execMaxu, execClz, execPopc, execAddi, execAndi,
      execOri, execXori, execShli, execShri, execSari, execCmp, execCmpi, execSel, execRnd, execFadd, execFmul, execFfma,
      execFmin, execFcmp, execFcvt, execLd, execSt, execLdAcq, execStRel, execStn, execWatch, execJoin, execPrio, execPut,
      execSend, execWaitt, execWaitlim, execTrap, execJr, execRet, aluReg, aluOne, divReg]
    exact .of_body h.1 rfl
  case lui | lix | pand | por | pxor | pnot | pmov | exit | yield | fence | time | ebreak =>
    dsimp only [exec, execLui, execLix, execPand, execPor, execPxor, execPnot, execPmov, predTwo, predOne, execExit, execYield,
      execFence, execTime, execEbreak]
    exact .of_nil h.1 rfl
  case sendm =>
    dsimp only [exec, execSendm]
    exact .of_run h.1 rfl
  case spawn | ldn | subs =>
    dsimp only [exec, execSpawn, execLdn, execSubs]
    exact .of_body h.1 (atHome_home _ h.2)
  case seed =>
    dsimp only [exec, execSeed]
    exact .of_nil h.1 (atHome_home _ h.2)
  case fork =>
    dsimp only [exec, execFork]
    exact .of_run h.1 (atHome_home _ h.2)
  case enq d a b =>
    dsimp only [exec, execEnq]
    exact .of_run h.1 (if_neg (Nat.not_lt.mpr hm))
  case amo d a b an sc w o =>
    dsimp only [exec, execAmo]
    have hs : sourceLine (.amo d a b p an sc w o) = [a.val, b.val] ++ if o = .cas then [d.val] else [] := by
      change (if o = .cas then [a.val, b.val, d.val] else [a.val, b.val]) = _
      split <;> rfl
    rw [hs]
    exact .of_body h.1 (atHome_home _ h.2)
  case go =>
    dsimp only [exec, execGo]
    exact .of_body h.1 (congrArg _ (atHome_home _ h.2))
  case tret =>
    dsimp only [exec, execTret]
    exact .of_nil h.1 ((atHome_home _ h.2).trans (needS_super _ hv hlev))
  case idle =>
    dsimp only [exec, execIdle]
    exact .of_nil h.1 (needS_super _ hv hlev)
  case tlbi | asidset =>
    dsimp only [exec, execTlbi, execAsidset]
    exact .of_body h.1 (needS_super _ hv hlev)
  case kill | preempt | resume =>
    dsimp only [exec, execKill, execPreempt, execResume]
    exact .of_body h.1 ((atHome_home _ h.2).trans (needS_super _ hv hlev))
  case dbghalt =>
    dsimp only [exec, execDbghalt]
    exact .of_body h.1 ((atHome_home _ h.2).trans (needP_platform _ hv hlev))
  case ecall d a =>
    dsimp only [exec, execEcall]
    change GuardsSources _ s c n x t 4 p (if 6 < a.val then [] else (List.range 4).map (a.val + ·))
    split
    next => exact .of_nil h.1 (atHome_home _ h.2)
    next => exact .of_body h.1 (atHome_home _ h.2)
  case errinj =>
    dsimp only [exec, execErrinj]
    dsimp only [levelAsked] at hlev
    by_cases he : eieOf s c = true
    · exact .of_body h.1 (if_pos he)
    · rw [if_neg he] at hlev
      exact .of_body h.1 ((if_neg he).trans (needS_super _ hv hlev))
  case csrr =>
    dsimp only [exec, execCsrr]
    exact .of_nil h.1 (if_neg (Nat.not_le.mpr hm))
  case csrw =>
    dsimp only [exec, execCsrw]
    exact .of_body h.1 (if_neg (Nat.not_le.mpr hm))
  case csrrp =>
    dsimp only [exec, execCsrrp]
    exact .of_nil h.1 (csrLevel_reached hm hv hlev)
  case csrwp =>
    dsimp only [exec, execCsrwp]
    exact .of_body h.1 (csrLevel_reached hm hv hlev)
  case faddF64 | fmulF64 | ffmaF64 | fminF64 | fcmpF64 | fcvtF64 =>
    dsimp only [exec, execFaddF64, execFmulF64, execFfmaF64, execFminF64, execFcmpF64, execFcvtF64]
    exact .of_body h.1 (onD_here _ (isDCore_of_mod (hd rfl)))

end

theorem predOf_zero (t : Thread) : predOf t 0 = true := by simp [predOf]
theorem taintOf_zero (t : Thread) : taintOf t 0 = false := by simp [taintOf]

/-- Settles O10: at its guard an instruction is `guardedN`, whose two other outcomes are the end of the instruction and the
determinism trap. -/
theorem guardRule : Obligations.GuardRule := by
  refine ⟨fun t => ⟨predOf_zero t, taintOf_zero t⟩, fun i p size hi s c n x t h hr => ?_⟩
  obtain ⟨k, hk⟩ := guardsSources_of_guardLine h hi hr
  constructor
  · intro hc h0 hl
    rw [hk, guardedN_false _ _ hc h0, finish_ok _ hl, settleBody_ok]
  · intro hc
    rw [hk, guardedN_strict _ _ hc]
    rfl

/-! ## Levels -/

section
variable {s : State} {c n : Nat} {x : Slot} {t : Thread}

/-- The privileged trap with its record (R332). -/
def privilegedTrap (s : State) (c n : Nat) (t : Thread) : State :=
  takeTrap s c n { cause := 0x02, tval := instrWord s c n t.pc, detail := 0#64, more := 0 } none

theorem runInstr_privileged {body : Ctx → Body} (h : At s c n x t)
    (hb : body (Ctx.mk s c n x t) = (Ctx.mk s c n x t).privileged) :
    runInstr s body = .next (privilegedTrap s c n t) :=
  runInstr_of_body h hb

theorem needS_user (k : Body) (hv : (slotOf s c n).visitFrom = none) (hn : ¬n < 4) :
    (Ctx.mk s c n x t).needS k = (Ctx.mk s c n x t).privileged := by
  simp [Ctx.needS, Ctx.levelSlot, levelSlot_home hv, isUserSlot, Config.firstUser, Nat.not_lt.mp hn]

theorem needP_below (k : Body) (hv : (slotOf s c n).visitFrom = none) (hn : n ≠ 0) :
    (Ctx.mk s c n x t).needP k = (Ctx.mk s c n x t).privileged := by
  simp [Ctx.needP, Ctx.levelSlot, levelSlot_home hv, hn]

/-- A listed CSR above the level of the slot (R337). -/
theorem csrLevel_below {num : Nat} {k : Body} (hl : csrListed n num = true) (hv : (slotOf s c n).visitFrom = none)
    (h : ¬levelHeld n (if 0x200 ≤ num ∧ num ≤ 0x2FF ∧ num ≠ 0x262 then .platform else .supervisor)) :
    (Ctx.mk s c n x t).csrLevel num k = (Ctx.mk s c n x t).privileged := by
  simp only [Ctx.csrLevel, hl, Bool.not_true, Bool.false_eq_true, if_false]
  by_cases hs : n < 4
  · rw [needS_super _ hv hs]
    split at h
    next hp =>
      have : platformCsr num = true := by simpa [platformCsr, and_assoc] using hp
      rw [if_pos this, needP_below _ hv h]
    next => exact absurd hs h
  · exact needS_user _ hv hs

end

/-- Settles O12. -/
theorem privilegeTraps : Obligations.PrivilegeTraps := by
  intro i s c n x t h hlev hcsr
  have hv := visitFrom_atHome h
  change exec i s = .next (privilegedTrap s c n t)
  cases i
  case tret | kill | preempt | resume =>
    dsimp only [exec, execTret, execKill, execPreempt, execResume]
    exact runInstr_privileged h.1 ((atHome_home _ h.2).trans (needS_user _ hv hlev))
  case idle | tlbi | asidset =>
    dsimp only [exec, execIdle, execTlbi, execAsidset]
    exact runInstr_privileged h.1 (needS_user _ hv hlev)
  case dbghalt =>
    dsimp only [exec, execDbghalt]
    exact runInstr_privileged h.1 ((atHome_home _ h.2).trans (needP_below _ hv hlev))
  case csrrp d p k =>
    dsimp only [exec, execCsrrp]
    exact runInstr_privileged h.1 (csrLevel_below (hcsr d p k (.inl rfl)) hv hlev)
  case csrwp a p k =>
    dsimp only [exec, execCsrwp]
    exact runInstr_privileged h.1 (csrLevel_below (hcsr a p k (.inr rfl)) hv hlev)
  case errinj =>
    dsimp only [exec, execErrinj]
    dsimp only [levelAsked] at hlev
    by_cases he : eieOf s c = true
    · exact absurd trivial (by rwa [if_pos he] at hlev)
    · rw [if_neg he] at hlev
      exact runInstr_privileged h.1 ((if_neg he).trans (needS_user _ hv hlev))
  all_goals exact absurd trivial hlev

end Sys2Proof.Machine
end

/-! The issue of a command bundle up to its registers, queue and references (R141), and the sources of the instructions
without a guard (R142). -/
section

namespace Sys2Proof.Machine

open Sys2Proof.Claims

section
variable {s : State} {c n : Nat} {x : Slot} {t : Thread}

theorem bundleCore_eq {fp64 : Bool} (k : Body) (hv : x.visitFrom = none) (hd : fp64 = true → c % 8 = 7) :
    (Ctx.mk s c n x t).bundleCore fp64 k = k := by
  cases fp64
  case false => exact atHome_home k hv
  case true => exact onD_here k (isDCore_of_mod (hd rfl))

/-- A mortar target that passes its checks (R289). -/
theorem chainTarget_ok {v : Word} (reg : Nat) (k : Body) (h : commandLegal.chainWord s c v) :
    (Ctx.mk s c n x t).chainTarget v reg k = k := by
  obtain ⟨hw, hslot, hdev, hdest⟩ := h
  unfold Ctx.chainTarget Ctx.dest
  rw [if_neg (by simp [Nat.not_lt.mpr hslot, hdev, -Nat.reducePow, hw])]
  cases hd : destOf s c v.toNat with
  | none => exact absurd hd hdest
  | some d => rfl

/-- A command whose fields are checked at issue examines its registers and its queue before and within its issue. -/
theorem mniReady_issueCmd (op : Instr) (b : Bundle) (ka kb : FieldKind) (h : (cmdCode op).1 = 4)
    (rings : Word → Word → List (Nat × BitVec 32 × Bool)) (copy : State → Cmd → State × Cmd) :
    (Ctx.mk s c n x t).mniReady b ((Ctx.mk s c n x t).issueCmd op b ka kb rings copy) =
      (Ctx.mk s c n x t).issueCmd op b ka kb rings copy := by
  simp only [Ctx.mniReady, Ctx.issueCmd, h, Ctx.needRegs, queueRes, Ctx.needRes]
  split
  · rfl
  · split <;> rfl

/-- The issue of a command whose bundle passes the checks before its registers (R141). -/
def issueOf (i : Instr) (b : Bundle) (s : State) (c n : Nat) (x : Slot) (t : Thread) : Body :=
  (Ctx.mk s c n x t).issueCmd i b (commandFields i b t).1 (commandFields i b t).2 (commandTiles i b t) (acceptCmd i)

variable (h : AtHome s c n x t) {b : Bundle}
include h

theorem exec_command {i : Instr} {e : Nat} (hi : commandLine i = some (e, b)) (hl : commandLegal i b s c n t) :
    exec i s = .next (settleBody c n (issueOf i b s c n x t)) := by
  obtain ⟨hfmt, hd, hg, hm⟩ := hl
  have hv := visitFrom_atHome h
  cases i <;> cases hi
  case mma | mmas | aclr | ald | ast | acvt | achk | msum | atrn =>
    dsimp only [exec, execMma, execMmas, execAclr, execAld, execAst, execAcvt, execAchk, execMsum, execAtrn]
    exact runInstr_of_body h.1 ((if_neg (by simp [hfmt rfl])).trans (bundleCore_eq _ h.2 hd))
  case vadd | vsub | vmul | vfma | vmax | vmin | vabs | vneg | vexp2 | vlog2 | vrcp | vrsq | vtanh | vcvt | vcmp | vsel | vred
      | vscan | vtrn | vbcst | vrng | vcpy =>
    dsimp only [exec, execVadd, execVsub, execVmul, execVfma, execVmax, execVmin, execVabs, execVneg, execVexp2, execVlog2,
      execVrcp, execVrsq, execVtanh, execVcvt, execVcmp, execVsel, execVred, execVscan, execVtrn, execVbcst, execVrng,
      execVcpy]
    exact runInstr_of_body h.1 (bundleCore_eq _ h.2 hd)
  case copy | rstr | prlg | gath | scat | mcast =>
    dsimp only [exec, execCopy, execRstr, execPrlg, execGath, execScat, execMcast]
    exact runInstr_of_body h.1 ((atHome_home _ h.2).trans (released_free _ (hg rfl)))
  case hodrun | hodstop =>
    dsimp only [exec, execHodrun, execHodstop]
    exact runInstr_of_body h.1 (atHome_home _ h.2)
  case chopen | chclose | chstat =>
    dsimp only [exec, execChopen, execChclose, execChstat]
    exact runInstr_of_body h.1 (atHome_home _ h.2)
  case chjoin =>
    dsimp only [exec, execChjoin]
    refine runInstr_of_body h.1 ((atHome_home _ h.2).trans ?_)
    obtain ⟨hp, ht⟩ := hm
    rw [if_neg (Nat.not_lt.mpr hp), chainTarget_ok _ _ ht]
    exact mniReady_issueCmd _ _ _ _ rfl _ _
  case chevict =>
    dsimp only [exec, execChevict]
    refine runInstr_of_body h.1 ((atHome_home _ h.2).trans ?_)
    obtain ⟨hn, ht⟩ := hm
    rw [needS_super _ hv hn, chainTarget_ok _ _ ht]
    exact mniReady_issueCmd _ _ _ _ rfl _ _

/-- An instruction that begins with its registers waits for the first that is not FULL (R142 step 6). -/
theorem runInstr_waits {body : Ctx → Body} {rs : List Nat} {k : Body} {r : Nat}
    (hb : body (Ctx.mk s c n x t) = (Ctx.mk s c n x t).needRegs rs k) (hr : firstEmpty t rs = some r) :
    runInstr s body = .next (notIssued s c n (.reg r)) := by
  rw [runInstr_of_body h.1 (hb.trans (needRegs_empty k hr))]
  rfl

theorem exec_command_waits {i : Instr} {e r : Nat} (hi : commandLine i = some (e, b)) (hl : commandLegal i b s c n t)
    (hr : firstEmpty t (bundleRegs b) = some r) : exec i s = .next (notIssued s c n (.reg r)) := by
  rw [exec_command h hi hl, issueOf, Ctx.issueCmd, needRegs_empty _ hr]
  rfl

theorem exec_freeSources_wait {i : Instr} (hw : wellFormed i = true) (hl : reachesSources i s c n t) {r : Nat}
    (hr : firstEmpty t (freeSources i) = some r) : exec i s = .next (notIssued s c n (.reg r)) := by
  cases hc : commandLine i with
  | some q =>
    obtain ⟨e, b⟩ := q
    have hs : freeSources i = bundleRegs b := by cases i <;> cases hc <;> rfl
    have hl : commandLegal i b s c n t := by cases i <;> cases hc <;> exact hl
    exact exec_command_waits h hc hl (hs ▸ hr)
  | none =>
    cases i <;> try cases hr
    case loop a e =>
      dsimp only [exec, execLoop]
      exact runInstr_waits h (if_neg (by simpa [wellFormed] using hw)) hr
    case sigr a k i =>
      dsimp only [exec, execSigr]
      exact runInstr_waits h ((if_neg (by simpa [wellFormed] using hw)).trans (atHome_home _ h.2)) hr
    case waitReg | semsetReg | waita | testa | rtail | rhead | ringdef =>
      dsimp only [exec, execWaitReg, execSemsetReg, execWaita, execTesta, execRtail, execRhead, execRingdef]
      exact runInstr_waits h (atHome_home _ h.2) hr
    case tabpin | tabinv =>
      dsimp only [exec, execTabpin, execTabinv]
      exact runInstr_waits h ((atHome_home _ h.2).trans (released_free _ hl)) hr
    all_goals cases hc

end

/-- Settles O11. -/
theorem emptySourceWaits : Obligations.EmptySourceWaits := by
  constructor
  · intro i s c n x t h hw hl r hr
    exact exec_freeSources_wait h hw hl hr
  · intro i p size hi s c n x t h hreach hg r hr
    obtain ⟨k, hk⟩ := guardsSources_of_guardLine h hi hreach
    rw [hk, guardedN_holds _ _ hg, needRegs_empty _ hr]
    rfl

end Sys2Proof.Machine
end

/-! What the soft errors that a read meets leave unchanged (R345, R346), and the records that a command copies as it is
accepted (R249, R256). -/
section

namespace Sys2Proof.Machine

open Sys2Proof.Claims

/-! ## What soft errors do not touch -/

theorem noteRecord_fst (y : Cmd) (r : State × Except DefErr (List Byte)) (put : Cmd → List Byte → Cmd) :
    (noteRecord y r put).1 = r.1 := by
  unfold noteRecord
  split <;> rfl

/-- A part of the state that neither the counting nor the logging of soft errors changes. -/
structure ErrorBlind {α : Type} (f : State → α) : Prop where
  counts : ∀ s c num, f (countSoft s c num) = f s
  marks : ∀ s e, f { s with ecc := e } = f s
  injects : ∀ s e, f { s with injected := e } = f s
  logs : ∀ s k, f (logSoft s k) = f s

/-- Such a part that no byte that the host gives changes either. -/
structure SoftBlind {α : Type} (f : State → α) : Prop extends ErrorBlind f where
  frees : ∀ s n, f (freeBytes s n).1 = f s

/-- The descriptor of a command copied (R249). -/
def copyDesc (s : State) (x : Cmd) : State × Cmd :=
  noteRecord x (copyRecord s x (freeAddr x.x.w5) 64) fun y bs => { y with desc := bs }

/-- The address list that the descriptor names (R254). -/
def copyLtab (x : Cmd) (q : State × Cmd) : State × Cmd :=
  if (fieldAt q.2.desc 5 1).testBit 1 then
    noteRecord q.2 (copyRecord q.1 x (freeAddr (BitVec.ofNat 32 (fieldAt q.2.desc 8 4))) 128) fun y bs => { y with ltab := bs }
  else q

/-- The stencil table, pinned or copied (R255 to R257). -/
def copyStencil (s : State) (x : Cmd) (q : State × Cmd) : State × Cmd :=
  if !isStencil x.op then q
  else if fld x.x.w6 31 28 = 0xE then
    match mapFind (clusterOf s (clusterOfCore x.core)).pins (fld x.x.w6 3 0) with
    | some p => (q.1, if p.asid = x.asid then { q.2 with tab := p.bytes } else { q.2 with tabBad := true })
    | none => (q.1, { q.2 with tabBad := true })
  else noteRecord q.2 (copyTable q.1 x (freeAddr x.x.w6)) fun y bs => { y with tab := bs }

/-- The copies of a command in their order. (`copyRecords` is unfolded in a hypothesis, as a function: the kernel would evaluate
the copies themselves to compare it, applied, with its body.) -/
theorem copyRecords_eq (s : State) (x : Cmd) : copyRecords s x = copyStencil s x (copyLtab x (copyDesc s x)) := by
  have steps : ∀ g, g = copyRecords → g s x = copyStencil s x (copyLtab x (copyDesc s x)) := by
    intro g hg
    delta copyRecords at hg
    rw [hg]
    beta_reduce
    rw [← copyDesc]
    obtain ⟨s1, y1⟩ := copyDesc s x
    unfold copyLtab
    dsimp only
    generalize (if (fieldAt y1.desc 5 1).testBit 1 then _ else (s1, y1)) = q
    obtain ⟨s2, y2⟩ := q
    rfl
  exact steps _ rfl

section
variable {α : Type} {f : State → α}

/-- A fold of steps that each keep a part of the state keeps it. -/
theorem foldl_keeps {β : Type} {g : State → β → State} (hg : ∀ s a, f (g s a) = f s) (l : List β) (s : State) :
    f (l.foldl g s) = f s :=
  List.foldlRecOn (motive := fun u => f u = f s) l g rfl fun u hu a _ => (hg u a).trans hu

namespace ErrorBlind
variable (h : ErrorBlind f)
include h

theorem meetInjected (s : State) (c k n : Nat) : f (meetInjected s c k n) = f s :=
  (foldl_keeps (fun u _ => h.counts u c 0x12B) _ _).trans (h.injects s _)

theorem eccRead (s : State) (c k n : Nat) : f (eccRead s c k n).1 = f s := by
  unfold Machine.eccRead
  dsimp only
  split
  · rfl
  · rw [foldl_keeps fun u g => (h.logs _ _).trans (h.counts u c _),
      foldl_keeps fun u g => (h.counts _ _ _).trans (h.marks u _), h.meetInjected]

theorem eccReads (s : State) (c : Nat) (l : List (Nat × Nat)) : f (eccReads s c l).1 = f s :=
  List.foldlRecOn (motive := fun (a : State × Bool) => f a.1 = f s) l _ rfl fun a ha r _ => (h.eccRead a.1 c r.1 r.2).trans ha

theorem walkMeets (s : State) (c : Nat) (p : Option Nat) (asid va : Nat) : f (walkMeets s c p asid va) = f s :=
  h.eccReads s c _

theorem attrMeets (s : State) (c n : Nat) : f (attrMeets s c n) = f s := by
  unfold Machine.attrMeets
  split
  · exact h.eccRead s c _ _
  · rfl

theorem eccPart (s : State) (c k n : Nat) : f (eccPart s c k n).1 = f s :=
  foldl_keeps (fun u g => (h.logs _ _).trans (h.counts u c _)) _ _

end ErrorBlind

namespace SoftBlind
variable (h : SoftBlind f)
include h

theorem segRead (c : Nat) (l : List (Nat × Nat)) (s : State) : f (segRead s c l).1 = f s := by
  induction l generalizing s with
  | nil => rfl
  | cons g r ih =>
    simp only [Machine.segRead, ih]
    split
    · exact h.frees s g.2
    · exact h.eccRead s c g.1 g.2

theorem segBad (s : State) (x : Cmd) (gs : List (List (Nat × Nat))) : f (segBad s x gs).1 = f s := by
  unfold Machine.segBad
  dsimp only
  split
  · rfl
  · exact h.eccReads s _ _

theorem copyRecord (s : State) (x : Cmd) (a : Word) (n : Nat) : f (copyRecord s x a n).1 = f s := by
  unfold Machine.copyRecord
  split
  · rfl
  · next g _ =>
    have hb := h.segBad s { x with refs := [] } [g]
    split
    · rfl
    · next hs => rwa [hs] at hb
    · exact h.segRead _ _ s

theorem copyTable (s : State) (x : Cmd) (a : Word) : f (copyTable s x a).1 = f s := by
  have h8 := h.copyRecord s x a 8
  unfold Machine.copyTable
  split
  · next hc => rwa [hc] at h8
  · next s1 hd hc =>
    rw [hc] at h8
    exact (h.copyRecord s1 x a _).trans h8

theorem copyDesc (s : State) (x : Cmd) : f (copyDesc s x).1 = f s :=
  (congrArg f (noteRecord_fst _ _ _)).trans (h.copyRecord s x _ _)

theorem copyLtab (x : Cmd) (q : State × Cmd) : f (copyLtab x q).1 = f q.1 := by
  unfold Machine.copyLtab
  split
  · exact (congrArg f (noteRecord_fst _ _ _)).trans (h.copyRecord q.1 x _ _)
  · rfl

theorem copyStencil (s : State) (x : Cmd) (q : State × Cmd) : f (copyStencil s x q).1 = f q.1 := by
  unfold Machine.copyStencil
  split
  · rfl
  · split
    · split <;> rfl
    · exact (congrArg f (noteRecord_fst _ _ _)).trans (h.copyTable q.1 x _)

theorem copyRecords (s : State) (x : Cmd) : f (copyRecords s x).1 = f s := by
  rw [copyRecords_eq, h.copyStencil, h.copyLtab, h.copyDesc]

end SoftBlind
end

theorem errorBlind_fresh : ErrorBlind State.fresh where
  counts s c num := by unfold countSoft; split <;> rfl
  marks _ _ := rfl
  injects _ _ := rfl
  logs _ _ := rfl

theorem softBlind_mem : SoftBlind State.mem where
  counts s c num := by unfold countSoft; split <;> rfl
  marks _ _ := rfl
  injects _ _ := rfl
  logs _ _ := rfl
  frees _ _ := rfl

end Sys2Proof.Machine
end

/-! The issue of a command: queue space, kill fence, references (R141, R223, R366). -/
section

namespace Sys2Proof.Machine

open Sys2Proof.Claims

/-! ## What accepting a command leaves of it -/

/-- A command that differs from another in nothing but when it may start and what it has copied. -/
def Copied (y m : Cmd) : Prop :=
  y = { m with due := y.due, desc := y.desc, ltab := y.ltab, tab := y.tab, err := y.err, tabBad := y.tabBad }

theorem Copied.refl (m : Cmd) : Copied m m := rfl

theorem Copied.trans {y z m : Cmd} (h : Copied y z) (g : Copied z m) : Copied y m := by
  unfold Copied at h g ⊢
  rw [h, g]

theorem Copied.isCommand {y m : Cmd} {i : Instr} {b : Bundle} {s : State} {c n : Nat} {x : Slot} {t : Thread}
    {refs : List TileRef} {refused : Option DefErr} (h : Copied y m) (g : IsCommand m i b s c n x t refs refused) :
    IsCommand y i b s c n x t refs refused := by
  unfold Copied at h
  rw [h]
  exact g

theorem copied_noteRecord {y : Cmd} (r : State × Except DefErr (List Byte)) {put : Cmd → List Byte → Cmd}
    (h : ∀ bs, Copied (put y bs) y) : Copied (noteRecord y r put).2 y := by
  unfold noteRecord
  split
  · exact h _
  · rfl

theorem copied_copyLtab (x : Cmd) (q : State × Cmd) : Copied (copyLtab x q).2 q.2 := by
  unfold copyLtab
  split
  · exact copied_noteRecord _ fun _ => rfl
  · rfl

theorem copied_copyStencil (s : State) (x : Cmd) (q : State × Cmd) : Copied (copyStencil s x q).2 q.2 := by
  unfold copyStencil
  split
  · rfl
  · split
    · split
      · dsimp only
        split <;> rfl
      · rfl
    · exact copied_noteRecord _ fun _ => rfl

theorem copied_copyRecords (s : State) (x : Cmd) : Copied (copyRecords s x).2 x := by
  rw [copyRecords_eq]
  exact (copied_copyStencil s x _).trans ((copied_copyLtab x _).trans (copied_noteRecord _ fun _ => rfl))

theorem copied_dropBadLtab (y : Cmd) : Copied (dropBadLtab y) y := by
  unfold dropBadLtab
  dsimp only
  split <;> rfl

theorem copied_awaitData (s : State) (x : Cmd) : Copied (awaitData s x) x := by
  unfold awaitData
  split <;> rfl

theorem copied_acceptCmd (i : Instr) (s : State) (m : Cmd) : Copied (acceptCmd i s m).2 m := by
  unfold acceptCmd
  split
  · exact copied_awaitData s m
  · exact (copied_dropBadLtab _).trans (copied_copyRecords s m)
  · rfl

/-- The memory of a pair's state. (Stated of the parts, so that the kernel does not evaluate them to compare pairs.) -/
theorem mem_of_mk {u : State} {y : Cmd} {m : List Host.Cell} (h : u.mem = m) : ((u, y) : State × Cmd).1.mem = m := h

theorem acceptCmd_mem (i : Instr) (s : State) (m : Cmd) : (acceptCmd i s m).1.mem = s.mem := by
  unfold acceptCmd
  split
  · rfl
  · exact mem_of_mk (softBlind_mem.copyRecords s m)
  · rfl

/-! ## Engine commands -/

section
variable {s : State} {c n : Nat} {x : Slot} {t : Thread} {b : Bundle} {i : Instr}

/-- The command put behind its engine's queue (R141). -/
def queued (i : Instr) (s : State) (m : Cmd) : State :=
  enqueueCmd { (acceptCmd i s m).1 with uid := (acceptCmd i s m).1.uid + 1 } (acceptCmd i s m).2

theorem isCommand_bundleCmd (h : AtHome s c n x t) (refs : List TileRef) (refused : Option DefErr) :
    IsCommand { bundleCmd i b s c n x t with refs := refs, refused := refused } i b s c n x t refs refused := by
  have hu : isUserSlot (levelSlot s c n) = decide (4 ≤ n) := by
    rw [levelSlot_home (visitFrom_atHome h)]
    rfl
  exact ⟨rfl, rfl, rfl, rfl, rfl, rfl, rfl, hu, rfl, rfl, rfl, rfl, rfl, rfl, rfl, rfl, rfl⟩

theorem isCommand_accepted (h : AtHome s c n x t) (refs : List TileRef) (refused : Option DefErr) (u : State) :
    IsCommand (acceptCmd i u { bundleCmd i b s c n x t with refs := refs, refused := refused }).2 i b s c n x t refs refused :=
  (copied_acceptCmd i u _).isCommand (isCommand_bundleCmd h refs refused)

/-- Behind the registers comes the queue. -/
theorem issueOf_full_queue (hf : Full t (bundleRegs b)) (hq : queueRoom s c n (cmdCode i).1 = false) :
    issueOf i b s c n x t = (Ctx.mk s c n x t).stall (.res (queueRes (cmdCode i).1)) := by
  rw [issueOf, Ctx.issueCmd, needRegs_full _ hf, Ctx.needRes]
  exact if_neg (by simp [hq])

/-- Behind the queue comes the kill fence. -/
theorem issueOf_killing (hf : Full t (bundleRegs b)) (hq : queueRoom s c n (cmdCode i).1 = true)
    (hk : asidKilling s x.asid.toNat = true) : issueOf i b s c n x t = (Ctx.mk s c n x t).finish s t 32 := by
  rw [issueOf, Ctx.issueCmd, needRegs_full _ hf, needRes_free _ _ hq]
  exact if_pos hk

variable (hf : Full t (bundleRegs b)) (hq : queueRoom s c n (cmdCode i).1 = true) (hk : asidKilling s x.asid.toNat = false)
include hf hq hk

/-- Behind the kill fence come the references. -/
theorem issueOf_refs : issueOf i b s c n x t =
    match issueRefs (clusterOf s (clusterOfCore c)) i x.asid.toNat
      (commandTiles i b t (bundleCmd i b s c n x t).a (bundleCmd i b s c n x t).b) with
    | .full => (Ctx.mk s c n x t).stall (.res .readers)
    | .refused e => (Ctx.mk s c n x t).finish (queued i s { bundleCmd i b s c n x t with refused := some e }) t 32
    | .taken k refs => (Ctx.mk s c n x t).finish
        (queued i (modCluster s (clusterOfCore c) fun _ => k) { bundleCmd i b s c n x t with refs := refs }) t 32 := by
  rw [issueOf, Ctx.issueCmd, needRegs_full _ hf, needRes_free _ _ hq]
  exact (if_neg (by simp [hk, Ctx.newCmd])).trans rfl

end

theorem cmdCode_of_commandLine {i : Instr} {e : Nat} {b : Bundle} (h : commandLine i = some (e, b)) : (cmdCode i).1 = e := by
  cases i <;> cases h <;> rfl

/-! ## The stencil tables -/

section
variable {s : State} {c n : Nat} {x : Slot} {t : Thread} {b : Bundle}

/-- A table instruction with its command in the GCE, as it is accepted (R257). -/
def tabled (c : Nat) (q : State × Option DefErr) (m : Cmd) (at_ : Nat) : State :=
  modCluster { q.1 with uid := q.1.uid + 1 } (clusterOfCore c) fun k =>
    { k with active := k.active ++ [{ m with started := true, retired := true, due := at_ + 8, err := q.2 }] }

theorem table_eq {op : Instr} {ka : FieldKind} {f : State → Cmd → State × Option DefErr} (h : AtHome s c n x t)
    (hp : pending s c n = false) (hf : Full t (bundleRegs b)) (hq : queueRoom s c n 2 = true) :
    (Ctx.mk s c n x t).table op b ka f =
      if asidKilling s x.asid.toNat then (Ctx.mk s c n x t).finish s t 32
      else (Ctx.mk s c n x t).finish
        (tabled c (f s (tableCmd op b ka s c n x t)) (tableCmd op b ka s c n x t) s.cycle) t 32 := by
  rw [Ctx.table, atHome_home _ h.2, released_free _ hp, needRegs_full _ hf, needRes_free _ _ hq]
  rfl

variable (h : AtHome s c n x t) (hp : pending s c n = false) (hf : Full t (bundleRegs b)) (hq : queueRoom s c n 2 = true)
include h hp hf hq

theorem exec_table_killing {i op : Instr} {ka : FieldKind} {f : State → Cmd → State × Option DefErr}
    (he : exec i s = runInstr s fun y => y.table op b ka f) (hk : asidKilling s x.asid.toNat = true) (hl : LoopOk s c n t t) :
    exec i s = .next (completed s c n t t 32) := by
  rw [he, runInstr_of_body h.1 (table_eq h hp hf hq), if_pos hk, finish_ok _ hl, settleBody_ok]

theorem exec_table {i op : Instr} {ka : FieldKind} {f : State → Cmd → State × Option DefErr}
    (he : exec i s = runInstr s fun y => y.table op b ka f) (hk : asidKilling s x.asid.toNat = false)
    (hl : LoopOk (tabled c (f s (tableCmd op b ka s c n x t)) (tableCmd op b ka s c n x t) s.cycle) c n t t) :
    exec i s = .next (completed
      (tabled c (f s (tableCmd op b ka s c n x t)) (tableCmd op b ka s c n x t) s.cycle) c n t t 32) := by
  rw [he, runInstr_of_body h.1 (table_eq h hp hf hq), if_neg (by simp [hk]), finish_ok _ hl, settleBody_ok]

end

theorem mapFind_mapSet_same {α : Type} (m : SMap α) (k : Nat) (v : α) : mapFind (mapSet m k v) k = some v := by
  induction m with
  | nil => simp [mapSet, mapFind]
  | cons e m ih =>
    obtain ⟨j, w⟩ := e
    simp only [mapSet]
    split
    · next hj => simp [mapFind, Nat.ne_of_lt hj, ih]
    · split <;> simp [mapFind]

theorem clusterOf_modCluster_same (s : State) (cl : Nat) (f : Cluster → Cluster) :
    clusterOf (modCluster s cl f) cl = f (clusterOf s cl) := mapGet_mapSet_same _ _ _ _

/-- TABPIN's copy leaves memory alone. -/
theorem pinTable_pin_mem (s : State) (x : Cmd) (cl k : Nat) : (pinTable.pin s x cl k).1.mem = s.mem := by
  have hc := softBlind_mem.copyTable s x x.a
  unfold pinTable.pin
  split
  · rfl
  · split
    · next he => rwa [he] at hc
    · next he => rwa [he] at hc

theorem pinTable_pin_pinned {s : State} {x : Cmd} {cl k : Nat} (h : (pinTable.pin s x cl k).2 = none) :
    ∃ bs, mapFind (clusterOf (pinTable.pin s x cl k).1 cl).pins k = some { asid := x.asid, bytes := bs } := by
  revert h
  unfold pinTable.pin
  split
  · exact fun h => nomatch h
  · split
    · exact fun h => nomatch h
    · next bs _ => exact fun _ => ⟨bs, by simp [clusterOf_modCluster_same, mapFind_mapSet_same]⟩

/-- TABPIN copies, but for a slot of another ASID (R257). -/
theorem pinTable_cases (s : State) (x : Cmd) :
    pinTable s x = pinTable.pin s x (clusterOfCore x.core) (fld x.x.w5 3 0) ∨
    (∃ p, mapFind (clusterOf s (clusterOfCore x.core)).pins (fld x.x.w5 3 0) = some p ∧ p.asid ≠ x.asid) ∧
      pinTable s x = (s, some (x.fault 0x20 (BitVec.ofNat 64 (fld x.x.w5 3 0)) 4)) := by
  unfold pinTable
  dsimp only
  split
  · next p hp =>
    split
    · next hne => exact .inr ⟨⟨p, hp, hne⟩, rfl⟩
    · exact .inl rfl
  · exact .inl rfl

theorem pinTable_foreign {s : State} {x : Cmd} {p : Pin}
    (hp : mapFind (clusterOf s (clusterOfCore x.core)).pins (fld x.x.w5 3 0) = some p) (hne : p.asid ≠ x.asid) :
    pinTable s x = (s, some (x.fault 0x20 (BitVec.ofNat 64 (fld x.x.w5 3 0)) 4)) := by
  simp [pinTable, hp, hne]

theorem unpinTable_all {s : State} {x : Cmd} (h : x.x.w5.getLsbD 4 = true) :
    unpinTable s x = (modCluster s (clusterOfCore x.core) fun k => { k with pins := k.pins.filter fun p => p.2.asid != x.asid },
      none) := if_pos h

theorem unpinTable_one {s : State} {x : Cmd} {p : Pin} (h : x.x.w5.getLsbD 4 = false)
    (hp : mapFind (clusterOf s (clusterOfCore x.core)).pins (fld x.x.w5 3 0) = some p) :
    unpinTable s x =
      if p.asid = x.asid then
        (modCluster s (clusterOfCore x.core) fun k => { k with pins := mapErase k.pins (fld x.x.w5 3 0) }, none)
      else (s, some (x.fault 0x20 (BitVec.ofNat 64 (fld x.x.w5 3 0)) 4)) := by
  unfold unpinTable
  rw [if_neg (by rw [h]; exact Bool.false_ne_true)]
  simp only [hp]

/-- Settles O40. The issue of a bundle is `issueOf` (`exec_command`), whose registers, queue, kill fence and references
come in this order. -/
theorem commandIssue : Obligations.CommandIssue := by
  constructor
  · intro i e b hi s c n x t h hl hf
    have he := cmdCode_of_commandLine hi
    subst he
    refine ⟨fun hq => ?_, fun hq hk hloop => ?_, fun hq hk => ⟨fun k refs hr => ?_, fun f hr => ?_, fun hr => ?_⟩⟩
    · rw [exec_command h hi hl, issueOf_full_queue hf hq]
      rfl
    · rw [exec_command h hi hl, issueOf_killing hf hq hk, finish_ok _ hloop, settleBody_ok]
    · refine ⟨isCommand_accepted h refs none _, acceptCmd_mem i _ _, fun hloop => ?_⟩
      rw [exec_command h hi hl, issueOf_refs hf hq hk, hr]
      exact congrArg (fun o => Host.Outcome.next (settleBody c n o)) (finish_ok 32 hloop)
    · refine ⟨isCommand_accepted h [] (some f) _, acceptCmd_mem i _ _, fun hloop => ?_⟩
      rw [exec_command h hi hl, issueOf_refs hf hq hk, hr]
      exact congrArg (fun o => Host.Outcome.next (settleBody c n o)) (finish_ok 32 hloop)
    · rw [exec_command h hi hl, issueOf_refs hf hq hk, hr]
      rfl
  · intro b s c n x t h hp hf hq
    refine ⟨fun hk hloop => ⟨exec_table_killing h hp hf hq rfl hk hloop, exec_table_killing h hp hf hq rfl hk hloop⟩,
      fun hk => ⟨fun hloop => exec_table h hp hf hq rfl hk hloop, fun hloop => exec_table h hp hf hq rfl hk hloop⟩,
      ?_, ?_, ?_, ?_, ?_⟩
    · rcases pinTable_cases s (tableCmd (.tabpin b) b .addr s c n x t) with hpin | ⟨-, hpin⟩
      · rw [hpin]
        exact pinTable_pin_mem s _ _ _
      · rw [hpin]
    · intro hn
      rcases pinTable_cases s (tableCmd (.tabpin b) b .addr s c n x t) with hpin | ⟨-, hpin⟩
      · rw [hpin] at hn ⊢
        exact pinTable_pin_pinned hn
      · rw [hpin] at hn
        cases hn
    · intro p hm hne
      rw [pinTable_foreign (x := tableCmd (.tabpin b) b .addr s c n x t) hm hne]
      exact ⟨Option.some_ne_none _, rfl⟩
    · intro hall
      rw [unpinTable_all (x := tableCmd (.tabinv b) b .none s c n x t) hall]
      exact ⟨rfl, rfl⟩
    · intro hone p hm
      rw [unpinTable_one (x := tableCmd (.tabinv b) b .none s c n x t) hone hm]
      refine ⟨fun ha => ?_, fun hne => ?_⟩
      · rw [if_pos (show p.asid = (tableCmd (.tabinv b) b .none s c n x t).asid from ha)]
        exact ⟨rfl, rfl⟩
      · rw [if_neg (show p.asid ≠ (tableCmd (.tabinv b) b .none s c n x t).asid from hne)]
        exact ⟨Option.some_ne_none _, rfl⟩

end Sys2Proof.Machine
end

/-! The manual's example words, package reset, and one step of the machine (R120, R142). -/
section

namespace Sys2Proof.Machine

open Sys2Proof.Claims

/-- Settles O21. -/
theorem decodedWords : Obligations.DecodedWords := by
  unfold Obligations.DecodedWords
  decide

/-- Settles O24: the reset state lists nothing, so that every lookup gives its default. -/
theorem resetState : Obligations.ResetState := by
  refine ⟨fun _ => rfl, fun _ _ => ⟨rfl, rfl⟩, fun _ _ => rfl, fun _ => ⟨rfl, rfl, rfl⟩, fun _ => rfl, rfl, fun _ => rfl, rfl,
    rfl, rfl, rfl, Nat.le_refl _⟩

/-! ## Fetch -/

/-- The traps of a fetch: an address fault, or a memory error (R124, R345). -/
theorem fetchCode_error_cause {s : State} {c n a len : Nat} {e : TrapInfo} (h : fetchCode s c n a len = .error e) :
    e.cause = 0x03 ∨ e.cause = 0x16 := by
  unfold fetchCode at h
  split at h
  · cases h; exact .inl rfl
  · split at h
    · cases h; exact .inl rfl
    · split at h
      · cases h; exact .inr rfl
      · cases h

section
variable {s : State} {c n : Nat} {pc : Pc}

theorem instrBytes_of_fetch {b : List Byte} (h : fetchCode s c n pc.toNat 4 = .ok b) :
    instrBytes s c n pc.toNat = 4 * wordCount (leNat b) := by simp [instrBytes, codeWord, h]

theorem instrBytes_of_failed {e : TrapInfo} (h : fetchCode s c n pc.toNat 4 = .error e) : instrBytes s c n pc.toNat = 4 := by
  simp only [instrBytes, codeWord, h]
  rfl

/-- A fetch that fails at its first word (R142 step 1). -/
theorem fetchFails_first {e : TrapInfo} (h : fetchCode s c n pc.toNat 4 = .error e) :
    fetchFails s c n pc e =
      if unperformed s c n then notIssued s c n .drain else takeTrap (fetchMeets s c n pc.toNat 4) c n e none := by
  have hne : (e.cause != 0x01) = true := by
    rcases fetchCode_error_cause h with hc | hc <;> simp [hc]
  have h4 : (if e.cause = 0x16 then instrBytes s c n pc.toNat else 4) = 4 := by rw [instrBytes_of_failed h, ite_self]
  rw [fetchFails, fetchWaits, hne, Bool.true_and, h4]
  rfl

/-- A bundle or a long instruction at an address where it may not stand (R125). -/
theorem fetchFails_misfetch (w : Word) :
    fetchFails s c n pc (trapInfo 0x01 w 0#64) = takeTrap (fetchMeets s c n pc.toNat 4) c n (trapInfo 0x01 w 0#64) none := rfl

theorem fetchInstr_failed {e : TrapInfo} (h : fetchCode s c n pc.toNat 4 = .error e) : fetchInstr s c n pc = .error e := by
  simp only [fetchInstr, h]

theorem fetchInstr_misfetch {b : List Byte} (h : fetchCode s c n pc.toNat 4 = .ok b)
    (hm : misfetch (leNat b) pc.toNat = true) :
    fetchInstr s c n pc = .error (trapInfo 0x01 (BitVec.ofNat 64 (leNat b)) 0#64) := by
  simp only [fetchInstr, h, hm]
  rfl

/-- What a fetched word decodes to, or the illegal instruction (R134). -/
theorem fetchInstr_ok {b bs : List Byte} {i : Instr} (h : fetchCode s c n pc.toNat 4 = .ok b)
    (hm : misfetch (leNat b) pc.toNat = false) (hbs : fetchCode s c n pc.toNat (4 * wordCount (leNat b)) = .ok bs)
    (hi : decodeWords (wordsOf (wordCount (leNat b)) (leNat bs)) = .ok i ∨
      (∃ e, decodeWords (wordsOf (wordCount (leNat b)) (leNat bs)) = .error e) ∧
        i = .illegalInstruction (BitVec.ofNat 32 (leNat b))) :
    fetchInstr s c n pc = .ok i := by
  simp only [fetchInstr, h, hm, hbs, Bool.false_eq_true, if_false]
  rcases hi with hi | ⟨⟨e, he⟩, rfl⟩
  · rw [hi]
  · rw [he]

end

/-! ## One step -/

theorem eccRead_bad (s : State) (c k n : Nat) : (eccRead s c k n).2 = !(eccBads s.ecc k n).isEmpty := by
  unfold eccRead
  dsimp only
  split
  · next h =>
    rw [Bool.and_eq_true] at h
    rw [h.2]
    rfl
  · rfl

section
variable {s : State} {c n : Nat} {t : Thread}

/-- Without an outside event and with its first phases done, a step is the issue of the selected slot (R120). -/
theorem step_of_issue (hin : ∀ e ∈ s.inputs.head?, s.cycle < e.1) (hph : s.phase ≠ 0 ∨ runEvent s = none ∧ nextHod s = none)
    (hn : nextIssue s = some (c, n)) : step s = keepTime s (stepIssue s c n) := by
  have hphase : phaseStep s = none := by
    unfold phaseStep
    rcases hph with hp | ⟨he, hh⟩
    · rw [if_pos hp]
    · rw [he, hh]
      simp
  have hown : stepOwn s = keepTime s (stepIssue s c n) := by rw [stepOwn, hphase, hn]
  unfold step
  split
  · next e i rest heq =>
    rw [heq] at hin
    rw [if_neg (Nat.not_le.mpr (hin _ rfl)), hown]
  · exact hown

theorem stepIssue_of_runSlot {u : State} (h : runSlot s c n = .next u) :
    keepTime s (stepIssue s c n) =
      .next { (if u.stalled then u else
        afterIssue s.cycle ((eligibles s.cycle (coreOf s c)).map (·.1)) c n u) with cycle := s.cycle, devTime := s.devTime } := by
  simp only [stepIssue, h, keepTime]

variable (ht : threadOf s c n = some t)
include ht

theorem runSlot_badContext (hb : eccBads s.ecc (regKey c n 0) 128 ≠ []) :
    runSlot s c n = .next (contextTrap (eccRead (atSlot s c n) c (regKey c n 0) 128).1 c n) := by
  have : (eccRead (atSlot s c n) c (regKey c n 0) 128).2 = true := by
    rw [eccRead_bad]
    simpa [atSlot] using hb
  simp only [runSlot, ht, this, if_true]

/-- With a sound context the slot runs what it fetches (R142, R345). -/
theorem runSlot_fetched {i : Instr} (he : NoErrors s (regKey c n 0) 128) (h : fetchInstr (atSlot s c n) c n t.pc = .ok i) :
    runSlot s c n =
      exec i (fetchMeets (atSlot s c n) c n t.pc.toNat (instrBytes (atSlot s c n) c n t.pc.toNat)) := by
  have hc : eccRead (atSlot s c n) c (regKey c n 0) 128 = (atSlot s c n, false) := eccRead_clean he
  simp only [runSlot, ht, hc, Bool.false_eq_true, if_false, h]

theorem runSlot_notFetched {r : TrapInfo} (he : NoErrors s (regKey c n 0) 128)
    (h : fetchInstr (atSlot s c n) c n t.pc = .error r) :
    runSlot s c n = .next (fetchFails (atSlot s c n) c n t.pc r) := by
  have hc : eccRead (atSlot s c n) c (regKey c n 0) 128 = (atSlot s c n, false) := eccRead_clean he
  simp only [runSlot, ht, hc, Bool.false_eq_true, if_false, h]

end

/-- Settles O22. -/
theorem stepRunsInstruction : Obligations.StepRunsInstruction := by
  intro s c n t hin hph hn ht s0 a elig kept issues
  have hstep : ∀ u, runSlot s c n = .next u → issues u := fun u hu =>
    (step_of_issue hin hph hn).trans (stepIssue_of_runSlot hu)
  refine ⟨fun he => ⟨fun b hb => ⟨fun hm bs hbs i hi u hu => hstep u ?_, fun hm => hstep _ ?_⟩, fun e hb => ?_⟩,
    fun hbad => hstep _ (runSlot_badContext ht hbad)⟩
  · rw [runSlot_fetched ht he (fetchInstr_ok (s := atSlot s c n) hb hm hbs hi), instrBytes_of_fetch (s := atSlot s c n) hb]
    exact hu
  · rw [runSlot_notFetched ht he (fetchInstr_misfetch (s := atSlot s c n) hb hm)]
    exact congrArg _ (fetchFails_misfetch _)
  · have hrun := runSlot_notFetched ht he (fetchInstr_failed (s := atSlot s c n) hb)
    rw [fetchFails_first (s := atSlot s c n) hb] at hrun
    exact ⟨fun hu => hstep _ (hrun.trans (congrArg _ (if_neg (ne_true_of_eq_false hu)))),
      fun hu => hstep _ (hrun.trans (congrArg _ (if_pos hu)))⟩

end Sys2Proof.Machine
end

/-! Which slot a core issues (R45, R47). -/
section

namespace Sys2Proof.Machine

open Sys2Proof.Claims

/-! ## Maps whose keys are distinct -/

theorem mapGet_of_mem {α : Type} {d v : α} {k : Nat} : ∀ {m : SMap α}, (m.map (·.1)).Nodup → (k, v) ∈ m → mapGet d m k = v
  | (j, w) :: m, hd, hm => by
    rw [List.map_cons, List.nodup_cons] at hd
    rcases List.mem_cons.mp hm with he | hm
    · cases he
      simp [mapGet]
    · have hj : j ≠ k := fun h => hd.1 (h ▸ List.mem_map_of_mem (f := (·.1)) hm)
      rw [mapGet, if_neg hj, mapGet_of_mem hd.2 hm]

/-! ## The order of R45 -/

/-- Slot `q` has no claim before slot `p`, by priority, age, cycle of saturation and number (R45). -/
def Yields (q p : Nat × Slot) : Prop :=
  effPrio q.2 ≤ effPrio p.2 ∧ (effPrio q.2 = effPrio p.2 → q.2.age ≤ p.2.age ∧
    (q.2.age = p.2.age → (p.2.age = 31 → p.2.satCycle ≤ q.2.satCycle) ∧
      (p.2.age = 31 → q.2.satCycle = p.2.satCycle → p.1 ≤ q.1) ∧ (p.2.age ≠ 31 → p.1 ≤ q.1)))

theorem beats_iff (b a : Slot) : beats b a = true ↔
    effPrio a < effPrio b ∨ effPrio a = effPrio b ∧ (a.age < b.age ∨ (a.age = b.age ∧ a.age = 31) ∧ b.satCycle < a.satCycle) := by
  simp [beats]

theorem yields_refl (p : Nat × Slot) : Yields p p := by
  unfold Yields
  omega

/-- A slot that is beaten yields, and so does whatever yielded to it. -/
theorem yields_of_beats {q p r : Nat × Slot} (h : Yields q p) (hb : beats r.2 p.2 = true) : Yields q r := by
  rw [beats_iff] at hb
  unfold Yields at h ⊢
  omega

/-- A later slot that does not beat yields. -/
theorem yields_of_not_beats {q p : Nat × Slot} (hb : ¬beats q.2 p.2 = true) (hn : p.1 ≤ q.1) : Yields q p := by
  rw [beats_iff] at hb
  unfold Yields
  omega

/-- The step of the selection in ready mode. -/
def pickStep (a : Option (Nat × Slot)) (p : Nat × Slot) : Option (Nat × Slot) :=
  match a with
  | none => some p
  | some q => if beats p.2 q.2 then some p else some q

/-- Of slots in rising order the selection is one of them, and the others yield to it. -/
theorem foldl_pickStep {l : List (Nat × Slot)} {q : Nat × Slot} (hl : ∀ p ∈ l, q.1 ≤ p.1) (hs : (l.map (·.1)).Pairwise (· < ·)) :
    ∃ p, l.foldl pickStep (some q) = some p ∧ p ∈ q :: l ∧ (∀ r, Yields r q → Yields r p) ∧ ∀ r ∈ q :: l, Yields r p := by
  induction l generalizing q with
  | nil => exact ⟨q, rfl, List.mem_singleton.mpr rfl, fun r h => h, by simp [yields_refl]⟩
  | cons a l ih =>
    rw [List.map_cons, List.pairwise_cons] at hs
    have hrest : ∀ p ∈ l, a.1 < p.1 := fun p hp => hs.1 p.1 (List.mem_map_of_mem hp)
    by_cases hb : beats a.2 q.2 = true
    · obtain ⟨p, hp, hm, hy, hall⟩ := ih (q := a) (fun p hp => Nat.le_of_lt (hrest p hp)) hs.2
      refine ⟨p, by rw [List.foldl_cons, ← hp]; simp [pickStep, hb], List.mem_cons_of_mem _ hm,
        fun r hr => hy r (yields_of_beats hr hb), fun r hr => ?_⟩
      rcases List.mem_cons.mp hr with rfl | hr
      · exact hy r (yields_of_beats (yields_refl r) hb)
      · exact hall r hr
    · obtain ⟨p, hp, hm, hy, hall⟩ := ih (q := q) (fun p hp => hl p (List.mem_cons_of_mem _ hp)) hs.2
      refine ⟨p, by rw [List.foldl_cons, ← hp]; simp [pickStep, hb], ?_, hy, fun r hr => ?_⟩
      · rcases List.mem_cons.mp hm with rfl | hm
        · exact List.mem_cons_self
        · exact List.mem_cons_of_mem _ (List.mem_cons_of_mem _ hm)
      · rcases List.mem_cons.mp hr with rfl | hr
        · exact hall r List.mem_cons_self
        · rcases List.mem_cons.mp hr with rfl | hr
          · exact hy r (yields_of_not_beats hb (hl r List.mem_cons_self))
          · exact hall r (List.mem_cons_of_mem _ hr)

theorem pickReady_yields {l : List (Nat × Slot)} {p : Nat × Slot} (hs : (l.map (·.1)).Pairwise (· < ·))
    (h : pickReady l = some p) : p ∈ l ∧ ∀ r ∈ l, Yields r p := by
  cases l with
  | nil => cases h
  | cons a l =>
    rw [List.map_cons, List.pairwise_cons] at hs
    obtain ⟨p', hp, hm, -, hall⟩ := foldl_pickStep (q := a) (fun p hp => Nat.le_of_lt (hs.1 p.1 (List.mem_map_of_mem hp))) hs.2
    have : p' = p := Option.some.inj (hp.symm.trans h)
    exact this ▸ ⟨hm, hall⟩

/-! ## The selected slot -/

section
variable {s : State} {c n : Nat} {k : Core}

theorem readyNow_iff (cycle : Nat) (k : Core) (n : Nat) (x : Slot) : readyNow cycle k n x = true ↔
    x.st = .ready ∧ x.isHeld = false ∧ x.thread.isSome = true ∧ x.readyAt ≤ cycle ∧ slotRuns k n = true := by
  simp [readyNow, and_assoc]

theorem eligible_iff (cycle : Nat) (k : Core) (n : Nat) (x : Slot) : eligible cycle k n x = true ↔
    readyNow cycle k n x = true ∧ ∀ l, x.lastIssue = some l → l + 8 ≤ cycle := by
  rw [eligible, Bool.and_eq_true]
  cases x.lastIssue <;> simp

/-- In ready mode the slot is eligible; it stops, or no eligible slot does and all yield to it (R45). -/
theorem pickSlot_ready (hr : k.rot = false) (hs : (k.slots.map (·.1)).Pairwise (· < ·)) (h : pickSlot s c k = some n) :
    ∃ x, (n, x) ∈ eligibles s.cycle k ∧ (wouldStall s c n = true ∨
      ∀ p ∈ eligibles s.cycle k, wouldStall s c p.1 = false ∧ Yields p (n, x)) := by
  rw [pickSlot, if_neg (by simp [hr])] at h
  dsimp only at h
  split at h
  · next p hp =>
    cases h
    exact ⟨p.2, List.mem_of_find?_eq_some hp, .inl (by simpa using List.find?_some hp)⟩
  · next hnone =>
    obtain ⟨p, hp, rfl⟩ := Option.map_eq_some_iff.mp h
    have hsorted : ((eligibles s.cycle k).map (·.1)).Pairwise (· < ·) :=
      hs.sublist (List.filter_sublist.map _)
    obtain ⟨hm, hy⟩ := pickReady_yields hsorted hp
    refine ⟨p.2, hm, .inr fun r hr => ⟨?_, hy r hr⟩⟩
    simpa using List.find?_eq_none.mp hnone r hr

theorem pickSlot_rot (hr : k.rot = true) (h : pickSlot s c k = some n) :
    (rotEntry k (turnOf s)).getLsbD 15 = true ∧ bits (rotEntry k (turnOf s)).toNat 7 0 = n ∧
      readyNow s.cycle k n (slotIn k n) = true := by
  rw [pickSlot, if_pos hr, turnSlot] at h
  split at h
  · next hc =>
    cases h
    rw [Bool.and_eq_true] at hc
    exact ⟨hc.1, rfl, hc.2⟩
  · cases h

end

/-- The core that issues next, with its slot. -/
theorem nextIssue_pickSlot {s : State} {c n : Nat} (hd : (s.cores.map (·.1)).Nodup) (h : nextIssue s = some (c, n)) :
    pickSlot s c (coreOf s c) = some n := by
  obtain ⟨p, hp, hf⟩ := List.exists_of_findSome?_eq_some h
  split at hf
  · obtain ⟨m, hm, he⟩ := Option.map_eq_some_iff.mp hf
    cases he
    rwa [coreOf, mapGet_of_mem hd hp]
  · cases hf

/-- Settles O23. -/
theorem issueSelection : Obligations.IssueSelection := by
  intro s c n hn hd hs
  have hpick := nextIssue_pickSlot hd hn
  have hslot : ∀ {m y}, (m, y) ∈ eligibles s.cycle (coreOf s c) → slotIn (coreOf s c) m = y ∧
      eligible s.cycle (coreOf s c) m y = true := fun hm =>
    ⟨mapGet_of_mem (hs.imp Nat.ne_of_lt) (List.mem_filter.mp hm).1, (List.mem_filter.mp hm).2⟩
  cases hr : (coreOf s c).rot with
  | true =>
    obtain ⟨hv, hb, hready⟩ := pickSlot_rot hr hpick
    obtain ⟨h1, h2, h3, -, -⟩ := (readyNow_iff ..).mp hready
    dsimp only
    refine ⟨h1, h2, h3, fun h => ?_, fun _ => ⟨hv, hb⟩⟩
    simp [hr] at h
  | false =>
    obtain ⟨x, hx, hpicked⟩ := pickSlot_ready hr hs hpick
    obtain ⟨hin, hel⟩ := hslot hx
    obtain ⟨hready, hlast⟩ := (eligible_iff ..).mp hel
    obtain ⟨h1, h2, h3, -, -⟩ := (readyNow_iff ..).mp hready
    dsimp only
    rw [hin]
    refine ⟨h1, h2, h3, fun _ => ⟨hlast, hpicked.imp_right fun h m y hm hy => ?_⟩, fun h => ?_⟩
    · exact h (m, y) (List.mem_filter.mpr ⟨hm, hy⟩)
    · simp [hr] at h

end Sys2Proof.Machine
end

/-! How the body of an instruction ends, and the time, flow and system instructions (R199 to R202, R215 to R218, R334 to R336). -/
section

namespace Sys2Proof.Machine

open Sys2Proof.Claims

/-! ## The ends of a body -/

section
variable {s s1 : State} {c n : Nat} {x : Slot} {t u : Thread} {body : Ctx → Body} (h : At s c n x t)
include h

theorem runInstr_ends (hb : body (Ctx.mk s c n x t) = .ok s1) : runInstr s body = .next s1 := runInstr_of_body h hb

theorem runInstr_completes {size : Nat} (hb : body (Ctx.mk s c n x t) = (Ctx.mk s c n x t).finish s1 u size)
    (hl : LoopOk s1 c n t u) : runInstr s body = .next (completed s1 c n t u size) :=
  runInstr_of_body h (hb.trans (finish_ok size hl))

theorem runInstr_traps {cause : Nat} {v d : Word} (hb : body (Ctx.mk s c n x t) = (Ctx.mk s c n x t).trap cause v d) :
    runInstr s body = .next (takeTrap s c n (trapInfo cause v d) none) :=
  runInstr_of_body h hb

theorem runInstr_waitsFor {w : Wait} (hb : body (Ctx.mk s c n x t) = (Ctx.mk s c n x t).waits s1 w) :
    runInstr s body = .next (waitSlot s1 c n w) :=
  runInstr_of_body h hb

theorem runInstr_stalls {w : Wait} (hb : body (Ctx.mk s c n x t) = (Ctx.mk s c n x t).stall w) :
    runInstr s body = .next (notIssued s c n w) :=
  runInstr_of_body h hb

/-- A held error becomes the trap of the instruction that delivers it (R184, R329). -/
theorem runInstr_deliversHeld {k : Body} {e : HeldErr} (hb : body (Ctx.mk s c n x t) = (Ctx.mk s c n x t).deliverHeld s1 k)
    (he : t.held = some e) :
    runInstr s body = .next (takeTrap (modThread s1 c n fun u => { u with held := none }) c n (heldTrap e) none) :=
  runInstr_of_body h (hb.trans (deliverHeld_some he))

end

section
variable {s s1 : State} {c n : Nat} {x : Slot} {t u : Thread}

/-- An instruction that completes and whose slot then waits. -/
theorem thenWait_finish {size : Nat} {w : Wait} (hl : LoopOk s1 c n t u) :
    (Ctx.mk s c n x t).thenWait w ((Ctx.mk s c n x t).finish s1 u size) =
      (Ctx.mk s c n x t).waits (completed s1 c n t u size) w := by
  rw [finish_ok size hl]
  rfl

/-- Registers that are FULL behind a guard that holds. -/
theorem guarded_needRegs {p : Nat} {rs : List Nat} {k : Body} (hg : Guarded t p) (hf : Full t rs) :
    (Ctx.mk s c n x t).guarded p ((Ctx.mk s c n x t).needRegs rs k) = k :=
  (guarded_holds _ hg).trans (needRegs_full _ hf)

/-- A run of registers that are FULL (R195). -/
theorem needRun_full {a : Fin 10} {others : List Nat} (k : Body) (ha : a.val ≤ 2) (hf : Full t (runRegs a ++ others)) :
    (Ctx.mk s c n x t).needRun a others k = k := by
  rw [Ctx.needRun, if_neg (Nat.not_lt.mpr ha), needRegs_full _ hf]

end

theorem bits_low (x hi : Nat) : bits x hi 0 = x % 2 ^ (hi + 1) := by simp [bits]

theorem bits_eq_zero_of_lt {x hi lo : Nat} (h : x < 2 ^ lo) : bits x hi lo = 0 := by simp [bits, Nat.div_eq_of_lt h]

/-- Settles O35. -/
theorem timeInstructions : Obligations.TimeInstructions := by
  intro s c n x t p h hg
  refine ⟨?_, ?_, ?_⟩
  · intro d f u hl
    dsimp only [exec, execTime]
    exact runInstr_completes h (guarded_holds _ hg) hl
  · intro a b hf y
    dsimp only [exec, execWaitt]
    refine ⟨fun hb hy hl => ?_, fun hb hy => ?_, fun hb => ?_⟩
    · exact runInstr_completes h ((guarded_needRegs hg hf).trans ((if_neg (Nat.not_le.mpr hb)).trans (if_pos hy))) hl
    · exact runInstr_waitsFor h
        ((guarded_needRegs hg hf).trans ((if_neg (Nat.not_le.mpr hb)).trans (if_neg (Nat.not_le.mpr hy))))
    · exact runInstr_traps h ((guarded_needRegs hg hf).trans (if_pos hb))
  · intro a hf ha
    have hlim : BitVec.ofNat 32 (bits (valOf t a).toNat 31 0) = BitVec.ofNat 32 (valOf t a).toNat := by
      rw [bits_low]
      exact BitVec.eq_of_toNat_eq (by simp)
    rw [← hlim]
    intro s1 hl
    dsimp only [exec, execWaitlim]
    exact runInstr_completes h ((guarded_needRegs hg hf).trans (if_neg (by simp [bits_eq_zero_of_lt ha]))) hl

section
variable {s : State} {c n : Nat} {x : Slot} {t : Thread}

/-- What GO does behind its checks (R202). -/
def goOn (a : Fin 10) (x : Ctx) : Body :=
  match goTarget x.s x.c x.n (valOf x.t a) with
  | .stay => x.done x.t
  | .bad d => x.trap 0x06 (valOf x.t a) (BitVec.ofNat 64 d)
  | .walk => .error (.gone (startWalk x.s x.c x.n (valOf x.t a) false))
  | .core d => x.depart d (valOf x.t a)

theorem exec_go (a : Fin 10) (p : Fin 16) (s : State) :
    exec (.go a p) s = runInstr s fun x => x.guarded p <| x.atHome <| x.needRegs [a] <| goOn a x := rfl

/-- A thread that leaves for another core of the package (R35). -/
theorem depart_own {d : Dest} {a : Word} (hown : d.own = true) (hdev : d.dev = s.pkg.dev.toNat) (hres : anyReserved t = false)
    (hpend : pending s c n = false) (hheld : t.held = none) :
    (Ctx.mk s c n x t).depart d a =
      let s1 := putMsg s (mkMsg s c n d.dev d.core .request false (.migrate { t with pc := t.pc + 4#48 }))
      .error (.gone (setSlot s1 c n (emptySlot (slotOf s1 c n)))) := by
  unfold Ctx.depart
  rw [if_neg (by simp [hres, hpend]), deliverHeld_none hheld]
  exact if_pos (by simp [hown])

end

/-- Settles O31. -/
theorem threadFlow : Obligations.ThreadFlow := by
  intro s c n x t p hg
  refine ⟨?_, ?_, ?_, ?_, ?_⟩
  · intro h
    dsimp only [exec, execExit]
    refine ⟨fun hh => ?_, fun e hh => ?_⟩
    · exact runInstr_waitsFor h.1 ((guarded_holds _ hg).trans ((atHome_home _ h.2).trans (deliverHeld_none hh)))
    · exact runInstr_deliversHeld h.1 ((guarded_holds _ hg).trans (atHome_home _ h.2)) hh
  · intro h hl
    dsimp only [exec, execYield]
    split
    next hr => exact runInstr_completes h ((guarded_holds _ hg).trans (if_pos hr)) hl
    next hr => exact runInstr_waitsFor h ((guarded_holds _ hg).trans ((if_neg hr).trans (thenWait_finish hl)))
  · intro a h hf
    dsimp only [exec, execPrio]
    refine ⟨fun hv hl => ?_, fun hv => ?_⟩
    · exact runInstr_completes h ((guarded_needRegs hg hf).trans (if_neg (Nat.not_le.mpr hv))) hl
    · exact runInstr_traps h ((guarded_needRegs hg hf).trans (if_pos hv))
  · intro d a b h hd ha hf
    dsimp only [exec, execEnq]
    have hb : ∀ k, (if d.val < 8 then (Ctx.mk s c n x t).illegal 0 else
        (Ctx.mk s c n x t).guarded p ((Ctx.mk s c n x t).needRun a [b] k)) = k := fun k =>
      (if_neg (Nat.not_lt.mpr hd)).trans ((guarded_holds _ hg).trans (needRun_full k ha hf))
    refine ⟨fun hv hr => ?_, fun hv => ?_⟩
    · exact runInstr_waitsFor h ((hb _).trans ((if_pos (by simpa [aligned] using hv)).trans (if_neg (by simpa [regionOf] using hr))))
    · exact runInstr_traps h ((hb _).trans (if_neg (by simpa [aligned] using hv)))
  · intro a h hf
    rw [exec_go]
    have hb : ∀ k, (Ctx.mk s c n x t).guarded p ((Ctx.mk s c n x t).atHome ((Ctx.mk s c n x t).needRegs [a] k)) = k := fun k =>
      (guarded_holds _ hg).trans ((atHome_home _ h.2).trans (needRegs_full _ hf))
    refine ⟨fun hgo hl => ?_, fun d hgo => ?_, fun d hgo hown hdev hres hpend hheld => ?_⟩
    · exact runInstr_completes h.1 ((hb _).trans (by simp only [goOn, hgo]; rfl)) hl
    · exact runInstr_traps h.1 ((hb _).trans (by simp only [goOn, hgo]))
    · have hcore : goOn a (Ctx.mk s c n x t) = (Ctx.mk s c n x t).depart d (valOf t a) := by simp only [goOn, hgo]
      rw [runInstr_of_body h.1 ((hb _).trans hcore)]
      rw [depart_own hown hdev hres hpend hheld, hdev, putMsg_here _ _ (.inr rfl)]
      exact ⟨_, _, rfl, by simp [emptySlot, Slot.fresh], by simp [emptySlot, Slot.fresh], rfl,
        fun e k he => slotOf_setSlot_other _ _ _ _ _ _ he, rfl, rfl, rfl, rfl⟩

end Sys2Proof.Machine
end

/-! The system instructions (R332, R334 to R336), the semaphores (R204) and SEED (R181). -/
section

namespace Sys2Proof.Machine

open Sys2Proof.Claims

/-! ## Debug halt -/

theorem haltCore_mode (s : State) (c : Nat) : (coreOf (haltCore s c) c).mode = .debugHalt := by simp [haltCore]

theorem haltCore_held {s : State} {c m : Nat} {y : Slot} (h : (m, y) ∈ (coreOf (haltCore s c) c).slots) : y.isHeld = true := by
  simp only [haltCore, coreOf_modCore_same, List.mem_map] at h
  obtain ⟨p, -, hp⟩ := h
  cases hp
  rfl

/-! ## System instructions -/

section
variable {s : State} {c n : Nat} {x : Slot} {t : Thread} {p : Fin 16} (hg : Guarded t p)
include hg

theorem exec_ecall (h : AtHome s c n x t) (d a : Fin 10) (ha : a.val ≤ 6) (hf : Full t ((List.range 4).map (a.val + ·)))
    (hq : (coreOf s c).ecq.getLsbD 0 = true) :
    exec (.ecall d a p) s = .next (settleBody c n ((Ctx.mk s c n x t).needRes
      ((coreOf s c).ecqt - (coreOf s c).ecqh != 64#32) .ecall ((Ctx.mk s c n x t).released
        ((Ctx.mk s c n x t).finish (ecallAppend s c (ecallEntry s c n t d a)) (reserveReg t d) 4)))) := by
  dsimp only [exec, execEcall]
  refine runInstr_of_body h.1 ((atHome_home _ h.2).trans ((guarded_holds _ hg).trans ?_))
  exact (if_neg (Nat.not_lt.mpr ha)).trans ((needRegs_full _ hf).trans (if_neg (by simp [hq])))

theorem exec_ecall_refused (h : AtHome s c n x t) (d a : Fin 10)
    (ha : 6 < a.val ∨ (coreOf s c).ecq.getLsbD 0 = false ∧ Full t ((List.range 4).map (a.val + ·))) :
    exec (.ecall d a p) s = .next (takeTrap s c n (trapInfo 0x04 (BitVec.ofNat 64 a) (BitVec.ofNat 64 a)) none) := by
  dsimp only [exec, execEcall]
  refine runInstr_traps h.1 ((atHome_home _ h.2).trans ((guarded_holds _ hg).trans ?_))
  by_cases h6 : 6 < a.val
  · exact if_pos h6
  · obtain ⟨hq, hf⟩ := ha.resolve_left h6
    exact (if_neg h6).trans ((needRegs_full _ hf).trans (if_pos (by rw [hq]; rfl)))

theorem exec_tret (h : AtHome s c n x t) (hn : n < 4) : exec (.tret p) s = .next (settleBody c n
    (if !x.sin then (Ctx.mk s c n x t).illegalOperand 0#64 0
    else match checkTarget s c n t.pc x.epc.toNat with
      | .error r => .error (.trap s r none)
      | .ok _ => .ok (modSlot s c n fun y => returnTrap y t))) := by
  dsimp only [exec, execTret]
  exact runInstr_of_body h.1 ((atHome_home _ h.2).trans ((needS_super _ (visitFrom_atHome h) hn).trans (guarded_holds _ hg)))

end

/-- Settles O36. -/
theorem systemInstructions : Obligations.SystemInstructions := by
  intro s c n x t p hg
  refine ⟨?_, ?_, ?_, ?_, ?_, ?_⟩
  · intro a h hf
    dsimp only [exec, execTrap]
    exact runInstr_traps h (guarded_needRegs hg hf)
  · intro h hd
    dsimp only [exec, execEbreak]
    exact runInstr_traps h ((guarded_holds _ hg).trans (if_neg (ne_true_of_eq_false hd)))
  · intro h hd
    refine ⟨?_, haltCore_mode s c, fun m y hm => haltCore_held hm⟩
    dsimp only [exec, execEbreak]
    exact runInstr_ends h ((guarded_holds _ hg).trans (if_pos hd))
  · intro w h
    dsimp only [exec, execIllegalInstruction]
    rw [BitVec.ofNat_toNat]
    exact runInstr_traps h (by simp only [Bool.and_eq_true, decide_eq_true_eq])
  · intro d a h
    refine ⟨fun ha hq hf => ⟨?_, fun hfull => ?_⟩, fun ha => exec_ecall_refused hg h d a ha⟩
    · intro hroom hpend s1 hl
      rw [exec_ecall hg h d a ha hf hq, needRes_free _ _ (by simpa using hroom), released_free _ hpend, finish_ok _ hl,
        settleBody_ok]
    · rw [exec_ecall hg h d a ha hf hq, Ctx.needRes, if_neg (by simp [hfull])]
      rfl
  · intro h hn
    refine ⟨fun hsin hok => ?_, fun hsin => ?_, fun hl => ?_⟩
    · rw [exec_tret hg h hn, if_neg (by simp [hsin]), checkTarget_ok hok]
      obtain ⟨⟨-, hx, -⟩, -⟩ := h
      simp only [settleBody_ok, modSlot, returnTrap, hx]
    · rw [exec_tret hg h hn, if_pos (by simp [hsin])]
      rfl
    · dsimp only [exec, execIdle]
      exact runInstr_waitsFor h.1
        ((needS_super _ (visitFrom_atHome h) hn).trans ((guarded_holds _ hg).trans (thenWait_finish hl)))

end Sys2Proof.Machine
end

/-! The semaphore instructions (R53, R54, R204) and the message of a thread as it leaves (R209 to R211, R402). -/
section

namespace Sys2Proof.Machine

open Sys2Proof.Claims

/-! ## The thread and the semaphores of a state -/

theorem threadOf_at {s : State} {c n : Nat} {x : Slot} {t : Thread} (h : At s c n x t) : threadOf s c n = some t := by
  obtain ⟨-, hx, ht, -⟩ := h
  rw [threadOf, hx, ht]

theorem coreOf_modSlot_same (s : State) (c n : Nat) (f : Slot → Slot) :
    coreOf (modSlot s c n f) c = putSlot (coreOf s c) n (f (slotOf s c n)) := by simp [modSlot, setSlot]

/-- A completed instruction leaves its core's semaphores. -/
theorem semOf_completed (s : State) (c n k : Nat) (t u : Thread) (size : Nat) :
    semOf (coreOf (completed s c n t u size) c) k = semOf (coreOf s c) k := by
  rw [completed, withThread, coreOf_modSlot_same]
  rfl

theorem threadOf_modCore (s : State) (c d n : Nat) (f : Core → Core) (h : ∀ k, (f k).slots = k.slots) :
    threadOf (modCore s c f) d n = threadOf s d n := by
  simp only [threadOf, slotOf, slotIn]
  by_cases hd : d = c
  · subst hd
    rw [coreOf_modCore_same, h]
  · rw [coreOf_modCore_other _ _ _ _ hd]

theorem threadOf_semAdd (s : State) (c n d m inc : Nat) : threadOf (semAdd s c n inc) d m = threadOf s d m :=
  threadOf_setSem ..

theorem threadOf_semAssign (s : State) (c k d m : Nat) (v : BitVec 32) : threadOf (semAssign s c k v) d m = threadOf s d m := by
  unfold semAssign
  dsimp only
  split
  · exact threadOf_modCore _ _ _ _ _ fun _ => rfl
  · exact threadOf_setSem ..

theorem semOf_semAssign_same (s : State) (c k : Nat) (v : BitVec 32) :
    semOf (coreOf (semAssign s c k v) c) k = { semOf (coreOf s c) k with val := v } := by
  unfold semAssign
  dsimp only
  split
  · simp [semOf, putSem]
  · exact semOf_setSem_same ..

/-- A raise saturates, with the sticky overflow bit (R53). -/
theorem raisedSem_spec (m : Sem) (i : Nat) :
    (raisedSem m i).val.toNat = min (2 ^ 32 - 1) (m.val.toNat + i) ∧
      (raisedSem m i).ovf = (m.ovf || decide (2 ^ 32 - 1 < m.val.toNat + i)) ∧ (raisedSem m i).err = m.err := by
  unfold raisedSem
  split
  next h =>
    refine ⟨?_, by rw [decide_eq_true h, Bool.or_true], rfl⟩
    rw [Nat.min_eq_left (Nat.le_of_lt h)]
    rfl
  next h =>
    have hle := Nat.not_lt.mp h
    refine ⟨?_, by rw [decide_eq_false h, Bool.or_false], rfl⟩
    rw [Nat.min_eq_right hle]
    simp only [BitVec.toNat_add, BitVec.toNat_ofNat]
    omega

section
variable {s s1 : State} {c n : Nat} {x : Slot} {t : Thread}

theorem doneIn_eq {size : Nat} (ht : threadOf s1 c n = some t) :
    (Ctx.mk s c n x t).doneIn s1 size = (Ctx.mk s c n x t).finish s1 t size := by
  unfold Ctx.doneIn
  rw [ht]
  rfl

/-- WAIT's body at home, behind its registers (R204). -/
theorem exec_waitLine (h : AtHome s c n x t) {i : Instr} {k : Nat} {rs : List Nat} {v : Thread → Nat}
    (hi : waitLine i = some (k, rs, v)) (hf : Full t rs) :
    exec i s = .next (settleBody c n ((Ctx.mk s c n x t).waitSem k (v t))) := by
  cases i <;> cases hi
  case waitImm =>
    dsimp only [exec, execWaitImm]
    exact runInstr_of_body h.1 (atHome_home _ h.2)
  case waitReg =>
    dsimp only [exec, execWaitReg]
    rw [← bits_low _ 31]
    exact runInstr_of_body h.1 ((atHome_home _ h.2).trans (needRegs_full _ hf))

theorem waitSem_held {k v : Nat} {e : DefErr} {more : Nat} (h : (semOf (coreOf s c) k).err = some (e, more)) :
    (Ctx.mk s c n x t).waitSem k v =
      .error (.trap (modCore s c fun y => putSem y k { semOf (coreOf s c) k with err := none }) (deferredTrap (e, more))
        (some k)) := by
  simp only [Ctx.waitSem, h]

theorem waitSem_free {k v : Nat} (h : (semOf (coreOf s c) k).err = none) :
    (Ctx.mk s c n x t).waitSem k v =
      if v ≤ (semOf (coreOf s c) k).val.toNat then (Ctx.mk s c n x t).finish s t 4
      else (Ctx.mk s c n x t).waits s (.sem k) := by
  simp only [Ctx.waitSem, h]
  rfl

/-- SEMSET at home with nothing outstanding. -/
theorem exec_semsetLine (h : AtHome s c n x t) {i : Instr} {k : Nat} {rs : List Nat} {v : Thread → BitVec 32}
    (hi : semsetLine i = some (k, rs, v)) (hf : Full t rs) (hp : pending s c n = false)
    (hl : LoopOk (semAssign s c k (v t)) c n t t) : exec i s = .next (completed (semAssign s c k (v t)) c n t t 4) := by
  have ht : threadOf (semAssign s c k (v t)) c n = some t := (threadOf_semAssign ..).trans (threadOf_at h.1)
  cases i <;> cases hi
  case semsetImm k i =>
    dsimp only [exec, execSemsetImm]
    rw [BitVec.ofNat_toNat] at ht hl ⊢
    exact runInstr_completes h.1 ((atHome_home _ h.2).trans ((released_free _ hp).trans (doneIn_eq ht))) hl
  case semsetReg a k =>
    dsimp only [exec, execSemsetReg] at ht hl ⊢
    rw [BitVec.ofNat_toNat] at ht hl ⊢
    exact runInstr_completes h.1
      ((atHome_home _ h.2).trans ((needRegs_full _ hf).trans ((released_free _ hp).trans (doneIn_eq ht)))) hl

/-! ## Messages as they leave -/

/-- A message that may leave is handed to its network, and the instruction completes (R209 to R211, R402). -/
theorem launch_sent {v : Word} {reg : Nat} {d : Dest} {net : Net} {queued : Bool} {body : MsgBody} {u : Thread}
    {f : State → State} (hc : canSend s c n t d queued) (hl : LoopOk (f (handed s c n t d net queued body)) c n t u) :
    settleBody c n ((Ctx.mk s c n x t).launch v reg d net queued body u f) =
      sent s (f (handed s c n t d net queued body)) c n t u := by
  obtain ⟨hdet, hfree⟩ := hc
  unfold Ctx.launch sent
  unfold handed at hl ⊢
  cases hd : detOf t with
  | true =>
    obtain ⟨hw, hu⟩ := hdet hd
    obtain ⟨w, hw⟩ := Option.ne_none_iff_exists'.mp hw
    simp only [hd, hw, if_true, Option.getD_some, Ctx.releasedIf, hu, Bool.and_false, Bool.false_eq_true, if_false] at hl ⊢
    rw [finish_ok 4 hl]
    rfl
  | false =>
    have hq := hfree hd
    simp only [hd, Bool.false_eq_true, if_false] at hl ⊢
    cases queued with
    | true =>
      simp only [if_true, Ctx.egress] at hq hl ⊢
      rw [if_pos (show egressCount s c < Config.egressSize from hq), finish_ok 4 hl, settleBody_ok]
    | false =>
      simp only [Bool.false_eq_true, if_false] at hq hl ⊢
      simp only [Ctx.releasedIf, hq, Bool.not_true, Bool.false_and, Bool.true_or, Bool.false_eq_true, if_false, if_true]
      rw [show putMsg s (mkMsg s c n d.dev d.core net false body) = post s c n d.dev d.core net false body from rfl,
        finish_ok 4 hl, settleBody_ok]

theorem coreTarget_ok {v : Word} {reg : Nat} {d : Dest} (k : Dest → Body) (h : coreWord s c v d) :
    (Ctx.mk s c n x t).coreTarget v reg k = k d := by
  obtain ⟨hb, hs, hd⟩ := h
  unfold Ctx.coreTarget Ctx.dest
  rw [if_neg (by simp [hb, hs])]
  simp only [hd]

end

/-- Settles O32. -/
theorem semaphores : Obligations.Semaphores := by
  refine ⟨fun s c n x t h => ⟨?_, ?_, ?_, ?_, ?_⟩, ?_⟩
  · intro i k rs v hi hf m
    have he := exec_waitLine h hi hf
    refine ⟨fun hm hv hl => ?_, fun hm hv => ?_, fun e more hm => ?_⟩
    · rw [he, waitSem_free hm, if_pos hv, finish_ok 4 hl, settleBody_ok]
    · rw [he, waitSem_free hm, if_neg (Nat.not_le.mpr hv)]
      rfl
    · rw [he, waitSem_held hm, settleBody_trap]
      rfl
  · intro k i hi hp hl
    have ht : threadOf (semAdd s c k.toNat i.toNat) c n = some t := (threadOf_semAdd ..).trans (threadOf_at h.1)
    constructor
    · dsimp only [exec, execSig]
      exact runInstr_completes h.1
        ((if_neg hi).trans ((atHome_home _ h.2).trans ((released_free _ hp).trans (doneIn_eq ht)))) hl
    · dsimp only
      rw [semOf_completed, semOf_semAdd_same]
      exact raisedSem_spec _ _
  · intro i k rs v hi hf hp hl
    exact ⟨exec_semsetLine h hi hf hp hl, by rw [semOf_completed, semOf_semAssign_same]⟩
  · intro a k v hl
    dsimp only [exec, execSemrd]
    refine runInstr_completes h.1 ((atHome_home _ h.2).trans ?_) hl
    rw [← BitVec.ofNat_toNat]
    rfl
  · intro d k i hd u hl
    dsimp only [exec, execTest]
    exact runInstr_completes h.1 ((atHome_home _ h.2).trans (writePred_ok (by rintro ⟨-, -, h8, -⟩; omega))) hl
  · intro s c n x t a k i w h hf hi hw hc s1 hl
    dsimp only [exec, execSigr]
    rw [runInstr_of_body h.1 ((if_neg hi).trans ((atHome_home _ h.2).trans ((needRegs_full _ hf).trans (coreTarget_ok _ hw))))]
    exact congrArg _ (launch_sent (f := id) hc hl)

end Sys2Proof.Machine
end

/-! Loads, stores, requests, FENCE and WATCH at issue (R110, R183 to R194). -/
section

namespace Sys2Proof.Machine

open Sys2Proof.Claims

/-! ## Bytes of a number -/

theorem length_leBytes : ∀ n v : Nat, (leBytes n v).length = n
  | 0, _ => rfl
  | n + 1, v => congrArg (· + 1) (length_leBytes n (v / 256))

theorem getElem?_leBytes {n k : Nat} (v : Nat) (h : k < n) : (leBytes n v)[k]? = some (BitVec.ofNat 8 (v / 256 ^ k)) := by
  induction n generalizing k v with
  | zero => omega
  | succ n ih =>
    cases k with
    | zero => simp [leBytes]
    | succ k =>
      rw [leBytes, List.getElem?_cons_succ, ih _ (by omega), Nat.div_div_eq_div_mul, Nat.pow_succ, Nat.mul_comm]

/-- A byte of the low bytes of a number is that byte of the number. -/
theorem byte_of_low {n k : Nat} (v : Nat) (h : k < n) :
    BitVec.ofNat 8 (v % 2 ^ (8 * n) / 256 ^ k) = BitVec.ofNat 8 (v / 256 ^ k) := by
  have hp : 2 ^ (8 * n) = 256 ^ k * (256 * 256 ^ (n - k - 1)) := by
    rw [Nat.pow_mul, ← Nat.pow_succ', ← Nat.pow_add]
    congr 1
    omega
  apply BitVec.eq_of_toNat_eq
  rw [hp, Nat.mod_mul_right_div_self]
  simp only [BitVec.toNat_ofNat]
  exact Nat.mod_mod_of_dvd _ ⟨_, rfl⟩

/-! ## Effective addresses -/

theorem effAddr_eq {w : Nat} (base : Word) (k : BitVec w) (z : Sz) :
    effAddr base k z = base + BitVec.ofInt 64 (k.toInt * z.bytes) := by
  have hshift : ∀ n : Nat, BitVec.signExtend 64 k <<< n = BitVec.ofInt 64 (k.toInt * (2 ^ n : Nat)) := by
    intro n
    have htwo : BitVec.twoPow 64 n = BitVec.ofNat 64 (2 ^ n) := BitVec.eq_of_toNat_eq (by simp [BitVec.toNat_twoPow])
    rw [BitVec.ofInt_mul, BitVec.ofInt_natCast, BitVec.shiftLeft_eq_mul_twoPow, htwo]
    rfl
  cases z
  case b => exact congrArg _ (hshift 0)
  case h => exact congrArg _ (hshift 1)
  case w => exact congrArg _ (hshift 2)
  case d => exact congrArg _ (hshift 3)

/-! ## The checks of an access -/

/-- Where every access of a thread is performed none is followed (R110). -/
theorem mustQueue_performed {s : State} {c n : Nat} (h : unperformed s c n = false) (a : Access) :
    mustQueue s c n a = false := by
  simp only [unperformed, Bool.or_eq_false_iff, List.any_eq_false, Bool.not_eq_true] at h
  obtain ⟨hf, hr⟩ := h
  simp only [mustQueue, remoteBefore, Bool.or_eq_false_iff, List.any_eq_false, Bool.and_eq_true, not_and, Bool.not_eq_true]
  exact ⟨fun m hm ha => absurd ha (by simp [hf m hm]), fun e he ht => absurd ht.1 (by simpa using hr e he)⟩

section
variable {s : State} {c n : Nat} {x : Slot} {t : Thread}

theorem localHome_home (a : Word) (k : Body) (hv : x.visitFrom = none) : (Ctx.mk s c n x t).localHome a k = k := by
  unfold Ctx.localHome
  split
  · exact atHome_home k hv
  · rfl

theorem looselyAligned_ok {a : Word} {size : Nat} (k : Body) (h : a.toNat % size = 0 ∨ a.toNat % 64 + size ≤ 64) :
    (Ctx.mk s c n x t).looselyAligned a size k = k :=
  if_pos (by simpa [aligned, inGranule] using h)

theorem aligned_ok {a : Word} {size : Nat} (k : Body) (h : a.toNat % size = 0) : (Ctx.mk s c n x t).aligned a size k = k :=
  if_pos (by simpa [aligned] using h)

/-- A route that the access may touch (R350). -/
theorem route_ok {u : AccUse} {a : Word} {size : Nat} {counted : Bool} {r : Route} (k : Route → Body)
    (hv : (slotOf s c n).visitFrom = none) (hr : routeAccess s c n u a size = .ok r) (hm : MayTouch s n r size) :
    (Ctx.mk s c n x t).route u a size counted k = k r := by
  simp only [Ctx.route, hr]
  refine if_neg ?_
  simp only [Ctx.levelSlot, levelSlot_home hv, Bool.and_eq_true, decide_eq_true_eq, Option.any_eq_true, not_and, not_exists]
  intro hn key hk
  exact ne_true_of_eq_false (hm.resolve_left hn key hk)

/-- A store may not go to a counter table (R372). -/
theorem notCounters_ok {r : Route} {a : Word} {size : Nat} (k : Body)
    (h : ∀ key, routeKey r = some key → inCounterTable s key size = false) : (Ctx.mk s c n x t).notCounters r a size k = k := by
  refine if_neg ?_
  simp only [Option.any_eq_true, not_exists, not_and]
  exact fun key hk => ne_true_of_eq_false (h key hk)

theorem egressFor_ok {r : Route} (a : Word) (k : Body) (h : routeEgress r = true → egressCount s c < 64) :
    (Ctx.mk s c n x t).egressFor r a k = k := by
  unfold Ctx.egressFor
  split
  next he => exact if_pos (h he)
  next => rfl

theorem outstanding_ok (k : Body) (h : (coreOf s c).outstanding < 64) : (Ctx.mk s c n x t).outstanding k = k :=
  needRes_free _ _ (decide_eq_true h)

end

theorem post_mem (s : State) (c n d : Nat) (net : Net) (e : Bool) (b : MsgBody) :
    (post s c n s.pkg.dev.toNat d net e b).mem = s.mem := by
  rw [post, putMsg_here _ _ (.inr rfl)]

/-- Sending an access leaves memory. -/
theorem sendAccess_mem (s : State) (c n : Nat) (r : Route) (a : Access) : (sendAccess s c n r a).mem = s.mem := by
  cases r with
  | own k => exact post_mem ..
  | far k e => exact post_mem ..
  | dev d l sp off =>
    simp only [sendAccess, askRemote, modCore_mem, post]
    rw [putMsg_here _ _ (.inl rfl)]
  | ctrl => rfl

end Sys2Proof.Machine
end

/-! What loads, stores, requests, FENCE and WATCH do at issue (R183 to R194). -/
section

namespace Sys2Proof.Machine

open Sys2Proof.Claims

section
variable {s : State} {c n : Nat} {x : Slot} {t : Thread}

/-! ## Loads and stores of the own stores -/

theorem load_own {a : Access} {d key : Nat} (h : AtHome s c n x t) (hal : a.addr.toNat % a.size = 0 ∨ a.addr.toNat % 64 + a.size ≤ 64)
    (hr : routeAccess s c n .read a.addr a.size = .ok (.own key)) (hm : MayTouch s n (.own key) a.size)
    (hu : unperformed s c n = false) (he : NoErrors s key a.size) :
    (Ctx.mk s c n x t).load d a =
      (Ctx.mk s c n x t).finish s (writeReg t d (loadValue a.sgn a.size (memNat s.mem key a.size))) 4 := by
  unfold Ctx.load
  rw [localHome_home _ _ h.2, looselyAligned_ok _ hal, route_ok _ (visitFrom_atHome h) hr hm]
  simp only [mustQueue_performed hu, Bool.false_eq_true, if_false]
  simp only [Ctx.loadOwn, eccRead_clean he, Bool.false_eq_true, if_false]

theorem eccPart_clean {s : State} {c k size : Nat} (h : eccBads (eccWrite s.ecc k size) k size = []) :
    eccPart s c k size = (s, false) := by
  simp only [eccPart, h, List.foldl_nil, List.isEmpty_nil, Bool.not_true]

theorem store_own {a : Access} {key : Nat} (h : AtHome s c n x t) (hal : a.addr.toNat % a.size = 0 ∨ a.addr.toNat % 64 + a.size ≤ 64)
    (hr : routeAccess s c n .write a.addr a.size = .ok (.own key)) (hc : inCounterTable s key a.size = false)
    (ha : inAsidTable s key a.size = false) (hu : unperformed s c n = false)
    (he : eccBads (eccWrite s.ecc key a.size) key a.size = []) :
    (Ctx.mk s c n x t).store a =
      (Ctx.mk s c n x t).finish (threadStore s c n key (leBytes a.size a.data)) t 4 := by
  have hm : MayTouch s n (.own key) a.size := .inr fun k hk => by cases hk; exact ha
  unfold Ctx.store
  rw [localHome_home _ _ h.2, looselyAligned_ok _ hal, route_ok _ (visitFrom_atHome h) hr hm]
  dsimp only
  rw [notCounters_ok _ fun k hk => by cases hk; exact hc]
  simp only [mustQueue_performed hu, Bool.false_eq_true, if_false]
  simp only [Ctx.storeOwn, eccPart_clean he, Bool.false_eq_true, if_false]

/-- A thread's store puts its bytes where it is directed and leaves the others (R5). -/
theorem threadStore_bytes {key size v : Nat} (ha : inAsidTable s key size = false) :
    (∀ k, (k < key ∨ key + size ≤ k) →
      memByte (threadStore s c n key (leBytes size (v % 2 ^ (8 * size)))).mem k = memByte s.mem k) ∧
    ∀ k, k < size → memByte (threadStore s c n key (leBytes size (v % 2 ^ (8 * size)))).mem (key + k) =
      BitVec.ofNat 8 (v / 256 ^ k) := by
  rw [threadStore_mem, storedBytes_plain (by rwa [length_leBytes])]
  refine ⟨fun k hk => memByte_memWrite_out _ _ _ _ (by rwa [length_leBytes]), fun k hk => ?_⟩
  rw [memByte_memWrite_in _ _ _ _ (by rwa [length_leBytes]), getElem?_leBytes _ hk, Option.getD_some, byte_of_low _ hk]

end

/-- Settles O14. -/
theorem ownAccesses : Obligations.OwnAccesses := by
  constructor
  · intro i d a p z sx s c n x t ea key hi h hg hf hr hm hu he v hl
    have hv : ∀ w, loadValue sx z.bytes w = if sx then BitVec.ofInt 64 (signedOf (8 * z.bytes) w) else BitVec.ofNat 64 w :=
      fun _ => rfl
    rcases hi with ⟨⟨k, rfl, hea⟩, hal⟩ | ⟨⟨sc, k, rfl, hea⟩, hal⟩
    · rw [← effAddr_eq] at hea
      subst hea
      dsimp only [exec, execLd]
      exact runInstr_completes h.1 ((guarded_needRegs hg hf).trans (load_own h hal hr hm hu he)) hl
    · rw [← effAddr_eq] at hea
      subst hea
      dsimp only [exec, execLdAcq]
      exact runInstr_completes h.1
        ((guarded_needRegs hg hf).trans ((aligned_ok _ hal).trans (load_own h (.inl hal) hr hm hu he))) hl
  · intro i v a p z s c n x t ea key hi h hg hf hr hc ha hu he s1 hl
    refine ⟨?_, by simpa only [completed_mem] using threadStore_bytes (s := s) (c := c) (n := n) ha⟩
    rcases hi with ⟨⟨k, rfl, hea⟩, hal⟩ | ⟨⟨sc, k, rfl, hea⟩, hal⟩
    · rw [← effAddr_eq] at hea
      subst hea
      dsimp only [exec, execSt]
      exact runInstr_completes h.1 ((guarded_needRegs hg hf).trans (store_own h hal hr hc ha hu he)) hl
    · rw [← effAddr_eq] at hea
      subst hea
      dsimp only [exec, execStRel]
      exact runInstr_completes h.1
        ((guarded_needRegs hg hf).trans ((aligned_ok _ hal).trans (store_own h (.inl hal) hr hc ha hu he))) hl

/-! ## Loads and stores of other stores -/

section
variable {s : State} {c n : Nat} {x : Slot} {t : Thread} {r : Route}

theorem load_far {a : Access} {d : Nat} (h : AtHome s c n x t) (hal : a.addr.toNat % a.size = 0 ∨ a.addr.toNat % 64 + a.size ≤ 64)
    (hr : routeAccess s c n .read a.addr a.size = .ok r) (hm : MayTouch s n r a.size)
    (hown : ∀ key, r ≠ .own key) (hctrl : ∀ b q o, r ≠ .ctrl b q o) (he : routeEgress r = true → egressCount s c < 64) :
    (Ctx.mk s c n x t).load d a =
      (Ctx.mk s c n x t).waits (sendAccess s c n r { a with reg := d, tag := s.uid }) (.load s.uid) := by
  unfold Ctx.load
  rw [localHome_home _ _ h.2, looselyAligned_ok _ hal, route_ok _ (visitFrom_atHome h) hr hm]
  cases r with
  | own key => exact absurd rfl (hown key)
  | ctrl b q o => exact absurd rfl (hctrl b q o)
  | far key e => exact egressFor_ok _ _ he
  | dev d l sp off => exact egressFor_ok _ _ he

theorem store_far {a : Access} (h : AtHome s c n x t) (hal : a.addr.toNat % a.size = 0 ∨ a.addr.toNat % 64 + a.size ≤ 64)
    (hr : routeAccess s c n .write a.addr a.size = .ok r) (hc : ∀ key e, r = .far key e → inCounterTable s key a.size = false)
    (hm : MayTouch s n r a.size)
    (hown : ∀ key, r ≠ .own key) (hctrl : ∀ b q o, r ≠ .ctrl b q o) (he : routeEgress r = true → egressCount s c < 64) :
    (Ctx.mk s c n x t).store a = (Ctx.mk s c n x t).finish (sendAccess s c n r a) t 4 := by
  unfold Ctx.store
  rw [localHome_home _ _ h.2, looselyAligned_ok _ hal, route_ok _ (visitFrom_atHome h) hr hm]
  dsimp only
  cases r with
  | own key => exact absurd rfl (hown key)
  | ctrl b q o => exact absurd rfl (hctrl b q o)
  | far key e =>
    rw [notCounters_ok _ fun k hk => by cases hk; exact hc _ _ rfl]
    exact egressFor_ok _ _ he
  | dev d l sp off =>
    rw [notCounters_ok _ fun k hk => by cases hk]
    exact egressFor_ok _ _ he

/-- A request that is sent and counted (R185, R190). -/
theorem request_ok {a : Access} {u : Thread} (he : routeEgress r = true → egressCount s c < 64)
    (ho : (coreOf s c).outstanding < 64) :
    (Ctx.mk s c n x t).request r a u = (Ctx.mk s c n x t).finish (moreOutstanding (sendAccess s c n r a) c) u 4 :=
  (outstanding_ok _ ho).trans (egressFor_ok _ _ he)

theorem moreOutstanding_sendAccess_mem (s : State) (c n : Nat) (r : Route) (a : Access) :
    (moreOutstanding (sendAccess s c n r a) c).mem = s.mem := (modCore_mem ..).trans (sendAccess_mem ..)

end

/-- Settles O15. -/
theorem remoteLoadsStores : Obligations.RemoteLoadsStores := by
  intro s c n x t p z k r h hg hown hctrl he
  constructor
  · intro d a sx hf ea hal hr hm b
    dsimp only [exec, execLd]
    exact runInstr_waitsFor h.1 ((guarded_needRegs hg hf).trans (load_far h hal hr hm hown hctrl he))
  · intro v a hf ea hal hr hc hm s1 hl
    dsimp only [exec, execSt]
    exact ⟨runInstr_completes h.1 ((guarded_needRegs hg hf).trans (store_far h hal hr hc hm hown hctrl he)) hl,
      sendAccess_mem ..⟩

/-- The key of a route is that of a store of this package. -/
theorem notCounterKey {s : State} {r : Route} {key size : Nat}
    (hc : ∀ (key : Nat) (e : Bool), r = .far key e ∨ r = .own key → inCounterTable s key size = false)
    (hk : routeKey r = some key) : inCounterTable s key size = false := by
  cases r <;> cases hk
  case own => exact hc key false (.inr rfl)
  case far e => exact hc key e (.inl rfl)

/-- Settles O16. -/
theorem requestsSent : Obligations.RequestsSent := by
  intro s c n x t p r h hg hroute
  obtain ⟨hctrl, he, ho⟩ := hroute
  have hv := visitFrom_atHome h
  refine ⟨?_, ?_, ?_⟩
  · intro d a b z hf ea hal hr hm s1 hl
    refine ⟨?_, moreOutstanding_sendAccess_mem ..⟩
    dsimp only [exec, execLdn]
    refine runInstr_completes h.1 ((atHome_home _ h.2).trans ((guarded_needRegs hg hf).trans
      ((aligned_ok _ hal).trans ((route_ok _ hv hr hm).trans ?_)))) hl
    cases r with
    | ctrl b q o => exact absurd rfl (hctrl b q o)
    | own | far | dev => exact request_ok he ho
  · intro v a b z hf ea hal hr hm hc s1 hl
    refine ⟨?_, moreOutstanding_sendAccess_mem ..⟩
    dsimp only [exec, execStn]
    have hcount : ∀ key, routeKey r = some key → inCounterTable s key z.bytes = false := fun key hk => notCounterKey hc hk
    refine runInstr_completes h.1 ((guarded_needRegs hg hf).trans ((localHome_home _ _ h.2).trans ((aligned_ok _ hal).trans
      ((route_ok _ hv hr hm).trans ((notCounters_ok _ hcount).trans ?_))))) hl
    cases r with
    | ctrl b q o => exact absurd rfl (hctrl b q o)
    | own | far | dev => exact request_ok he ho
  · intro d a b an sc w o hf size ea hal hr hm hc hhost s1 hl
    refine ⟨?_, moreOutstanding_sendAccess_mem ..⟩
    dsimp only [exec, execAmo]
    have hcount : ∀ key, routeKey r = some key → inCounterTable s key size = false := fun key hk => notCounterKey hc hk
    refine runInstr_completes h.1 ((atHome_home _ h.2).trans ((guarded_needRegs hg hf).trans ((aligned_ok _ hal).trans
      ((route_ok _ hv hr hm).trans ((notCounters_ok _ hcount).trans ?_))))) hl
    cases r with
    | ctrl b q o => exact absurd rfl (hctrl b q o)
    | own | dev => exact request_ok he ho
    | far key e =>
      have hk : (keyStore key == 4) = false := by simpa [keyStore] using hhost key e rfl
      exact (if_neg (ne_true_of_eq_false hk)).trans (request_ok he ho)

/-! ## FENCE and WATCH -/

section
variable {s : State} {c n : Nat} {x : Slot} {t : Thread} {p : Fin 16}

theorem exec_fence_wide (h : At s c n x t) (hg : Guarded t p) {sc : Scope} (hsc : sc ≠ .thr) (hp : pending s c n = false) :
    exec (.fence p sc) s = .next (settleBody c n ((Ctx.mk s c n x t).fenceDone)) := by
  dsimp only [exec, execFence]
  exact runInstr_of_body h ((guarded_holds _ hg).trans ((if_neg hsc).trans (if_neg (ne_true_of_eq_false hp))))

/-- A WATCH whose line reads soundly (R194). -/
theorem exec_watch (h : AtHome s c n x t) (hg : Guarded t p) {d a b : Fin 10} {key : Nat} {e : Bool}
    (hf : Full t [a.val, b.val]) (hal : (valOf t a).toNat % 8 = 0) (hreg : bits (valOf t a).toNat 63 60 = 0)
    (hr : routeAccess s c n .read (valOf t a) 8 = .ok (.far key e)) (hm : MayTouch s n (.far key e) 8)
    (hu : unperformed s c n = false) (hw : watchCount (coreOf s c) < 64) (he : NoErrors s key 8) :
    exec (.watch d a b p) s = .next (settleBody c n (
      if BitVec.ofNat 64 (memNat s.mem key 8) ≠ valOf t b then
        (Ctx.mk s c n x t).finish s (writeReg t d (BitVec.ofNat 64 (memNat s.mem key 8))) 4
      else (Ctx.mk s c n x t).waits s (.watch (key - key % 64) (valOf t a) d false))) := by
  have hread : ∀ f, (Ctx.mk s c n x t).watchRead (valOf t a) key f = f s (BitVec.ofNat 64 (memNat s.mem key 8)) := fun f => by
    simp only [Ctx.watchRead, eccRead_clean he, Bool.false_eq_true, if_false]
  dsimp only [exec, execWatch]
  refine runInstr_of_body h.1 ((guarded_needRegs hg hf).trans ((aligned_ok _ hal).trans ((if_neg (not_not.mpr hreg)).trans
    ((route_ok _ (visitFrom_atHome h) hr hm).trans ((if_neg (ne_true_of_eq_false (mustQueue_performed hu _))).trans ?_)))))
  exact (needRes_free _ _ (decide_eq_true hw)).trans (hread _)

end

/-- Settles O17. -/
theorem fenceWatch : Obligations.FenceWatch := by
  intro s c n x t p h hg
  refine ⟨?_, ?_, ?_, ?_⟩
  · intro hl
    dsimp only [exec, execFence]
    exact runInstr_completes h.1 ((guarded_holds _ hg).trans (if_pos rfl)) hl
  · intro sc hsc hp
    dsimp only [exec, execFence]
    exact runInstr_waitsFor h.1 ((guarded_holds _ hg).trans ((if_neg hsc).trans (if_pos hp)))
  · intro sc hsc hp s1
    refine ⟨fun hh hl => ?_, fun e hh => ?_⟩
    · rw [exec_fence_wide h.1 hg hsc hp, Ctx.fenceDone, deliverHeld_none hh, finish_ok _ hl, settleBody_ok]
    · rw [exec_fence_wide h.1 hg hsc hp, Ctx.fenceDone, deliverHeld_some hh, settleBody_trap]
      rfl
  · intro d a b key e hf ea hal hreg hr hm hu hw he v
    have hexec := exec_watch (d := d) h hg hf hal hreg hr hm hu hw he
    refine ⟨fun hv hl => ?_, fun hv => ?_⟩
    · rw [hexec, if_pos hv, finish_ok _ hl, settleBody_ok]
    · rw [hexec, if_neg (not_not.mpr hv)]
      rfl

end Sys2Proof.Machine
end

/-! Where an address goes (R14 to R16, R103, R392). -/
section

namespace Sys2Proof.Machine

open Sys2Proof.Claims

section
variable {s : State} {c n k : Nat} {u : AccUse} {a : Word}

/-! ## The own TCM and the own scratchpad -/

theorem routeAccess_tcm (h : bits a.toNat 63 60 = 8) : routeAccess s c n u a k =
    if bits a.toNat 59 18 ≠ 0 then .error (.fault 0x06 a 0#64)
    else if 262144 < bits a.toNat 17 0 + k then .error (.fault 0x06 a 1#64)
    else .ok (.own (tcmKey c (a.toNat % 262144))) := by
  rw [show a.toNat % 262144 = bits a.toNat 17 0 from (bits_low _ 17).symm]
  simp only [routeAccess, h]
  rfl

theorem routeAccess_spad (h : bits a.toNat 63 60 = 9) : routeAccess s c n u a k =
    if bits a.toNat 59 24 ≠ 0 then .error (.fault 0x06 a 0#64)
    else if 16777216 < bits a.toNat 23 0 + k then .error (.fault 0x06 a 1#64)
    else match guardHit s (c / 8) (bits a.toNat 23 0) k with
      | some g => .error (.fault 0x08 (BitVec.ofNat 64 (g * 64)) (BitVec.ofNat 64 (bits (g * 64) 11 5)))
      | none => .ok (.own (spadKey (c / 8) (a.toNat % 16777216))) := by
  rw [show a.toNat % 16777216 = bits a.toNat 23 0 from (bits_low _ 23).symm]
  simp only [routeAccess, h]
  rfl

/-- A guarded granule within a range (R103). -/
theorem guardHit_some {cl off g : Nat} (h : guardHit s cl off k = some g) :
    g ∈ (clusterOf s cl).guards ∧ g * 64 < off + k ∧ off < (g + 1) * 64 := by
  refine ⟨List.mem_of_find?_eq_some h, ?_⟩
  simpa using List.find?_some h

theorem guardHit_eq_none_iff {cl off : Nat} : guardHit s cl off k = none ↔
    ∀ g ∈ (clusterOf s cl).guards, ¬(g * 64 < off + k ∧ off < (g + 1) * 64) := by
  simp [guardHit]

/-! ## The fabric -/

/-- The bytes of the stores that region 0xA names (R15). -/
def fabricSize (space : Nat) : Nat := [262144, 16777216, 134217728][space]?.getD 0

/-- The key of a byte of such a store (R15). -/
def fabricKey (s : State) (core space off : Nat) : Nat :=
  if space = 0 then tcmKey core off else if space = 1 then spadKey (core / 8) off else sramKey (dieOfCore s core) off

theorem spaceKey_eq {core space off : Nat} (h : space < 3) :
    spaceKey s core space off = some (fabricKey s core space off, fabricSize space) := by
  match space, h with
  | 0, _ => rfl
  | 1, _ => rfl
  | 2, _ => rfl

theorem routeAccess_fabric (h : bits a.toNat 63 60 = 10) : routeAccess s c n u a k = routeFabric s c a k := by
  simp only [routeAccess, h]

theorem routeFabric_reserved (h : bits a.toNat 33 32 = 3) : routeFabric s c a k = .error (.fault 0x06 a 0#64) := by
  simp only [routeFabric, h]
  rfl

theorem routeFabric_space (h : bits a.toNat 33 32 < 3) : routeFabric s c a k =
    if fabricSize (bits a.toNat 33 32) < bits a.toNat 31 0 + k then .error (.fault 0x06 a 1#64)
    else if bits a.toNat 59 44 = s.pkg.dev.toNat then
      match coreOfLogical s (partOfCore s c) (bits a.toNat 43 34) with
      | none => .error (.fault 0x06 a 2#64)
      | some d => .ok (.far (fabricKey s d (bits a.toNat 33 32) (bits a.toNat 31 0)) (d != c))
    else if peerBound s (partOfCore s c) (bits a.toNat 59 44) then
      .ok (.dev (bits a.toNat 59 44) (bits a.toNat 43 34) (bits a.toNat 33 32) (bits a.toNat 31 0))
    else .error (.fault 0x06 a 2#64) := by
  simp only [routeFabric, spaceKey_eq h]
  rfl

/-! ## Control space and regions that do not exist -/

theorem routeAccess_control (h : bits a.toNat 63 60 = 15) (hv : (slotOf s c n).visitFrom = none) (hn : 4 ≤ n) :
    routeAccess s c n u a k = .error (.fault 0x06 a 3#64) := by
  have hu : levelOf (levelSlot s c n) = .user := by
    rw [levelSlot_home hv]
    exact (if_neg (by omega)).trans (if_neg (Nat.not_lt.mpr hn))
  simp only [routeAccess, h, routeCtrl, hu]
  rfl

theorem routeAccess_nowhere (h : bits a.toNat 63 60 ∈ [1, 2, 3, 4, 5, 6, 7, 11, 12, 13, 14]) :
    routeAccess s c n u a k = .error (.fault 0x06 a 0#64) := by
  simp only [List.mem_cons, List.not_mem_nil, or_false] at h
  rcases h with h | h | h | h | h | h | h | h | h | h | h <;>
  · simp only [routeAccess, h]
    rfl

end

/-- Settles O13. -/
theorem addressRoutes : Obligations.AddressRoutes := by
  intro s c n u a k hk hv
  refine ⟨fun h => ?_, fun h => ?_, fun h => ?_, fun h hn => routeAccess_control h hv hn, routeAccess_nowhere⟩
  · rw [routeAccess_tcm h]
    refine ⟨fun h0 hr => ?_, fun h0 => if_pos h0, fun h0 hr => ?_⟩
    · rw [if_neg (not_not.mpr h0), if_neg (Nat.not_lt.mpr hr)]
    · rw [if_neg (not_not.mpr h0), if_pos hr]
  · rw [routeAccess_spad h]
    refine ⟨fun h0 hr hg => ?_, fun h0 hr g hg hin => ?_, fun h0 hr => ?_, fun h0 => if_pos h0⟩
    · rw [if_neg (not_not.mpr h0), if_neg (Nat.not_lt.mpr hr), guardHit_eq_none_iff.mpr hg]
    · rw [if_neg (not_not.mpr h0), if_neg (Nat.not_lt.mpr hr)]
      cases hh : guardHit s (c / 8) (bits a.toNat 23 0) k with
      | none => exact absurd hin (guardHit_eq_none_iff.mp hh g hg)
      | some g1 =>
        obtain ⟨hm, hin1⟩ := guardHit_some hh
        exact ⟨g1, hm, hin1, rfl⟩
    · rw [if_neg (not_not.mpr h0), if_pos hr]
  · rw [routeAccess_fabric h]
    intro dev core space off size
    refine ⟨routeFabric_reserved, fun h3 hr => ?_, fun h3 hr hd => ?_, fun h3 hr hd => ?_⟩
    · exact (routeFabric_space h3).trans (if_pos hr)
    · have hroute := (routeFabric_space (c := c) h3).trans ((if_neg (Nat.not_lt.mpr hr)).trans (if_pos hd))
      exact ⟨fun hc => by rw [hroute, show coreOfLogical s (partOfCore s c) (bits a.toNat 43 34) = none from hc],
        fun d hc => by rw [hroute, show coreOfLogical s (partOfCore s c) (bits a.toNat 43 34) = some d from hc]; rfl⟩
    · have hroute := (routeFabric_space (c := c) h3).trans ((if_neg (Nat.not_lt.mpr hr)).trans (if_neg hd))
      exact ⟨fun hp => hroute.trans (if_pos hp), fun hp => hroute.trans (if_neg (ne_true_of_eq_false hp))⟩

end Sys2Proof.Machine
end

/-! SEED and the entropy source (R181, R182). -/
section

namespace Sys2Proof.Machine

open Sys2Proof.Claims

theorem seedValue_ne_zero (s : State) : seedValue s ≠ 0#64 := by
  unfold seedValue
  dsimp only
  split
  · decide
  · assumption

/-- A drawn seed is never 0: serving that draws one value gives a seed (R181). -/
theorem serveSeed_drawn (s : State) (m : Msg) (h : (serveSeed s m).1.fresh = s.fresh + 1) : (serveSeed s m).2 ≠ 0#64 := by
  have hkeeps : ∀ {u : State} {v : Word}, u.fresh = s.fresh → (u, v).1.fresh = s.fresh + 1 → (u, v).2 ≠ 0#64 :=
    fun hu h => absurd (hu.symm.trans h) (by omega)
  have hfrees : ∀ {u : State} {r : Nat} {v : Word}, u.fresh = s.fresh → (freeRecord u r, v).1.fresh = s.fresh + 1 →
      (freeRecord u r, v).2 ≠ 0#64 := fun {u r v} hu h => by
    have : u.fresh + 32 = s.fresh + 1 := h
    omega
  revert h
  unfold serveSeed
  dsimp only
  split
  · exact hkeeps rfl
  · next t _ =>
    have hattr := errorBlind_fresh.attrMeets s m.score t.ccid.toNat
    generalize attrMeets s m.score t.ccid.toNat = s1 at hattr
    split
    · exact hkeeps hattr
    · split
      · exact hkeeps hattr
      · next k _ =>
        have hread := (errorBlind_fresh.eccRead s1 m.score k 64).trans hattr
        split
        · exact hkeeps hattr
        · split
          · exact hkeeps hread
          · split
            · exact hkeeps hread
            · split
              · split
                · exact hkeeps hread
                · exact hfrees hread
              · next r _ =>
                split
                · exact hfrees ((errorBlind_fresh.eccPart _ _ _ _).trans hread)
                · exact fun _ => seedValue_ne_zero _

theorem seedDelay_lt (s : State) : seedDelay s < 8000 := Nat.mod_lt _ (by decide)

/-- Settles O39. -/
theorem seeds : Obligations.Seeds := by
  constructor
  · intro s c n x t p d h hg
    refine ⟨fun hs => ?_, fun hs => ?_⟩
    · intro s1 hl
      dsimp only [exec, execSeed]
      exact runInstr_completes h.1
        ((atHome_home _ h.2).trans ((guarded_holds _ hg).trans (if_neg (ne_true_of_eq_false hs)))) hl
    · dsimp only [exec, execSeed]
      exact runInstr_traps h.1 ((atHome_home _ h.2).trans ((guarded_holds _ hg).trans (if_pos hs)))
  · intro s m n r hm hb hdue q
    refine ⟨?_, ?_, serveSeed_drawn (dropMsg s m.uid) m⟩
    · dsimp only [exec, execSeedService, event]
      rw [hm, Option.bind_some, hb]
      dsimp only
      rw [if_neg (Nat.not_lt.mpr hdue)]
      rfl
    · have h1 := seedDelay_lt q.1
      have h2 := seedDelay_lt s
      omega

end Sys2Proof.Machine
end

/-! The user CSRs (R178, R179). -/
section

namespace Sys2Proof.Machine

open Sys2Proof.Claims

/-! ## Reading -/

theorem eq_ofNat_of_toNat {w : Nat} {k : BitVec w} {m : Nat} (h : k.toNat = m) : k = BitVec.ofNat w m := by
  rw [← h, BitVec.ofNat_toNat, BitVec.setWidth_eq]

/-- The soft errors that a read of a user CSR meets are those of slog (R179). -/
theorem userCsrMeets_eq (s : State) (c : Nat) (t : Thread) (k : BitVec 12) :
    userCsrMeets s c t k.toNat = if k = 11#12 then userCsrMeets s c t 11 else s := by
  by_cases h : k = 11#12
  · rw [if_pos h, h]
    rfl
  · rw [if_neg h, userCsrMeets, if_neg fun hk => h (eq_ofNat_of_toNat hk)]

theorem tinfoOf_toNat (t : Thread) : (tinfoOf t).toNat =
    t.home.toNat + 2 ^ 10 * t.prio.toNat + 2 ^ 16 * t.lane.toNat + 2 ^ 32 * t.ccid.toNat := by
  have h1 := t.home.isLt
  have h2 := t.prio.isLt
  have h3 := t.lane.isLt
  have h4 := t.ccid.isLt
  rw [tinfoOf, BitVec.toNat_ofNat, Nat.mod_eq_of_lt (by omega)]
  omega

theorem isDCoreWord_toNat (c : Nat) : (if isDCore c then 1#64 else 0#64).toNat = if c % 8 = 7 then 1 else 0 := by
  rw [show isDCore c = (c % 8 == 7) from rfl]
  by_cases h : c % 8 = 7
  · simp [h]
  · simp [h]

/-! ## Writing -/

theorem pwKept_bits : ∀ j < 32, (0xF0000001#32).getLsbD j = decide (j = 0 ∨ 28 ≤ j) := by decide

theorem pwWritten_bits : ∀ j < 32, (0x0F00FFFE#32).getLsbD j = decide (1 ≤ j ∧ j ≤ 15 ∨ 24 ≤ j ∧ j ≤ 27) := by decide

theorem fflagsWritten_bits : ∀ j < 5, (0b11110#5).getLsbD j = decide (1 ≤ j) := by decide

/-- pw keeps p0 and its top bits, takes p1 to p15 and TAG, and loses its taints (R179). -/
theorem pwWrite_bit (pw : Word32) (v : Word) {j : Nat} (hj : j < 32) :
    ((pw &&& 0xF0000001#32) ||| (BitVec.setWidth 32 v &&& 0x0F00FFFE#32)).getLsbD j =
      if 1 ≤ j ∧ j ≤ 15 ∨ 24 ≤ j ∧ j ≤ 27 then v.getLsbD j else if 16 ≤ j ∧ j ≤ 23 then false else pw.getLsbD j := by
  rw [BitVec.getLsbD_or, BitVec.getLsbD_and, BitVec.getLsbD_and, pwKept_bits j hj, pwWritten_bits j hj,
    BitVec.getLsbD_setWidth, decide_eq_true hj, Bool.true_and]
  by_cases hw : 1 ≤ j ∧ j ≤ 15 ∨ 24 ≤ j ∧ j ≤ 27
  · rw [if_pos hw, decide_eq_true hw, decide_eq_false (by omega), Bool.and_false, Bool.and_true, Bool.false_or]
  · rw [if_neg hw, decide_eq_false hw, Bool.and_false, Bool.or_false]
    by_cases ht : 16 ≤ j ∧ j ≤ 23
    · rw [if_pos ht, decide_eq_false (by omega), Bool.and_false]
    · rw [if_neg ht, decide_eq_true (by omega), Bool.and_true]

theorem fflagsWrite_bit (v : Word) {j : Nat} (hj : j < 5) :
    (BitVec.setWidth 5 v &&& 0b11110#5).getLsbD j = (decide (1 ≤ j) && v.getLsbD j) := by
  rw [BitVec.getLsbD_and, fflagsWritten_bits j hj, BitVec.getLsbD_setWidth, decide_eq_true hj, Bool.true_and, Bool.and_comm]

theorem pcWritten_bits : ∀ j < 48, (0xFFFFFFFFFFFC#48).getLsbD j = decide (2 ≤ j) := by decide

/-- An instruction address loses its low two bits (R179). -/
theorem pcWrite_toNat (v : Word) : (BitVec.setWidth 48 v &&& 0xFFFFFFFFFFFC#48).toNat = v.toNat % 2 ^ 48 / 4 * 4 := by
  have hclear : (BitVec.setWidth 48 v &&& 0xFFFFFFFFFFFC#48) = BitVec.setWidth 48 v >>> 2 <<< 2 := by
    apply BitVec.eq_of_getLsbD_eq
    intro j hj
    rw [BitVec.getLsbD_and, pcWritten_bits j hj, BitVec.getLsbD_shiftLeft, BitVec.getLsbD_ushiftRight]
    by_cases h2 : 2 ≤ j
    · simp [hj, h2, Nat.not_lt.mpr h2]
    · simp [h2, Nat.not_le.mp h2]
  rw [hclear, BitVec.toNat_shiftLeft, BitVec.toNat_ushiftRight, BitVec.toNat_setWidth, Nat.shiftRight_eq_div_pow,
    Nat.shiftLeft_eq]
  omega

section
variable (t : Thread) (m : Nat) (v : Word)

/-- A write of a user CSR touches the fields of those that are not read-only (R179). -/
theorem userCsrWrite_eq : userCsrWrite t m v =
    { t with pw := (userCsrWrite t m v).pw, fflags := (userCsrWrite t m v).fflags, lpc := (userCsrWrite t m v).lpc,
             lps := (userCsrWrite t m v).lps, lpe := (userCsrWrite t m v).lpe } := by
  unfold userCsrWrite
  split <;> rfl

theorem userCsrWrite_pw : (userCsrWrite t m v).pw =
    if m = 0 then (t.pw &&& 0xF0000001#32) ||| (BitVec.setWidth 32 v &&& 0x0F00FFFE#32) else t.pw := by
  unfold userCsrWrite
  split <;> simp_all

theorem userCsrWrite_fflags : (userCsrWrite t m v).fflags =
    if m = 1 then BitVec.setWidth 5 v &&& 0b11110#5 else t.fflags := by
  unfold userCsrWrite
  split <;> simp_all

theorem userCsrWrite_lpc : (userCsrWrite t m v).lpc = if m = 5 then BitVec.setWidth 32 v else t.lpc := by
  unfold userCsrWrite
  split <;> simp_all

theorem userCsrWrite_lps : (userCsrWrite t m v).lps =
    if m = 6 then BitVec.setWidth 48 v &&& 0xFFFFFFFFFFFC#48 else t.lps := by
  unfold userCsrWrite
  split <;> simp_all

theorem userCsrWrite_lpe : (userCsrWrite t m v).lpe =
    if m = 7 then BitVec.setWidth 48 v &&& 0xFFFFFFFFFFFC#48 else t.lpe := by
  unfold userCsrWrite
  split <;> simp_all

end

/-- Settles O26. -/
theorem userCsrs : Obligations.UserCsrs := by
  constructor
  · intro d p k s c n x t h hg hk s1
    refine ⟨userCsrRead s c n t k.toNat, fun hl => ?_, ?_, ?_, ?_, ?_, ?_, ?_, ?_, ?_, ?_, ?_, ?_⟩
    · dsimp only [s1] at hl ⊢
      rw [← userCsrMeets_eq] at hl ⊢
      dsimp only [exec, execCsrr]
      exact runInstr_completes h ((if_neg (Nat.not_le.mpr hk)).trans (guarded_holds _ hg)) hl
    all_goals rintro rfl
    · exact BitVec.toNat_setWidth_of_le (by decide)
    · exact BitVec.toNat_setWidth_of_le (by decide)
    · exact BitVec.toNat_setWidth_of_le (by decide)
    · exact BitVec.toNat_setWidth_of_le (by decide)
    · exact BitVec.toNat_setWidth_of_le (by decide)
    · exact BitVec.toNat_setWidth_of_le (by decide)
    · exact BitVec.toNat_setWidth_of_le (by decide)
    · exact BitVec.toNat_setWidth_of_le (by decide)
    · exact isDCoreWord_toNat c
    · rw [Nat.mul_comm (2 ^ 8), Nat.mul_comm (2 ^ 18)]
      rfl
    · exact tinfoOf_toNat t
  · intro a p k s c n x t h hg hf hk v
    refine ⟨(userCsrWrite t k.toNat v).pw, (userCsrWrite t k.toNat v).fflags, (userCsrWrite t k.toNat v).lpc,
      (userCsrWrite t k.toNat v).lps, (userCsrWrite t k.toNat v).lpe, ?_⟩
    have hnum : ∀ m : Nat, m < 4096 → ((k.toNat = m) = (k = BitVec.ofNat 12 m)) := fun m hm =>
      propext ⟨eq_ofNat_of_toNat, fun hk => by rw [hk, BitVec.toNat_ofNat, Nat.mod_eq_of_lt hm]⟩
    refine ⟨fun hl => ?_, fun j hj => ?_, fun j hj => ?_, ?_, ?_, ?_⟩
    · rw [← userCsrWrite_eq] at hl ⊢
      dsimp only [exec, execCsrw]
      exact runInstr_completes h ((if_neg (Nat.not_le.mpr hk)).trans (guarded_needRegs hg hf)) hl
    · rw [userCsrWrite_pw]
      simp only [hnum 0 (by decide)]
      split
      · exact pwWrite_bit _ _ hj
      · rfl
    · rw [userCsrWrite_fflags]
      simp only [hnum 1 (by decide)]
      split
      · exact fflagsWrite_bit _ hj
      · rfl
    · rw [userCsrWrite_lpc]
      simp only [hnum 5 (by decide)]
      split
      · exact BitVec.toNat_setWidth ..
      · rfl
    · rw [userCsrWrite_lps]
      simp only [hnum 6 (by decide)]
      split
      · exact pcWrite_toNat v
      · rfl
    · rw [userCsrWrite_lpe]
      simp only [hnum 7 (by decide)]
      split
      · exact pcWrite_toNat v
      · rfl

end Sys2Proof.Machine
end

/-! What CSRRP reads (R333, R337, R338, R374, R397). -/
section

namespace Sys2Proof.Machine

open Sys2Proof.Claims

theorem toNat_setWidth_64 {w : Nat} (v : BitVec w) (h : w ≤ 64) : (BitVec.setWidth 64 v).toNat = v.toNat :=
  BitVec.toNat_setWidth_of_le h

theorem bitAt_zero (b : Bool) : bitAt b 0 = b.toNat := by cases b <;> rfl

theorem bitAt_one (b : Bool) : bitAt b 1 = 2 * b.toNat := by cases b <;> rfl

section
variable {s : State} {c n : Nat}

/-- The status of a slot's trap registers: its level and SIN (R333). -/
theorem csrRead_status {k : Nat} (h : k = 0x100 ∨ k = 0x200) :
    (csrRead s c n k).toNat = (if n = 0 then 0xC0 else 0x80) + (slotOf s c n).sin.toNat := by
  have : csrRead s c n k = BitVec.ofNat 64 ((if n = 0 then 0xC0 else 0x80) + bitAt (slotOf s c n).sin 0) := by
    rcases h with rfl | rfl <;> rfl
  rw [this, bitAt_zero, BitVec.toNat_ofNat]
  cases (slotOf s c n).sin <;> split <;> rfl

/-- Slot 0 has no copy of the supervisor's trap registers (R338). -/
theorem listed_super_status (h : csrListed n 0x100 = true) : n ≠ 0 := by
  rintro rfl
  cases h

theorem csrRead_core {k : Nat} (h : perSlot k = false) : csrRead s c n k = coreCsrRead s c k := if_neg (ne_true_of_eq_false h)

/-- The CSRs whose numbers count something: soft errors, turns, lanes; and those of the package (R338). -/
theorem coreCsrRead_indexed {k : Nat} (h : 0x11F ≤ k ∧ k ≤ 0x12F ∨ 0x180 ≤ k ∧ k < 0x210 ∨ 0x220 ≤ k) : coreCsrRead s c k =
    if 0x120 ≤ k ∧ k ≤ 0x12B then mapGet 0#64 (coreOf s c).softErr k
    else if 0x180 ≤ k ∧ k ≤ 0x1FF then BitVec.setWidth 64 (rotEntry (coreOf s c) (k - 0x180))
    else if 0x400 ≤ k ∧ k ≤ 0x4FF then BitVec.setWidth 64 (mapGet 0#9 (coreOf s c).lanes (k - 0x400))
    else pkgCsrRead s k := by
  unfold coreCsrRead
  dsimp only
  split
  case h_15 => rfl
  all_goals omega

theorem csrRead_soft {k : Nat} (h1 : 0x120 ≤ k) (h2 : k ≤ 0x12B) : csrRead s c n k = mapGet 0#64 (coreOf s c).softErr k := by
  rw [csrRead_core (by simp [perSlot]; omega), coreCsrRead_indexed (by omega), if_pos ⟨h1, h2⟩]

theorem csrRead_turn {j : Nat} (h : j < 128) : (csrRead s c n (0x180 + j)).toNat = (rotEntry (coreOf s c) j).toNat := by
  have : csrRead s c n (0x180 + j) = BitVec.setWidth 64 (rotEntry (coreOf s c) j) := by
    rw [csrRead_core (by simp [perSlot]; omega), coreCsrRead_indexed (by omega), if_neg (by omega), if_pos (by omega)]
    simp
  rw [this, toNat_setWidth_64 _ (by decide)]

theorem csrRead_lane {j : Nat} (h : j < 256) :
    (csrRead s c n (0x400 + j)).toNat = (mapGet 0#9 (coreOf s c).lanes j).toNat := by
  have : csrRead s c n (0x400 + j) = BitVec.setWidth 64 (mapGet 0#9 (coreOf s c).lanes j) := by
    rw [csrRead_core (by simp [perSlot]; omega), coreCsrRead_indexed (by omega), if_neg (by omega), if_neg (by omega),
      if_pos (by omega)]
    simp
  rw [this, toNat_setWidth_64 _ (by decide)]

theorem csrRead_rot : (csrRead s c n 0x110).toNat = (coreOf s c).rot.toNat := by
  have : csrRead s c n 0x110 = if (coreOf s c).rot then 1#64 else 0#64 := rfl
  rw [this]
  cases (coreOf s c).rot <;> rfl

/-- errctl: the scrub interval and EIE (R338). -/
theorem csrRead_errctl :
    (csrRead s c n 0x117).toNat = (coreOf s c).scrub.toNat * 2 ^ 32 + 2 * (eieOf s c).toNat := by
  have hs := (coreOf s c).scrub.isLt
  have : csrRead s c n 0x117 = BitVec.ofNat 64 ((coreOf s c).scrub.toNat * 2 ^ 32 + bitAt (eieOf s c) 1) := rfl
  rw [this, bitAt_one, BitVec.toNat_ofNat, Nat.mod_eq_of_lt]
  cases eieOf s c <;> simp only [Bool.toNat_true, Bool.toNat_false] <;> omega

end

/-- Settles O27. -/
theorem privilegedReads : Obligations.PrivilegedReads := by
  intro d p k s c n x t h hr hg v y s1
  obtain ⟨⟨-, hx, -⟩, -⟩ := id h
  have hv := visitFrom_atHome h
  obtain ⟨hlev, -, hlist⟩ := hr
  have hread : ¬k.toNat < 0x00C → v = csrRead s c n k.toNat := fun hk => if_neg hk
  constructor
  · intro hl
    dsimp only [s1] at hl ⊢
    rw [← userCsrMeets_eq] at hl ⊢
    dsimp only [exec, execCsrrp]
    exact runInstr_completes h.1 ((csrLevel_reached hlist hv hlev).trans (guarded_holds _ hg)) hl
  have hval : ∀ {m : Nat} {w : Word}, (slotOf s c n = x → csrRead s c n m = w) → 0x00C ≤ m → k.toNat = m → v = w :=
    fun hw hm hk => (hread (by omega)).trans (by rw [hk]; exact hw hx)
  have hnat : ∀ {m j : Nat}, (slotOf s c n = x → (csrRead s c n m).toNat = j) → 0x00C ≤ m → k.toNat = m → v.toNat = j :=
    fun hw hm hk => (congrArg BitVec.toNat (hread (by omega))).trans (by rw [hk]; exact hw hx)
  refine ⟨?_, ?_, ?_, ?_, ?_, ?_, ?_, ?_, ?_, ?_, ?_, ?_, ?_, ?_, ?_, ?_, ?_, ?_, ?_, ?_, ?_, ?_, ?_, ?_, ?_, ?_, ?_,
    ?_, ?_⟩
  · rintro rfl
    exact toNat_setWidth_64 t.pw (by decide)
  · rintro rfl
    exact hnat (m := 0x100) (fun hx => (csrRead_status (.inl rfl)).trans (by rw [if_neg (listed_super_status hlist), hx]))
      (by decide) rfl
  · rintro rfl
    have hn : n = 0 := hlev
    exact hnat (m := 0x200) (fun hx => (csrRead_status (.inr rfl)).trans (by rw [if_pos hn, hx])) (by decide) rfl
  · rintro (rfl | rfl)
    · exact hnat (m := 0x101) (fun hx => hx ▸ toNat_setWidth_64 (slotOf s c n).tvec (by decide)) (by decide) rfl
    · exact hnat (m := 0x201) (fun hx => hx ▸ toNat_setWidth_64 (slotOf s c n).tvec (by decide)) (by decide) rfl
  · rintro (rfl | rfl)
    · exact hnat (m := 0x102) (fun hx => hx ▸ toNat_setWidth_64 (slotOf s c n).epc (by decide)) (by decide) rfl
    · exact hnat (m := 0x202) (fun hx => hx ▸ toNat_setWidth_64 (slotOf s c n).epc (by decide)) (by decide) rfl
  · rintro (rfl | rfl)
    · exact hval (m := 0x103) (fun hx => hx ▸ rfl) (by decide) rfl
    · exact hval (m := 0x203) (fun hx => hx ▸ rfl) (by decide) rfl
  · rintro (rfl | rfl)
    · exact hval (m := 0x104) (fun hx => hx ▸ rfl) (by decide) rfl
    · exact hval (m := 0x204) (fun hx => hx ▸ rfl) (by decide) rfl
  · rintro (rfl | rfl)
    · exact hval (m := 0x105) (fun hx => hx ▸ rfl) (by decide) rfl
    · exact hval (m := 0x205) (fun hx => hx ▸ rfl) (by decide) rfl
  · rintro rfl
    exact hnat (m := 0x110) (fun _ => csrRead_rot) (by decide) rfl
  · rintro rfl
    exact hval (m := 0x111) (fun _ => rfl) (by decide) rfl
  · rintro rfl
    exact hval (m := 0x112) (fun _ => rfl) (by decide) rfl
  · rintro rfl
    exact hnat (m := 0x113) (fun _ => toNat_setWidth_64 y.ecqh (by decide)) (by decide) rfl
  · rintro rfl
    exact hnat (m := 0x114) (fun _ => toNat_setWidth_64 y.ecqt (by decide)) (by decide) rfl
  · rintro rfl
    exact hnat (m := 0x115) (fun hx => hx ▸ toNat_setWidth_64 (slotOf s c n).asid (by decide)) (by decide) rfl
  · rintro rfl
    exact hval (m := 0x116) (fun _ => rfl) (by decide) rfl
  · rintro rfl
    exact hval (m := 0x118) (fun _ => rfl) (by decide) rfl
  · rintro rfl
    exact hnat (m := 0x117) (fun _ => csrRead_errctl) (by decide) rfl
  · intro h1 h2
    exact hval (fun _ => csrRead_soft h1 h2) (by omega) rfl
  · rintro rfl
    exact hval (m := 0x131) (fun _ => rfl) (by decide) rfl
  · rintro rfl
    exact hval (m := 0x132) (fun _ => rfl) (by decide) rfl
  · rintro rfl
    exact hval (m := 0x133) (fun _ => rfl) (by decide) rfl
  · rintro rfl
    exact hval (m := 0x137) (fun _ => rfl) (by decide) rfl
  · rintro (rfl | rfl | rfl | rfl | rfl)
    · exact hval (m := 0x130) (fun _ => rfl) (by decide) rfl
    · exact hval (m := 0x134) (fun _ => rfl) (by decide) rfl
    · exact hval (m := 0x136) (fun _ => rfl) (by decide) rfl
    · exact hval (m := 0x241) (fun _ => rfl) (by decide) rfl
    · exact hval (m := 0x262) (fun _ => rfl) (by decide) rfl
  · intro j hj hk
    exact hnat (fun _ => csrRead_turn hj) (by omega) hk
  · intro j hj hk
    exact hnat (fun _ => csrRead_lane hj) (by omega) hk
  · rintro rfl
    exact hnat (m := 0x211) (fun _ => toNat_setWidth_64 y.dbgctl (by decide)) (by decide) rfl
  · rintro rfl
    exact hval (m := 0x221) (fun _ => rfl) (by decide) rfl
  · rintro rfl
    exact hval (m := 0x240) (fun _ => rfl) (by decide) rfl
  · rintro rfl
    exact hval (m := 0x245) (fun _ => rfl) (by decide) rfl

end Sys2Proof.Machine
end

/-! What a write of a privileged CSR does (R48, R52, R337, R338, R373 to R375, R379, R385, R389, R397, R415). -/
section

namespace Sys2Proof.Machine

open Sys2Proof.Claims

section
variable {s : State} {c n : Nat} {x : Slot} {t : Thread} {num : Nat} {v : Word}

/-! ## From the instruction to the write -/

/-- A CSR that the instruction may write at the level of its slot (R337). -/
structure WriteAllowed (n num : Nat) : Prop where
  listed : csrListed n num = true
  level : if 0x200 ≤ num ∧ num ≤ 0x2FF ∧ num ≠ 0x262 then n = 0 else n < 4

theorem WriteAllowed.reached (h : WriteAllowed n num) (hv : (slotOf s c n).visitFrom = none) (k : Body) :
    (Ctx.mk s c n x t).csrLevel num k = k := by
  refine csrLevel_reached h.listed hv ?_
  have hl := h.level
  split at hl
  next hp => rwa [if_pos hp]
  next hp => rwa [if_neg hp]

theorem exec_csrRow {i : Instr} (h : AtHome s c n x t) (hi : csrRow i = some (num, v)) (ha : WriteAllowed n num) :
    exec i s = .next (settleBody c n ((Ctx.mk s c n x t).csrSet num v)) := by
  have hv := visitFrom_atHome h
  cases i <;> cases hi
  case csrRegisterWrite k =>
    dsimp only [exec, execCsrRegisterWrite]
    exact runInstr_of_body h.1 ((if_pos (by rw [show csrListed _ _ = true from ha.listed]; rfl)).trans (ha.reached hv _))
  all_goals
    dsimp only [exec, execDispatch, execDtrecAppend, execTstepWrite, execAttest, execChanWrite, execRotationTableWrite,
      execModeWrite, execSpqWrite, execDqbWrite, execFabcfgWrite, writeRow]
    exact runInstr_of_body h.1 (ha.reached hv _)

theorem exec_writesCsr {i : Instr} (h : AtHome s c n x t) (hi : WritesCsr i num v n t) (ha : WriteAllowed n num) :
    exec i s = .next (settleBody c n ((Ctx.mk s c n x t).csrSet num v)) := by
  have hv := visitFrom_atHome h
  rcases hi with ⟨a, p, k, rfl, rfl, rfl, hg, hf⟩ | hrow | ⟨rfl, rfl, rfl⟩
  · dsimp only [exec, execCsrwp]
    exact runInstr_of_body h.1 ((ha.reached hv _).trans (guarded_needRegs hg hf))
  · exact exec_csrRow h hrow ha
  · dsimp only [exec, execEieWrite]
    exact runInstr_of_body h.1 ((needS_super _ hv (by decide)).trans (needP_platform _ hv rfl))

/-! ## From the write to its outcome -/

theorem csrReads_iff : csrReads num = true ↔ num ∈ [0x130, 0x134, 0x136, 0x262] := by
  simp [csrReads, or_assoc]

theorem csrCounted_iff : csrCounted num = true ↔ num ∈ [0x136, 0x262] := by simp [csrCounted]

theorem csrSet_eq (h : AtHome s c n x t) (hn : 0x00C ≤ num) (hp : num ∈ [0x130, 0x134, 0x136, 0x262] → pending s c n = false) :
    (Ctx.mk s c n x t).csrSet num v =
      match csrWrite (csrMeets s c num v).1 (levelOf n) c n num v with
      | none => (Ctx.mk s c n x t).trap 0x12 v (BitVec.ofNat 64 num)
      | some s1 =>
        if (csrMeets s c num v).2 then (Ctx.mk (csrMeets s c num v).1 c n x t).trap 0x16 (csrBlockAt num v)
          (BitVec.ofNat 64 (if num = 0x262 then 6 else 2))
        else if csrCounted num && x.fetched.isNone then
          (Ctx.mk s c n x t).waits { s with uid := s.uid + 1 } (.counted (s.cycle + 1 + Config.latency s.uid))
        else (Ctx.mk s c n x t).doneIn s1 4 := by
  have hstall : ¬(csrReads num && pending s c n) = true := by
    rw [Bool.and_eq_true, csrReads_iff]
    exact fun h => ne_true_of_eq_false (hp h.1) h.2
  have hlev : (Ctx.mk s c n x t).levelSlot = n := levelSlot_home (visitFrom_atHome h)
  unfold Ctx.csrSet
  rw [if_neg (Nat.not_lt.mpr hn), if_neg hstall, hlev]
  rfl

theorem doneIn_thread {s1 : State} {u : Thread} {size : Nat} (hu : threadOf s1 c n = some u) :
    (Ctx.mk s c n x t).doneIn s1 size = (Ctx.mk s c n x t).finish s1 u size := by
  unfold Ctx.doneIn
  rw [hu]
  rfl

/-- A write that its CSR's rule takes, and that holds no slot, completes (R337). -/
theorem exec_csrWritten {i : Instr} {s1 : State} (h : AtHome s c n x t) (hi : WritesCsr i num v n t) (ha : WriteAllowed n num)
    (hn : 0x00C ≤ num) (hp : num ∈ [0x130, 0x134, 0x136, 0x262] → pending s c n = false)
    (hm : csrMeets s c num v = (s, false)) (hf : csrCounted num = true → x.fetched ≠ none)
    (hw : csrWrite s (levelOf n) c n num v = some s1) (ht : threadOf s1 c n = some t) (hl : LoopOk s1 c n t t) :
    exec i s = .next (completed s1 c n t t 4) := by
  have hcount : ¬(csrCounted num && x.fetched.isNone) = true := by
    rw [Bool.and_eq_true, Option.isNone_iff_eq_none]
    exact fun hc => hf hc.1 hc.2
  rw [exec_writesCsr h hi ha, csrSet_eq h hn hp, hm]
  simp only [hw, Bool.false_eq_true, if_false]
  rw [if_neg hcount, doneIn_thread ht, finish_ok _ hl, settleBody_ok]

/-- The CSRs whose writes read nothing. -/
theorem csrMeets_none (h : num ∉ [0x130, 0x134, 0x136, 0x262]) : csrMeets s c num v = (s, false) := by
  simp only [List.mem_cons, List.not_mem_nil, or_false, not_or] at h
  obtain ⟨h1, h2, h3, h4⟩ := h
  unfold csrMeets
  split
  · exact absurd rfl h1
  · exact absurd rfl h2
  · exact absurd rfl h3
  · exact absurd rfl h4
  · rfl

/-- A write of a CSR that reads nothing. -/
theorem exec_plainWrite {i : Instr} {s1 : State} (h : AtHome s c n x t) (hi : WritesCsr i num v n t) (ha : WriteAllowed n num)
    (hn : 0x00C ≤ num) (hr : num ∉ [0x130, 0x134, 0x136, 0x262]) (hw : csrWrite s (levelOf n) c n num v = some s1)
    (ht : threadOf s1 c n = threadOf s c n) (hl : LoopOk s1 c n t t) : exec i s = .next (completed s1 c n t t 4) := by
  refine exec_csrWritten h hi ha hn (fun hm => absurd hm hr) (csrMeets_none hr) (fun hc => absurd ?_ hr) hw
    (ht.trans (threadOf_at h.1)) hl
  have := csrCounted_iff.mp hc
  simp only [List.mem_cons, List.not_mem_nil, or_false] at this ⊢
  exact .inr (.inr this)

theorem exec_refusedWrite {i : Instr} (h : AtHome s c n x t) (hi : WritesCsr i num v n t) (ha : WriteAllowed n num)
    (hn : 0x00C ≤ num) (hp : num ∈ [0x130, 0x134, 0x136, 0x262] → pending s c n = false)
    (hw : csrWrite (csrMeets s c num v).1 (levelOf n) c n num v = none) :
    exec i s = .next (takeTrap s c n (trapInfo 0x12 v (BitVec.ofNat 64 num)) none) := by
  rw [exec_writesCsr h hi ha, csrSet_eq h hn hp, hw]
  rfl

end

/-! ## The thread of a slot under changes elsewhere -/

theorem threadOf_setCore {s : State} {c n : Nat} {k : Core} (h : k.slots = (coreOf s c).slots) :
    threadOf (setCore s c k) c n = threadOf s c n := by
  rw [threadOf, slotOf, coreOf_setCore_same, slotIn, h]
  rfl

theorem threadOf_traceAdd (s : State) (c kind slot peer ccid asid : Nat) (arg pc : Word) (d n : Nat) :
    threadOf (traceAdd s c kind slot peer ccid asid arg pc) d n = threadOf s d n :=
  threadOf_modCore _ _ _ _ _ fun _ => rfl

theorem threadOf_postHere (s : State) (c n d : Nat) (net : Net) (b : MsgBody) (e m : Nat) :
    threadOf (postHere s c n d net b) e m = threadOf s e m := by
  rw [postHere_eq]
  rfl

/-- What a map over a table's entries keeps of each entry, it keeps of what the table gives. -/
theorem mapGet_map_keeps {α β : Type} (d : α) (m : SMap α) (i : Nat) {g : Nat × α → Nat × α} {π : α → β}
    (hk : ∀ p, (g p).1 = p.1) (hp : ∀ p, π (g p).2 = π p.2) : π (mapGet d (m.map g) i) = π (mapGet d m i) := by
  induction m with
  | nil => rfl
  | cons p m ih =>
    rw [List.map_cons, mapGet, mapGet, hk]
    split
    · exact hp p
    · exact ih

/-- A map over a table that keeps the default applies to what the table gives. -/
theorem mapGet_mapped {α : Type} {d : α} {m : SMap α} {i : Nat} (f : Nat → α → α) (hd : f i d = d) :
    mapGet d (m.map fun p => (p.1, f p.1 p.2)) i = f i (mapGet d m i) := by
  induction m with
  | nil => exact hd.symm
  | cons p m ih =>
    rw [List.map_cons, mapGet, mapGet]
    split
    next h => rw [h]
    next => exact ih

/-- A store looks at no core but for its watches (R194). -/
theorem coreOf_storeBy (s : State) (b : Option (Nat × Nat)) (w : Nat × Nat) (k : Nat) (bs : List Byte) (c : Nat) :
    coreOf (storeBy b w s k bs) c = hitWatch b k bs.length c (coreOf s c) := by
  exact mapGet_mapped (hitWatch b k bs.length) rfl

/-- Marking a watch changes of a slot nothing but its wait. -/
theorem slotIn_hitWatch {β : Type} {π : Slot → β} (hπ : ∀ y w, π { y with wait := w } = π y) (b : Option (Nat × Nat))
    (k m c : Nat) (x : Core) (n : Nat) : π (slotIn (hitWatch b k m c x) n) = π (slotIn x n) := by
  refine mapGet_map_keeps _ _ _ (fun p => ?_) fun p => ?_
  · dsimp only
    split
    · split <;> rfl
    · rfl
  · dsimp only
    split
    · split
      · exact hπ _ _
      · rfl
    · rfl

theorem threadOf_storeBy (s : State) (b : Option (Nat × Nat)) (w : Nat × Nat) (k : Nat) (bs : List Byte) (c n : Nat) :
    threadOf (storeBy b w s k bs) c n = threadOf s c n := by
  rw [threadOf, slotOf, coreOf_storeBy]
  exact slotIn_hitWatch (π := Slot.thread) (fun _ _ => rfl) ..

/-! ## The rules of the single CSRs -/

section
variable {s : State} {c n : Nat} {lv : Level} {v : Word}

theorem modeWriteOf_ok {k : Core} (hf : lanesFixed k = false) (hu : ∀ y ∈ k.slots, 4 ≤ y.1 → y.2.st = .free) :
    modeWriteOf k v = some { k with rot := v.getLsbD 0 } := by
  have : usersFree k = true := by
    simp only [usersFree, List.all_eq_true, Bool.or_eq_true, Bool.not_eq_true', decide_eq_true_eq]
    intro y hy
    by_cases h4 : 4 ≤ y.1
    · exact .inr (hu y hy h4)
    · exact .inl (decide_eq_false h4)
  rw [modeWriteOf, hf, this]
  rfl

theorem lanesFixed_false {k : Core} (h : k.mode ≠ .stopping ∧ k.mode ≠ .saving ∧ k.mode ≠ .preempted ∧ k.mode ≠ .restoring) :
    lanesFixed k = false := by
  obtain ⟨h1, h2, h3, h4⟩ := h
  simp [lanesFixed, h1, h2, h3, h4]

theorem csrWrite_turn {j : Nat} (h : j < 128) : csrWrite s lv c n (0x180 + j) v = coreRule s c (rotWrite (coreOf s c) j v) := by
  unfold csrWrite
  dsimp only
  rw [if_neg (by simp [perSlot]; omega)]
  split
  case h_15 => rw [if_pos (by omega), Nat.add_sub_cancel_left]
  all_goals omega

theorem chanWriteOf_ok {k : Core} (hc : chanAllow k.chan ≤ chanCred k.chan)
    (ha : v.getLsbD 63 = true → 1 ≤ chanAllow v ∧ chanAllow v ≤ 256) :
    chanWriteOf k v = some { k with chan := (v &&& 0x83FFFFFFFC0001FF#64) ||| BitVec.ofNat 64 (chanAllow v * 2 ^ 9) } := by
  refine if_neg ?_
  simp only [Bool.or_eq_true, Bool.and_eq_true, decide_eq_true_eq, beq_iff_eq, not_or, not_and, not_lt]
  exact ⟨hc, fun h => by have := ha h; omega⟩

theorem spqWriteOf_ok (hs : (coreOf s c).spill = []) (hn : bits v.toNat 4 0 = 0 ∨ 13 ≤ bits v.toNat 4 0 ∧ bits v.toNat 4 0 ≤ 24)
    (hp : inPartHbm s c (bits v.toNat 48 16 * 65536) (if bits v.toNat 4 0 = 0 then 1 else 256 * 2 ^ bits v.toNat 4 0) = true) :
    spqWriteOf s c v = some { coreOf s c with spq := v &&& 0x1FFFFFFFF001F#64 } := by
  refine if_neg ?_
  rw [hs, hp]
  simp only [List.isEmpty_nil, Bool.not_true, Bool.or_false, Bool.false_or, Bool.or_eq_true, Bool.and_eq_true,
    decide_eq_true_eq]
  omega

theorem dqbWriteOf_ok {k : Core} (hn : bits v.toNat 2 0 ≤ 6) (hr : bits v.toNat 17 12 * 4096 + 64 + 80 * 2 ^ bits v.toNat 2 0 ≤ 262144) :
    dqbWriteOf k v = some { k with dqb := v &&& 0x3F007#64 } := by
  refine if_neg ?_
  simp only [Bool.or_eq_true, decide_eq_true_eq, not_or, not_lt]
  exact ⟨by omega, hr⟩

/-- The sync interval of a tctl word is not among the bits that a write masks (R397). -/
theorem bits_tctl (v : Word) : bits (v &&& 0xFFF3#64).toNat 7 4 = bits v.toNat 7 4 := by
  have hmask : (0xFFF3#64).toNat / 2 ^ 4 = 2 ^ 12 - 1 := rfl
  rw [bits, bits, BitVec.toNat_and, Nat.and_div_two_pow, hmask, Nat.and_two_pow_sub_one_eq_mod]
  exact Nat.mod_mod_of_dvd _ (by decide)

theorem fabcfgWriteOf_ok (hc : s.pkg.conns = []) (hs : bits v.toNat 63 48 ≠ s.pkg.dev.toNat)
    (hlt : bits v.toNat 63 48 < (bits v.toNat 41 36 + 1) * (bits v.toNat 35 30 + 1) * (bits v.toNat 29 24 + 1)) :
    fabcfgWriteOf s v = some
      { modPkg s (fun p => { p with dev := BitVec.ofNat 16 (bits v.toNat 63 48), zm1 := BitVec.ofNat 6 (bits v.toNat 41 36),
                                    ym1 := BitVec.ofNat 6 (bits v.toNat 35 30), xm1 := BitVec.ofNat 6 (bits v.toNat 29 24) }) with
        net := s.net.map (renumber s.pkg.dev.toNat (bits v.toNat 63 48)) } := by
  unfold fabcfgWriteOf
  dsimp only
  rw [if_neg (by simp [hs]), if_neg (by simp [hc, Nat.not_le.mpr hlt])]

/-- A write to tctl begins a sync interval of the length that it sets (R397). -/
theorem tctlWriteOf_eq : tctlWriteOf s v = modPkg s fun p =>
    { p with tctl := v &&& 0xFFF3#64, nextSync := s.cycle + 2000000000 / 2 ^ bits v.toNat 7 4 } := by
  rw [← bits_tctl v]
  rfl

theorem rotWrite_fixed_turn {k : Core} {j : Nat} (hf : lanesFixed k = false) (h0 : j % 32 = 0) : rotWrite k j v = some k :=
  (if_neg (ne_true_of_eq_false hf)).trans (if_pos h0)

theorem rotWrite_apart {k : Core} {j : Nat} (hf : lanesFixed k = false) (h0 : j % 32 ≠ 0)
    (hc : turnsTooClose { k with rotTab := mapSet k.rotTab j (BitVec.setWidth 16 v &&& 0x80FF#16) } = false) :
    rotWrite k j v = some { k with rotTab := mapSet k.rotTab j (BitVec.setWidth 16 v &&& 0x80FF#16) } :=
  (if_neg (ne_true_of_eq_false hf)).trans ((if_neg h0).trans (if_neg (ne_true_of_eq_false hc)))

theorem dspWrite_ok {d : Nat} (hd : coreOfLogical s (partOfCore s c) (bits v.toNat 35 26) = some d) (h1 : bits v.toNat 63 36 = 0)
    (h2 : bits v.toNat 21 18 = 0) (h3 : bits v.toNat 5 0 = 0) (h4 : bits v.toNat 17 6 * 64 + 80 ≤ 262144)
    (h5 : ctlKind (pktWord (packetOf (memBytes s.mem (tcmKey c (bits v.toNat 17 6 * 64)) 64)) 0) ≠ 5) :
    let off := bits v.toNat 17 6 * 64
    let ws := packetOf (memBytes s.mem (tcmKey c off) 64)
    let ctl := pktWord ws 0
    let side (i : Nat) := BitVec.ofNat 64 (memNat s.mem (tcmKey c (off + 64 + 8 * i)) 8)
    dspWrite s c n v = some (traceAdd (postHere s c n d .request (.packet ⟨ws, side 0, side 1, none, none, true, none⟩)) c
      (0x10 + bits v.toNat 25 22) n (bits v.toNat 35 26) (ctlCcid ctl) (launchAsid s c (ctlCcid ctl)) (BitVec.ofNat 64 ctl)
      (BitVec.ofNat 64 (bits (pktWord ws 1) 47 0))) := by
  intro off ws ctl side
  unfold dspWrite
  dsimp only
  rw [hd]
  refine if_neg ?_
  simp only [Bool.or_eq_true, decide_eq_true_eq, bne_iff_ne, ne_eq, h1, h2, h3, h5, not_true_eq_false, or_false, false_or]
  exact Nat.not_lt.mpr h4

theorem dtrecWrite_ok (h1 : v.toNat % 32 = 0) (h2 : v.toNat + 32 ≤ 262144) (h3 : 0x20 ≤ memNat s.mem (tcmKey c (v.toNat + 8)) 1) :
    let f (lo m : Nat) := memNat s.mem (tcmKey c (v.toNat + lo)) m
    dtrecWrite s c v = some (traceAdd s c (f 8 1) (f 9 1) (f 10 2) (f 12 2) (f 14 2) (BitVec.ofNat 64 (f 16 8))
      (BitVec.ofNat 64 (f 24 8))) := by
  intro f
  refine if_neg ?_
  simp only [Bool.or_eq_true, decide_eq_true_eq, h1, ne_eq, not_true_eq_false, or_false, not_or, not_lt]
  exact ⟨h2, h3⟩

theorem attestWrite_ok {q key : Nat} (hq : partOfCore s c = some q) (hk : reportKey s q v = some key) :
    attestWrite s c v = some (storeBytes s key (reportBytes s q (memBytes s.mem key 32))) := by
  unfold attestWrite
  rw [hq]
  dsimp only
  rw [hk, Option.map_some]

theorem csrMeets_attest {q key : Nat} (hq : partOfCore s c = some q) (hk : reportKey s q v = some key)
    (he : NoErrors s key 32) : csrMeets s c 0x262 v = (s, false) := by
  unfold csrMeets
  rw [hq, Option.bind_some, hk]
  exact eccRead_clean he

end

theorem csrListed_core {n num : Nat} (h : coreCsr num = true) : csrListed n num = true := by simp [csrListed, h]

/-- The turns of a rotation table are CSRs of the core (R337). -/
theorem coreCsr_turn {j : Nat} (h : j < 128) : coreCsr (0x180 + j) = true := by
  simp [coreCsr]
  omega

/-- What CSRWP and the writes listed by themselves come to, by the rule of their CSR and the codewords that they read (R337). -/
theorem exec_writesCsr_outcome {i : Instr} {num : Nat} {v : Word} {s : State} {c n : Nat} {x : Slot} {t : Thread}
    (h : AtHome s c n x t) (hi : WritesCsr i num v n t) (ha : WriteAllowed n num) (hn : 0x00C ≤ num)
    (hp : num ∈ [0x130, 0x134, 0x136, 0x262] → pending s c n = false) {s1 : State}
    (hw : csrWrite (csrMeets s c num v).1 (levelOf n) c n num v = some s1) :
    exec i s = .next (settleBody c n (if (csrMeets s c num v).2 then
        (Ctx.mk (csrMeets s c num v).1 c n x t).trap 0x16 (csrBlockAt num v) (BitVec.ofNat 64 (if num = 0x262 then 6 else 2))
      else if csrCounted num && x.fetched.isNone then
        (Ctx.mk s c n x t).waits { s with uid := s.uid + 1 } (.counted (s.cycle + 1 + Config.latency s.uid))
      else (Ctx.mk s c n x t).doneIn s1 4)) := by
  rw [exec_writesCsr h hi ha, csrSet_eq h hn hp, hw]

/-- Settles O28: each write goes through the rule of its CSR; a plain write changes what its rule gives and goes on, and the
writes that read memory do so where no soft error meets them. -/
theorem privilegedWrites : Obligations.PrivilegedWrites := by
  unfold Obligations.PrivilegedWrites
  refine ⟨?_, ?_⟩
  · intro i num v s c n x t h hi hlist hlev hn hp m
    have ha : WriteAllowed n num := ⟨hlist, hlev⟩
    refine ⟨fun s1 hw => ⟨fun hbad => ?_, fun hbad hcount u hu hl => ?_, fun hbad hcount hf => ?_⟩,
      exec_refusedWrite h hi ha hn hp⟩
    · rw [exec_writesCsr_outcome h hi ha hn hp hw, if_pos hbad]
      rfl
    · have hgo : ¬(csrCounted num && x.fetched.isNone) = true := by
        rw [Bool.and_eq_true, csrCounted_iff, Option.isNone_iff_eq_none]
        exact fun hc => hcount.elim (absurd hc.1) (absurd hc.2)
      rw [exec_writesCsr_outcome h hi ha hn hp hw, if_neg (ne_true_of_eq_false hbad), if_neg hgo, doneIn_thread hu,
        finish_ok _ hl, settleBody_ok]
    · have hstop : (csrCounted num && x.fetched.isNone) = true := by
        rw [Bool.and_eq_true, csrCounted_iff, Option.isNone_iff_eq_none]
        exact ⟨hcount, hf⟩
      rw [exec_writesCsr_outcome h hi ha hn hp hw, if_neg (ne_true_of_eq_false hbad), if_pos hstop]
      rfl
  · intro v s c n x t h hn4 k w free does
    have ht : threadOf s c n = some t := threadOf_at h.1
    have user {num : Nat} (hc : coreCsr num = true) (hb : num < 0x200) : WriteAllowed n num :=
      ⟨csrListed_core hc, by rwa [if_neg (by omega)]⟩
    refine ⟨fun hfree hu hl => ?_, fun j hfree => ⟨fun h0 hl => ?_, fun h0 hc hl => ?_⟩, fun hc ha hl => ?_,
      fun hs hn hp hl => ?_, fun hn hr hl => ?_, ⟨fun hl => ?_, fun hl => ?_⟩, ?_, fun hpend => ⟨?_, ?_, ?_⟩⟩
    · refine exec_plainWrite h (.inr (.inl rfl)) (user rfl (by decide)) (by decide) (by decide) ?_ (threadOf_setCore rfl) hl
      change coreRule s c (modeWriteOf k v) = _
      rw [modeWriteOf_ok (lanesFixed_false hfree) hu]
      rfl
    · have hj := j.isLt
      refine exec_plainWrite h (.inr (.inl rfl)) (user (coreCsr_turn hj) (by omega)) (by omega) (by simp; omega) ?_
        (threadOf_setCore rfl) hl
      rw [csrWrite_turn hj, rotWrite_fixed_turn (lanesFixed_false hfree) h0]
      rfl
    · have hj := j.isLt
      refine exec_plainWrite h (.inr (.inl rfl)) (user (coreCsr_turn hj) (by omega)) (by omega) (by simp; omega) ?_
        (threadOf_setCore rfl) hl
      rw [csrWrite_turn hj, rotWrite_apart (lanesFixed_false hfree) h0 hc]
      rfl
    · refine exec_plainWrite h (.inr (.inl rfl)) (user rfl (by decide)) (by decide) (by decide) ?_ (threadOf_setCore rfl) hl
      change coreRule s c (chanWriteOf k v) = _
      rw [chanWriteOf_ok hc ha]
      rfl
    · refine exec_plainWrite h (.inr (.inl rfl)) (user rfl (by decide)) (by decide) (by decide) ?_ (threadOf_setCore rfl) hl
      change coreRule s c (spqWriteOf s c v) = _
      rw [spqWriteOf_ok hs hn hp]
      rfl
    · refine exec_plainWrite h (.inr (.inl rfl)) (user rfl (by decide)) (by decide) (by decide) ?_ (threadOf_setCore rfl) hl
      change coreRule s c (dqbWriteOf k v) = _
      rw [dqbWriteOf_ok hn hr]
      rfl
    · exact exec_plainWrite h (.inr (.inl rfl)) (user rfl (by decide)) (by decide) (by decide) rfl (threadOf_setCore rfl) hl
    · exact exec_plainWrite h (.inr (.inl rfl)) (user rfl (by decide)) (by decide) (by decide) rfl (threadOf_setCore rfl) hl
    · rintro rfl
      refine ⟨fun q hq hl => ?_, fun hlock hz hl => ?_, fun hl => ?_, fun hlock => ?_, fun hcn hnet hd hlt hl => ?_⟩
      · refine exec_plainWrite h (.inr (.inr ⟨rfl, rfl, rfl⟩)) (user rfl (by decide)) (by decide) (by decide) ?_
          (threadOf_setCore rfl) hl
        change some (errctlWrite s .platform c v) = _
        rw [errctlWrite, if_pos rfl, hq]
      · refine exec_plainWrite h (.inr (.inl rfl)) ⟨rfl, rfl⟩ (by decide) (by decide) ?_ rfl hl
        exact (if_neg (ne_true_of_eq_false hlock)).trans (if_neg hz)
      · refine exec_plainWrite h (.inr (.inl rfl)) ⟨rfl, rfl⟩ (by decide) (by decide) ?_ rfl hl
        change some (tctlWriteOf s v) = _
        rw [tctlWriteOf_eq]
      · refine exec_refusedWrite h (.inr (.inl rfl)) ⟨rfl, rfl⟩ (by decide) (fun hm => absurd hm (by decide)) ?_
        exact if_pos hlock
      · refine exec_plainWrite h (.inr (.inl rfl)) ⟨rfl, rfl⟩ (by decide) (by decide) ?_ rfl hl
        change fabcfgWriteOf s v = _
        rw [fabcfgWriteOf_ok hcn hd hlt, show s.net.map _ = s.net by rw [hnet, List.map_nil]]
        rfl
    · intro off ws ctl side d hd h1 h2 h3 h4 h5 he hl
      refine exec_csrWritten h (.inr (.inl rfl)) (user rfl (by decide)) (by decide) (fun _ => hpend) (eccRead_clean he)
        (fun hc => absurd hc (by decide)) (dspWrite_ok hd h1 h2 h3 h4 h5) ?_ hl
      rw [threadOf_traceAdd, threadOf_postHere, ht]
    · intro f h1 h2 h3 he hl
      refine exec_csrWritten h (.inr (.inl rfl)) (user rfl (by decide)) (by decide) (fun _ => hpend) (eccRead_clean he)
        (fun hc => absurd hc (by decide)) (dtrecWrite_ok h1 h2 h3) ?_ hl
      rw [threadOf_traceAdd, ht]
    · intro hf q key hq hk he hl
      exact exec_csrWritten h (.inr (.inl rfl)) ⟨csrListed_core rfl, by simpa using hn4⟩ (by decide) (fun _ => hpend) (csrMeets_attest hq hk he)
        (fun _ => hf) (attestWrite_ok hq hk)
        ((threadOf_storeBy ..).trans ht) hl

end Sys2Proof.Machine
end

/-! The time discipline (R397, R398) and time-division packets (R402 to R404). -/
section

namespace Sys2Proof.Machine

open Sys2Proof.Claims

section
variable {s : State} {m : Msg}

theorem mem_of_findMsg {uid : Nat} (h : findMsg s uid = some m) : m ∈ s.net := List.mem_of_find?_eq_some h

/-! ## The discipline -/

theorem offsOf_ok {o : Int} (hlo : -(2 ^ 31) ≤ o) (hhi : o < 2 ^ 31) : offsOf s o = (s, ofInt 32 o) := if_pos ⟨hlo, hhi⟩

theorem lockAfter_far {lock : Bool} {good : Nat} {o : Int} (h : 25600 < o.natAbs) : (lockAfter lock good o).1 = false :=
  if_pos h

theorem lockAfter_sixteenth {lock : Bool} {good : Nat} {o : Int} (ho : o.natAbs ≤ 1024) (hg : 15 ≤ good) :
    (lockAfter lock good o).1 = true := by
  have hn : ¬25600 < o.natAbs := by omega
  have h16 : 16 ≤ min 16 (good + 1) := by omega
  simp [lockAfter, ho, hn, h16]

theorem lockAfter_kept {lock : Bool} {good : Nat} {o : Int} (hg : good < 15) (ho : o.natAbs ≤ 25600) :
    (lockAfter lock good o).1 = lock := by
  have hcount : ¬16 ≤ if o.natAbs ≤ 1024 then min 16 (good + 1) else 0 := by split <;> omega
  dsimp only [lockAfter]
  rw [if_neg (Nat.not_lt.mpr ho), decide_eq_false hcount, Bool.or_false]

/-- What a sync receipt changes (R398). -/
theorem exec_syncReceipt {o : Int} (hu : hasUpstream s = true) (hlo : -(2 ^ 31) ≤ o) (hhi : o < 2 ^ 31) :
    ∃ u, exec (.ptpSyncReceipt o) s = .next u ∧ u.pkg.offs = ofInt 32 o ∧ u.pkg.missed = 0 ∧ u.devTime = s.devTime ∧
      u.pkg.lock = (lockAfter s.pkg.lock s.pkg.good o).1 := by
  dsimp only [exec, execPtpSyncReceipt, event]
  rw [hu, offsOf_ok hlo hhi]
  exact ⟨_, rfl, rfl, rfl, rfl, rfl⟩

/-! ## Windows -/

/-- Opening the window of a message makes the slot that waits for it READY (R402). -/
theorem windowOpen_ready {c n uid : Nat} (h : (slotOf s c n).wait = .window uid) :
    (slotOf (windowOpen s c uid) c n).st = .ready := by
  have hmap : slotOf (windowOpen s c uid) c n = windowSlot s.cycle uid (slotOf s c n) := by
    rw [slotOf, windowOpen, coreOf_modCore_same]
    exact mapGet_mapped (fun _ => windowSlot s.cycle uid) rfl
  rw [hmap, windowSlot, if_pos (by rw [h, beq_self_eq_true])]
  rfl

/-- A packet for the own package leaves in its window and is due 256 cycles later (R402, R403). -/
theorem exec_tdWindowDepart_home (hf : findMsg s m.uid = some m) (hn : m.net = .timediv) (he : m.egress = true)
    (hd : m.due ≤ deviceCycle s) (hdev : m.ddev = s.pkg.dev.toNat) :
    exec (.tdWindowDepart m.uid) s = .next
      { windowOpen s m.score m.uid with
        net := s.net.map fun e => if e.uid = m.uid then { e with egress := false, due := m.due + 256 } else e } := by
  dsimp only [exec, execTdWindowDepart, event]
  rw [hf, Option.bind_some, if_neg (by simp [hn, he, hd]), if_pos hdev]
  rfl

/-! ## Packets at their core -/

/-- The packet that a core applies next is the first of those that it has for this cycle (R403). -/
theorem exec_tdPacketApply (hf : findMsg s m.uid = some m) (hn : m.net = .timediv) (he : m.egress = false)
    (hdev : m.ddev = s.pkg.dev.toNat) (h0 : m.due ≠ 0) (hd : m.due ≤ deviceCycle s)
    (hfirst : ∀ e ∈ tdDue s m.dcore, tdBefore e m = false) :
    exec (.tdPacketApply m.uid) s = .next ((tdDeliver (tdPostpone s m.dcore) m).getD
      { tdPostpone s m.dcore with net := (tdPostpone s m.dcore).net.map fun e =>
          if e.uid = m.uid then { e with due := deviceCycle s + 1 } else e }) := by
  have hmem : m ∈ tdDue s m.dcore := by
    simpa [tdDue, hn, he, hdev, h0, hd] using mem_of_findMsg hf
  have hany : ((tdDue s m.dcore).any fun e => e.uid == m.uid) = true :=
    List.any_eq_true.mpr ⟨m, hmem, beq_self_eq_true _⟩
  have hrank : tdRank (tdDue s m.dcore) m = 0 := by
    rw [tdRank, List.length_eq_zero_iff, List.filter_eq_nil_iff]
    exact fun e hm => ne_true_of_eq_false (hfirst e hm)
  dsimp only [exec, execTdPacketApply, event]
  rw [hf, Option.bind_some, if_neg (by simp [hany, hrank])]
  cases tdDeliver (tdPostpone s m.dcore) m <;> rfl

/-- A packet that comes after its cycle is applied on arrival and counted (R404). -/
theorem exec_tdLateArrival {u : State} (hf : findMsg s m.uid = some m) (hn : m.net = .timediv) (he : m.egress = false)
    (hdev : m.ddev = s.pkg.dev.toNat) (h0 : m.due = 0) (hu : tdDeliver s m = some u) :
    exec (.tdLateArrival m.uid) s = .next { u with pkg := { u.pkg with tdlate := satAdd32 u.pkg.tdlate 1 } } := by
  dsimp only [exec, execTdLateArrival, event]
  rw [hf, Option.bind_some, if_neg (by simp [hn, he, hdev, h0]), hu]
  rfl

/-- An increment that its core takes is applied to its semaphore. -/
theorem tdDeliver_sigr {sem inc : Nat} (hb : m.body = .sigr sem inc) (ht : taking s m = .apply) :
    tdDeliver s m = some (applyBody (dropMsg s m.uid) m) := by
  rw [tdDeliver, hb]
  dsimp only
  rw [deliverBy, ht]

end

/-- Settles O60: LOCK follows the offset and the missed syncs; a time-division packet leaves in its window, and is applied in
its cycle or late. -/
theorem timeEvents : Obligations.TimeEvents := by
  unfold Obligations.TimeEvents
  intro s
  refine ⟨fun o hu hlo hhi => ?_, fun hu => ?_, fun h0 h1 hd => ?_, fun m hf hn => ⟨fun he hd hdev => ?_,
    fun he hdev h0 hd hfirst => ?_, fun he hdev h0 => ?_⟩⟩
  · obtain ⟨u, hx, hoffs, hmiss, htime, hlock⟩ := exec_syncReceipt hu hlo hhi
    exact ⟨u, hx, hoffs, hmiss, htime, fun h => hlock.trans (lockAfter_far h),
      fun ho hg => hlock.trans (lockAfter_sixteenth ho hg), fun hg ho => hlock.trans (lockAfter_kept hg ho)⟩
  · refine ⟨_, congrArg (fun x => Host.Outcome.next (Option.getD x s)) (if_neg (by simp [hu])), rfl, fun h => ?_, fun h => ?_⟩
    · exact (congrArg (s.pkg.lock && ·) (decide_eq_false (by omega))).trans (Bool.and_false _)
    · exact (congrArg (s.pkg.lock && ·) (decide_eq_true (by omega))).trans (Bool.and_true _)
  · have hdue : (s.pkg.tctl.getLsbD 0 && (s.pkg.tctl.getLsbD 1 || ownOscillator s) && decide (s.pkg.nextSync ≤ s.cycle)) = true := by
      simp [h0, h1, hd]
    refine ⟨_, congrArg (fun x => Host.Outcome.next (Option.getD x s)) (if_pos hdue), rfl, ?_⟩
    change (ownSync s).devTime = _
    unfold ownSync
    split <;> rfl
  · refine ⟨_, exec_tdWindowDepart_home hf hn he hd hdev, rfl, ?_, fun n hw => windowOpen_ready hw⟩
    exact List.mem_map.mpr ⟨m, mem_of_findMsg hf, if_pos rfl⟩
  · intro s1
    have hx := exec_tdPacketApply hf hn he hdev h0 hd hfirst
    refine ⟨fun u hu => ?_, fun hnone => ?_, fun sem inc hb ht => ?_⟩
    · rw [hx, hu, Option.getD_some]
    · rw [hx, hnone, Option.getD_none]
    · rw [hx, tdDeliver_sigr hb ht, Option.getD_some]
  · intro late
    exact ⟨fun u => exec_tdLateArrival hf hn he hdev h0,
      fun sem inc hb ht => exec_tdLateArrival hf hn he hdev h0 (tdDeliver_sigr hb ht)⟩

end Sys2Proof.Machine
end

/-! Numbers in memory: what a range reads as after a write of the same and of another range, and the marks of its codewords. -/
section

namespace Sys2Proof.Machine

theorem leNat_leBytes (n v : Nat) : leNat (leBytes n v) = v % 256 ^ n := by
  induction n generalizing v with
  | zero => simp [leBytes, leNat, Nat.mod_one]
  | succ n ih =>
    have hb : (BitVec.ofNat 8 v : Byte).toNat = v % 256 := by simp
    rw [leBytes, leNat, ih, hb, Nat.pow_succ, Nat.mul_comm (256 ^ n), Nat.mod_mul]

theorem memBytes_congr {m u : List Host.Cell} {k n : Nat} (h : ∀ a, k ≤ a → a < k + n → memByte m a = memByte u a) :
    memBytes m k n = memBytes u k n := by
  induction n generalizing k with
  | zero => rfl
  | succ n ih =>
    rw [memBytes, memBytes, h k le_rfl (by omega), ih fun a h1 h2 => h a (by omega) (by omega)]

theorem getElem?_memBytes (m : List Host.Cell) {k n i : Nat} (h : i < n) : (memBytes m k n)[i]? = some (memByte m (k + i)) := by
  induction n generalizing k i with
  | zero => omega
  | succ n ih =>
    cases i with
    | zero => rfl
    | succ i =>
      rw [memBytes, List.getElem?_cons_succ, ih (by omega), Nat.add_right_comm, Nat.add_assoc]

theorem memBytes_memWrite_same (m : List Host.Cell) (k : Nat) (bs : List Byte) :
    memBytes (memWrite m k bs) k bs.length = bs := by
  refine List.ext_getElem? fun i => ?_
  by_cases hi : i < bs.length
  · rw [getElem?_memBytes _ hi, memByte_memWrite_in m k bs i hi]
    simp [hi]
  · rw [List.getElem?_eq_none (by simpa using hi), List.getElem?_eq_none (by omega)]

theorem memBytes_memWrite_apart (m : List Host.Cell) {k n j : Nat} {bs : List Byte} (h : j + n ≤ k ∨ k + bs.length ≤ j) :
    memBytes (memWrite m k bs) j n = memBytes m j n :=
  memBytes_congr fun a h1 h2 => memByte_memWrite_out m k bs a (by omega)

theorem memNat_memWrite_same (m : List Host.Cell) (k n v : Nat) : memNat (memWrite m k (leBytes n v)) k n = v % 256 ^ n := by
  have := memBytes_memWrite_same m k (leBytes n v)
  rw [length_leBytes] at this
  rw [memNat, this, leNat_leBytes]

theorem memNat_memWrite_apart (m : List Host.Cell) {k n j : Nat} {bs : List Byte} (h : j + n ≤ k ∨ k + bs.length ≤ j) :
    memNat (memWrite m k bs) j n = memNat m j n := by
  rw [memNat, memBytes_memWrite_apart m h, memNat]

theorem memNat_lt (m : List Host.Cell) (k n : Nat) : memNat m k n < 256 ^ n := by
  simpa [memNat] using leNat_lt (memBytes m k n)

/-! ## Marks of codewords -/

theorem eccBad_eq_false {e : SMap Bool} {k n : Nat} : eccBad e k n = false ↔ eccBads e k n = [] := by
  simp [eccBad, eccBads, List.filter_eq_nil_iff]

theorem eccBad_sublist {e f : SMap Bool} {k n : Nat} (hs : f.Sublist e) (h : eccBad e k n = false) : eccBad f k n = false := by
  simp only [eccBad, List.any_eq_false] at h ⊢
  exact fun x hx => h x (hs.subset hx)

/-- A write marks no codeword (R345). -/
theorem eccWrite_sublist (e : SMap Bool) (k n : Nat) : (eccWrite e k n).Sublist e := List.filter_sublist

/-- A range within one that touches no marked codeword touches none. -/
theorem eccBad_within {e : SMap Bool} {k n j m : Nat} (h : eccBad e k n = false) (h1 : k ≤ j) (h2 : j + m ≤ k + n) :
    eccBad e j m = false := by
  simp only [eccBad, List.any_eq_false, Bool.and_eq_true, decide_eq_true_eq, not_and] at h ⊢
  exact fun x hx hb hk => h x hx ⟨hb.1, by omega⟩ (by omega)

end Sys2Proof.Machine
end

/-! Launch counters and their commands (R39, R41, R372, R373). -/
section

namespace Sys2Proof.Machine

open Sys2Proof.Claims

section
variable {s : State} {q id k w : Nat}

/-! ## The records of counters -/

theorem devMeets_clean {n : Nat} (h : NoErrors s k n) : devMeets s k n = s := by
  rw [devMeets, h.1, h.2]
  rfl

/-- Reading a counter whose record carries no soft error changes nothing. -/
theorem counterMeets_clean (h : id = 0 ∨ NoErrors s (counterKey s q id) 8) : counterMeets s (some q) id = s := by
  change (if id = 0 then s else devMeets s (counterKey s q id) 8) = s
  split
  · rfl
  next hid => exact devMeets_clean (h.resolve_left hid)

theorem counterRead_clean (h : eccBad s.ecc (counterKey s q id) 8 = false) :
    counterRead s (some q) id = memNat s.mem (counterKey s q id) 8 := if_neg (ne_true_of_eq_false h)

theorem counterRead_lt : counterRead s (some q) id < 2 ^ 64 := by
  change (if eccBad s.ecc (counterKey s q id) 8 then 0 else memNat s.mem (counterKey s q id) 8) < _
  split
  · decide
  · exact memNat_lt _ _ 8

/-- A counter's record lies in the table of its partition (R372). -/
theorem counterKey_add (s : State) (q id : Nat) : counterKey s q id = counterKey s q 0 + 8 * id := by
  simp only [counterKey, sramKey]
  omega

theorem counterRead_counterWrite_same (h : eccBad s.ecc (counterKey s q id) 8 = false) (hw : w < 2 ^ 64) :
    counterRead (counterWrite s (some q) id w) (some q) id = w := by
  have h1 : eccBad (counterWrite s (some q) id w).ecc (counterKey s q id) 8 = false := eccBad_sublist (eccWrite_sublist ..) h
  rw [counterRead_clean h1]
  exact (memNat_memWrite_same _ _ 8 w).trans (Nat.mod_eq_of_lt hw)

theorem counterRead_counterWrite_other (h : eccBad s.ecc (counterKey s q k) 8 = false) (hk : k ≠ id) :
    counterRead (counterWrite s (some q) id w) (some q) k = counterRead s (some q) k := by
  have h1 : eccBad (counterWrite s (some q) id w).ecc (counterKey s q k) 8 = false := eccBad_sublist (eccWrite_sublist ..) h
  rw [counterRead_clean h1, counterRead_clean h]
  refine memNat_memWrite_apart _ ?_
  rw [length_leBytes, show counterKey (counterWrite s (some q) id w) q k = counterKey s q k from rfl, counterKey_add s q k,
    counterKey_add s q id]
  omega

theorem eccBad_counter (h : eccBad s.ecc (counterKey s q 0) 524288 = false) (hk : k < 65536) :
    eccBad s.ecc (counterKey s q k) 8 = false := by
  rw [counterKey_add]
  exact eccBad_within h (by omega) (by omega)

theorem counterKey_modPart (f : Part → Part) (hf : (f (partOf s q)).ctab = (partOf s q).ctab) :
    counterKey (modPart s q f) q id = counterKey s q id := by
  have hp : partOf (modPart s q f) q = f (partOf s q) := mapGet_mapSet_same ..
  rw [counterKey, hp, hf]
  rfl

theorem counterRead_modPart (f : Part → Part) (hf : (f (partOf s q)).ctab = (partOf s q).ctab) :
    counterRead (modPart s q f) (some q) id = counterRead s (some q) id := by
  unfold counterRead
  dsimp only
  rw [counterKey_modPart f hf]
  rfl

theorem cntWord_lt {err : Bool} {level state parent count : Nat} (hl : level < 8) (hs : state < 16) (hp : parent < 2 ^ 16)
    (hc : count < 2 ^ 32) : cntWord err level state parent count < 2 ^ 64 := by
  unfold cntWord
  cases err <;> simp <;> omega

/-- A COUNT below its limit can be raised. -/
theorem succ_lt_of_cntCount (hc : cntCount w < 2 ^ 32 - 1) (hw : w < 2 ^ 64) : w + 1 < 2 ^ 64 := by
  have : w / 2 ^ 0 % 2 ^ 32 < 2 ^ 32 - 1 := hc
  omega

theorem ended_iff : (decide (k = cntDone) || decide (k = cntCancelled)) = true ↔ k = 1 ∨ k = 3 := by
  rw [Bool.or_eq_true, decide_eq_true_iff, decide_eq_true_iff]
  rfl

theorem live_iff : (decide (k = cntOpen) || decide (k = cntCancelling)) = true ↔ k = 0 ∨ k = 2 := by
  rw [Bool.or_eq_true, decide_eq_true_iff, decide_eq_true_iff]
  rfl

/-! ## The commands on records without soft errors -/

section
variable {level parent count : Nat}

theorem counterCommand_create (h1 : counterMeets s (some q) id = s) (h2 : counterMeets s (some q) parent = s) (hid : id ≠ 0)
    (hlt : id < 65536) : counterCommand s (some q) 1 level id parent count =
      if level = 0 || 4 < level then (s, 4)
      else if cntLevel (counterRead s (some q) id) ≠ 0 then (s, 2)
      else if level = 4 && parent ≠ 0 then (s, 3)
      else if level < 4 && (!counterOpen s (some q) parent || cntLevel (counterRead s (some q) parent) ≠ level + 1) then (s, 3)
      else if level < 4 && cntCount (counterRead s (some q) parent) = 2 ^ 32 - 1 then (s, 5)
      else
        let s0 := modPart s q fun x =>
          { x with errRecs := mapErase x.errRecs id, complRecs := mapErase x.complRecs id,
                   stages := x.stages.filter fun e => e.ccid != id }
        let s1 := counterWrite s0 (some q) id (cntWord false level cntOpen parent count)
        (if level < 4 then counterWrite s1 (some q) parent (counterRead s (some q) parent + 1) else s1, 0) := by
  unfold counterCommand
  dsimp only
  rw [h1, h2, if_neg (by simp; omega)]
  rfl

theorem counterCommand_cancel (h1 : counterMeets s (some q) id = s) (hid : id ≠ 0) (hlt : id < 65536) :
    counterCommand s (some q) 2 0 id 0 0 =
      if cntLevel (counterRead s (some q) id) = 0 then (s, 2)
      else if cntState (counterRead s (some q) id) = cntDone || cntState (counterRead s (some q) id) = cntCancelled then (s, 1)
      else if cntState (counterRead s (some q) id) = cntCancelling then (s, 0)
      else (counterCancel s q id, 0) := by
  unfold counterCommand
  dsimp only
  rw [h1, counterMeets_clean (.inl rfl), if_neg (by simp; omega)]
  rfl

theorem counterCommand_free (h1 : counterMeets s (some q) id = s) (hid : id ≠ 0) (hlt : id < 65536) :
    counterCommand s (some q) 3 0 id 0 0 =
      if cntLevel (counterRead s (some q) id) = 0 then (s, 2)
      else if cntState (counterRead s (some q) id) = cntOpen || cntState (counterRead s (some q) id) = cntCancelling then (s, 3)
      else (counterWrite s (some q) id 0, 0) := by
  unfold counterCommand
  dsimp only
  rw [h1, counterMeets_clean (.inl rfl), if_neg (by simp; omega)]
  rfl

end

/-! ## CANCEL of a counter without children -/

theorem counterCancelN_leaf {n : Nat} (hl : cntLevel (counterRead s (some q) id) ≠ 0)
    (ho : cntState (counterRead s (some q) id) = cntOpen) (hc : cntCount (counterRead s (some q) id) ≠ 0)
    (hch : counterChildren s q id = []) :
    counterCancelN (n + 1) s q id = counterWrite s (some q) id (cntWord (cntErr (counterRead s (some q) id))
      (cntLevel (counterRead s (some q) id)) cntCancelling (cntParent (counterRead s (some q) id))
      (cntCount (counterRead s (some q) id))) := by
  unfold counterCancelN
  dsimp only
  rw [if_neg (by simp [hl, ho]), if_neg hc, hch]
  rfl

theorem launchesN_leaf {n : Nat} (hch : counterChildren s q id = []) : launchesN (n + 1) s q id = [id] := by
  rw [launchesN, hch]
  rfl

/-- A map over some keys of a table applies to what the table gives at such a key. -/
theorem mapGet_mapped_at {α : Type} {d : α} {m : SMap α} {i : Nat} {P : Nat → Prop} [DecidablePred P] (g : α → α)
    (hi : P i) (hd : g d = d) : mapGet d (m.map fun p => if P p.1 then (p.1, g p.2) else p) i = g (mapGet d m i) := by
  induction m with
  | nil => exact hd.symm
  | cons p m ih =>
    rw [List.map_cons]
    by_cases hp : p.1 = i
    · rw [if_pos (by rwa [hp]), mapGet, mapGet, if_pos hp, if_pos hp]
    · split
      · rw [mapGet, mapGet, if_neg hp, if_neg hp, ih]
      · rw [mapGet, mapGet, if_neg hp, if_neg hp, ih]

theorem slotOf_counterCancel {c n : Nat} (hp : partOfCore s c = some q) (hn : 4 ≤ n) :
    slotOf (counterCancel s q id) c n = cancelSlot (launchesN 4 s q id) (slotOf (counterCancelN 4 s q id) c n) := by
  have huser : isUserSlot n = true := decide_eq_true hn
  have hcore : (coreOf (counterCancel s q id) c).slots =
      (cancelCore (launchesN 4 s q id) (coreOf (counterCancelN 4 s q id) c)).slots := by
    let ids := launchesN 4 s q id
    have hc := mapGet_mapped_at (d := Core.fresh) (m := (counterCancelN 4 s q id).cores) (P := fun j => partOfCore s j = some q)
      (fun k : Core => { cancelCore ids k with spill := k.spill.map (cancelReturn ids) }) hp rfl
    have hslots := congrArg Core.slots hc
    exact hslots
  rw [slotOf, slotIn, hcore]
  exact mapGet_mapped_at (P := fun j => isUserSlot j = true) (cancelSlot _) huser rfl

/-- A thread of the launch of a cancelled counter without children is marked (R41). -/
theorem counterCancel_marks {c n : Nat} {t : Thread} (hl : cntLevel (counterRead s (some q) id) ≠ 0)
    (ho : cntState (counterRead s (some q) id) = cntOpen) (hc : cntCount (counterRead s (some q) id) ≠ 0)
    (hch : counterChildren s q id = []) (hp : partOfCore s c = some q) (hn : 4 ≤ n) (ht : (slotOf s c n).thread = some t)
    (hid : t.ccid.toNat = id) (hst : (slotOf s c n).st ≠ .free) : (slotOf (counterCancel s q id) c n).cancelled = true := by
  have keeps {β : Type} (π : Slot → β) (hπ : ∀ y w, π { y with wait := w } = π y) :
      π (slotOf (counterCancelN 4 s q id) c n) = π (slotOf s c n) := by
    rw [counterCancelN_leaf hl ho hc hch, slotOf]
    refine (congrArg (fun k => π (slotIn k n)) (coreOf_storeBy ..)).trans (slotIn_hitWatch hπ ..)
  have ht' := (keeps Slot.thread fun _ _ => rfl).trans ht
  have hst' : (slotOf (counterCancelN 4 s q id) c n).st ≠ .free := by rwa [keeps Slot.st fun _ _ => rfl]
  rw [slotOf_counterCancel hp hn, launchesN_leaf hch, cancelSlot, ht']
  exact congrArg Slot.cancelled (if_pos (by simpa [hid] using hst'))

/-! ## CREATE -/

/-- CREATE of a free counter that its parent takes: its record stands, its parent counts it, and no other counter changes. -/
theorem create_records {level parent count : Nat} (hlv : level < 8) (hpar : parent < 2 ^ 16) (hc : count < 2 ^ 32)
    (hid : id < 65536) (hclean : eccBad s.ecc (counterKey s q 0) 524288 = false)
    (hp : level < 4 → id ≠ parent ∧ cntCount (counterRead s (some q) parent) < 2 ^ 32 - 1) :
    let s0 := modPart s q fun x =>
      { x with errRecs := mapErase x.errRecs id, complRecs := mapErase x.complRecs id,
               stages := x.stages.filter fun e => e.ccid != id }
    let s1 := counterWrite s0 (some q) id (cntWord false level cntOpen parent count)
    let u := if level < 4 then counterWrite s1 (some q) parent (counterRead s (some q) parent + 1) else s1
    counterRead u (some q) id = cntWord false level 0 parent count ∧
      (level ≤ 3 → counterRead u (some q) parent = counterRead s (some q) parent + 1) ∧
      ∀ k, k < 65536 → k ≠ id → k ≠ parent → counterRead u (some q) k = counterRead s (some q) k := by
  intro s0 s1 u
  have hkey (k : Nat) : counterKey s0 q k = counterKey s q k := counterKey_modPart _ rfl
  have b0 {k : Nat} (hk : k < 65536) : eccBad s0.ecc (counterKey s0 q k) 8 = false := by
    rw [hkey]
    exact eccBad_counter (s := s) hclean hk
  have b1 {k : Nat} (hk : k < 65536) : eccBad s1.ecc (counterKey s1 q k) 8 = false := eccBad_sublist (eccWrite_sublist ..) (b0 hk)
  have hw : cntWord false level cntOpen parent count < 2 ^ 64 := cntWord_lt hlv (by decide) hpar hc
  have hs1 : counterRead s1 (some q) id = cntWord false level 0 parent count := counterRead_counterWrite_same (b0 hid) hw
  have hother (k : Nat) (hk : k < 65536) (hne : k ≠ id) : counterRead s1 (some q) k = counterRead s (some q) k :=
    (counterRead_counterWrite_other (b0 hk) hne).trans (counterRead_modPart _ rfl)
  by_cases h4 : level < 4
  · obtain ⟨hne, hlim⟩ := hp h4
    have hu : u = counterWrite s1 (some q) parent (counterRead s (some q) parent + 1) := if_pos h4
    rw [hu]
    exact ⟨(counterRead_counterWrite_other (b1 hid) hne).trans hs1,
      fun _ => counterRead_counterWrite_same (b1 hpar) (succ_lt_of_cntCount hlim counterRead_lt),
      fun k hk hkid hkp => (counterRead_counterWrite_other (b1 hk) hkp).trans (hother k hk hkid)⟩
  · have hu : u = s1 := if_neg h4
    rw [hu]
    exact ⟨hs1, fun h => absurd h (by omega), fun k hk hkid _ => hother k hk hkid⟩

end

/-- Settles O57: each command looks at its counter and its parent in the order of R373; the writes change the records that
they name alone. -/
theorem counterCommands : Obligations.CounterCommands := by
  unfold Obligations.CounterCommands
  intro s part id hid hclean p w answers
  have hid0 : id.toNat ≠ 0 := fun h => hid (BitVec.eq_of_toNat_eq h)
  have hlt := id.isLt
  have h1 : counterMeets s p id.toNat = s := counterMeets_clean (.inr hclean)
  have hcancel : ∀ r, counterCommand s p 2 0 id.toNat 0 0 = r →
      exec (.cancel part id) s = .next { r.1 with ctrStatus := r.2 } := by rintro _ rfl; rfl
  have hfree : ∀ r, counterCommand s p 3 0 id.toNat 0 0 = r →
      exec (.free part id) s = .next { r.1 with ctrStatus := r.2 } := by rintro _ rfl; rfl
  refine ⟨?_, fun hl hst => ⟨?_, ?_⟩, fun hl hst => ?_, fun hl => ⟨?_, ?_⟩,
    fun hl ho hc hch => ?_⟩
  · intro level parent count hpc v create
    have h2 : counterMeets s p parent.toNat = s :=
      counterMeets_clean (hpc.imp_left fun h => by rw [h]; rfl)
    have hrow := counterCommand_create (level := level.toNat) (count := count.toNat) h1 h2 hid0 hlt
    have hx : ∀ r, counterCommand s p 1 level.toNat id.toNat parent.toNat count.toNat = r →
        exec create s = .next { r.1 with ctrStatus := r.2 } := by rintro _ rfl; rfl
    have inRange (h : 1 ≤ level.toNat) (h' : level.toNat ≤ 4) :
        ¬(decide (level.toNat = 0) || decide (4 < level.toNat)) = true := by simp; omega
    have notTop (h : level.toNat ≤ 3) : ¬(decide (level.toNat = 4) && decide (parent.toNat ≠ 0)) = true := by simp; omega
    refine ⟨fun ha hb hl => ?_, fun ha hl hpar => ?_, fun ha hb hl hno => ?_, fun ha => ?_, fun ha hb hl ho hlv hfull => ?_,
      fun hl htab hpre => ?_⟩
    · exact hx _ (hrow.trans ((if_neg (inRange ha hb)).trans (if_pos hl)))
    · have hpar0 : parent.toNat ≠ 0 := fun h => hpar (BitVec.eq_of_toNat_eq h)
      exact hx _ (hrow.trans ((if_neg (inRange (by omega) (by omega))).trans ((if_neg (not_not_intro hl)).trans
        (if_pos (by simp [ha, hpar0])))))
    · have hbad : (decide (level.toNat < 4) && (!counterOpen s p parent.toNat || decide (cntLevel v ≠ level.toNat + 1))) = true := by
        rcases hno with h | h
        · simp [h]; omega
        · simp [h]; omega
      exact hx _ (hrow.trans ((if_neg (inRange ha (by omega))).trans ((if_neg (not_not_intro hl)).trans
        ((if_neg (notTop hb)).trans (if_pos hbad)))))
    · exact hx _ (hrow.trans (if_pos (by simp; omega)))
    · have hgood : ¬(decide (level.toNat < 4) && (!counterOpen s p parent.toNat || decide (cntLevel v ≠ level.toNat + 1))) = true := by
        simp [ho, hlv]
      exact hx _ (hrow.trans ((if_neg (inRange ha (by omega))).trans ((if_neg (not_not_intro hl)).trans
        ((if_neg (notTop hb)).trans ((if_neg hgood).trans (if_pos (by simp; exact ⟨by omega, hfull⟩)))))))
    · have htop : ¬(decide (level.toNat = 4) && decide (parent.toNat ≠ 0)) = true := by
        rcases hpre with ⟨_, rfl⟩ | ⟨_, h, _⟩
        · simp
        · exact notTop h
      have hgood : ¬(decide (level.toNat < 4) && (!counterOpen s p parent.toNat || decide (cntLevel v ≠ level.toNat + 1))) = true := by
        rcases hpre with ⟨h, _⟩ | ⟨_, _, ho, hlv, _⟩
        · simp [h]
        · simp [ho, hlv]
      have hroom : ¬(decide (level.toNat < 4) && decide (cntCount v = 2 ^ 32 - 1)) = true := by
        rcases hpre with ⟨h, _⟩ | ⟨_, _, _, _, hc⟩
        · simp [h]
        · simp; omega
      have hcases := hrow.trans ((if_neg (inRange (by omega) (by omega))).trans ((if_neg (not_not_intro hl)).trans
        ((if_neg htop).trans ((if_neg hgood).trans (if_neg hroom)))))
      have hparent : level.toNat < 4 → id.toNat ≠ parent.toNat ∧ cntCount v < 2 ^ 32 - 1 := by
        intro h4
        obtain ⟨_, _, _, hlv, hc⟩ := hpre.resolve_left fun h => by omega
        refine ⟨fun he => ?_, hc⟩
        have : cntLevel v = 0 := by
          rw [← hl]
          exact congrArg (fun k => cntLevel (counterRead s p k)) he.symm
        omega
      obtain ⟨hown, hraised, hothers⟩ := create_records (s := s) (q := part.toNat) (level := level.toNat) (by omega)
        parent.isLt count.isLt hlt htab hparent
      exact ⟨_, hx _ hcases, rfl, hown, hraised, hothers⟩
  · exact hcancel _ ((counterCommand_cancel h1 hid0 hlt).trans ((if_neg hl).trans (if_pos (ended_iff.mpr hst))))
  · have hended := mt live_iff.mp (show ¬(cntState w = 0 ∨ cntState w = 2) by omega)
    refine ⟨_, hfree _ ((counterCommand_free h1 hid0 hlt).trans ((if_neg hl).trans (if_neg hended))), rfl, ?_⟩
    exact counterRead_counterWrite_same (eccBad_eq_false.mpr hclean.2) (by decide)
  · exact hfree _ ((counterCommand_free h1 hid0 hlt).trans ((if_neg hl).trans (if_pos (live_iff.mpr hst))))
  · exact hfree _ ((counterCommand_free h1 hid0 hlt).trans (if_pos hl))
  · exact hcancel _ ((counterCommand_cancel h1 hid0 hlt).trans (if_pos hl))
  · have hopen := mt ended_iff.mp (show ¬(cntState w = 1 ∨ cntState w = 3) by omega)
    have hrow := (counterCommand_cancel h1 hid0 hlt).trans ((if_neg hl).trans ((if_neg hopen).trans (if_neg (by
      rw [ho]
      decide))))
    refine ⟨_, hcancel _ hrow, rfl, ?_, fun c n t hp hn ht hcc hst =>
      counterCancel_marks hl ho hc hch hp hn ht (congrArg BitVec.toNat hcc) hst⟩
    change counterRead (counterCancelN 4 s part.toNat id.toNat) p id.toNat = _
    rw [counterCancelN_leaf hl ho hc hch]
    exact counterRead_counterWrite_same (eccBad_eq_false.mpr hclean.2)
      (cntWord_lt (bits_lt _ 54 52) (by decide) (bits_lt _ 47 32) (bits_lt _ 31 0))

end Sys2Proof.Machine
end

/-! The commands of the hods beside the registers and the window (R274, R276, R278, R280, R282). -/
section

namespace Sys2Proof.Machine

open Sys2Proof.Claims

/-! ## What keeps the current program -/

theorem fetchUnit_hodCur (s : State) (p : Prog) (a : Word) : (fetchUnit s p a).1.hodCur = s.hodCur := by
  have hread := hodRead_hodCur s p a 16
  generalize hr : hodRead s p a 16 = r at hread
  obtain ⟨s1, res⟩ := r
  unfold fetchUnit
  rw [hr]
  split
  next he =>
    cases he
    split <;> exact hread
  next he _ =>
    cases he
    exact hread
  next he =>
    cases he
    exact hread

theorem skipLoop_hodCur (p : Prog) (fuel : Nat) (s : State) (a : Word) (depth : Nat) :
    (skipLoop p fuel s a depth).1.hodCur = s.hodCur := by
  induction fuel generalizing s a depth with
  | zero => rfl
  | succ fuel ih =>
    have hf := fetchUnit_hodCur s p a
    generalize hr : fetchUnit s p a = r at hf
    obtain ⟨s1, w⟩ := r
    rw [skipLoop, hr]
    cases w with
    | none => exact hf
    | some w =>
      dsimp only
      split
      · exact (ih ..).trans hf
      · split
        · split
          · exact hf
          · exact (ih ..).trans hf
        · exact (ih ..).trans hf

/-- A change of the package's own registers alone. -/
def OnlyPkg (s u : State) : Prop := ∃ g : Pkg, u = { s with pkg := g }

theorem OnlyPkg.refl (s : State) : OnlyPkg s s := ⟨s.pkg, rfl⟩

theorem OnlyPkg.trans {s u v : State} (h1 : OnlyPkg s u) (h2 : OnlyPkg u v) : OnlyPkg s v := by
  obtain ⟨_, rfl⟩ := h1
  obtain ⟨_, rfl⟩ := h2
  exact ⟨_, rfl⟩

theorem setConn_onlyPkg (s : State) (d : Nat) (x : Conn) : OnlyPkg s (setConn s d x) := ⟨_, rfl⟩

theorem enqueueLink_onlyPkg (s : State) (d cls : Nat) (k : LinkPkt) : OnlyPkg s (enqueueLink s d cls k) := setConn_onlyPkg ..

theorem spillPeer_onlyPkg (s : State) : OnlyPkg s (spillPeer s) := by
  unfold spillPeer
  split
  · exact .refl s
  · split
    · exact .refl s
    · exact setConn_onlyPkg ..

theorem admitPeer_onlyPkg (s : State) (d : Nat) : OnlyPkg s (admitPeer s d) :=
  (spillPeer_onlyPkg s).trans (setConn_onlyPkg ..)

/-- A message given to its connection changes the package's own registers alone (R391, R394). -/
theorem linkSend_onlyPkg {s u : State} {m : Msg} {cyc : Nat} (h : linkSend s m cyc = some u) : OnlyPkg s u := by
  have hadmit : OnlyPkg s (if (mapFind s.pkg.conns m.ddev).isSome then s else admitPeer s m.ddev) := by
    split
    · exact .refl s
    · exact admitPeer_onlyPkg ..
  have hput (x : Conn) (s1 : State) (k : LinkPkt) : OnlyPkg s1 (if x.resident then enqueueLink s1 m.ddev (classOf m.net) k
      else setConn s1 m.ddev { x with waiting := x.waiting ++ [k] }) := by
    split
    · exact enqueueLink_onlyPkg ..
    · exact setConn_onlyPkg ..
  unfold linkSend at h
  dsimp only at h
  rw [Option.ite_none_left_eq_some] at h
  obtain ⟨_, h⟩ := h
  rw [← Option.some.inj h]
  exact hadmit.trans (hput ..)

theorem linkSend_hodCur {s u : State} {m : Msg} {cyc : Nat} (h : linkSend s m cyc = some u) : u.hodCur = s.hodCur := by
  obtain ⟨g, rfl⟩ := linkSend_onlyPkg h
  rfl

/-! ## The commands of a program that runs -/

section
variable {s : State} {p : Prog}

theorem exec_hloop_nested (h : Runs s p) (n : BitVec 32) (hn : 4 ≤ p.stack.length) :
    exec (.hloop n) s = .next (ranOn s (failed p)) := by
  change execHloop n s = _
  rw [execHloop, runHod_of_runs h, if_pos hn]
  rfl

theorem exec_hloop_pushes (h : Runs s p) {n : BitVec 32} (hn : n ≠ 0#32) (hd : p.stack.length < 4) :
    exec (.hloop n) s = .next (ranOn s { past p with stack := (n.toNat, p.pc + 16#64) :: p.stack }) := by
  change execHloop n s = _
  rw [execHloop, runHod_of_runs h, if_neg (Nat.not_le.mpr hd), if_pos hn]
  rfl

/-- HLOOP of count 0 goes on after its HEND (R276). -/
theorem exec_hloop_skips (h : Runs s p) {s1 : State} {a : Word} (hs : skipLoop p 65536 s (p.pc + 16#64) 0 = (s1, some a))
    (hd : p.stack.length < 4) : exec (.hloop 0#32) s = .next (ranOn s1 { past p with pc := a }) := by
  have hcur : s1.hodCur = s.hodCur := by simpa [hs] using skipLoop_hodCur p 65536 s (p.pc + 16#64) 0
  change execHloop 0#32 s = _
  rw [execHloop, runHod_of_runs h, if_neg (Nat.not_le.mpr hd), if_neg (not_not_intro rfl), hs]
  exact congrArg Host.Outcome.next (putProg_eq_ranOn hcur _)

theorem exec_hend_again (h : Runs s p) {n : Nat} {a : Word} {rest : List (Nat × Word)} (hs : p.stack = (n, a) :: rest)
    (hn : 2 ≤ n) : exec .hend s = .next (ranOn s { past p with pc := a, stack := (n - 1, a) :: rest }) := by
  change execHend s = _
  rw [execHend, runHod_of_runs h, hs]
  dsimp only
  rw [if_pos (by omega)]
  rfl

theorem exec_hend_pops (h : Runs s p) {n : Nat} {a : Word} {rest : List (Nat × Word)} (hs : p.stack = (n, a) :: rest)
    (hn : n ≤ 1) : exec .hend s = .next (ranOn s { past p with stack := rest }) := by
  change execHend s = _
  rw [execHend, runHod_of_runs h, hs]
  dsimp only
  rw [if_neg (by omega)]
  rfl

theorem exec_hend_empty (h : Runs s p) (hs : p.stack = []) : exec .hend s = .next (ranOn s (failed p)) := by
  change execHend s = _
  rw [execHend, runHod_of_runs h, hs]
  rfl

theorem exec_hjmp (h : Runs s p) (o : BitVec 32) :
    exec (.hjmp o) s = .next (ranOn s { past p with pc := p.pc + BitVec.ofInt 64 (16 * o.toInt) }) := by
  change execHjmp o s = _
  rw [execHjmp, runHod_of_runs h, BitVec.ofInt_mul]
  rfl

theorem exec_hnop (h : Runs s p) : exec .hnop s = .next (ranOn s (past p)) := by
  dsimp only [exec, execHnop]
  exact runHod_of_runs h _

theorem exec_hstop (h : Runs s p) : exec .hstop s = .next (ranOn s { p with ended := true }) := by
  dsimp only [exec, execHstop]
  exact runHod_of_runs h _

/-! ## Fills -/

section
variable {cl ring rows rb : Nat} {src stride : Word} {idx : Option Word}

/-- A fill within 8,192 bytes on a ring of the program's ASID is put behind those there are (R278). -/
theorem startFill_put (hs : rows * rb ≤ 8192) (ho : ringOwned (ringOf (clusterOf s cl) ring) p.asid = true) (h k : Nat) :
    ∃ f : Fill, f.uid = s.uid ∧ f.byHod = true ∧ f.unit = h ∧ f.prog = k ∧ f.cluster = cl ∧ f.ring = ring ∧ f.index = none ∧
      f.asid = p.asid ∧ f.rows = rows ∧ f.rb = rb ∧ f.stride = stride ∧ f.src = src ∧ f.idx = idx ∧ f.entry = p.pc ∧
      startFill s h k p cl ring rows rb src stride idx =
        putProg { s with fills := s.fills ++ [f], uid := s.uid + 1 } h k { p with fillWait := some s.uid } := by
  unfold startFill
  rw [if_neg (by simp [ho, hs])]
  exact ⟨_, rfl, rfl, rfl, rfl, rfl, rfl, rfl, rfl, rfl, rfl, rfl, rfl, rfl, rfl, rfl⟩

theorem startFill_refused (hbad : 8192 < rows * rb ∨ ringOwned (ringOf (clusterOf s cl) ring) p.asid = false) (h k : Nat) :
    startFill s h k p cl ring rows rb src stride idx = putProg s h k (failed p) :=
  if_pos (by simpa using hbad)

end

/-- A fill command starts the fill of its line (R278). -/
theorem exec_fill {i : Instr} {cl ring rows rb : Nat} {a : Fin 8} {st : Word} {b : Option (Fin 8)} (h : Runs s p)
    (hi : fillLine i = some (cl, ring, rows, rb, a, st, b)) :
    exec i s = .next (startFill s s.hodCur.1 s.hodCur.2 p cl ring rows rb (hReg p a) st (b.map fun k => p.h[k])) := by
  cases i <;> cases hi
  all_goals
    dsimp only [exec, execHfill, execHsfill, execHgath]
    exact runHod_of_runs h _

/-! ## HSIG -/

section
variable {core : BitVec 10} {dev : BitVec 16} {sem inc : BitVec 8}

theorem exec_hsig_waits (h : Runs s p) (hf : progFills s s.hodCur.1 s.hodCur.2 = true) :
    exec (.hsig core dev sem inc) s = .next (ranOn s { p with sigWait := true }) := by
  change execHsig core dev sem inc s = _
  rw [execHsig, runHod_of_runs h]
  dsimp only
  rw [if_pos hf]
  rfl

/-- HSIG to a core of the own device: its increment is a message as that of SIGR (R280). -/
theorem exec_hsig_own (h : Runs s p) (hf : progFills s s.hodCur.1 s.hodCur.2 = false) (hd : dev = s.pkg.dev) {c : Nat}
    (hc : coreOfLogical s (partNum p.part) core.toNat = some c) :
    exec (.hsig core dev sem inc) s = .next (ranOn
      { s with net := s.net ++ [hsigMsg s p s.pkg.dev.toNat c sem.toNat inc.toNat], uid := s.uid + 1 }
      { past p with sigs := p.sigs ++ [(s.uid, p.pc)] }) := by
  subst hd
  change execHsig core _ sem inc s = _
  rw [execHsig, runHod_of_runs h]
  dsimp only
  rw [if_neg (ne_true_of_eq_false hf), if_pos rfl, hc]
  dsimp only
  rw [putMsg, if_pos (by simp [hsigMsg, mkMsg])]
  rfl

theorem exec_hsig_noCore (h : Runs s p) (hf : progFills s s.hodCur.1 s.hodCur.2 = false) (hd : dev = s.pkg.dev)
    (hc : coreOfLogical s (partNum p.part) core.toNat = none) :
    exec (.hsig core dev sem inc) s = .next (ranOn s (failed p)) := by
  subst hd
  change execHsig core _ sem inc s = _
  rw [execHsig, runHod_of_runs h]
  dsimp only
  rw [if_neg (ne_true_of_eq_false hf), if_pos rfl, hc]
  rfl

/-- HSIG to another device: its core must be one that the partition is bound to and reaches (R280). -/
theorem exec_hsig_far (h : Runs s p) (hf : progFills s s.hodCur.1 s.hodCur.2 = false) (hd : dev ≠ s.pkg.dev) :
    let bound := peerBound s (partNum p.part) dev.toNat = true ∧
      (routePort s (partNum p.part) p.core core.toNat dev.toNat).isSome = true
    (¬bound → exec (.hsig core dev sem inc) s = .next (ranOn s (failed p))) ∧
      (bound → ∀ u, linkSend s (hsigMsg s p dev.toNat core.toNat sem.toNat inc.toNat) 0 = some u →
        exec (.hsig core dev sem inc) s = .next (ranOn { u with uid := s.uid + 1 }
          { past p with sigs := p.sigs ++ [(s.uid, p.pc)] })) := by
  intro bound
  have hdev : ¬dev.toNat = s.pkg.dev.toNat := fun he => hd (BitVec.eq_of_toNat_eq he)
  change (_ → execHsig core dev sem inc s = _) ∧ (_ → ∀ u, _ → execHsig core dev sem inc s = _)
  rw [execHsig, runHod_of_runs h]
  dsimp only
  rw [if_neg (ne_true_of_eq_false hf), if_neg hdev]
  refine ⟨fun hb => ?_, fun hb u hu => ?_⟩
  · rw [if_pos (by simpa [bound, or_iff_not_imp_left] using hb)]
    rfl
  · have hnone := Option.isSome_iff_ne_none.mp hb.2
    have hcur : u.hodCur = s.hodCur := linkSend_hodCur hu
    rw [if_neg (by simp [hb.1, hnone]), hu]
    exact congrArg Host.Outcome.next (putProg_eq_ranOn (u := { u with uid := s.uid + 1 }) hcur _)

end

end

/-- Settles O43: each command of the hods by its line, on the program that runs. -/
theorem hodCommands : Obligations.HodCommands := by
  unfold Obligations.HodCommands
  refine ⟨fun s p h => ⟨fun n => exec_hloop_pushes h, fun n => exec_hloop_nested h n, fun s1 a => exec_hloop_skips h,
      fun n a rest hs => ⟨exec_hend_again h hs, exec_hend_pops h hs⟩, exec_hend_empty h, exec_hjmp h, exec_hnop h,
      exec_hstop h⟩, fun s p h => ⟨fun i cl ring rows rb a st b hi => ⟨fun hs ho => ?_, fun hbad => ?_⟩,
      fun core dev sem inc => ⟨exec_hsig_waits h, fun hf hd c hc => ?_, exec_hsig_noCore h, exec_hsig_far h⟩⟩⟩
  · obtain ⟨f, h1, h2, h3, h4, h5, h6, h7, h8, h9, h10, h11, h12, h13, h14, hput⟩ :=
      startFill_put (src := hReg p a) (stride := st) (idx := b.map fun k => p.h[k]) hs ho s.hodCur.1 s.hodCur.2
    refine ⟨f, h1, h2, h3, h4, h5, h6, h7, h8, h9, h10, h11, h12, h13, h14, ?_⟩
    rw [exec_fill h hi, hput]
    rfl
  · rw [exec_fill h hi, startFill_refused hbad]
    rfl
  · exact ⟨_, rfl, rfl, rfl, rfl, rfl, rfl, exec_hsig_own h hf hd hc⟩

end Sys2Proof.Machine
end

/-! The ends of waits and of threads (R31, R41, R158, R193, R194, R200, R214, R216, R218, R331, R340). -/
section

namespace Sys2Proof.Machine

open Sys2Proof.Claims

section
variable {s : State} {c n : Nat} {x : Slot} {t : Thread} {w : Wait}

/-! ## From a wait back to the instruction -/

theorem threadOf_reissueSlot (h : Waits s c n x t w) : threadOf (reissueSlot s c n) c n = some t := by
  obtain ⟨rfl, ht, -, -, -⟩ := h
  rw [threadOf, reissueSlot, slotOf_modSlot_same]
  exact ht

/-- An event that completes an instruction in its waiting slot runs the rest of its body there. -/
theorem fromWait_eq (h : Waits s c n x t w) (body : Ctx → Body) :
    fromWait s c n body = settleBody c n (body ⟨reissueSlot s c n, c, n, slotOf (reissueSlot s c n) c n, t⟩) := by
  have ht := threadOf_reissueSlot h
  rw [reissueSlot] at ht
  unfold fromWait
  dsimp only
  rw [ht]
  rfl

theorem completeSlot_eq (h : Waits s c n x t w) (f : Thread → Thread) :
    completeSlot s c n f = fromWait s c n fun y => y.done (f y.t) := rfl

theorem waiting_eq_true (h : Waits s c n x t w) : (decide ((slotOf s c n).st = .waiting) && !(slotOf s c n).isHeld) = true := by
  obtain ⟨rfl, -, hst, hheld, -⟩ := h
  rw [hst, hheld]
  rfl

/-! ## FENCE, WATCH, SUBS and TLBI -/

theorem exec_fenceComplete {k : Nat} (h : Waits s c n x t (.fence k)) (hp : pending s c n = false) :
    exec (.fenceComplete c n) s = .next (fromWait s c n Ctx.fenceDone) := by
  have hwait := waiting_eq_true h
  obtain ⟨rfl, -, -, -, hw⟩ := h
  dsimp only [exec, execFenceComplete, event]
  rw [hw]
  dsimp only
  rw [hwait, hp]
  rfl

theorem exec_watchWake {key : Nat} {va : Word} {r : Nat} (h : Waits s c n x t (.watch key va r true)) :
    exec (.watchWake c n) s = .next (wakeRes (fromWait s c n fun y =>
      y.watchRead va (key + va.toNat % 64) fun s1 v => y.finish s1 (writeReg y.t r v) 4) c .watch) := by
  have hwait := waiting_eq_true h
  obtain ⟨rfl, -, -, -, hw⟩ := h
  dsimp only [exec, execWatchWake, event]
  rw [hw]
  dsimp only
  rw [hwait]
  rfl

theorem exec_subsComplete {tag : Nat} {leave : Bool} {ring : Nat} (h : Waits s c n x t (.subs tag leave ring))
    (hr : x.readyAt ≤ s.cycle) :
    exec (.subsComplete c n) s = .next (fromWait s c n fun y =>
      match subsTable y.s c tag leave ring with
      | none => y.trap 0x11 (BitVec.ofNat 64 (tag + if leave then 65536 else 0)) 0#64
      | some m => y.finish (modCore y.s c fun k => { k with matchTab := m }) y.t 4) := by
  have hwait := waiting_eq_true h
  obtain ⟨rfl, -, -, -, hw⟩ := h
  dsimp only [exec, execSubsComplete, event]
  rw [hw]
  dsimp only
  rw [hwait, decide_eq_true hr]
  rfl

theorem exec_tlbiComplete {b : Nat} (h : Waits s c n x t (.tlbi b)) (hb : ∀ m ∈ s.net, oldAccess s (partOfCore s c) b m = false) :
    exec (.tlbiComplete c n) s = .next (completeSlot s c n id) := by
  have hwait := waiting_eq_true h
  have hnone : s.net.any (oldAccess s (partOfCore s c) b) = false :=
    List.any_eq_false.mpr fun m hm => ne_true_of_eq_false (hb m hm)
  obtain ⟨rfl, -, -, -, hw⟩ := h
  dsimp only [exec, execTlbiComplete, event]
  rw [hw]
  dsimp only
  rw [hwait, hnone]
  rfl

/-- A fence that is done delivers a held error, and completes without one (R127, R184, R193). -/
theorem fenceDone_none (hh : t.held = none) (hl : LoopOk { s with stale := fenceStale s.stale t.tid } c n t t) :
    settleBody c n (Ctx.mk s c n x t).fenceDone = completed { s with stale := fenceStale s.stale t.tid } c n t t 4 := by
  rw [Ctx.fenceDone, deliverHeld_none hh, finish_ok _ hl, settleBody_ok]

theorem fenceDone_some {e : HeldErr} (hh : t.held = some e) :
    settleBody c n (Ctx.mk s c n x t).fenceDone = takeTrap
      (modThread { s with stale := fenceStale s.stale t.tid } c n fun u => { u with held := none }) c n
      { cause := 0x15, tval := e.addr, detail := BitVec.ofNat 64 e.cause, more := e.count } none := by
  rw [Ctx.fenceDone, deliverHeld_some hh]
  rfl

theorem watchRead_clean {va : Word} {k : Nat} {f : State → Word → Body} (he : NoErrors s k 8) :
    (Ctx.mk s c n x t).watchRead va k f = f s (BitVec.ofNat 64 (memNat s.mem k 8)) := by
  unfold Ctx.watchRead
  dsimp only
  rw [eccRead_clean he]
  rfl

/-! ## Waits that end with their slot READY -/

theorem exec_waittReady {y : Nat} (h : Waits s c n x t (.time y)) (hy : y ≤ s.devTime) (hc : (coreOf s c).clockStopped = false) :
    exec (.waittReady c n) s = .next (modSlot s c n (readySlot s.cycle)) := by
  obtain ⟨rfl, -, hst, -, hw⟩ := h
  dsimp only [exec, execWaittReady, event]
  rw [hw]
  dsimp only
  rw [if_pos (by simp [hst, hy]), if_neg (ne_true_of_eq_false hc)]
  rfl

theorem exec_waitLimitReached (h : Waits s c n x t w) (hw : countedWait w = true) (h0 : x.limit ≠ 0#32)
    (hl : x.limit.toNat ≤ x.waitCount) :
    exec (.waitLimitReached c n) s = .next (modSlot s c n fun y => { readySlot s.cycle y with limitHit := true }) := by
  obtain ⟨rfl, -, hst, hheld, rfl⟩ := h
  exact congrArg (fun r : Option State => Host.Outcome.next (r.getD s)) (if_pos (by simp [hst, hheld, hw, h0, hl]))

theorem exec_divideWaitEnd {r : Nat} (h : Waits s c n x t (.divide r)) (hr : r ≤ s.cycle) :
    exec (.divideWaitEnd c n) s = .next (modSlot s c n (readySlot r)) := by
  obtain ⟨rfl, -, hst, -, hw⟩ := h
  dsimp only [exec, execDivideWaitEnd, event]
  rw [hw]
  dsimp only
  rw [if_pos (by simp [hst, hr])]
  rfl

theorem exec_yieldWaitEnd {r : Nat} (h : Waits s c n x t (.yield r)) (hr : r ≤ s.cycle) :
    exec (.yieldWaitEnd c n) s = .next (modSlot s c n fun y => { readySlot r y with age := 0 }) := by
  obtain ⟨rfl, -, hst, -, hw⟩ := h
  dsimp only [exec, execYieldWaitEnd, event]
  rw [hw]
  dsimp only
  rw [if_pos (by simp [hst, hr])]
  rfl

/-! ## Retirement -/

/-- The waits of a thread that leaves (R31, R331). -/
theorem exec_exitRetire (h : Waits s c n x t w) (hm : mayRetire s c n = true)
    (hw : w = .exit ∨ w = .cancel ∨ ∃ r, w = .abort r) : exec (.exitRetire c n) s = .next (retireThread s c n) := by
  obtain ⟨rfl, -, hst, hheld, hwait⟩ := h
  rcases hw with rfl | rfl | ⟨r, rfl⟩
  all_goals
    dsimp only [exec, execExitRetire, event]
    rw [hwait]
    exact congrArg (fun r : Option State => Host.Outcome.next (r.getD s)) (if_pos (by simp [hst, hheld, hm]))

/-- A thread that leaves without a held error or an abort (R31). -/
theorem retireThread_clean (h : Waits s c n x t w) (hw : w = .exit ∨ w = .cancel) (hh : t.held = none) :
    retireThread s c n =
      returnCredit (unitDone (setSlot s c n (emptySlot x)) (partOfCore s c) t.ccid.toNat t.stage false) c t.item := by
  obtain ⟨rfl, ht, -, -, hwait⟩ := h
  rcases hw with rfl | rfl <;> simp only [retireThread, ht, hwait, hh] <;> rfl

/-- A thread that leaves with a held error (R31). -/
theorem retireThread_held {e : HeldErr} (h : Waits s c n x t w) (hw : w = .exit ∨ w = .cancel) (hh : t.held = some e) :
    retireThread s c n = returnCredit (unitDone
      (setSlot (errRecord s (partOfCore s c) t.ccid.toNat (heldRec t e)) c n (emptySlot x))
      (partOfCore s c) t.ccid.toNat t.stage true) c t.item := by
  obtain ⟨rfl, ht, -, -, hwait⟩ := h
  rcases hw with rfl | rfl <;> simp only [retireThread, ht, hwait, hh] <;> rfl

/-- An aborted thread (R331). -/
theorem retireThread_abort {r : TrapRec} (h : Waits s c n x t (.abort r)) (hh : t.held = none) :
    retireThread s c n = returnCredit (unitDone
      (setSlot (errRecord s (partOfCore s c) t.ccid.toNat r) c n (emptySlot x)) (partOfCore s c) t.ccid.toNat t.stage true)
      c t.item := by
  obtain ⟨rfl, ht, -, -, hwait⟩ := h
  simp only [retireThread, ht, hwait, hh]
  rfl

/-! ## A cancelled thread -/

section
variable (hx : slotOf s c n = x) (ht : x.thread = some t) (hc : x.cancelled = true) (hh : x.isHeld = false)
  (hr : slotRuns (coreOf s c) n = true) (hst : x.st = .ready ∨ x.st = .waiting)
include hx ht hc hh hr hst

/-- At home a cancelled thread waits to retire (R41). -/
theorem exec_cancelStop_home (hv : x.visitFrom = none) : ∃ f : Slot → Slot,
    exec (.threadCancelStop c n) s = .next (modSlot (cancelCmds s t.tid) c n f) ∧
    ∀ y, (f y).st = .waiting ∧ (f y).cancelled = false ∧
      ((f y).wait = .cancel ∨ (f y).wait = .exit ∨ ∃ r, (f y).wait = .abort r) := by
  subst hx
  have hstop : ¬((slotOf s c n).st ≠ .ready ∧ (slotOf s c n).st ≠ .waiting) := by tauto
  dsimp only [exec, execThreadCancelStop, event]
  rw [ht]
  dsimp only
  rw [if_neg (by simp [hc, hh, hr]), if_neg (by simpa using hstop), hv]
  dsimp only [Option.getD_some]
  refine ⟨_, rfl, ?_⟩
  intro y
  refine ⟨rfl, rfl, ?_⟩
  dsimp only
  split
  · exact .inr (.inl rfl)
  · exact .inr (.inr ⟨_, rfl⟩)
  · exact .inl rfl

/-- On a visit a cancelled thread goes home first (R41). -/
theorem exec_cancelStop_visit {v : Nat × Nat} (hv : x.visitFrom = some v) :
    exec (.threadCancelStop c n) s = .next (departHome (cancelCmds s t.tid) c n v t none true) := by
  subst hx
  have hstop : ¬((slotOf s c n).st ≠ .ready ∧ (slotOf s c n).st ≠ .waiting) := by tauto
  dsimp only [exec, execThreadCancelStop, event]
  rw [ht]
  dsimp only
  rw [if_neg (by simp [hc, hh, hr]), if_neg (by simpa using hstop), hv]
  rfl

end

end

/-- Settles O44: each wait ends as its instruction's rest gives, a leaving thread retires with its records, and a cancelled
one stops at its boundary. -/
theorem waitEnds : Obligations.WaitEnds := by
  unfold Obligations.WaitEnds
  refine ⟨fun s c n x t w h => ?_, fun s c n x t => ⟨fun w h hm => ?_, fun hx ht hc hh hr hst => ⟨fun hv => ?_, fun v hv => ?_⟩⟩⟩
  · intro s1
    refine ⟨?_, ?_, ?_, exec_waitLimitReached h, ?_, ?_, ?_, ?_⟩
    · rintro k rfl hp s2
      rw [exec_fenceComplete h hp, fromWait_eq h]
      exact ⟨fun hh hl => congrArg Host.Outcome.next (fenceDone_none hh hl),
        fun e hh => congrArg Host.Outcome.next (fenceDone_some hh)⟩
    · rintro key va r rfl k u he hl
      rw [exec_watchWake h, fromWait_eq h]
      dsimp only
      rw [watchRead_clean (s := reissueSlot s c n) (k := key + va.toNat % 64) he]
      exact congrArg (fun a => Host.Outcome.next (wakeRes (settleBody c n a) c .watch)) (finish_ok _ hl)
    · rintro y rfl
      exact exec_waittReady h
    · rintro r rfl
      exact exec_divideWaitEnd h
    · rintro r rfl
      exact exec_yieldWaitEnd h
    · rintro tag leave ring rfl hr
      rw [exec_subsComplete h hr, fromWait_eq h]
      refine ⟨?_, fun hg => ?_⟩
      · intro g hg s2 hl
        dsimp only
        rw [hg]
        dsimp only
        rw [finish_ok _ hl, settleBody_ok]
      · dsimp only
        rw [hg]
        rfl
    · rintro b rfl hb hl
      rw [exec_tlbiComplete h hb, completeSlot_eq h, fromWait_eq h]
      exact congrArg Host.Outcome.next ((congrArg (settleBody c n) (finish_ok _ hl)).trans (settleBody_ok ..))
  · intro free part id
    refine ⟨fun hw hh => ?_, fun hw e hh => ?_, fun r hw hh => ?_⟩
    · rw [exec_exitRetire h hm (hw.imp_right .inl), retireThread_clean h hw hh]
    · rw [exec_exitRetire h hm (hw.imp_right .inl), retireThread_held h hw hh]
      rfl
    · subst hw
      rw [exec_exitRetire h hm (.inr (.inr ⟨r, rfl⟩)), retireThread_abort h hh]
  · obtain ⟨f, hf, hend⟩ := exec_cancelStop_home hx ht hc hh hr hst hv
    refine ⟨_, hf, ?_⟩
    rw [slotOf_modSlot_same]
    exact hend _
  · exact exec_cancelStop_visit hx ht hc hh hr hst hv

end Sys2Proof.Machine
end

/-! Messages that their core takes (R35, R38, R44, R54, R118, R181, R184, R185, R187, R190, R201, R209, R219, R244). -/
section

namespace Sys2Proof.Machine

open Sys2Proof.Claims

section
variable {s : State} {m : Msg} {c n : Nat}

/-! ## From the event to the message's body -/

/-- A message that lands at its step is delivered there. -/
theorem arrive_lands {kind : MsgBody → Bool} {f : State → Msg → State} (h : Lands s m) (hk : kind m.body = true) :
    arrive s m.uid kind f = some (f (dropMsg s m.uid) m) := by
  obtain ⟨ha, ht⟩ := h
  rw [arrive, ha, Option.bind_some, if_pos hk, deliverBy, ht]

theorem findMsg_of_lands (h : Lands s m) : findMsg s m.uid = some m := (arrived_some h.1).1

/-- An increment or a signal whose command has no writes on their way. -/
theorem exec_sigrArrival (h : Lands s m) (hw : signalWaits s m = false)
    (hk : (∃ k i, m.body = .sigr k i) ∨ ∃ k i e cmd, m.body = .signal k i e cmd) :
    exec (.sigrArrival m.uid) s = .next (applyBody (dropMsg s m.uid) m) := by
  dsimp only [exec, execSigrArrival]
  rw [findMsg_of_lands h, Option.any_some, if_neg (ne_true_of_eq_false hw), arrive_lands h]
  · rfl
  · rcases hk with ⟨k, i, hb⟩ | ⟨k, i, e, cmd, hb⟩ <;> rw [hb]

/-! ## What a wake leaves of a slot -/

theorem slotOf_modCore (s : State) (c d n : Nat) (f : Core → Core) (h : ∀ k, (f k).slots = k.slots := by intro; rfl) :
    slotOf (modCore s c f) d n = slotOf s d n := by
  by_cases hd : d = c
  · subst hd
    rw [slotOf, coreOf_modCore_same, slotIn, h]
    rfl
  · rw [slotOf, coreOf_modCore_other _ _ _ _ hd]
    rfl

/-- A wake makes no slot FREE or VISITING, and ends neither. -/
theorem st_wakeSlots {st : SlotSt} (hw : st ≠ .waiting) (hr : st ≠ .ready) (f : Nat → Slot → Bool) (d : Nat) :
    (slotOf (wakeSlots s c f) d n).st = st ↔ (slotOf s d n).st = st := by
  rcases slotOf_wakeSlots s c d n f with h | ⟨rfl, hst, -, h⟩
  · rw [h]
  · rw [h, hst]
    exact ⟨fun he => absurd he.symm hr, fun he => absurd he.symm hw⟩

theorem slotOf_noteAnswer (d : Nat) : slotOf (noteAnswer s c m) d n = slotOf s d n := by
  unfold noteAnswer
  split
  · rfl
  · exact slotOf_modCore ..

theorem threadOf_noteAnswer (d : Nat) : threadOf (noteAnswer s c m) d n = threadOf s d n :=
  congrArg Slot.thread (slotOf_noteAnswer d)

/-- The slots after an answer has lowered the count of requests. -/
def answered (s : State) (c : Nat) (dec : Bool) (m : Msg) : State := noteAnswer (lowerOutstanding s c dec) c m

theorem st_answered {st : SlotSt} (hw : st ≠ .waiting) (hr : st ≠ .ready) (dec : Bool) (d : Nat) :
    (slotOf (answered s c dec m) d n).st = st ↔ (slotOf s d n).st = st := by
  rw [answered, slotOf_noteAnswer, lowerOutstanding]
  split
  · exact (st_wakeSlots hw hr ..).trans (iff_of_eq (congrArg (fun y : Slot => y.st = st) (slotOf_modCore ..)))
  · rfl

theorem threadOf_answered (dec : Bool) (d : Nat) : threadOf (answered s c dec m) d n = threadOf s d n := by
  rw [answered, threadOf_noteAnswer, lowerOutstanding]
  split
  · rw [wakeRes, threadOf_wakeSlots]
    exact congrArg Slot.thread (slotOf_modCore ..)
  · rfl

/-! ## What reaches its slot -/

/-- The slot holds the thread that the message is for. -/
def AtSlot (s : State) (c n : Nat) (m : Msg) : Prop :=
  (slotOf s c n).st ≠ .free ∧ (slotOf s c n).st ≠ .visiting ∧ forSlot s c n m = true

theorem atSlot_answered (dec : Bool) : AtSlot (answered s c dec m) c n m ↔ AtSlot s c n m := by
  unfold AtSlot forSlot tidOf
  rw [ne_eq, ne_eq, st_answered (by decide) (by decide), st_answered (by decide) (by decide), threadOf_answered]

theorem toSlot_here (h : AtSlot s c n m) : toSlot s c n m = bodyWrite s c m.body := by
  obtain ⟨hf, hv, hfor⟩ := h
  unfold toSlot
  split
  next he => exact absurd he hf
  next he => exact absurd he hv
  next => exact if_pos hfor

theorem toSlot_visiting (h : (slotOf s c n).st = .visiting) :
    toSlot s c n m = modCore s c fun k => { k with visitBox := k.visitBox ++ [m] } := by
  unfold toSlot
  rw [h]

theorem toSlot_moved (hv : (slotOf s c n).st ≠ .visiting) (h : ¬AtSlot s c n m) : toSlot s c n m = toMoved s c n m := by
  unfold toSlot
  split
  next => rfl
  next he => exact absurd he hv
  next hf _ => exact if_neg fun hfor => h ⟨hf, hv, hfor⟩

/-! ## Loads -/

theorem completeSlot_of {t : Thread} {f : Thread → Thread} (ht : threadOf s c n = some t)
    (hl : LoopOk (reissueSlot s c n) c n t (f t)) : completeSlot s c n f = completed (reissueSlot s c n) c n t (f t) 4 := by
  have ht' : threadOf (modSlot s c n (readySlot (wakeCycle s c))) c n = some t := by
    rw [threadOf, slotOf_modSlot_same]
    exact ht
  unfold completeSlot
  dsimp only
  rw [ht']
  exact (congrArg (settleBody c n) (finish_ok _ hl)).trans (settleBody_ok ..)

theorem loadData_load {r tag v : Nat} (h : (slotOf s c n).wait = .load tag ∨ (slotOf s c n).wait = .loadOwn tag) :
    loadData s c n r tag v none = completeSlot s c n fun t => writeReg t r (BitVec.ofNat 64 v) := by
  unfold loadData
  rcases h with h | h <;> simp [h]

theorem loadData_fetch {r tag v : Nat} (h : (slotOf s c n).wait = .fetch tag) :
    loadData s c n r tag v none = modSlot s c n fun y => { readySlot (wakeCycle s c) y with fetched := some v } := by
  unfold loadData
  simp [h]

end

/-- Settles O45: a message that its core takes does what its body does there; an answer first lowers the count. -/
theorem arrivals : Obligations.Arrivals := by
  unfold Obligations.Arrivals
  intro s m h u c here
  have taken {kind : MsgBody → Bool} (hk : kind m.body = true) :
      event s (arrive s m.uid kind applyBody) = .next (applyBody (dropMsg s m.uid) m) := by rw [arrive_lands h hk]; rfl
  refine ⟨fun n r v tag hb => ?_, fun k i hb => ?_, fun k i cmd hb hi hw => ?_, fun k i e cmd hb hw => ?_,
    fun n r v dec hb hr hh => ?_, fun n pd v hb hh => ?_, fun n r v hb hh => ?_, fun n hb => ?_,
    fun n r dec cause addr hb hh => ?_, fun n r dec cause addr hb hv hh ht hthere => ?_, fun n r tag v hb => ?_, fun hb => ?_⟩
  · have hx : exec (.sendArrival m.uid) s = .next (toSlot u c n m) := by
      refine (taken (by rw [hb])).trans ?_
      simp only [applyBody, hb]
      rfl
    refine ⟨fun hh => ?_, fun hf => ?_, fun hv => ?_⟩
    · rw [hx, toSlot_here hh, hb]
      rfl
    · rw [hx, toSlot_moved (by simp [hf]) fun hh => hh.1 hf, toMoved, hb]
      rfl
    · rw [hx, toSlot_visiting hv]
  · rw [exec_sigrArrival h (by simp [signalWaits, hb]) (.inl ⟨k, i, hb⟩)]
    simp only [applyBody, hb]
    rfl
  · rw [exec_sigrArrival h hw (.inr ⟨k, i, _, cmd, hb⟩)]
    simp only [applyBody, hb, signalSem, Option.map_none]
    rw [if_neg hi]
    rfl
  · rw [exec_sigrArrival h hw (.inr ⟨k, i, _, cmd, hb⟩)]
    simp only [applyBody, hb]
    rfl
  · refine (taken (by rw [hb])).trans ?_
    have hto := toSlot_here ((atSlot_answered dec).mpr hh)
    rw [hb, bodyWrite, fillAnswer, if_pos hr] at hto
    simp only [applyBody, hb]
    exact congrArg (fun a => Host.Outcome.next (settle a c)) hto
  · refine (taken (by rw [hb])).trans ?_
    have hto := toSlot_here hh
    rw [hb, bodyWrite] at hto
    simp only [applyBody, hb]
    exact congrArg Host.Outcome.next hto
  · refine (taken (by rw [hb])).trans ?_
    have hto := toSlot_here hh
    rw [hb, bodyWrite] at hto
    simp only [applyBody, hb]
    exact congrArg (fun a => Host.Outcome.next (settle a c)) hto
  · refine (taken (by rw [hb])).trans ?_
    simp only [applyBody, hb]
    rfl
  · refine (taken (by rw [hb])).trans ?_
    have hto := toSlot_here ((atSlot_answered dec).mpr hh)
    rw [hb] at hto
    simp only [applyBody, hb]
    exact congrArg (fun a => Host.Outcome.next (settle a c)) hto
  · refine (taken (by rw [hb])).trans ?_
    have hto := toSlot_moved (mt (st_answered (by decide) (by decide) dec c).mp hv) (mt (atSlot_answered dec).mp hh)
    have hgo : (decide (m.towards ≠ 0) && threadHere (answered u c dec m) m.towards) = true := by
      rw [decide_eq_true ht]
      exact hthere
    rw [toMoved, hb] at hto
    simp only [applyBody, hb]
    exact congrArg (fun a => Host.Outcome.next (settle a c)) (hto.trans (if_pos hgo))
  · intro u1
    have hx : exec (.ldDataArrival m.uid) s = .next (settle (loadData u1 c n r tag v none) c) := by
      refine (taken (by rw [hb])).trans ?_
      simp only [applyBody, hb]
      rfl
    have hslot : slotOf u1 c n = slotOf u c n := slotOf_noteAnswer c
    rw [← hslot]
    refine ⟨fun hw t ht hl => ?_, fun hw => ?_⟩
    · rw [hx, loadData_load hw, completeSlot_of ((threadOf_noteAnswer c).trans ht) hl]
    · rw [hx, loadData_fetch hw]
  · obtain ⟨ha, -⟩ := h
    dsimp only [exec, execChannelCreditReturn]
    rw [ha, Option.bind_some, hb]
    rfl

end Sys2Proof.Machine
end

/-! Accesses performed at their store, PUT and JOIN (R33, R108, R184, R186, R190, R192, R213). -/
section

namespace Sys2Proof.Machine

open Sys2Proof.Claims

/-! ## Stores and answers -/

theorem partyStore_mem {s : State} {c n tid ord k size v : Nat} (h : inAsidTable s k size = false) :
    (partyStore s c n tid ord k (leBytes size v)).mem = memWrite s.mem k (leBytes size v) := by
  change memWrite s.mem k (storedBytes s k _) = _
  rw [storedBytes_plain (by rwa [length_leBytes])]

theorem semOf_storeBy (s : State) (b : Option (Nat × Nat)) (w : Nat × Nat) (k : Nat) (bs : List Byte) (c n : Nat) :
    semOf (coreOf (storeBy b w s k bs) c) n = semOf (coreOf s c) n := by
  rw [coreOf_storeBy]
  rfl

theorem settle_mem (s : State) (c : Nat) : (settle s c).mem = s.mem := wakeSlots_mem ..

theorem settle_net (s : State) (c : Nat) : (settle s c).net = s.net := wakeSlots_net ..

theorem semOf_settle (s : State) (c d n : Nat) : semOf (coreOf (settle s c) d) n = semOf (coreOf s d) n := by
  rw [semOf, settle, coreOf_wakeSlots_sems]
  rfl

/-- A message placed in flight leaves memory and the messages that are in flight. -/
theorem putMsg_keeps (s : State) (m : Msg) : (putMsg s m).mem = s.mem ∧ ∀ e ∈ s.net, e ∈ (putMsg s m).net := by
  unfold putMsg
  split
  · exact ⟨rfl, fun e he => List.mem_append_left _ he⟩
  · cases hl : linkSend s m 0 with
    | none => exact ⟨rfl, fun e he => he⟩
    | some u =>
      obtain ⟨g, rfl⟩ := linkSend_onlyPkg hl
      exact ⟨rfl, fun e he => he⟩

theorem ackRemote_keeps (s : State) (m : Msg) : (ackRemote s m).mem = s.mem ∧ ∀ e ∈ s.net, e ∈ (ackRemote s m).net := by
  unfold ackRemote
  split
  · exact ⟨rfl, fun e he => he⟩
  · exact putMsg_keeps ..

/-- An answer to a sender of the own device is in flight, and memory stays. -/
theorem answer_flies {s : State} {m : Msg} (b : MsgBody) (h : m.sdev = s.pkg.dev.toNat) :
    (answer s m b).mem = s.mem ∧
      ∃ e ∈ (answer s m b).net, e.body = b ∧ e.dcore = m.score ∧ e.ddev = m.sdev ∧ e.net = .reply := by
  obtain ⟨e, ha, hdev, hcore, hnet, hbody⟩ := answer_here s m b h
  rw [ha]
  exact ⟨rfl, e, List.mem_append_right _ (List.mem_singleton.mpr rfl), hbody, hcore, hdev, hnet⟩

section
variable {s : State} {m : Msg} {a : Access} {k : Nat}

/-! ## An access of the own device, off guards and soft errors -/

/-- The store that an access makes. -/
def storeOf (s : State) (m : Msg) (a : Access) (k v : Nat) : State :=
  partyStore (dropMsg s m.uid) m.score m.sslot m.thread m.uid k (leBytes a.size v)

section
variable (hd : m.sdev = s.pkg.dev.toNat) (hg : farGuard s k a.size a.addr = none) (he : NoErrors s k a.size)
include hd hg he

theorem performAt_posted (hk : a.kind = .st ∨ a.kind = .put) : performAt s m a k = storeOf s m a k a.data := by
  have hpart : eccPart (dropMsg s m.uid) m.score k a.size = (dropMsg s m.uid, false) :=
    eccPart_clean (eccBad_eq_false.mp (eccBad_sublist (eccWrite_sublist ..) (eccBad_eq_false.mpr he.2)))
  have hack : ackRemote (storeOf s m a k a.data) m = storeOf s m a k a.data := if_pos hd
  rcases hk with hk | hk <;> simpa [performAt, hd, hg, hk, hpart, storeOf] using hack

theorem performAt_stn (hk : a.kind = .stn) :
    performAt s m a k = answer (storeOf s m a k a.data) m (.stnAck m.sslot) := by
  have hpart : eccPart (dropMsg s m.uid) m.score k a.size = (dropMsg s m.uid, false) :=
    eccPart_clean (eccBad_eq_false.mp (eccBad_sublist (eccWrite_sublist ..) (eccBad_eq_false.mpr he.2)))
  simp [performAt, hd, hg, hk, hpart, storeOf]

theorem performAt_ld (hk : a.kind = .ld) (hs : a.size ≤ 8) : performAt s m a k = answer (dropMsg s m.uid) m
    (.ldData m.sslot a.reg a.tag (loadValue a.sgn a.size (memNat s.mem k a.size)).toNat none) := by
  have hread : eccRead (dropMsg s m.uid) m.score k a.size = (dropMsg s m.uid, false) := eccRead_clean he
  simp [performAt, hd, hg, hk, hread, Nat.not_lt.mpr hs]

theorem performAt_ldn (hk : a.kind = .ldn) : performAt s m a k = answer (dropMsg s m.uid) m
    (.reply m.sslot a.reg (BitVec.ofNat 64 (memNat s.mem k a.size)) true) := by
  have hread : eccRead (dropMsg s m.uid) m.score k a.size = (dropMsg s m.uid, false) := eccRead_clean he
  simp [performAt, hd, hg, hk, hread, loadValue]

theorem performAt_amo (hk : a.kind = .amo) : performAt s m a k = answer
    (((amoNew a.op (8 * a.size) (memNat s.mem k a.size) a.data a.expect).map (storeOf s m a k)).getD (dropMsg s m.uid)) m
    (.reply m.sslot a.reg (loadValue (a.size == 4) a.size (memNat s.mem k a.size)) true) := by
  have hread : eccRead (dropMsg s m.uid) m.score k a.size = (dropMsg s m.uid, false) := eccRead_clean he
  cases hv : amoNew a.op (8 * a.size) (memNat s.mem k a.size) a.data a.expect <;>
    simp [performAt, hd, hg, hk, hread, hv, storeOf]

end

/-- A load, store or atomic that its store takes is performed there. -/
theorem exec_farEndAccess (ha : arrived s m.uid = some m) (hb : m.body = .access a) (ht : targetKey s m a = some k)
    (hk : a.kind ≠ .put ∧ a.kind ≠ .join) (hway : accessTaking s m k = .apply) :
    exec (.farEndAccess m.uid) s = .next (settle (performAt s m a k) m.score) := by
  dsimp only [exec, execFarEndAccess, event]
  rw [ha, Option.bind_some, hb]
  dsimp only
  rw [if_neg (by simp [hk.1, hk.2]), ht]
  dsimp only
  rw [hway]
  rfl

/-- A PUT that its core takes: its words, then its increment (R213). -/
theorem exec_putArrival (ha : arrived s m.uid = some m) (hb : m.body = .access a) (hk : a.kind = .put) (ht : a.tgt = .key k)
    (hway : taking s m = .apply) (hd : m.sdev = s.pkg.dev.toNat) (hg : farGuard s k a.size a.addr = none)
    (he : NoErrors s k a.size) (hinc : 0 < a.inc) :
    exec (.putArrival m.uid) s =
      .next (settle (semAdd (storeOf s m a k a.data) m.dcore a.sem a.inc) m.score) := by
  have htgt : targetKey s m a = some k := by rw [targetKey, ht]
  have hpart : eccPart s m.dcore k a.size = (s, false) :=
    eccPart_clean (eccBad_eq_false.mp (eccBad_sublist (eccWrite_sublist ..) (eccBad_eq_false.mpr he.2)))
  have hnow : putNow s m a k m.dcore = settle (semAdd (storeOf s m a k a.data) m.dcore a.sem a.inc) m.score := by
    unfold putNow
    dsimp only
    rw [performAt_posted hd hg he (.inr hk), hg, hpart, if_neg (by simp [hd]; omega)]
  dsimp only [exec, execPutArrival, event]
  rw [ha, Option.bind_some, hb]
  dsimp only
  rw [if_neg (by simp [hk]), putArrives, htgt, ht]
  dsimp only
  rw [hway, hnow]
  rfl

/-! ## JOIN -/

/-- A decrement that reads its record without an error (R33). -/
theorem exec_joinDecrement (ha : arrived s m.uid = some m) (hb : m.body = .access a) (hk : a.kind = .join)
    (ht : targetKey s m a = some k) (he : NoErrors s k 32) :
    exec (.joinDecrement m.uid) s = .next (settle (ackRemote (joinAt (dropMsg s m.uid) m a k) m) m.score) := by
  have hread : eccRead (dropMsg s m.uid) m.score k 32 = (dropMsg s m.uid, false) := eccRead_clean he
  dsimp only [exec, execJoinDecrement, event]
  rw [ha, Option.bind_some, hb]
  dsimp only
  rw [if_neg (by simp [hk]), ht]
  dsimp only
  rw [hread]
  dsimp only
  rw [if_neg Bool.false_ne_true, Option.getD_some]

theorem joinAt_zero (h : memNat s.mem k 8 = 0) : joinAt s m a k = joinStatus s k 1 := by
  unfold joinAt
  dsimp only
  rw [if_pos h]

theorem joinAt_counts (h : 2 ≤ memNat s.mem k 8) :
    joinAt s m a k = storeBytes s k (leBytes 8 (memNat s.mem k 8 - 1)) := by
  unfold joinAt
  dsimp only
  rw [if_neg (by omega), if_pos (by omega)]

/-- The state in which the last decrement forms its continuation: the count is 0 and the packet's bytes have been read. -/
def joinLast (s : State) (m : Msg) (a : Access) (k : Nat) : State :=
  let s1 := storeBytes s k (leBytes 8 0)
  match transNow s1 (if m.part < 64 then some m.part else none) m.asid (isUserSlot (a.data % 256)) .read
      (memNat s.mem (k + 8) 8) 64 with
  | .ok q => (eccRead s1 m.score q 64).1
  | .error _ => s1

theorem joinLast_mem : (joinLast s m a k).mem = memWrite s.mem k (leBytes 8 0) := by
  unfold joinLast
  dsimp only
  split
  · exact softBlind_mem.eccRead ..
  · rfl

/-- The continuation of a join record, if it can be sent. -/
def joinNext (s : State) (m : Msg) (a : Access) (k : Nat) : Option (State × Nat × Vector Word 8) :=
  joinPacket (joinLast s m a k) (if m.part < 64 then some m.part else none) m.asid (isUserSlot (a.data % 256))
    (memNat s.mem (k + 8) 8) (memNat s.mem (k + 16) 2)

/-- The packet that a continuation is (R33). -/
def joinMsg (u : State) (m : Msg) (a : Access) (t : Nat) (ws : Vector Word 8) : Msg :=
  { uid := u.uid, sdev := u.pkg.dev.toNat, score := m.dcore, sslot := 256, thread := 0, ddev := u.pkg.dev.toNat, dcore := t,
    net := .request, asid := m.asid, part := (if m.part < 64 then some m.part else none).getD 64, rpart := 64, ask := u.uid,
    towards := 0, egress := false, due := u.cycle + 1 + Config.latency u.uid,
    body := .packet ⟨ws, BitVec.ofNat 64 a.data, 0#64, none, none, true, none⟩ }

theorem joinAt_last (h : memNat s.mem k 8 = 1) : joinAt s m a k = (joinNext s m a k).elim
    (joinStatus (joinLast s m a k) k 2) fun r => putMsg r.1 (joinMsg r.1 m a r.2.1 r.2.2) := by
  unfold joinAt joinNext joinLast
  dsimp only
  rw [if_neg (by omega), if_neg (by omega), h, Nat.sub_self]
  cases transNow (storeBytes s k (leBytes 8 0)) (if m.part < 64 then some m.part else none) m.asid (isUserSlot (a.data % 256))
    .read (memNat s.mem (k + 8) 8) 64
  all_goals
    dsimp only
    generalize joinPacket _ _ _ _ _ _ = r
    cases r <;> rfl

theorem joinAt_unsent (h : memNat s.mem k 8 = 1) (hn : joinNext s m a k = none) :
    joinAt s m a k = joinStatus (joinLast s m a k) k 2 := by
  rw [joinAt_last h, hn]
  rfl

theorem joinAt_sent {u : State} {t : Nat} {ws : Vector Word 8} (h : memNat s.mem k 8 = 1)
    (hn : joinNext s m a k = some (u, t, ws)) :
    joinAt s m a k = { u with net := u.net ++ [joinMsg u m a t ws], uid := u.uid + 1 } := by
  rw [joinAt_last h, hn]
  exact putMsg_here _ _ (.inr rfl)

end

/-- Settles O46: an access reads or stores at its key and answers its sender; PUT then raises its semaphore; JOIN lowers its
record and sends the continuation of the last decrement. -/
theorem accessesPerformed : Obligations.AccessesPerformed := by
  unfold Obligations.AccessesPerformed
  intro s m a k ha hb ht hway hg he hasid hd hslot old stored answers
  have hstored (v : Nat) : (storeOf s m a k v).mem = memWrite s.mem k (leBytes a.size v) := partyStore_mem hasid
  have answered {u : State} {b : MsgBody} (hu : m.sdev = u.pkg.dev.toNat) :
      (settle (answer u m b) m.score).mem = u.mem ∧ answers b (settle (answer u m b) m.score) := by
    obtain ⟨hmem, hfly⟩ := answer_flies b hu
    exact ⟨(settle_mem ..).trans hmem, by simpa only [answers, settle_net] using hfly⟩
  have performed (hk : a.kind ≠ .put ∧ a.kind ≠ .join) := exec_farEndAccess ha hb ht hk (hway hk)
  refine ⟨fun hk hs => ?_, fun hk => ?_, fun hk => ?_, fun hk => ?_, fun hk => ?_, fun hk htgt htake hinc => ?_, fun hk hsize => ?_⟩
  · refine ⟨_, performed (by simp [hk]), ?_⟩
    rw [performAt_ld hd hg he hk hs]
    exact answered hd
  · refine ⟨_, performed (by simp [hk]), ?_⟩
    rw [performAt_ldn hd hg he hk]
    exact answered hd
  · refine ⟨_, performed (by simp [hk]), ?_⟩
    rw [performAt_posted hd hg he (.inl hk)]
    exact (settle_mem ..).trans (hstored _)
  · refine ⟨_, performed (by simp [hk]), ?_⟩
    rw [performAt_stn hd hg he hk]
    exact (answered (u := storeOf s m a k a.data) hd).imp_left fun h => h.trans (hstored _)
  · refine ⟨_, performed (by simp [hk]), ?_⟩
    rw [performAt_amo hd hg he hk]
    cases hv : amoNew a.op (8 * a.size) (memNat s.mem k a.size) a.data a.expect with
    | none =>
      obtain ⟨hmem, hans⟩ := answered (u := dropMsg s m.uid) hd
      exact ⟨hans, fun v h => absurd h (by simp), fun _ => hmem⟩
    | some w =>
      obtain ⟨hmem, hans⟩ := answered (u := storeOf s m a k w) hd
      refine ⟨hans, fun v h => ?_, fun h => absurd h (by simp)⟩
      obtain rfl := Option.some.inj h
      exact hmem.trans (hstored _)
  · refine ⟨_, exec_putArrival ha hb hk htgt htake hd hg he hinc, ?_, ?_⟩
    · exact (settle_mem ..).trans ((setSem_mem ..).trans (hstored _))
    · intro y z
      have hz : z = raisedSem y a.inc := by
        change semOf (coreOf (settle _ _) m.dcore) a.sem = _
        rw [semOf_settle, semOf_semAdd_same]
        exact congrArg (raisedSem · a.inc) (semOf_storeBy ..)
      rw [hz]
      exact raisedSem_spec y a.inc
  · intro n
    have hx := exec_joinDecrement ha hb hk ht (hsize ▸ he)
    have hmem : (settle (ackRemote (joinAt (dropMsg s m.uid) m a k) m) m.score).mem = (joinAt (dropMsg s m.uid) m a k).mem :=
      (settle_mem ..).trans (ackRemote_keeps ..).1
    refine ⟨fun h0 => ⟨_, hx, hmem.trans ?_⟩, fun h2 => ⟨_, hx, hmem.trans ?_⟩, ?_⟩
    · rw [joinAt_zero (s := dropMsg s m.uid) h0]
      rfl
    · rw [joinAt_counts (s := dropMsg s m.uid) h2]
      rfl
    · intro part user cont s1 s2
      refine ⟨fun h1 s3 t ws hj => ⟨_, hx, hmem.trans ?_, ?_⟩, fun h1 hj => ⟨_, hx, hmem.trans ?_⟩⟩
      · rw [joinAt_sent (s := dropMsg s m.uid) h1 hj]
      · refine ⟨joinMsg s3 m a t ws, ?_, rfl, rfl⟩
        rw [settle_net]
        refine (ackRemote_keeps ..).2 _ ?_
        rw [joinAt_sent (s := dropMsg s m.uid) h1 hj]
        exact List.mem_append_right _ (List.mem_singleton.mpr rfl)
      · rw [joinAt_unsent (s := dropMsg s m.uid) h1 hj, joinStatus, storeBytes_mem, joinLast_mem,
          memNat_memWrite_apart _ (.inr (by rw [length_leBytes]; omega))]
        rfl

end Sys2Proof.Machine
end

/-! Packets spawn threads (R29, R30, R43, R196, R212, R376). -/
section

namespace Sys2Proof.Machine

open Sys2Proof.Claims

/-! ## Attribute records and counters that are read without soft errors -/

section
variable {s : State} {c n id : Nat}

theorem attrMeets_clean (h : AttrClean s c id) : attrMeets s c id = s := by
  unfold attrMeets
  split
  next k hk => rw [eccRead_clean (h k hk)]
  next => rfl

/-- The counter of a launch is read at a core of its partition without an error. -/
theorem counterMeets_launch (h : LaunchClean s c id) : counterMeets s (partOfCore s c) id = s := by
  obtain ⟨-, hq⟩ := h
  cases hp : partOfCore s c with
  | none => rfl
  | some q => exact counterMeets_clean (.inr (hq q hp))

/-- What a raised counter changes: memory, and the watches that see it. -/
theorem counterIncr_done {p : Option Nat} {u : State} (h : counterIncr s p id = .done u) :
    u = counterWrite s p id (counterRead s p id + 1) := by
  unfold counterIncr at h
  dsimp only at h
  split at h
  · cases h
  · split at h
    · cases h
    · exact (Incr.done.inj h).symm

theorem counterWrite_keeps (s : State) (p : Option Nat) (id w c : Nat) :
    (coreOf (counterWrite s p id w) c).inbox = (coreOf s c).inbox ∧ (counterWrite s p id w).net = s.net ∧
      (counterWrite s p id w).pkg = s.pkg := by
  cases p with
  | none => exact ⟨rfl, rfl, rfl⟩
  | some q =>
    have h := congrArg Core.inbox (coreOf_storeBy s none (0, 0) (counterKey s q id) (leBytes 8 w) c)
    exact ⟨h, rfl, rfl⟩

/-! ## The thread of a packet -/

section
variable (s c) (p : Packet) (bs : List Byte)

/-- The predicate word of a spawned thread: TAG, STRICT and DET above a 1 for p0 (R29). -/
def spawnPw (w : Nat) : Nat := 2 ^ 24 * (2 ^ 6 * (2 * (ctlDet w).toNat + (ctlStrict w).toNat) + ctlTag w) + 1

theorem spawnThread_pw : (spawnThread s c p bs).pw = BitVec.ofNat 32 (spawnPw (pktWord p.words 0)) := by
  refine congrArg (BitVec.ofNat 32) ?_
  unfold spawnPw
  cases ctlDet (pktWord p.words 0) <;> cases ctlStrict (pktWord p.words 0) <;> simp <;> omega

theorem spawnPw_low (w : Nat) {j : Nat} (hj : j < 24) (h0 : j ≠ 0) : (spawnPw w).testBit j = false := by
  rw [spawnPw, Nat.testBit_two_pow_mul_add _ (by decide), if_pos hj]
  exact Nat.testBit_lt_two_pow (Nat.one_lt_two_pow h0)

theorem spawnPw_high (w j : Nat) : (spawnPw w).testBit (30 + j) = (2 * (ctlDet w).toNat + (ctlStrict w).toNat).testBit j := by
  have htag : ctlTag w < 2 ^ 6 := (bits_lt w 51 48).trans (by decide)
  rw [spawnPw, Nat.testBit_two_pow_mul_add _ (by decide), if_neg (by omega), Nat.testBit_two_pow_mul_add _ htag,
    if_neg (by omega)]
  congr 1
  omega

theorem predOf_spawnThread {q : Nat} (h1 : 1 ≤ q) (h2 : q < 16) :
    predOf (spawnThread s c p bs) q = false ∧ taintOf (spawnThread s c p bs) q = false := by
  unfold predOf taintOf
  rw [spawnThread_pw, BitVec.getLsbD_ofNat, BitVec.getLsbD_ofNat, spawnPw_low _ (by omega) (by omega),
    spawnPw_low _ (by omega) (by omega)]
  simp
  omega

theorem detOf_spawnThread : detOf (spawnThread s c p bs) = ctlDet (pktWord p.words 0) := by
  rw [detOf, spawnThread_pw, BitVec.getLsbD_ofNat, spawnPw_high _ 1]
  cases ctlDet (pktWord p.words 0) <;> cases ctlStrict (pktWord p.words 0) <;> rfl

theorem strictOf_spawnThread : strictOf (spawnThread s c p bs) = ctlStrict (pktWord p.words 0) := by
  rw [strictOf, spawnThread_pw, BitVec.getLsbD_ofNat, spawnPw_high _ 0]
  cases ctlDet (pktWord p.words 0) <;> cases ctlStrict (pktWord p.words 0) <;> rfl

end

/-! ## Its slot -/

theorem slotOf_traceAdd (s : State) (c kind slot peer ccid asid : Nat) (arg pc : Word) (d n : Nat) :
    slotOf (traceAdd s c kind slot peer ccid asid arg pc) d n = slotOf s d n := slotOf_modCore ..

theorem spawnInto_ok {p : Packet} {a : Attr} {bs : List Byte} (h : TargetOk (traceAdd
      (placeThread { s with uid := s.uid + 1 } c n a.asid (spawnThread s c p bs) none) c 0x01 n 0
      (spawnThread s c p bs).ccid.toNat a.asid (BitVec.ofNat 64 (pktWord p.words 0))
      (BitVec.setWidth 64 (spawnThread s c p bs).pc)) c n (spawnThread s c p bs).pc (spawnThread s c p bs).pc.toNat) :
    slotOf (spawnInto s c n p a bs) c n = slotOf (placeThread { s with uid := s.uid + 1 } c n a.asid (spawnThread s c p bs) none) c n := by
  unfold spawnInto
  dsimp only
  split
  · exact slotOf_traceAdd ..
  next hc => exact absurd (h.symm.trans (congrArg Except.isOk hc)) (by simp [Except.isOk, Except.toBool])

/-! ## Where the core takes the packet -/

theorem trySpawn_spawns {p : Packet} {a : Attr} {bs : List Byte} (h : Spawns s c n p a bs) :
    trySpawn s c p = some (spawnInto (spawnMeets s c p.words) c n p a bs) := by
  obtain ⟨hm, hl, ht, hslot⟩ := h
  have htake : takesPacket s c p.words = true := by rw [takesPacket, hm]
  unfold trySpawn
  dsimp only
  rw [htake, hl, ht]
  dsimp only
  split at hslot
  next hr =>
    obtain ⟨hlane, hfree, hheld⟩ := hslot
    rw [if_neg (by decide), if_neg (by decide), if_pos hr, hlane]
    dsimp only
    rw [if_pos (by simp [hfree, hheld])]
  next hr => rw [if_neg (by decide), if_neg (by decide), if_neg hr, hslot, Option.map_some]

theorem exec_packetSpawn {p : Packet} {a : Attr} {bs : List Byte} {m : Msg} {rest : List Msg}
    (hi : (coreOf s c).inbox = m :: rest) (hb : m.body = .packet p) (h : Spawns s c n p a bs) :
    exec (.packetSpawn c) s = .next (dropInbox (spawnInto (spawnMeets s c p.words) c n p a bs) c m.uid) := by
  have hopen : entryOpen s c m = true := by rw [entryOpen, h.1]
  have htry : tryInbox s c m = some (spawnInto (spawnMeets s c p.words) c n p a bs) := by
    rw [tryInbox, hb]
    exact trySpawn_spawns h
  have htakes : inboxTakes s c = some (m, spawnInto (spawnMeets s c p.words) c n p a bs) := by
    rw [inboxTakes, hi, List.filter_cons_of_pos hopen, firstTaken, if_neg (by simp), htry]
  dsimp only [exec, execPacketSpawn]
  rw [htakes]
  rfl

/-! ## A packet that reaches its core -/

/-- The message of an accepted packet as it waits in the inbox (R30). -/
def waitingMsg (m : Msg) (p : Packet) (stage : Option Nat) : Msg :=
  { m with body := .packet { p with counted := true, status := none, stage := stage } }

/-- The state after a core has accepted a packet into its inbox (R30, R43, R196). -/
def packetPlaced (u : State) (m : Msg) (p : Packet) (stage : Option Nat) : State :=
  modCore (stageAdd (acceptStatus u m p) (partOfCore u m.dcore) (ctlCcid (pktWord p.words 0)) stage) m.dcore
    fun k => { k with inbox := k.inbox ++ [waitingMsg m p stage] }


theorem acceptStatus_cores (s : State) (m : Msg) (p : Packet) (c : Nat) :
    coreOf (acceptStatus s m p) c = coreOf s c ∧ (acceptStatus s m p).mem = s.mem := by
  unfold acceptStatus
  split
  · refine ⟨?_, (putMsg_keeps ..).1⟩
    unfold answer answerIn putMsg
    split
    · rfl
    · cases hl : linkSend s _ 0 with
      | none => rfl
      | some u =>
        obtain ⟨g, rfl⟩ := linkSend_onlyPkg hl
        rfl
  · exact ⟨rfl, rfl⟩

theorem acceptStatus_reply {m : Msg} {p : Packet} {r : Nat} (hr : p.status = some r) (hd : m.sdev = s.pkg.dev.toNat) :
    ∃ e ∈ (acceptStatus s m p).net, e.body = .reply m.sslot r 0#64 false := by
  obtain ⟨-, e, he, hb, -⟩ := answer_flies (.reply m.sslot r 0#64 false) hd
  refine ⟨e, ?_, hb⟩
  unfold acceptStatus
  rw [hr]
  exact he

section
variable {m : Msg} {p : Packet}

theorem exec_workPacket (h : Lands s m) (hb : m.body = .packet p) :
    exec (.workPacketArrival m.uid) s = .next ((acceptPacket s m p).getD s) := by
  obtain ⟨ha, -⟩ := h
  dsimp only [exec, execWorkPacketArrival, event]
  rw [ha, Option.bind_some, hb]

/-- A packet whose counter is raised already waits in the inbox (R30). -/
theorem acceptPacket_counted (h : taking s m = .apply) (hc : p.counted = true) :
    acceptPacket s m p = some (packetPlaced (dropMsg s m.uid) m p (stageName s m.dcore p.words)) := by
  unfold acceptPacket
  rw [h]
  simp only [hc, if_true]
  rfl

/-- A packet that is to be counted at its target reads the records of its launch there (R196, R212). -/
theorem acceptPacket_uncounted (h : taking s m = .apply) (hc : p.counted = false)
    (hl : LaunchClean s m.dcore (ctlCcid (pktWord p.words 0))) :
    (∀ u, targetIncr (dropMsg s m.uid) m.dcore p = .ok u →
      acceptPacket s m p = some (packetPlaced u m p (stageName s m.dcore p.words))) ∧
    ∀ st r, targetIncr (dropMsg s m.uid) m.dcore p = .error st → p.status = some r →
      acceptPacket s m p = some (answer (dropMsg s m.uid) m (.reply m.sslot r (BitVec.ofNat 64 st) false)) := by
  have hattr : (if p.status.isSome then attrMeets (dropMsg s m.uid) m.dcore (ctlCcid (pktWord p.words 0))
      else dropMsg s m.uid) = dropMsg s m.uid := by
    split
    · exact attrMeets_clean (s := dropMsg s m.uid) hl.1
    · rfl
  have hread : counterMeets (dropMsg s m.uid) (partOfCore s m.dcore) (ctlCcid (pktWord p.words 0)) = dropMsg s m.uid :=
    counterMeets_launch (s := dropMsg s m.uid) hl
  refine ⟨fun u hu => ?_, fun st r hu hr => ?_⟩
  all_goals
    unfold acceptPacket
    rw [h]
    dsimp only
    rw [hattr, hread]
    simp only [hc, Bool.false_eq_true, if_false, hu]
  · rfl
  · rw [hr]

/-- What an accepted packet leaves: it is the last of the inbox, and a SPAWN's status is on its way (R30, R196). -/
theorem packetPlaced_spec (u : State) (m : Msg) (p : Packet) (stage : Option Nat) :
    (coreOf (packetPlaced u m p stage) m.dcore).inbox = (coreOf u m.dcore).inbox ++ [waitingMsg m p stage] ∧
      (packetPlaced u m p stage).mem = u.mem ∧
      ∀ r, p.status = some r → m.sdev = u.pkg.dev.toNat →
        ∃ e ∈ (packetPlaced u m p stage).net, e.body = .reply m.sslot r 0#64 false := by
  have hstage (v : State) (q : Option Nat) (id : Nat) :
      (stageAdd v q id stage).cores = v.cores ∧ (stageAdd v q id stage).mem = v.mem ∧ (stageAdd v q id stage).net = v.net := by
    unfold stageAdd
    split <;> exact ⟨rfl, rfl, rfl⟩
  obtain ⟨hcores, hmem, hnet⟩ := hstage (acceptStatus u m p) (partOfCore u m.dcore) (ctlCcid (pktWord p.words 0))
  obtain ⟨hcore, hkeep⟩ := acceptStatus_cores u m p m.dcore
  refine ⟨?_, hmem.trans hkeep, fun r hr hd => ?_⟩
  · rw [packetPlaced, coreOf_modCore_same, coreOf, hcores]
    exact congrArg (fun k : Core => k.inbox ++ [waitingMsg m p stage]) hcore
  · change ∃ e ∈ (stageAdd _ _ _ stage).net, _
    rw [hnet]
    exact acceptStatus_reply hr hd

end

/-- A packet counted at its target has had its counter raised. -/
theorem targetIncr_ok {p : Packet} {u : State} (h : targetIncr s c p = .ok u) :
    ∃ w, u = counterWrite s (partOfCore s c) (ctlCcid (pktWord p.words 0)) w := by
  unfold targetIncr at h
  dsimp only at h
  split at h
  · cases h
  · cases h
  next v hv =>
    split at h
    · cases h
      exact ⟨_, counterIncr_done hv⟩
    · cases h

/-! ## The bottom entry of the deque -/

/-- DEQUE_POP spawns the bottom entry where nothing waits before it (R376). -/
theorem exec_dequePop {p : Packet} {a : Attr} {bs : List Byte} {q : Deque} {e : Nat × Nat} {u : State} (hq : q = dequeOf s c)
    (he : e = dequeEntry q (q.bot + 2 ^ 32 - 1))
    (hu : u = if dequeLen q = 1 then storeBytes s (tcmKey c q.base) (leBytes 4 ((q.top + 1) % 2 ^ 32))
      else storeBytes s (tcmKey c (q.base + 8)) (leBytes 4 ((q.bot + 2 ^ 32 - 1) % 2 ^ 32)))
    (hm : (coreOf s c).mode = .running) (hlog : q.log ≠ 0) (h1 : 1 ≤ dequeLen q) (h2 : dequeLen q ≤ 2 ^ q.log)
    (hi : (coreOf s c).inbox = []) (hs : (coreOf s c).spill = [])
    (hslot : slotFor (coreOf s c) (ctlLane (pktWord p.words 0)) = true) (hb1 : eccBad s.ecc (tcmKey c e.1) 64 = false)
    (hb2 : eccBad s.ecc (tcmKey c e.2) 16 = false)
    (hp : p = ⟨packetOf (memBytes s.mem (tcmKey c e.1) 64), BitVec.ofNat 64 (memNat s.mem (tcmKey c e.2) 8),
      BitVec.ofNat 64 (memNat s.mem (tcmKey c (e.2 + 8)) 8), none, none, true, none⟩) (hsp : Spawns u c n p a bs) :
    exec (.dequePop c) s = .next (spawnInto (spawnMeets u c p.words) c n p a bs) := by
  have hheld : isHeldMode (coreOf s c).mode = false := by rw [hm]; rfl
  have hfirst (l : Nat) : inboxFirst s c l = false := by
    rw [inboxFirst, hi, hs]
    rfl
  have htry := trySpawn_spawns hsp
  subst hp
  dsimp only [exec, execDequePop, event]
  rw [← hq, ← he, ← hu, if_neg, if_neg, Nat.mul_zero, Nat.add_zero, Nat.mul_one]
  · rw [htry, Option.getD_some]
  · rw [hfirst]
    simpa using hslot
  · rw [hheld]
    simp only [Bool.or_eq_true, decide_eq_true_eq, not_or, Bool.false_eq_true, not_false_eq_true, true_and]
    exact ⟨⟨⟨⟨hlog, by omega⟩, by omega⟩, by simpa using hb1⟩, by simpa using hb2⟩

end

/-- Settles O47: the thread of a packet by its fields; the spawn of a waiting packet and of the bottom deque entry; a packet
that reaches its core. -/
theorem spawnsPackets : Obligations.SpawnsPackets := by
  unfold Obligations.SpawnsPackets
  intro s c n p a bs
  refine ⟨?_, fun m rest => exec_packetSpawn, ?_, ?_⟩
  · intro t w s1
    refine ⟨fun h => ?_, rfl, rfl, rfl, fun i h2 h8 => ?_, rfl, rfl, ?_, rfl, detOf_spawnThread ..,
      strictOf_spawnThread .., fun q => predOf_spawnThread s c p bs, rfl, rfl, rfl, rfl, rfl, rfl, rfl, rfl, rfl, rfl⟩
    · intro y
      have hy : y = slotOf (placeThread { s with uid := s.uid + 1 } c n a.asid t none) c n := spawnInto_ok h
      rw [hy, placeThread, slotOf_setSlot_same]
      exact ⟨rfl, rfl, rfl, rfl, rfl⟩
    · interval_cases i <;> rfl
    · intro r hr
      rw [List.mem_range] at hr
      interval_cases r <;> rfl
  · intro q e s1 hm hlog h1 h2 hi hs hslot hb1 hb2 hp hsp
    exact exec_dequePop rfl rfl rfl hm hlog h1 h2 hi hs hslot hb1 hb2 hp hsp
  · intro m hl hc hb
    subst hc
    intro m1 enters
    have hx := exec_workPacket hl hb
    refine ⟨fun hcount => ?_, fun hcount hclean u hu => ?_, fun hcount hclean st r hu hr => ?_⟩
    · rw [acceptPacket_counted hl.2 hcount] at hx
      obtain ⟨hin, hmem, hreply⟩ := packetPlaced_spec (dropMsg s m.uid) m p (stageName s m.dcore p.words)
      exact ⟨_, hx, ⟨hin, hreply⟩, hmem⟩
    · rw [(acceptPacket_uncounted hl.2 hcount hclean).1 u hu] at hx
      obtain ⟨hin, hmem, hreply⟩ := packetPlaced_spec u m p (stageName s m.dcore p.words)
      obtain ⟨v, hv⟩ := targetIncr_ok hu
      obtain ⟨hbox, -, hpkg⟩ := counterWrite_keeps (dropMsg s m.uid) (partOfCore (dropMsg s m.uid) m.dcore)
        (ctlCcid (pktWord p.words 0)) v m.dcore
      rw [← hv] at hbox hpkg
      exact ⟨_, hx, ⟨hin.trans (by rw [hbox]; rfl), fun r hr hd => hreply r hr (by rw [hpkg]; exact hd)⟩, hmem⟩
    · rw [(acceptPacket_uncounted hl.2 hcount hclean).2 st r hu hr] at hx
      exact hx

end Sys2Proof.Machine
end

/-! Threads on the move, and the appends of FORK and ENQ (R32, R34, R35, R37, R197, R201, R219, R369, R376). -/
section

namespace Sys2Proof.Machine

open Sys2Proof.Claims

section
variable {s : State} {c n : Nat} {t : Thread} {m : Msg}

/-! ## A thread that is placed -/

theorem slotOf_placeThread (asid : Nat) (visit : Option (Nat × Nat)) :
    (slotOf (placeThread s c n asid t visit) c n).st = .ready ∧
      (slotOf (placeThread s c n asid t visit) c n).visitFrom = visit ∧
      threadOf (placeThread s c n asid t visit) c n = some t := by
  rw [threadOf, placeThread, slotOf_setSlot_same]
  exact ⟨rfl, rfl, rfl⟩

/-- A travelling thread takes the FREE slot of a core with room (R34, R37). -/
theorem tryPlace_free (hf : freeUserSlot (coreOf s c) = some n) (hl : launchCancelled s (partOfCore s c) t.ccid.toNat = false)
    (visit : Option (Nat × Nat)) : tryPlace s c t visit = some (placeThread s c n (launchAsid s c t.ccid.toNat)
      (if visit.isSome then t else { t with home := BitVec.ofNat 10 (logicalOfCore s c) }) visit) := by
  unfold tryPlace
  rw [hf, Option.map_some, hl]
  rfl

/-- A thread that reaches a core with an empty inbox is tried there at once (R35). -/
theorem exec_migrationArrival {u : State} (h : Lands s m) (hk : (∃ t, m.body = .migrate t) ∨ ∃ t h k g, m.body = .visit t h k g)
    (hi : (coreOf s m.dcore).inbox = []) (hu : tryInbox (dropMsg s m.uid) m.dcore m = some u) :
    exec (.migrationArrival m.uid) s = .next u := by
  dsimp only [exec, execMigrationArrival]
  rw [arrive_lands h]
  · rw [event_some, coreOf_dropMsg, hi, List.isEmpty_nil, if_pos rfl, hu, Option.getD_some]
  · rcases hk with ⟨t, hb⟩ | ⟨t, h, k, g, hb⟩ <;> rw [hb]

theorem slotRuns_running (h : (coreOf s c).mode = .running) : slotRuns (coreOf s c) n = true := by rw [slotRuns, h]

/-! ## A return -/

/-- A thread whose slot keeps no messages and no abort is READY at home (R37). -/
theorem homeAgain_quiet {g : Bool} (hbox : ∀ e ∈ (coreOf s c).visitBox, bodySlot e.body ≠ some n)
    (hw : ∀ r, (slotOf s c n).wait ≠ .abort r) :
    ∃ u : State, homeAgain s c n t none g = modSlot u c n (fun x =>
      { readySlot s.cycle x with thread := some t, cancelled := x.cancelled || g }) ∧ slotOf u c n = slotOf s c n := by
  have hnone : ((coreOf s c).visitBox.filter fun e => bodySlot e.body == some n) = [] :=
    List.filter_eq_nil_iff.mpr fun e he => by simpa using hbox e he
  refine ⟨modCore s c fun k => { k with visitBox := k.visitBox.filter fun e => !(bodySlot e.body == some n) }, ?_, slotOf_modCore ..⟩
  unfold homeAgain
  dsimp only
  rw [hnone, List.foldl_nil]
  split
  next hr => exact absurd hr (hw _)
  next => rfl
  next he _ => cases he
  next he _ => cases he

theorem noteUser_keeps (s : State) (m : Msg) (c n : Nat) : (coreOf (noteUser s m) c).visitBox = (coreOf s c).visitBox ∧
    slotOf (noteUser s m) c n = slotOf s c n := by
  unfold noteUser
  split
  · split
    · refine ⟨?_, slotOf_modCore ..⟩
      by_cases hc : c = m.dcore
      · subst hc
        rw [coreOf_modCore_same]
      · rw [coreOf_modCore_other _ _ _ _ hc]
    · exact ⟨rfl, rfl⟩
  · exact ⟨rfl, rfl⟩

/-! ## FORK -/

theorem exec_forkPublish {e : ForkEntry} (he : (coreOf s c).forkQ.find? (forkOpen (coreOf s c)) = some e)
    (hp : earlierAccess s c e.thread e.uid = false) :
    let q := dequeOf s c
    let o := dequeEntry q q.bot
    exec (.forkPublish c) s = .next (modCore (storeBytes (storeBytes (storeBytes s (tcmKey c o.1) (packetBytes e.words))
      (tcmKey c o.2) (leBytes 8 e.a0.toNat ++ leBytes 8 e.a1.toNat)) (tcmKey c (q.base + 8))
      (leBytes 4 ((q.bot + 1) % 2 ^ 32))) c fun k => { k with forkQ := k.forkQ.filter fun g => g.uid != e.uid }) := by
  intro q o
  dsimp only [exec, execForkPublish, event]
  rw [he]
  dsimp only
  rw [if_neg (ne_true_of_eq_false hp)]
  rfl

theorem launchClean_reissueSlot {id : Nat} (h : LaunchClean s c id) : LaunchClean (reissueSlot s c n) c id := by
  have hkey : attrKey (reissueSlot s c n) c id = attrKey s c id := by
    rw [attrKey, reissueSlot, coreOf_modSlot_same]
    rfl
  exact ⟨fun k hk => h.1 k (hkey ▸ hk), h.2⟩

/-- The append of a waiting FORK: increment, claim, write and publish (R376). -/
theorem exec_forkAppend {x : Slot} {q : Qcb} {pl : Nat × Option Nat} {s1 : State} (h : Waits s c n x t .fork)
    (hp : pending s c n = false) (hq : openQcb s c n (launchQcb s c t) = .ok q) (hcl : qcbClosed q = false)
    (hfull : qcbFull q = false) (hturn : q.claim = q.tail) (hpl : qcbPlace s c n q q.claim = .ok pl)
    (hclean : LaunchClean s c t.ccid.toNat)
    (hinc : counterIncr (reissueSlot s c n) (partOfCore s c) t.ccid.toNat = .done s1) :
    let f := forkFields s c n t
    let s2 := qcbWrite (qcbSet (qcbMeets s1 c n (launchQcb s c t)) q.key 128 ((q.claim + 1) % 2 ^ 64)) pl
      (forkWords (coreOf s c) t (runWords t f.1)) (sourceId s c n) (valOf t f.2)
    let s3 := qcbSet s2 q.key 64 ((q.tail + 1) % 2 ^ 64)
    LoopOk s3 c n t t → exec (.forkAppend c n) s = .next (completed s3 c n t t 4) := by
  intro f s2 s3 hl
  have hwait := waiting_eq_true h
  have hbody := fromWait_eq h
  obtain ⟨rfl, ht, hst, hheld, hw⟩ := h
  have hclean' : LaunchClean (reissueSlot s c n) c t.ccid.toNat := launchClean_reissueSlot hclean
  have hcounter := counterMeets_launch hclean'
  have hattr : attrMeets (reissueSlot s c n) c t.ccid.toNat = reissueSlot s c n := attrMeets_clean hclean'.1
  have hstay : ¬(pending s c n || qcbFull q || decide (q.claim ≠ q.tail)) = true := by simp [hp, hfull, hturn]
  dsimp only [exec, execForkAppend, event]
  rw [ht]
  dsimp only
  rw [if_pos (by simp [hst, hheld, hw]), forkNow, hq]
  dsimp only
  rw [if_neg (ne_true_of_eq_false hcl), if_neg hstay, hpl]
  dsimp only
  rw [Option.map_some, Option.getD_some, hbody]
  dsimp only
  have hraised : counterIncr (reissueSlot s c n) (partOfCore (reissueSlot s c n) c) t.ccid.toNat = .done s1 := hinc
  rw [hcounter, hattr, hraised]
  exact congrArg (fun b => Host.Outcome.next (settleBody c n b)) (finish_ok _ hl)

/-! ## ENQ -/

section
variable {x : Slot} {pd qa claim : Nat}

/-- An ENQ in its slot does what its claim or its publication gives (R369). -/
theorem exec_enqAppend {b : Bool} (h : Waits s c n x t (.enq pd qa claim b)) (hj : ∀ j ∈ s.enqs, j.core ≠ c ∨ j.slot ≠ n)
    {r : (Ctx → Body) ⊕ State}
    (hr : enqNow s c n t pd qa claim (bits (codeWord s c n t.pc.toNat) 21 18) b = some r) :
    exec (.enqAppend c n) s = .next (r.elim (fromWait s c n) id) := by
  have hnone : (s.enqs.find? fun j => j.core == c && j.slot == n) = none :=
    List.find?_eq_none.mpr fun j hm => by
      have := hj j hm
      simp
      tauto
  have hwait := waiting_eq_true h
  obtain ⟨rfl, ht, hst, hheld, hw⟩ := h
  dsimp only [exec, execEnqAppend, event]
  rw [hnone]
  dsimp only
  rw [hw, ht]
  dsimp only
  rw [if_pos hwait, hr]
  cases r <;> rfl

theorem fromWait_enqEnd {v : Bool} {f : State → State} (h : Waits s c n x t (.enq pd qa claim v))
    {w : Bool} (hl : LoopOk (f (reissueSlot s c n)) c n t (putPred t pd w true)) :
    fromWait s c n (enqEnd pd w f) = completed (f (reissueSlot s c n)) c n t (putPred t pd w true) 4 := by
  rw [fromWait_eq h]
  exact (congrArg (settleBody c n) (finish_ok _ hl)).trans (settleBody_ok ..)

end

/-- What a QCB's reads and writes keep of a slot. -/
theorem errorBlind_slot {β : Type} (π : Slot → β) (c n : Nat) : ErrorBlind (fun s => π (slotOf s c n)) where
  counts s d num := by
    unfold countSoft
    split
    · rfl
    · exact congrArg π (slotOf_modCore ..)
  marks _ _ := rfl
  injects _ _ := rfl
  logs _ _ := rfl

theorem st_qcbMeets (s : State) (c n a : Nat) : (slotOf (qcbMeets s c n a) c n).st = (slotOf s c n).st := by
  have hb := errorBlind_slot Slot.st c n
  unfold qcbMeets
  dsimp only
  split
  · exact hb.walkMeets ..
  · exact (hb.eccRead ..).trans (hb.walkMeets ..)

theorem st_storeBytes (s : State) (k : Nat) (bs : List Byte) (c n : Nat) :
    (slotOf (storeBytes s k bs) c n).st = (slotOf s c n).st := by
  rw [storeBytes, slotOf, coreOf_storeBy]
  exact slotIn_hitWatch (π := Slot.st) (fun _ _ => rfl) ..

theorem st_qcbWrite (s : State) (pl : Nat × Option Nat) (ws : Vector Word 8) (a0 a1 : Word) (c n : Nat) :
    (slotOf (qcbWrite s pl ws a0 a1) c n).st = (slotOf s c n).st := by
  unfold qcbWrite
  dsimp only
  split
  · exact st_storeBytes ..
  · exact (st_storeBytes ..).trans (st_storeBytes ..)

/-- A claim that the core's pre-emption has parted from its slot publishes in its turn (R219). -/
theorem exec_enqAppend_parted {j : EnqJob} (hj : s.enqs.find? (fun k => k.core == c && k.slot == n) = some j)
    (ht : memNat s.mem (j.qcb + 64) 8 = j.claim) (he : earlierAccess s c j.tid s.uid = false) :
    ∃ u, exec (.enqAppend c n) s = .next u ∧ u.enqs = s.enqs.filter (· != j) ∧
      u.mem = memWrite s.mem (j.qcb + 64) (leBytes 8 ((j.claim + 1) % 2 ^ 64)) ∧
      ∃ m ∈ u.net, m.dcore = c ∧ m.body = .enqReply n j.pd true := by
  have hfound := List.find?_some hj
  rw [Bool.and_eq_true, beq_iff_eq, beq_iff_eq] at hfound
  obtain ⟨rfl, rfl⟩ := hfound
  have hturn : enqTurn s j.qcb j.claim = true := by rw [enqTurn, ht, beq_self_eq_true]
  dsimp only [exec, execEnqAppend, event]
  rw [hj]
  dsimp only
  rw [enqJobDone, if_neg (by simp [hturn, he])]
  dsimp only
  rw [putMsg_here _ _ (.inr rfl), Option.getD_some]
  exact ⟨_, rfl, rfl, rfl, _, List.mem_append_right _ (List.mem_singleton.mpr rfl), rfl, rfl⟩

end

/-- Settles O48: a travelling thread is placed or goes home; FORK and ENQ publish and append in their turns. -/
theorem threadMoves : Obligations.ThreadMoves := by
  unfold Obligations.ThreadMoves
  intro s c n t
  refine ⟨fun m hl hc hm hi hf hcan => ?_, fun m g hl hc hb hbox hw => ?_, fun e he hp => ?_, ?_, fun x pd qa claim b h hj => ?_,
    fun j => exec_enqAppend_parted⟩
  · subst hc
    have hruns : slotRuns (coreOf (dropMsg s m.uid) m.dcore) Config.firstUser = true := slotRuns_running hm
    have placed (visit : Option (Nat × Nat)) := tryPlace_free (s := dropMsg s m.uid) hf hcan visit
    refine ⟨fun hb => ?_, fun h k g hb => ?_⟩
    · have htry : tryInbox (dropMsg s m.uid) m.dcore m = tryPlace (dropMsg s m.uid) m.dcore t none := by
        rw [tryInbox, hb]
        exact if_pos hruns
      exact ⟨_, exec_migrationArrival hl (.inl ⟨t, hb⟩) hi (htry.trans (placed none)), slotOf_placeThread ..⟩
    · have htry : tryInbox (dropMsg s m.uid) m.dcore m = tryPlace (dropMsg s m.uid) m.dcore t (some (h, k)) := by
        rw [tryInbox, hb]
        exact if_pos hruns
      exact ⟨_, exec_migrationArrival hl (.inr ⟨t, h, k, g, hb⟩) hi (htry.trans (placed (some (h, k)))), slotOf_placeThread ..⟩
  · subst hc
    obtain ⟨hkept, hslot⟩ := noteUser_keeps (dropMsg s m.uid) m m.dcore n
    obtain ⟨u, hu, hsame⟩ := homeAgain_quiet (s := noteUser (dropMsg s m.uid) m) (c := m.dcore) (n := n) (t := t) (g := g)
      (by rw [hkept]; exact hbox) (by rw [hslot]; exact hw)
    have hx : exec (.visitReturn m.uid) s = .next (homeAgain (noteUser (dropMsg s m.uid) m) m.dcore n t none g) := by
      dsimp only [exec, execVisitReturn]
      rw [arrive_lands hl (by rw [hb])]
      simp only [applyBody, hb]
      rfl
    refine ⟨_, hx.trans (congrArg Host.Outcome.next hu), ?_⟩
    rw [threadOf, slotOf_modSlot_same, hsame, hslot]
    exact ⟨rfl, rfl, rfl⟩
  · intro q o
    refine ⟨_, exec_forkPublish he hp, ?_, rfl⟩
    rw [coreOf_modCore_same]
    have hkeep (v : State) (k : Nat) (bs : List Byte) : (coreOf (storeBytes v k bs) c).forkQ = (coreOf v c).forkQ := by
      rw [storeBytes, coreOf_storeBy]
      rfl
    exact congrArg (List.filter _) ((hkeep ..).trans ((hkeep ..).trans (hkeep ..)))
  · intro x h hp q hq hcl hfull hturn pl hpl hclean s1 hinc
    exact exec_forkAppend h hp hq hcl hfull hturn hpl hclean hinc
  · refine ⟨?_, ?_⟩
    · rintro rfl q hq
      have hopen : openWaits s c n qa = false := by rw [openWaits, hq]
      have hnow (a : Nat) : enqNow s c n t pd qa claim a false = some (enqClaim s c n t pd qa a) :=
        (if_pos rfl).trans (if_neg (ne_true_of_eq_false hopen))
      refine ⟨?_, fun hcl hfull pl hpl => ?_⟩
      · intro hrefuse s1 hl
        have hclaim (a : Nat) : enqClaim s c n t pd qa a =
            .inl (enqEnd pd false fun u => qcbSet u q.key 200 ((memNat u.mem (q.key + 200) 8 + 1) % 2 ^ 64)) := by
          unfold enqClaim
          rw [hq]
          exact if_pos (by simpa using hrefuse)
        rw [exec_enqAppend h hj (hnow _), hclaim]
        exact congrArg Host.Outcome.next (fromWait_enqEnd h hl)
      · have hroom : ¬(qcbClosed q || qcbFull q) = true := by simp [hcl, hfull]
        rw [exec_enqAppend h hj (hnow _), enqClaim, hq]
        dsimp only
        rw [if_neg hroom, hpl]
        refine ⟨_, rfl, ?_⟩
        dsimp only [Sum.elim_inr, id]
        rw [slotOf_modSlot_same]
        refine ⟨rfl, ?_⟩
        refine (st_qcbWrite ..).trans ((st_storeBytes ..).trans ((st_qcbMeets ..).trans ?_))
        obtain ⟨rfl, -, hst, -, -⟩ := h
        exact hst
    · rintro rfl hturn hp s1 hl
      have hready : ¬(!enqTurn s qa claim || pending s c n) = true := by simp [enqTurn, hturn, hp]
      have hnow (a : Nat) : enqNow s c n t pd qa claim a true = some (.inl (enqEnd pd true fun u => enqPublish u qa claim)) :=
        (if_neg (by decide)).trans (if_neg hready)
      rw [exec_enqAppend h hj (hnow _)]
      exact congrArg Host.Outcome.next (fromWait_enqEnd h hl)

end Sys2Proof.Machine
end

/-! O49 is refuted. A fill's cluster is any number in the model, and a cluster number of 2^36 puts its tile at a key past the
scratchpads: no guard stands at that key, but what is written there goes where the guards of cluster 0 let it. -/
section

namespace Sys2Proof.Machine

open Sys2Proof.Claims

/-! ## A write past the scratchpads that meets a guard -/

/-- A write to the scratchpad of a key that meets a guarded granule places its bytes at that scratchpad's own keys, so
every key past the scratchpads keeps its byte. -/
theorem spadWrite_guarded_beyond (s : State) {k a : Nat} {bs : List Byte}
    (hg : (guardHit s (keySpad k).1 (keySpad k).2 bs.length).isSome = true)
    (hk : (keySpad k).1 * 2 ^ 24 + (keySpad k).2 + bs.length ≤ 2 ^ 60) (ha : 3 * 2 ^ 60 ≤ a) :
    memByte (spadWrite s k bs).mem a = memByte s.mem a := by
  unfold spadWrite
  generalize keySpad k = p at hg hk ⊢
  obtain ⟨cl, off⟩ := p
  obtain ⟨o, ho⟩ := Option.isSome_iff_exists.1 hg
  dsimp only at ho hk ⊢
  rw [ho]
  refine foldl_keeps (f := fun u : State => memByte u.mem a) (fun u i => ?_) _ s
  split
  · rfl
  · rw [storeBytes_mem]
    refine memByte_memWrite_out _ _ _ _ ?_
    rw [List.length_take, List.length_drop]
    have hhi := Nat.min_le_left (off + bs.length) ((off / 64 + i) * 64 + 64)
    generalize min (off + bs.length) ((off / 64 + i) * 64 + 64) = hi at hhi ⊢
    generalize max off ((off / 64 + i) * 64) = lo
    change a < 2 * 2 ^ 60 + cl * 2 ^ 24 + lo ∨ 2 * 2 ^ 60 + cl * 2 ^ 24 + lo + _ ≤ a
    omega

theorem wakeRing_mem (s : State) (cl r : Nat) : (wakeRing s cl r).mem = s.mem :=
  foldl_keeps (f := State.mem) (fun u i => wakeSlots_mem u (cl * 8 + i) _) (List.range 8) s

/-- Publishing a fill without a cause moves no byte. -/
theorem publishFill_mem (s : State) (f : Fill) : (publishFill s f 0).mem = s.mem := by
  unfold publishFill fillEnd
  rw [if_pos rfl, wakeRing_mem, modCluster_mem]
  rfl

/-! ## The counterexample -/

namespace FillBeyond

def cmd : Cmd :=
  { uid := 0, core := 0, slot := 0, thread := 0, asid := 0, user := true, op := .add 0 0 0 0, x := default, a := 0, b := 0,
    aBad := false, bBad := false, fmt := 0, sca := 0, scb := 0, refs := [], refused := none, issued := 0, started := false,
    retireAt := 0, retired := false, due := 0, steps := 0, rows := 0, far := false, err := none, flags := 0, desc := [],
    ltab := [], tab := [], tabBad := false, members := [], fail := 0, poison := none, stop := false }

def prog : Prog :=
  { pc := 0, h := #v[0, 0, 0, 0, 0, 0, 0, 0], stack := [], asid := 0, part := 0, user := true, core := 0, tag := 0, cmd := cmd,
    ended := false, err := none, wwait := none, fillWait := none, sigWait := false, sigs := [] }

/-- A claimed fill of no rows of program 0 of hod 0, whose cluster is 2^36. -/
def fill : Fill :=
  { uid := 0, byHod := true, unit := 0, prog := 0, cmd := 0, tile := 0, cluster := 2 ^ 36, ring := 0, index := some 0, asid := 0,
    rows := 0, rb := 0, stride := 0, src := 0, idx := none, entry := 0, claimedAt := 0, due := 0, cause := none }

/-- Granule 0 of the scratchpad of cluster 0 is guarded, and the byte at the fill's key is 1. -/
def state : State :=
  { State.reset with
    fills := [fill], hods := [(0, { Hod.fresh with progs := [(0, prog)] })],
    clusters := [(0, { Cluster.fresh with guards := [0] })], mem := [(3 * 2 ^ 60, 1#8)] }

theorem fillKey_eq : fillKey state fill = 3 * 2 ^ 60 := by decide

/-- What the landing writes: the zeros behind no rows. -/
theorem tileWrites_zeros :
    tileWrites state 0 (fillPieces fill (3 * 2 ^ 60) []) = (spadWrite state (3 * 2 ^ 60) (List.replicate 8192 0#8), false) := by
  have hp : fillPieces fill (3 * 2 ^ 60) [] = [(3 * 2 ^ 60, List.replicate 8192 0#8)] := rfl
  have he : eccPart state 0 (3 * 2 ^ 60) (List.replicate 8192 0#8).length = (state, false) := eccPart_clean rfl
  rw [hp, tileWrites, List.filter_cons_of_pos (by rw [List.isEmpty_replicate]; decide), List.filter_nil, List.foldl_cons, List.foldl_nil,
    tileWrite, he]
  rfl

theorem byte_stays : memByte (spadWrite state (3 * 2 ^ 60) (List.replicate 8192 0#8)).mem (3 * 2 ^ 60) = 1#8 := by
  refine (spadWrite_guarded_beyond state ?_ ?_ (Nat.le_refl _)).trans (by decide)
  · rw [List.length_replicate]
    decide
  · rw [List.length_replicate]
    decide

end FillBeyond

open FillBeyond in
/-- Refutes O49: a hod's fill of no rows whose cluster is 2^36, which no guard of its own key holds back, leaves the byte at its
key as it was, because the scratchpad that its key folds to has a guarded granule; the statement wants a zero there. -/
theorem not_tileFills : ¬ Obligations.TileFills := by
  intro h
  obtain ⟨hfill, -⟩ := h state
  obtain ⟨-, hindex⟩ := hfill fill rfl
  obtain ⟨-, hland, hzero, -⟩ := hindex 0 rfl (by decide)
  have hg : segGuard state [(fillKey state fill, 8192)] = none := by decide
  have hnext := hland prog [] state _ rfl (by decide) rfl rfl hg rfl (fillKey_eq ▸ tileWrites_zeros)
  obtain ⟨u, hu, -, -, -, hzeros, -⟩ := hzero prog (fun _ => 0) rfl (by decide) rfl rfl rfl (by decide) hg
    ⟨rfl, rfl⟩ (fun j hj => absurd hj (Nat.not_lt_zero j))
  have hb : memByte u.mem (fillKey state fill + 0) = 0#8 := hzeros 0 (Nat.le_refl _) (by decide)
  rw [← Host.Outcome.next.inj (hnext.symm.trans hu), publishFill_mem, Nat.add_zero, fillKey_eq, byte_stays] at hb
  exact absurd hb (by decide)

end Sys2Proof.Machine
end

/-! SPAWN (O29), FORK and JOIN (O30): the packet that a SPAWN reads in an own store, the launch counter of a SPAWN and of a FORK by
what it answers, and a JOIN's access of a thread wherever it is. -/
section

namespace Sys2Proof.Machine

open Sys2Proof.Claims

section
variable {s : State} {c n : Nat} {x : Slot} {t : Thread}

theorem homeOf_atHome (h : AtHome s c n x t) : homeOf s c n = (c, n) := by
  unfold homeOf
  rw [visitFrom_atHome h]

theorem egress_ok (v : Word) (k : Body) (h : egressCount s c < 64) : (Ctx.mk s c n x t).egress v k = k := if_pos h

/-- The packet of a SPAWN in an own store is read at issue (R196). -/
theorem packetAt_own {a : Word} {key : Nat} (k : State → List Byte → Body) (hv : (slotOf s c n).visitFrom = none)
    (hf : x.fetched = none) (hr : routeAccess s c n .read a 64 = .ok (.own key)) (hm : MayTouch s n (.own key) 64)
    (hu : unperformed s c n = false) (hg : farGuard s key 64 a = none) (he : NoErrors s key 64) :
    (Ctx.mk s c n x t).packetAt a k = k s (memBytes s.mem key 64) := by
  unfold Ctx.packetAt
  simp only [hf]
  rw [route_ok _ hv hr hm]
  simp only [mustQueue_performed hu, hg, eccRead_clean he, Bool.false_eq_true, if_false]

/-- Step 3 to the read of SPAWN for an aligned packet in an own store and a target word that names a core. -/
theorem spawn_reads {d a b : Fin 10} {p : Fin 16} {w : Dest} {key : Nat} (h : AtHome s c n x t) (hg : Guarded t p)
    (hf : Full t [d.val, a.val, b.val]) (hw : coreWord s c (valOf t b) w) (ha : (valOf t a).toNat % 64 = 0)
    (hr : routeAccess s c n .read (valOf t a) 64 = .ok (.own key)) (hx : x.fetched = none) (hm : MayTouch s n (.own key) 64)
    (hu : unperformed s c n = false) (hgd : farGuard s key 64 (valOf t a) = none) (he : NoErrors s key 64)
    (k : Dest → State → List Byte → Body) :
    ((Ctx.mk s c n x t).atHome <| (Ctx.mk s c n x t).guarded p <| (Ctx.mk s c n x t).needRegs [d, a, b] <|
      (Ctx.mk s c n x t).coreTarget (valOf t b) b fun v => (Ctx.mk s c n x t).aligned (valOf t a) 64 <|
        (Ctx.mk s c n x t).packetAt (valOf t a) (k v)) = k w s (memBytes s.mem key 64) := by
  rw [atHome_home _ h.2, guarded_needRegs hg hf, coreTarget_ok _ hw, aligned_ok _ ha,
    packetAt_own _ (visitFrom_atHome h) hx hr hm hu hgd he]

/-- The send of a SPAWN at home with room in the egress queue. -/
theorem spawnSend_home {v : Word} {d : Nat} {w : Dest} {ws : Vector Word 8} {counted : Bool} {u : State} (h : AtHome s c n x t)
    (he : egressCount s c < 64) :
    (Ctx.mk s c n x t).spawnSend u v d w ws counted =
      (Ctx.mk s c n x t).finish
        (if w.own then post u c n w.dev w.core .request true (.packet
            { words := ws, a0 := sourceId s c n, a1 := valOf t d, credit := none, status := some d, counted := counted,
              stage := none })
          else askRemote (post u c n w.dev w.core .request true (.packet
            { words := ws, a0 := sourceId s c n, a1 := valOf t d, credit := none, status := some d, counted := counted,
              stage := none })) c n u.uid false)
        (reserveReg t d) 4 := by
  unfold Ctx.spawnSend
  dsimp only
  rw [homeOf_atHome h, egress_ok _ _ he]

end

/-- Settles O29. -/
theorem spawnSends : Obligations.SpawnSends := by
  intro s c n x t d a b p w key h hg hf hw ha hr hx hm hu hgd he
  have hread := spawn_reads h hg hf hw ha hr hx hm hu hgd he
  dsimp only
  intro hclean
  refine ⟨?_, ?_, ?_⟩
  · intro hown hfields hroom s1 hincr hl
    dsimp only [exec, execSpawn]
    refine runInstr_completes h.1 ((hread _).trans ?_) hl
    obtain ⟨hattr, -⟩ := hclean hown
    dsimp only
    rw [if_pos hown, attrMeets_clean hattr, if_pos hown, counterMeets_launch (hclean hown)]
    simp only [hincr]
    rw [if_pos hfields, spawnSend_home h hroom, if_pos hown]
  · intro hown hfields hroom hl
    have hown' : ¬w.own = true := ne_true_of_eq_false hown
    dsimp only [exec, execSpawn]
    refine runInstr_completes h.1 ((hread _).trans ?_) hl
    dsimp only
    rw [if_neg hown', if_neg hown', if_pos hfields, spawnSend_home h hroom, if_neg hown']
  · intro v hv hl
    dsimp only [exec, execSpawn]
    refine runInstr_completes h.1 ((hread _).trans ?_) hl
    dsimp only
    cases hown : w.own with
    | false =>
      obtain ⟨ho, -⟩ | ⟨hfields, -, rfl⟩ | ⟨ho, -⟩ := hv
      · exact absurd ho (ne_true_of_eq_false hown)
      · rw [hown] at hfields
        rw [if_neg Bool.false_ne_true, if_neg Bool.false_ne_true, if_neg (ne_true_of_eq_false hfields)]
        rfl
      · exact absurd ho (ne_true_of_eq_false hown)
    | true =>
      obtain ⟨hattr, -⟩ := hclean hown
      rw [if_pos rfl, attrMeets_clean hattr, if_pos rfl, counterMeets_launch (hclean hown)]
      obtain ⟨-, hc, rfl⟩ | ⟨hfields, hc, rfl⟩ | ⟨-, hfields, hc, rfl⟩ := hv
      · simp only [hc]
        rfl
      · rw [hown] at hfields
        cases hi : counterIncr s (partOfCore s c) (ctlCcid (pktWord (packetOf (memBytes s.mem key 64)) 0)) with
        | notOpen => exact absurd hi (hc hown)
        | limit => exact if_neg (ne_true_of_eq_false hfields)
        | done u => exact if_neg (ne_true_of_eq_false hfields)
      · rw [hown] at hfields
        simp only [hc]
        exact if_pos hfields

section
variable {s : State} {c n : Nat} {x : Slot} {t : Thread}

/-- A route that no level needs to touch the ASID table for (R350). -/
theorem route_offTable {u : AccUse} {a : Word} {size : Nat} {counted : Bool} {r : Route} (k : Route → Body)
    (hr : routeAccess s c n u a size = .ok r) (hm : OffTable s r size) :
    (Ctx.mk s c n x t).route u a size counted k = k r := by
  simp only [Ctx.route, hr]
  refine if_neg ?_
  simp only [Bool.and_eq_true, decide_eq_true_eq, Option.any_eq_true, not_and, not_exists]
  intro _ key hk
  exact ne_true_of_eq_false (hm key hk)

/-- The checks of FORK up to the words of its packet (R142, R197). -/
theorem fork_reads {a b : Fin 10} {p : Fin 16} (h : AtHome s c n x t) (hg : Guarded t p) (ha : a.val ≤ 2)
    (hf : Full t (runRegs a ++ [b.val])) (k : Body) :
    ((Ctx.mk s c n x t).atHome <| (Ctx.mk s c n x t).guarded p <| (Ctx.mk s c n x t).needRun a [b] k) = k := by
  rw [atHome_home _ h.2, guarded_holds _ hg, needRun_full _ ha hf]

/-- The checks of JOIN up to its access (R198). -/
theorem join_checks {a : Fin 10} {p : Fin 16} {r : Route} (hg : Guarded t p) (hf : Full t [a.val])
    (ha : (valOf t a).toNat % 32 = 0)
    (hreg : bits (valOf t a).toNat 63 60 = 0 ∨ bits (valOf t a).toNat 63 60 = 10 ∧ bits (valOf t a).toNat 33 32 = 2)
    (hr : routeAccess s c n .amo (valOf t a) 32 = .ok r) (hm : OffTable s r 32)
    (hc : ∀ key, routeKey r = some key → inCounterTable s key 32 = false) (he : routeEgress r = true → egressCount s c < 64)
    (k : Route → Body) :
    ((Ctx.mk s c n x t).guarded p <| (Ctx.mk s c n x t).needRegs [a] <| (Ctx.mk s c n x t).aligned (valOf t a) 32 <|
      if regionOf (valOf t a) ≠ 0 && (regionOf (valOf t a) ≠ 0xA || bits (valOf t a).toNat 33 32 ≠ 2) then
        (Ctx.mk s c n x t).trap 0x06 (valOf t a) 0#64
      else (Ctx.mk s c n x t).route .amo (valOf t a) 32 false fun r => (Ctx.mk s c n x t).notCounters r (valOf t a) 32 <|
        (Ctx.mk s c n x t).egressFor r (valOf t a) (k r)) = k r := by
  rw [guarded_needRegs hg hf, aligned_ok _ ha, if_neg, route_offTable _ hr hm, notCounters_ok _ hc, egressFor_ok _ _ he]
  obtain hreg | ⟨hreg, hsp⟩ := hreg
  · simp [regionOf, hreg]
  · simp [regionOf, hreg, hsp]

end

/-- Settles O30. -/
theorem forkJoin : Obligations.ForkJoin := by
  intro s c n x t a b p hg
  constructor
  · intro h ha hf hclean ws
    refine ⟨?_, ?_, ?_⟩
    · intro hkind hroom
      refine ⟨?_, ?_, ?_⟩
      · intro hc hl
        dsimp only [exec, execFork]
        refine runInstr_completes h.1 ((fork_reads h hg ha hf _).trans ?_) hl
        rw [if_neg (not_not.2 hkind), if_pos hroom, counterMeets_launch hclean]
        simp only [hc]
        rfl
      · intro hc
        dsimp only [exec, execFork]
        refine runInstr_traps h.1 ((fork_reads h hg ha hf _).trans ?_)
        rw [if_neg (not_not.2 hkind), if_pos hroom, counterMeets_launch hclean]
        simp only [hc]
      · intro s1 hc e s2 hl
        dsimp only [exec, execFork]
        refine runInstr_completes h.1 ((fork_reads h hg ha hf _).trans ?_) hl
        rw [if_neg (not_not.2 hkind), if_pos hroom, counterMeets_launch hclean]
        simp only [hc]
        rfl
    · intro hkind hroom
      dsimp only [exec, execFork]
      refine runInstr_waitsFor h.1 ((fork_reads h hg ha hf _).trans ?_)
      rw [if_neg (not_not.2 hkind), if_neg (ne_true_of_eq_false hroom)]
    · intro hkind
      dsimp only [exec, execFork]
      exact runInstr_traps h.1 ((fork_reads h hg ha hf _).trans (if_pos hkind))
  · intro h hf ha hreg r hr hc hm he hm' s1 hl
    dsimp only [exec, execJoin]
    exact runInstr_completes h (join_checks hg hf ha hreg hr hm (fun key hk => notCounterKey hc hk) he _) hl

end Sys2Proof.Machine
end

/-! The ring instructions (O33): the tile that an instruction names, the writes of TAIL and HEAD, and what RINGDEF leaves. -/
section

namespace Sys2Proof.Machine

open Sys2Proof.Claims

/-! ## Tiles and rings of a cluster -/

@[simp] theorem ringOf_putRing (k : Cluster) (r : Nat) (x : Ring) : ringOf (putRing k r x) r = x := mapGet_mapSet_same ..

@[simp] theorem tileOf_putRing (k : Cluster) (r : Nat) (x : Ring) (n : Nat) : tileOf (putRing k r x) n = tileOf k n := rfl

/-- A tile written to every slot of a list. -/
theorem tileOf_putTiles (v : Tile) (m : Nat) : ∀ (l : List Nat) (k : Cluster),
    tileOf (l.foldl (fun a n => putTile a n v) k) m = if m ∈ l then v else tileOf k m
  | [], k => by rw [if_neg List.not_mem_nil]; rfl
  | n :: l, k => by
    rw [List.foldl_cons, tileOf_putTiles v m l]
    unfold tileOf putTile
    rw [mapGet_mapSet]
    by_cases hl : m ∈ l
    · rw [if_pos hl, if_pos (List.mem_cons_of_mem _ hl)]
    · by_cases hn : m = n <;> simp [hl, hn]

theorem wakeRing_clusters (s : State) (cl r : Nat) : (wakeRing s cl r).clusters = s.clusters :=
  foldl_keeps (f := State.clusters) (fun u i => wakeSlots_clusters u (cl * 8 + i) _) (List.range 8) s

theorem threadOf_wakeRing (s : State) (cl r c n : Nat) : threadOf (wakeRing s cl r) c n = threadOf s c n :=
  foldl_keeps (f := fun u => threadOf u c n) (fun u i => threadOf_wakeSlots u (cl * 8 + i) c n _) (List.range 8) s

theorem threadOf_tailWrite {s s1 : State} {cl r : Nat} {i : BitVec 32} (c n : Nat) (h : tailWrite s cl r i = some s1) :
    threadOf s1 c n = threadOf s c n := by
  unfold tailWrite at h
  dsimp only at h
  obtain ⟨-, h⟩ := Option.ite_none_left_eq_some.1 h
  rw [← Option.some.inj h]
  exact threadOf_wakeRing ..

/-- A head write that R98 allows: the ring's new HEAD and POPP, and no thread is changed by it. -/
theorem headWrite_spec {s s1 : State} {cl r : Nat} {i : BitVec 32} (h : headWrite s cl r i = some s1) :
    (ringOf (clusterOf s1 cl) r).head = i ∧ (ringOf (clusterOf s1 cl) r).popp = i ∧
      ∀ c n, threadOf s1 c n = threadOf s c n := by
  unfold headWrite at h
  dsimp only at h
  obtain ⟨-, h⟩ := Option.ite_none_left_eq_some.1 h
  rw [← Option.some.inj h]
  refine ⟨?_, ?_, fun c n => threadOf_wakeRing ..⟩ <;>
    rw [clusterOf, wakeRing_clusters, ← clusterOf, clusterOf_modCluster_same, ringOf_putRing]

theorem clusterOf_completed (s : State) (c n cl : Nat) (t u : Thread) (size : Nat) :
    clusterOf (completed s c n t u size) cl = clusterOf s cl := rfl

/-! ## RINGDEF -/

/-- The configuration word of a definition: its bits 62 to 49, which the definer leaves zero, take the ASID (R93, R95). -/
theorem definedCfg {n a : Nat} (hn : n < 2 ^ 64) (ha : a < 2 ^ 14) (h0 : bits n 62 49 = 0) (hv : n / 2 ^ 63 % 2 = 1) :
    (BitVec.ofNat 64 (n + a % 2 ^ 14 * 2 ^ 49)).getLsbD 63 = true ∧
      bits (BitVec.ofNat 64 (n + a % 2 ^ 14 * 2 ^ 49)).toNat 62 49 = a := by
  simp only [bits] at h0 ⊢
  rw [BitVec.toNat_ofNat, BitVec.getLsbD_ofNat, Nat.testBit_eq_decide_div_mod_eq]
  constructor
  · simp only [Bool.and_eq_true, decide_eq_true_eq]
    omega
  · omega

/-- What RINGDEF of a ring leaves where it is allowed: empty slots of the ring, and its indices 0 (R95). -/
theorem ringDefine_done {k q : Cluster} {r : BitVec 6} {v : Word} {asid : BitVec 14}
    (h : ringDefine k r.toNat v asid.toNat = .done q) (hv : v.getLsbD 63 = true) :
    (ringOf q r.toNat).tail = 0#32 ∧ (ringOf q r.toNat).head = 0#32 ∧ (ringOf q r.toNat).popp = 0#32 ∧
      ringValid (ringOf q r.toNat) = true ∧ ringAsid (ringOf q r.toNat) = asid.toNat ∧
      ∀ m ∈ ringSlots (ringOf q r.toNat), tileOf q m = { Tile.zero with ring := r, inr := true } := by
  unfold ringDefine at h
  dsimp only at h
  split at h
  · cases h
  next hbits =>
  simp only [Bool.or_eq_true, decide_eq_true_eq, not_or, not_not] at hbits
  obtain ⟨⟨h0, -⟩, -⟩ := hbits
  split at h
  · cases h
  split at h
  · cases h
  rw [if_neg (by simp [hv])] at h
  split at h
  · cases h
  injection h with h
  have hvalid : v.toNat / 2 ^ 63 % 2 = 1 := by
    have := hv
    rw [BitVec.getLsbD, Nat.testBit_eq_decide_div_mod_eq, decide_eq_true_eq] at this
    exact this
  obtain ⟨hset, hasid⟩ := definedCfg v.isLt asid.isLt h0 hvalid
  rw [← h, ringOf_putRing]
  refine ⟨rfl, rfl, rfl, hset, hasid, fun m hm => ?_⟩
  rw [tileOf_putRing, tileOf_putTiles, if_pos hm, BitVec.ofNat_toNat, BitVec.setWidth_eq]

section
variable {s : State} {c n : Nat} {x : Slot} {t : Thread}

theorem ownsRing_ok {k : BitVec 6} (b : Body) (h : ringOwned (ringHere s c k) x.asid.toNat = true) :
    (Ctx.mk s c n x t).ownsRing k.toNat b = b := if_pos h

theorem ownsRing_foreign {k : BitVec 6} (b : Body) (h : ringOwned (ringHere s c k) x.asid.toNat = false) :
    (Ctx.mk s c n x t).ownsRing k.toNat b = (Ctx.mk s c n x t).trap 0x06 (BitVec.ofNat 64 k.toNat) 4#64 :=
  if_neg (ne_true_of_eq_false h)

/-- The tile of an index within the ring, whose entry carries no soft error. -/
theorem tile_ok {k : BitVec 6} {j : BitVec 32} {l : Tile} (b : Ctx → Tile → Body)
    (h : tileAt (clusterOf s (clusterOfCore c)) k.toNat j = some l) (hc : tileClean s c k j) :
    (Ctx.mk s c n x t).tile k.toNat j b = b (Ctx.mk s c n x t) l := by
  unfold Ctx.tile
  have he : eccRead s c (tileKey (clusterOfCore c) (slotOfIdx (ringOf (clusterOf s (clusterOfCore c)) k.toNat) j)) 8 =
      (s, false) := eccRead_clean hc
  simp only [h, he, Bool.false_eq_true, if_false]

theorem tile_none {k : BitVec 6} {j : BitVec 32} (b : Ctx → Tile → Body)
    (h : tileAt (clusterOf s (clusterOfCore c)) k.toNat j = none) :
    (Ctx.mk s c n x t).tile k.toNat j b =
      (Ctx.mk s c n x t).trap 0x10 (BitVec.setWidth 64 j) (BitVec.ofNat 64 k.toNat) := by
  unfold Ctx.tile
  simp only [h]
  rfl

/-- A ring instruction of a ring that its thread does not own (R99). -/
theorem exec_foreignRing {i : Instr} {k : BitVec 6} {rs : List Nat} (h : AtHome s c n x t) (hi : ringLine i = some (k, rs))
    (hf : Full t rs) (ho : ringOwned (ringHere s c k) x.asid.toNat = false) :
    exec i s = .next (takeTrap s c n (trapInfo 0x06 (BitVec.ofNat 64 k.toNat) 4#64) none) := by
  have hown (b : Body) := ownsRing_foreign (n := n) (t := t) b ho
  have hregs (b : Body) : ((Ctx.mk s c n x t).atHome <| (Ctx.mk s c n x t).needRegs rs <| (Ctx.mk s c n x t).ownsRing k.toNat b) =
      (Ctx.mk s c n x t).trap 0x06 (BitVec.ofNat 64 k.toNat) 4#64 := by
    rw [atHome_home _ h.2, needRegs_full _ hf, hown]
  cases i <;> cases hi
  all_goals dsimp only [exec, execWaita, execTesta, execRtail, execRhead, execRtailGet, execRheadGet]
  case rtailGet => exact runInstr_traps h.1 ((atHome_home _ h.2).trans (hown _))
  case rheadGet => exact runInstr_traps h.1 ((atHome_home _ h.2).trans (hown _))
  all_goals exact runInstr_traps h.1 (hregs _)

/-- A ring instruction of a thread that owns the ring, behind its registers. -/
theorem ownRing_ok {k : BitVec 6} {a : Fin 10} (h : AtHome s c n x t) (hf : Full t [a.val])
    (ho : ringOwned (ringHere s c k) x.asid.toNat = true) (b : Body) :
    ((Ctx.mk s c n x t).atHome <| (Ctx.mk s c n x t).needRegs [a] <| (Ctx.mk s c n x t).ownsRing k.toNat b) = b := by
  rw [atHome_home _ h.2, needRegs_full _ hf, ownsRing_ok _ ho]

end

theorem setWidth_ofNat (v : BitVec 32) : BitVec.setWidth 64 v = BitVec.ofNat 64 v.toNat := (BitVec.ofNat_toNat ..).symm

/-- The index of WAITA: the low half of the register and its signed offset (R205). -/
theorem waitIndex (v : Word) (i : BitVec 10) :
    BitVec.setWidth 32 v + BitVec.signExtend 32 i = BitVec.ofInt 32 (v.toNat + i.toInt) := by
  rw [BitVec.ofInt_add, BitVec.ofInt_natCast, BitVec.ofNat_toNat]
  rfl

theorem indexWord_eq (v : Word) : indexWord v = BitVec.ofNat 64 (v.toNat % 2 ^ 32) := by
  rw [indexWord, setWidth_ofNat, BitVec.toNat_setWidth]

/-- Settles O33. -/
theorem rings : Obligations.Rings := by
  constructor
  · intro s c n x t h
    refine ⟨fun i k rs hi hf ho => exec_foreignRing h hi hf ho, fun k ho a => ⟨?_, ?_, ?_, ?_, ?_⟩⟩
    · intro i hf
      have hown := ownRing_ok (n := n) h hf ho
      dsimp only [exec, execWaita]
      rw [← waitIndex]
      refine ⟨fun l hl hc => ⟨fun hr => ?_, fun hr hp => ?_, fun hr hp hlo => ?_⟩, fun hn => ?_⟩
      · exact runInstr_waitsFor h.1 ((hown _).trans ((tile_ok _ hl hc).trans (if_pos hr)))
      · refine runInstr_traps h.1 ((hown _).trans ((tile_ok _ hl hc).trans ?_))
        rw [if_neg (not_not.2 hr), if_pos hp, setWidth_ofNat]
        rfl
      · refine runInstr_completes h.1 ((hown _).trans ((tile_ok _ hl hc).trans ?_)) hlo
        rw [if_neg (not_not.2 hr), if_neg (ne_true_of_eq_false hp)]
        rfl
      · rw [← setWidth_ofNat]
        exact runInstr_traps h.1 ((hown _).trans (tile_none _ hn))
    · intro d hd hf l hl hc hlo
      have hown := ownRing_ok (n := n) h hf ho
      rw [BitVec.ofNat_toNat] at hl hc
      dsimp only [exec, execTesta]
      have hw : ¬StrictWrite t d true := fun hs => absurd hs.2.2.1 (by omega)
      exact runInstr_completes h.1 ((hown _).trans ((tile_ok _ hl hc).trans (writePred_ok hw))) hlo
    · intro hf hp
      have hown := ownRing_ok (n := n) h hf ho
      dsimp only [exec, execRtail, execRhead]
      rw [← indexWord_eq, BitVec.ofNat_toNat]
      refine ⟨fun s1 hs hlo => ?_, fun hs => ?_, fun s1 hs hlo => ?_, fun hs => ?_⟩
      · refine runInstr_completes h.1 ((hown _).trans ((released_free _ hp).trans ?_)) hlo
        simp only [hs]
        exact doneIn_eq ((threadOf_tailWrite c n hs).trans (threadOf_at h.1))
      · refine runInstr_traps h.1 ((hown _).trans ((released_free _ hp).trans ?_))
        simp only [hs]
        rfl
      · obtain ⟨hhead, hpopp, hthread⟩ := headWrite_spec hs
        refine ⟨runInstr_completes h.1 ((hown _).trans ((released_free _ hp).trans ?_)) hlo, ?_, ?_⟩
        · simp only [hs]
          exact doneIn_eq ((hthread c n).trans (threadOf_at h.1))
        · rw [ringHere, clusterOf_completed, hhead, BitVec.toNat_setWidth]
        · rw [ringHere, clusterOf_completed, hhead, hpopp]
      · refine runInstr_traps h.1 ((hown _).trans ((released_free _ hp).trans ?_))
        simp only [hs]
        rfl
    · intro v hlo
      dsimp only [exec, execRtailGet]
      refine runInstr_completes h.1 ((atHome_home _ h.2).trans ((ownsRing_ok _ ho).trans ?_)) hlo
      rw [setWidth_ofNat]
      rfl
    · intro v hlo
      dsimp only [exec, execRheadGet]
      refine runInstr_completes h.1 ((atHome_home _ h.2).trans ((ownsRing_ok _ ho).trans ?_)) hlo
      rw [setWidth_ofNat]
      rfl
  · intro s c n x t a k h hf cl
    have hregs (b : Body) : ((Ctx.mk s c n x t).atHome <| (Ctx.mk s c n x t).needRegs [a] b) = b :=
      (atHome_home _ h.2).trans (needRegs_full b hf)
    dsimp only [exec, execRingdef]
    refine ⟨fun q hq => ⟨fun hlo => ?_, fun hv => ringDefine_done hq hv⟩, fun hq => ?_, fun hq => ?_⟩
    · refine runInstr_completes h.1 ((hregs _).trans ?_) hlo
      simp only [show ringDefine (clusterOf s (clusterOfCore c)) _ _ _ = _ from hq]
      exact doneIn_eq ((threadOf_wakeRing ..).trans (threadOf_at h.1))
    · refine runInstr_traps h.1 ((hregs _).trans ?_)
      simp only [show ringDefine (clusterOf s (clusterOfCore c)) _ _ _ = _ from hq]
      rfl
    · refine runInstr_traps h.1 ((hregs _).trans ?_)
      simp only [show ringDefine (clusterOf s (clusterOfCore c)) _ _ _ = _ from hq]
      rw [BitVec.ofNat_toNat]

end Sys2Proof.Machine
end

/-! Messages (O34): SEND by its mode, SENDM, PUT and SUBS, each behind the checks that its thread passes. -/
section

namespace Sys2Proof.Machine

open Sys2Proof.Claims

section
variable {s : State} {c n : Nat} {x : Slot} {t : Thread}

/-- An instruction whose body hands a message to its network completes as `sent` says. -/
theorem runInstr_sends {body : Ctx → Body} {v : Word} {reg : Nat} {d : Dest} {net : Net} {queued : Bool} {m : MsgBody} {u : Thread}
    {f : State → State} (h : At s c n x t) (hb : body (Ctx.mk s c n x t) = (Ctx.mk s c n x t).launch v reg d net queued m u f)
    (hc : canSend s c n t d queued) (hl : LoopOk (f (handed s c n t d net queued m)) c n t u) :
    runInstr s body = .next (sent s (f (handed s c n t d net queued m)) c n t u) := by
  rw [runInstr_of_body h hb, launch_sent hc hl]

/-- A SEND's target core of a level that its slot may send to (R208). -/
theorem sendTo_ok {v val : Word} {a d tag : Nat} {w : Dest} (hw : destOf s c v.toNat = some w)
    (hlevel : 4 ≤ levelSlot s c n → 4 ≤ twSlot v.toNat) :
    (Ctx.mk s c n x t).sendTo v a d val tag =
      (Ctx.mk s c n x t).launch v a w (if twMode v.toNat = 1 then .reply else .request) (twMode v.toNat ≠ 1)
        (.send (twSlot v.toNat) d val tag) (if twMode v.toNat = 2 then reserveReg t (twRreg v.toNat) else t) id := by
  unfold Ctx.sendTo Ctx.dest
  simp only [hw]
  refine if_neg ?_
  rw [Bool.and_eq_true, Bool.not_eq_true', not_and, Bool.not_eq_false]
  exact fun hu => decide_eq_true (hlevel (of_decide_eq_true hu))

/-- The checks of SEND on its target word (R207). -/
theorem send_checks {a b : Fin 10} {p : Fin 16} {tag : BitVec 4} {k : Body} {e : Body} (hg : Guarded t p)
    (hf : Full t [a.val, b.val]) (hok : sendWordOk (valOf t a).toNat = true)
    (htag : twMode (valOf t a).toNat < 3 ∨ tag = 0#4) :
    ((Ctx.mk s c n x t).guarded p <| (Ctx.mk s c n x t).needRegs [a, b] <|
      if !sendWordOk (valOf t a).toNat || (3 ≤ twMode (valOf t a).toNat && tag ≠ 0#4) then e else k) = k := by
  rw [guarded_needRegs hg hf, if_neg]
  simp only [hok, Bool.not_true, Bool.false_or, Bool.and_eq_true, decide_eq_true_eq, not_and, not_not]
  exact fun h3 => htag.resolve_left (Nat.not_lt.2 h3)

theorem needRes_ok {free : Bool} {r : Res} (k : Body) (h : free = true) : (Ctx.mk s c n x t).needRes free r k = k := if_pos h

/-- The checks of PUT up to its route (R213). -/
theorem put_checks {d a b : Fin 10} {p : Fin 16} {m : Nat} (hg : Guarded t p) (hm : putWords (valOf t b).toNat = m)
    (hf : Full t ([a.val, b.val] ++ (List.range m).map (d.val + ·))) (hr : bits (valOf t b).toNat 63 20 = 0) (h0 : 0 < m)
    (h8 : m ≤ 8) (hd : d.val + m ≤ 10) (ha : (valOf t a).toNat % 8 = 0) (hreg : bits (valOf t a).toNat 63 60 = 10)
    (hsp : bits (valOf t a).toNat 33 32 < 2) (e1 e2 e3 k : Body) :
    ((Ctx.mk s c n x t).guarded p <| (Ctx.mk s c n x t).needRegs [a, b] <|
      if bits (valOf t b).toNat 63 20 ≠ 0 || putWords (valOf t b).toNat = 0 || 8 < putWords (valOf t b).toNat ||
        10 < d.val + putWords (valOf t b).toNat then e1
      else (Ctx.mk s c n x t).needRegs ((List.range (putWords (valOf t b).toNat)).map (d.val + ·)) <|
        if !aligned (valOf t a) 8 then e2
        else if regionOf (valOf t a) ≠ 0xA || 2 ≤ bits (valOf t a).toNat 33 32 then e3
        else k) = k := by
  subst hm
  have hab : Full t [a.val, b.val] := fun r hr => hf r (List.mem_append_left _ hr)
  have hrest : Full t ((List.range (putWords (valOf t b).toNat)).map (d.val + ·)) :=
    fun r hr => hf r (List.mem_append_right _ hr)
  rw [guarded_needRegs hg hab, if_neg, needRegs_full _ hrest, if_neg, if_neg]
  · simp only [regionOf, hreg, Bool.or_eq_true, decide_eq_true_eq]
    omega
  · simp only [aligned, ha]
    decide
  · simp only [Bool.or_eq_true, decide_eq_true_eq]
    omega

/-- Whether a SUBS may change its core's table (R214, R265). -/
theorem subsTable_eq_none {tag ring : Nat} {leave : Bool} :
    subsTable s c tag leave ring = none ↔ leave = false ∧
      (64 ≤ ((otherMembers s c tag).filter (· != (clusterOfCore c, ring))).length ∨
        16 ≤ ((coreOf s c).matchTab.filter fun e => e.1 != tag).length) := by
  unfold subsTable joinGroup
  cases leave with
  | true => simp
  | false =>
    simp only [Bool.false_eq_true, if_false, true_and]
    split
    next h => simp [h]
    next h =>
      rw [ite_eq_left_iff]
      simp [h]

/-- The state in which a SUBS waits for the mesh (R214). -/
def subsWaits (s : State) (c n tag : Nat) (leave : Bool) (ring : Nat) : State :=
  { modSlot (waitSlot s c n (.subs tag leave ring)) c n fun y => { y with readyAt := s.cycle + 1 + Config.latency s.uid } with
    uid := s.uid + 1 }

theorem slotOf_subsWaits (s : State) (c n tag : Nat) (leave : Bool) (ring : Nat) :
    slotOf (subsWaits s c n tag leave ring) c n =
      { slotOf s c n with st := .waiting, wait := .subs tag leave ring, age := 0,
                          readyAt := s.cycle + 1 + Config.latency s.uid } := by
  have h1 := slotOf_modSlot_same (waitSlot s c n (.subs tag leave ring)) c n fun y =>
    { y with readyAt := s.cycle + 1 + Config.latency s.uid }
  have h2 := slotOf_modSlot_same s c n fun x => { x with st := .waiting, wait := .subs tag leave ring, age := 0 }
  exact h1.trans (by rw [waitSlot, h2])

theorem matchTab_subsWaits (s : State) (c n tag : Nat) (leave : Bool) (ring : Nat) :
    (coreOf (subsWaits s c n tag leave ring) c).matchTab = (coreOf s c).matchTab := by
  have h1 := congrArg Core.matchTab (coreOf_modSlot_same (waitSlot s c n (.subs tag leave ring)) c n fun y =>
    { y with readyAt := s.cycle + 1 + Config.latency s.uid })
  have h2 := congrArg Core.matchTab (coreOf_modSlot_same s c n fun x =>
    { x with st := .waiting, wait := .subs tag leave ring, age := 0 })
  exact h1.trans h2

/-- The checks of SUBS of an owned ring (R214). -/
theorem subs_checks {a b : Fin 10} {p : Fin 16} (h : AtHome s c n x t) (hg : Guarded t p) (hf : Full t [a.val, b.val])
    (ha : bits (valOf t a).toNat 63 17 = 0) (hb : (valOf t b).toNat < 64)
    (ho : ringOwned (ringOf (clusterOf s (clusterOfCore c)) (valOf t b).toNat) x.asid.toNat = true) (e1 e2 k : Body) :
    ((Ctx.mk s c n x t).atHome <| (Ctx.mk s c n x t).guarded p <| (Ctx.mk s c n x t).needRegs [a, b] <|
      if bits (valOf t a).toNat 63 17 ≠ 0 then e1
      else if 64 ≤ (valOf t b).toNat then e2
      else (Ctx.mk s c n x t).ownsRing (valOf t b).toNat k) = k := by
  rw [atHome_home _ h.2, guarded_needRegs hg hf, if_neg (not_not.2 ha), if_neg (Nat.not_le.2 hb)]
  exact if_pos ho

end

/-- Settles O34. -/
theorem messages : Obligations.Messages := by
  intro s c n x t d a b p hg
  refine ⟨?_, ?_, ?_, ?_⟩
  · intro tag hf hok
    dsimp only [exec, execSend]
    refine ⟨?_, ?_, ?_⟩
    · intro hmode hvisit h w hw hlevel hc hl
      refine runInstr_sends (f := id) (v := valOf t a) (reg := a) h ((send_checks hg hf hok (.inl (by omega))).trans ?_) hc hl
      have h3 : ¬twMode (valOf t a).toNat = 3 := by omega
      have h4 : ¬twMode (valOf t a).toNat = 4 := by omega
      rw [if_neg h3, if_neg h4]
      by_cases h2 : twMode (valOf t a).toNat = 2
      · exact (if_pos h2).trans ((atHome_home _ (hvisit h2)).trans (sendTo_ok hw hlevel))
      · exact (if_neg h2).trans (sendTo_ok hw hlevel)
    · intro hmode htag h hl
      refine runInstr_completes h.1 ((send_checks hg hf hok (.inr htag)).trans ?_) hl
      rw [if_pos hmode]
      exact atHome_home _ h.2
    · intro hmode htag h hl
      refine runInstr_completes h.1 ((send_checks hg hf hok (.inr htag)).trans ?_) hl
      have h3 : ¬twMode (valOf t a).toNat = 3 := by omega
      rw [if_neg h3, if_pos hmode]
      exact atHome_home _ h.2
  · dsimp only
    intro ha hf hkind h w hw hc hchan hl
    dsimp only [exec, execSendm]
    refine runInstr_sends (v := valOf t b) (reg := b)
      (f := fun u => if ctlChan (pktWord (runWords t a) 0) then takeCredit u c else u) h ?_ hc hl
    rw [guarded_holds _ hg, needRun_full _ ha hf, if_neg (not_not.2 hkind), coreTarget_ok _ hw, if_neg, needRes_ok]
    · cases hch : ctlChan (pktWord (runWords t a) 0) with
      | false => rfl
      | true =>
        simp only [Bool.not_true, Bool.false_or, decide_eq_true_eq]
        exact (hchan hch).2
    · cases hch : ctlChan (pktWord (runWords t a) 0) with
      | false => exact Bool.false_ne_true
      | true =>
        rw [(hchan hch).1]
        decide
  · dsimp only
    intro hf hr h0 h8 hd ha hreg hsp h r y z hroute hoff hdest hc hl
    dsimp only [exec, execPut]
    refine runInstr_sends (v := valOf t a) (reg := a) (f := fun u => if y.own then u else askRemote u c n s.uid false) h
      ((put_checks hg rfl hf hr h0 h8 hd ha hreg hsp _ _ _ _).trans ((route_offTable _ hroute hoff).trans ?_)) hc hl
    simp only [hdest, putSemNo, bits_low]
    rfl
  · intro h hf ha hb ho
    dsimp only [exec, execSubs]
    refine ⟨fun hroom => ?_, fun hbit hfull => ?_⟩
    · obtain ⟨m, hm⟩ := Option.ne_none_iff_exists'.1 (mt (subsTable_eq_none (s := s) (c := c)
        (tag := bits (valOf t a).toNat 15 0) (leave := (valOf t a).toNat.testBit 16) (ring := (valOf t b).toNat)).1 (by
          rintro ⟨hbit, hfull⟩
          obtain hroom | ⟨h1, h2⟩ := hroom
          · exact absurd hroom (ne_true_of_eq_false hbit)
          · omega))
      refine ⟨_, runInstr_of_body h.1 (b := .error (.gone (subsWaits s c n _ _ _)))
        ((subs_checks h hg hf ha hb ho _ _ _).trans (by simp only [hm]; rfl)), ?_⟩
      obtain ⟨-, hx, ht, -⟩ := h.1
      rw [settleBody, threadOf, slotOf_subsWaits, matchTab_subsWaits]
      exact ⟨rfl, rfl, by dsimp only; omega, by rw [hx]; exact ht, rfl, rfl⟩
    · refine runInstr_traps h.1 ((subs_checks h hg hf ha hb ho _ _ _).trans ?_)
      have hnone : subsTable s c (bits (valOf t a).toNat 15 0) ((valOf t a).toNat.testBit 16) (valOf t b).toNat = none :=
        subsTable_eq_none.2 ⟨hbit, hfull.symm⟩
      simp only [hnone]

end Sys2Proof.Machine
end

/-! O37 is refuted. Soft errors are a list of marks in the model, and nothing keeps a codeword from having two: a correctable mark
behind an uncorrectable one. The read of such a record's first word takes the uncorrectable mark away, so the trap that follows
no longer meets it and goes to the vector. -/
section

namespace Sys2Proof.Machine

open Sys2Proof.Claims

namespace TwiceMarked

/-- A thread of launch 1. -/
def thread : Thread := { freshThread 0 with ccid := 1 }

def slot : Slot := { Slot.fresh with st := .ready, thread := some thread }

/-- Slot 4 of core 0 with user trap records on. The LATTR record of launch 1 is valid and its vector is offset 0x200 of the
own TCM; the record of slot 4, at the start of that TCM plus 128, is empty and its first codeword has two marks. -/
def state : State :=
  { State.reset with
    cores := [(0, { Core.fresh with mode := .running, slots := [(4, slot)], utrec := 1, lattr := 0xA000000204000000 })],
    mem := [(sramKey 0 0x4000042, 1#8), (sramKey 0 0x4000049, 2#8), (sramKey 0 0x400004D, 0xFF#8)],
    ecc := [(tcmKey 0 128, true), (tcmKey 0 128, false)] }

/-- The illegal-operand trap that the thread takes. -/
def info : TrapInfo := trapInfo 0x04 0 0

theorem attr_valid : (attrOf state 0 thread.ccid.toNat).isSome = true := by decide

theorem record_bad : eccBad state.ecc (recKey (coreOf state 0) 0 4) 8 = true := by decide

theorem takes_vector : (slotOf (takeTrap state 0 4 info none) 0 4).st = .ready := by decide

end TwiceMarked

open TwiceMarked in
/-- Refutes O37: a thread whose record's first codeword carries an uncorrectable mark and a correctable one is not aborted; reading
the record removes the first mark of that codeword, and the thread goes to its vector. -/
theorem not_trapEntry : ¬ Obligations.TrapEntry := by
  intro h
  obtain ⟨a, ha⟩ := Option.isSome_iff_exists.1 attr_valid
  obtain ⟨-, -, -, huser⟩ := h state 0 4 slot thread info none rfl rfl rfl
  obtain ⟨-, habort⟩ := huser (by decide) a ha
  obtain ⟨hwaits, -⟩ := habort (.inr (.inr (.inr (.inr record_bad))))
  rw [takes_vector] at hwaits
  cases hwaits

end Sys2Proof.Machine
end

/-! The supervisor and platform instructions (O38): TLBI, ASIDSET and KILL behind the check of a live ASID, the control messages to
another core, and ERRINJ by its site. -/
section

namespace Sys2Proof.Machine

open Sys2Proof.Claims

section
variable {s : State} {c n : Nat} {x : Slot} {t : Thread}

/-- An ASID that is live in the core's partition, whose entry carries no soft error. -/
theorem liveAsid_ok {asid : Nat} {v : Word} (k : Ctx → Body) (hl : asidLive s (partOfCore s c) asid = true)
    (he : NoErrors s (asidKey s asid) 8) : (Ctx.mk s c n x t).liveAsid asid v k = k (Ctx.mk s c n x t) := by
  unfold Ctx.liveAsid
  simp only [eccRead_clean he]
  exact if_pos hl

/-- The level, the guard and the registers of a supervisor instruction at home. -/
theorem super_checks {p : Fin 16} {rs : List Nat} (h : AtHome s c n x t) (hn : n < 4) (hg : Guarded t p) (hf : Full t rs)
    (k : Body) : ((Ctx.mk s c n x t).needS <| (Ctx.mk s c n x t).guarded p <| (Ctx.mk s c n x t).needRegs rs k) = k := by
  rw [needS_super _ (visitFrom_atHome h) hn, guarded_needRegs hg hf]

/-- So of one that names core-local state. -/
theorem super_home_checks {p : Fin 16} {rs : List Nat} (h : AtHome s c n x t) (hn : n < 4) (hg : Guarded t p) (hf : Full t rs)
    (k : Body) : ((Ctx.mk s c n x t).atHome <| (Ctx.mk s c n x t).needS <| (Ctx.mk s c n x t).guarded p <|
      (Ctx.mk s c n x t).needRegs rs k) = k := (atHome_home _ h.2).trans (super_checks h hn hg hf k)

/-- A target word that names another core of the own device. -/
theorem otherCore_ok {v : Word} {reg : Nat} {w : Dest} (k : Dest → Body) (hw : coreWord s c v w) (hc : w.core ≠ c) :
    (Ctx.mk s c n x t).otherCore v reg k = k w := by
  refine (coreTarget_ok _ hw).trans (if_neg ?_)
  simp [Dest.isCore, hc]

/-- A control message to a core of the own device leaves as it is. -/
theorem control_own {w : Dest} {v : Word} {d : Nat} {body : MsgBody} (ho : w.own = true) :
    (Ctx.mk s c n x t).control w v d body =
      (Ctx.mk s c n x t).finish (post s c n w.dev w.core .control false body) (reserveReg t d) 4 := by
  unfold Ctx.control
  simp only [ho, Bool.true_or, if_true]
  rfl

/-- A save descriptor's address that is aligned and in region 0x0 (R343). -/
theorem descriptor_ok {v : Word} (k : Body) (ha : v.toNat % 64 = 0) (hr : bits v.toNat 63 60 = 0) :
    (Ctx.mk s c n x t).descriptor v k = k :=
  (aligned_ok _ ha).trans (if_neg (not_not.2 hr))

theorem threadOf_flipGranule (k mask d m : Nat) : threadOf (flipGranule s k mask) d m = threadOf s d m := by
  unfold flipGranule
  dsimp only
  split <;> rfl

theorem threadOf_inject (v : Option Word) : threadOf (modCore s c fun k => { k with inject := v }) c n = threadOf s c n :=
  threadOf_modCore _ _ _ _ _ fun _ => rfl

/-- The checks of ERRINJ up to its word: the level is asked where error injection is not open to users (R339). -/
theorem errinj_checks {a : Fin 10} {p : Fin 16} (h : AtHome s c n x t) (hn : n < 4) (hg : Guarded t p) (hf : Full t [a.val])
    (k : Body) :
    ((fun b => if eieOf s c then b else (Ctx.mk s c n x t).needS b) <| (Ctx.mk s c n x t).guarded p <|
      (Ctx.mk s c n x t).needRegs [a] k) = k := by
  dsimp only
  rw [needS_super _ (visitFrom_atHome h) hn, ite_self, guarded_needRegs hg hf]

end

/-- Settles O38. -/
theorem supervisorInstructions : Obligations.SupervisorInstructions := by
  intro s c n x t p d a b h hg hn hab
  have hf : Full t [a.val] := fun r hr => hab r (List.mem_cons.2 (.inl (List.mem_singleton.1 hr)))
  dsimp only
  refine ⟨?_, ?_, ?_, ?_, ?_, ?_⟩
  · intro h0 hk hzero hlive hp
    dsimp only [exec, execTlbi]
    refine runInstr_waitsFor h.1 ((super_checks h hn hg hab _).trans ?_)
    rw [if_neg]
    · by_cases h2 : bits (valOf t a).toNat 63 62 = 2
      · exact (if_pos h2).trans (released_free _ hp)
      · obtain ⟨hl, he⟩ := hlive h2
        exact (if_neg h2).trans ((liveAsid_ok _ hl he).trans (released_free _ hp))
    · simp only [Bool.or_eq_true, Bool.and_eq_true, decide_eq_true_eq, beq_iff_eq, bne_iff_ne]
      omega
  · intro hv hl he hlo
    dsimp only [exec, execAsidset]
    refine runInstr_completes h.1 ((super_checks h hn hg hf _).trans ?_) hlo
    rw [if_neg (Nat.not_le.2 hv), liveAsid_ok _ hl he, BitVec.ofNat_toNat]
  · intro hv hne hl he hlo
    dsimp only [exec, execKill]
    refine runInstr_completes h.1 ((super_home_checks h hn hg hf _).trans ?_) hlo
    rw [if_neg, liveAsid_ok _ hl he]
    simp only [Bool.or_eq_true, decide_eq_true_eq]
    omega
  · intro w hw ho hc
    dsimp only [exec, execDbghalt, execPreempt, execResume]
    refine ⟨fun h0 hlo => ?_, fun ha hr => ⟨fun hlo => ?_, fun hlo => ?_⟩⟩
    · refine runInstr_completes h.1 ?_ hlo
      rw [atHome_home _ h.2, needP_platform _ (visitFrom_atHome h) h0, guarded_needRegs hg hf, otherCore_ok _ hw hc, control_own ho]
    · refine runInstr_completes h.1 ((super_home_checks h hn hg hab _).trans ?_) hlo
      rw [otherCore_ok _ hw hc, descriptor_ok _ ha hr, control_own ho]
    · refine runInstr_completes h.1 ((super_home_checks h hn hg hab _).trans ?_) hlo
      rw [otherCore_ok _ hw hc]
      dsimp only
      rw [descriptor_ok _ ha hr, ite_self, control_own ho]
  · intro hok
    have hok' : ¬(!injOk (valOf t a).toNat) = true := by simp [hok]
    have ht := threadOf_at h.1
    refine ⟨fun hsite hlo => ?_, fun hsite hlo => ?_, fun hsite hlo => ?_⟩
    · dsimp only [exec, execErrinj]
      refine runInstr_completes h.1 ((errinj_checks h hn hg hf _).trans ?_) hlo
      rw [if_neg hok']
      obtain h1 | h2 : injSite (valOf t a).toNat = 1 ∨ injSite (valOf t a).toNat = 2 := by simpa using hsite
      · simp only [h1]
        exact doneIn_eq ((threadOf_inject _).trans ht)
      · simp only [h2]
        exact doneIn_eq ((threadOf_inject _).trans ht)
    · dsimp only [exec, execErrinj]
      refine runInstr_completes h.1 ((errinj_checks h hn hg hf _).trans ?_) hlo
      rw [if_neg hok']
      simp only [hsite]
      exact doneIn_eq ((threadOf_inject _).trans ht)
    · dsimp only [exec, execErrinj]
      refine runInstr_completes h.1 ((errinj_checks h hn hg hf _).trans ?_) hlo
      rw [if_neg hok']
      obtain h3 | h4 : injSite (valOf t a).toNat = 3 ∨ injSite (valOf t a).toNat = 4 := by simpa using hsite
      · simp only [h3]
        exact doneIn_eq ((threadOf_flipGranule ..).trans ht)
      · simp only [h4]
        exact doneIn_eq ((threadOf_flipGranule ..).trans ht)
  · intro hok
    dsimp only [exec, execErrinj]
    refine runInstr_traps h.1 ((errinj_checks h hn hg hf _).trans (if_pos ?_))
    rw [hok]
    rfl

end Sys2Proof.Machine
end

/-! What waking, the release of references and the writes of engine commands leave of a core and of a cluster: facts that the
starts and ends of engine commands (O50) and of hod programs (O51) rest on. -/
section

namespace Sys2Proof.Machine

open Sys2Proof.Claims

/-! ## Parts of a core that waking leaves -/

theorem coreOf_modCluster (s : State) (i d : Nat) (g : Cluster → Cluster) : coreOf (modCluster s i g) d = coreOf s d := rfl

/-- A part of a core that neither its slots nor its stopped clock bear on. -/
def WakeBlind {β : Type} (π : Core → β) : Prop :=
  ∀ k slots stop, π { k with slots := slots, clockStopped := stop } = π k

namespace WakeBlind
variable {β : Type} {π : Core → β} (h : WakeBlind π)
include h

theorem wakeSlots (s : State) (c d : Nat) (f : Nat → Slot → Bool) : π (coreOf (wakeSlots s c f) d) = π (coreOf s d) := by
  by_cases hd : d = c
  · subst hd
    obtain ⟨slots, stop, e⟩ := coreOf_wakeSlots_rest s d f
    rw [e, h]
  · rw [coreOf_wakeSlots_other _ _ _ _ hd]

theorem wakeRing (s : State) (cl r d : Nat) : π (coreOf (wakeRing s cl r) d) = π (coreOf s d) :=
  foldl_keeps (f := fun u => π (coreOf u d)) (fun u i => h.wakeSlots u (cl * 8 + i) d _) (List.range 8) s

theorem wakeRes (s : State) (c : Nat) (r : Res) (d : Nat) : π (coreOf (wakeRes s c r) d) = π (coreOf s d) :=
  h.wakeSlots s c d _

theorem wakeReaders (s : State) (cl d : Nat) : π (coreOf (wakeReaders s cl) d) = π (coreOf s d) :=
  foldl_keeps (f := fun u => π (coreOf u d)) (fun u i => h.wakeRes u (cl * 8 + i) .readers d) (List.range 8) s

theorem wakeQueue (s : State) (x : Cmd) (d : Nat) : π (coreOf (wakeQueue s x) d) = π (coreOf s d) := by
  unfold Machine.wakeQueue
  dsimp only
  split
  · exact foldl_keeps (f := fun u => π (coreOf u d)) (fun u i => h.wakeRes u (clusterOfCore x.core * 8 + i) .gceq d)
      (List.range 8) s
  · exact h.wakeRes ..

theorem dropRefs (s : State) (cl : Nat) (l : List TileRef) (d : Nat) : π (coreOf (dropRefs s cl l) d) = π (coreOf s d) := by
  unfold Machine.dropRefs
  split
  · rfl
  · have hrings (u : State) : π (coreOf (l.foldl (fun a t => Machine.wakeRing a cl t.ring) u) d) = π (coreOf u d) :=
      foldl_keeps (f := fun u => π (coreOf u d))
        (fun u (t : TileRef) => h.wakeRing u cl t.ring d) l u
    dsimp only
    rw [h.wakeReaders, hrings, coreOf_modCluster]

theorem retireEarly (s : State) (x : Cmd) (d : Nat) : π (coreOf (retireEarly s x) d) = π (coreOf s d) := by
  unfold Machine.retireEarly
  split
  · exact h.dropRefs s _ _ d
  · rfl

end WakeBlind

/-! ## Parts of a cluster that the release of references leaves -/

/-- A part of a cluster that neither its tiles nor its rings bear on. -/
def TileBlind {β : Type} (π : Cluster → β) : Prop := ∀ k tiles rings, π { k with tiles := tiles, rings := rings } = π k

theorem clusterOf_modCluster_keeps {β : Type} {π : Cluster → β} {g : Cluster → Cluster} (hg : ∀ k, π (g k) = π k) (s : State)
    (i j : Nat) : π (clusterOf (modCluster s i g) j) = π (clusterOf s j) := by
  by_cases h : j = i
  · subst h
    rw [clusterOf_modCluster_same, hg]
  · unfold clusterOf modCluster
    rw [mapGet_mapSet_other _ _ _ _ _ h]

theorem wakeSlots_clusterOf (s : State) (c cl : Nat) (f : Nat → Slot → Bool) :
    clusterOf (wakeSlots s c f) cl = clusterOf s cl := by rw [clusterOf, wakeSlots_clusters, clusterOf]

theorem wakeRes_clusterOf (s : State) (c cl : Nat) (r : Res) : clusterOf (wakeRes s c r) cl = clusterOf s cl :=
  wakeSlots_clusterOf s c cl _

theorem clusterOf_wakeQueue (s : State) (x : Cmd) (cl : Nat) : clusterOf (wakeQueue s x) cl = clusterOf s cl := by
  unfold wakeQueue
  dsimp only
  split
  · exact foldl_keeps (f := fun u => clusterOf u cl)
      (fun u i => wakeRes_clusterOf u (clusterOfCore x.core * 8 + i) cl .gceq) (List.range 8) s
  · exact wakeRes_clusterOf ..

namespace TileBlind
variable {β : Type} {π : Cluster → β} (h : TileBlind π)
include h

theorem drainN (r n : Nat) (k : Cluster) : π (drainN n k r) = π k := by
  induction n generalizing k with
  | zero => rfl
  | succ n ih =>
    rw [Machine.drainN]
    split
    · exact (ih _).trans (h k _ _)
    · rfl

theorem dropRef (k : Cluster) (t : TileRef) : π (dropRef k t) = π k := (h.drainN _ _ _).trans (h k _ _)

theorem dropRefs (s : State) (c : Nat) (l : List TileRef) (cl : Nat) :
    π (clusterOf (dropRefs s c l) cl) = π (clusterOf s cl) := by
  have hring (u : State) (t : TileRef) : clusterOf (wakeRing u c t.ring) cl = clusterOf u cl := by
    rw [clusterOf, wakeRing_clusters, clusterOf]
  have hreaders (u : State) : clusterOf (wakeReaders u c) cl = clusterOf u cl :=
    foldl_keeps (f := fun v => clusterOf v cl) (fun v i => wakeRes_clusterOf v (c * 8 + i) cl .readers) (List.range 8) u
  unfold Machine.dropRefs
  split
  · rfl
  · refine (congrArg π ((hreaders _).trans (foldl_keeps (f := fun v => clusterOf v cl) hring l _))).trans ?_
    exact clusterOf_modCluster_keeps
      (fun k => List.foldlRecOn (motive := fun u => π u = π k) l _ rfl fun u hu a _ => (h.dropRef u a).trans hu) s c cl

end TileBlind

/-! ## Whether a core holds a saved context -/

/-- The mode of a core and the ASID of its guest: what says whether a signal is diverted (R302). -/
def guestOf (k : Core) : CoreMode × Option Nat := (k.mode, k.guestAsid)

theorem coreOf_modCore_keeps {β : Type} {π : Core → β} {g : Core → Core} (hg : ∀ k, π (g k) = π k) (s : State) (c d : Nat) :
    π (coreOf (modCore s c g) d) = π (coreOf s d) := by
  by_cases h : d = c
  · subst h
    rw [coreOf_modCore_same, hg]
  · rw [coreOf_modCore_other _ _ _ _ h]

theorem errorBlind_guest (d : Nat) : ErrorBlind (fun s => guestOf (coreOf s d)) where
  counts s c num := by
    unfold countSoft
    split
    · rfl
    · exact coreOf_modCore_keeps (π := guestOf) (by intro; rfl) s c d
  marks _ _ := rfl
  injects _ _ := rfl
  logs _ _ := rfl

theorem guest_storeBy (s : State) (b : Option (Nat × Nat)) (w : Nat × Nat) (k : Nat) (bs : List Byte) (d : Nat) :
    guestOf (coreOf (storeBy b w s k bs) d) = guestOf (coreOf s d) := by
  rw [coreOf_storeBy]
  rfl

theorem guest_linkSend {s u : State} {m : Msg} {cyc : Nat} (h : linkSend s m cyc = some u) (d : Nat) :
    coreOf u d = coreOf s d := by
  obtain ⟨g, rfl⟩ := linkSend_onlyPkg h
  rfl

theorem guest_putMsg (s : State) (m : Msg) (d : Nat) : guestOf (coreOf (putMsg s m) d) = guestOf (coreOf s d) := by
  unfold putMsg
  split
  · rfl
  · cases hl : linkSend s m 0 with
    | none => rfl
    | some u => exact congrArg guestOf (guest_linkSend hl d)

theorem guest_failNamed (s : State) (tid d : Nat) : guestOf (coreOf (failNamed s tid) d) = guestOf (coreOf s d) :=
  mapGet_map_keeps _ _ _ (fun _ => rfl) fun _ => rfl

theorem guest_remoteWrite (s : State) (c asid tid k : Nat) (bs : List Byte) (d : Nat) :
    guestOf (coreOf (remoteWrite s c asid tid k bs) d) = guestOf (coreOf s d) := by
  refine foldl_keeps (f := fun u => guestOf (coreOf u d)) (fun u i => ?_) _ s
  dsimp only
  split
  next v hv => exact congrArg guestOf (guest_linkSend hv d)
  next => exact guest_failNamed u tid d

theorem guest_spadWrite (s : State) (k : Nat) (bs : List Byte) (d : Nat) :
    guestOf (coreOf (spadWrite s k bs) d) = guestOf (coreOf s d) := by
  unfold spadWrite
  dsimp only
  split
  · exact guest_storeBy ..
  · refine foldl_keeps (f := fun u => guestOf (coreOf u d)) (fun u i => ?_) _ s
    split
    · rfl
    · exact guest_storeBy ..

theorem guest_rangeWrite (s : State) (c asid tid k : Nat) (bs : List Byte) (d : Nat) :
    guestOf (coreOf (rangeWrite s c asid tid k bs) d) = guestOf (coreOf s d) := by
  unfold rangeWrite
  split
  · exact guest_spadWrite ..
  split
  · exact guest_remoteWrite ..
  split
  · exact foldl_keeps (f := fun u => guestOf (coreOf u d)) (fun u i => guest_putMsg ..) _ s
  · exact guest_storeBy ..

theorem guest_segWrite (c asid tid d : Nat) : ∀ (l : List (Nat × Nat)) (s : State) (bs : List Byte),
    guestOf (coreOf (segWrite s c asid tid l bs) d) = guestOf (coreOf s d)
  | [], _, _ => rfl
  | (k, n) :: r, s, bs => (guest_segWrite c asid tid d r _ _).trans (guest_rangeWrite ..)

/-- What a command writes leaves the mode and the guest of every core. -/
theorem guest_writeRanges (s : State) (x : Cmd) (gs : List (List (Nat × Nat))) (bs : List (List Byte)) (d : Nat) :
    guestOf (coreOf (writeRanges s x gs bs).1 d) = guestOf (coreOf s d) := by
  have hmeets : guestOf (coreOf (writeMeets s x gs.flatten).1 d) = guestOf (coreOf s d) :=
    List.foldlRecOn (motive := fun a : State × Option DefErr => guestOf (coreOf a.1 d) = guestOf (coreOf s d)) gs.flatten _ rfl
      fun a ha g _ => ((errorBlind_guest d).eccPart ..).trans ha
  exact (foldl_keeps (f := fun u => guestOf (coreOf u d)) (fun u p => guest_segWrite ..) _ _).trans hmeets

end Sys2Proof.Machine
end

/-! Engine commands (O50): a command as it stands after its start, the MXE's steps in rotation mode, a GCE's turn by its branches,
and the signal at a command's end. -/
section

namespace Sys2Proof.Machine

open Sys2Proof.Claims

/-! ## A command that has started -/

/-- `y` is `x` after its start: the same command, started; one that failed a check before its reads is due 8 cycles after. -/
def StartOf (cycle : Nat) (x y : Cmd) : Prop :=
  (y.uid = x.uid ∧ y.op = x.op ∧ y.started = true) ∧ (y.retired = true → y.err ≠ none → y.due = cycle + 8)

theorem startOf_startedCmd (s : State) (x : Cmd) (e : CmdEnd) (occ : Nat) : StartOf s.cycle x (startedCmd s x e occ) :=
  ⟨⟨rfl, rfl, rfl⟩, fun hr _ => if_pos hr⟩

theorem startOf_startedMxe (s : State) (x : Cmd) (e : CmdEnd) (occ : Nat) : StartOf s.cycle x (startedMxe s x e occ) := by
  have h := startOf_startedCmd s x e occ
  unfold startedMxe
  dsimp only
  split
  · split
    · exact h
    next he =>
      split
      · exact ⟨⟨rfl, rfl, rfl⟩, fun hr _ => absurd hr he⟩
      · exact ⟨⟨rfl, rfl, rfl⟩, fun hr _ => absurd hr he⟩
  · split
    · exact h
    next he => exact ⟨⟨rfl, rfl, rfl⟩, fun hr _ => absurd hr he⟩
  · exact h

theorem stepCmd_runs (cycle : Nat) (y : Cmd) :
    (stepCmd cycle y).uid = y.uid ∧ (stepCmd cycle y).op = y.op ∧ (stepCmd cycle y).started = y.started := by
  unfold stepCmd
  dsimp only
  split <;> exact ⟨rfl, rfl, rfl⟩

theorem startGrid_runs (s : State) (x : Cmd) :
    (startGrid s x).1.uid = x.uid ∧ (startGrid s x).1.op = x.op ∧ (startGrid s x).1.started = true := by
  unfold startGrid
  generalize (if isMcast x.op then mcastMembers s x
    else if x.x.flag 1 then [(clusterOfCore x.core, fld x.x.w7 25 20)] else []) = ms
  dsimp only
  split
  · dsimp only
    split <;> exact ⟨rfl, rfl, rfl⟩
  · split <;> exact ⟨rfl, rfl, rfl⟩

/-- A queue and the active list of a core after a start that ends with the release of early references and a wake. -/
theorem started_core {β : Type} {π : Core → β} (h : WakeBlind π) (u : State) (x y : Cmd) (c : Nat) (g : Core → Core) :
    π (coreOf (wakeQueue (retireEarly (modCore u c g) y) x) c) = π (g (coreOf u c)) := by
  rw [h.wakeQueue, h.retireEarly, coreOf_modCore_same]

theorem wakeBlind_mxeq : WakeBlind Core.mxeq := fun _ _ _ => rfl
theorem wakeBlind_vxeq : WakeBlind Core.vxeq := fun _ _ _ => rfl
theorem wakeBlind_hodq : WakeBlind Core.hodq := fun _ _ _ => rfl
theorem wakeBlind_active : WakeBlind Core.active := fun _ _ _ => rfl
theorem tileBlind_gceq : TileBlind Cluster.gceq := fun _ _ _ => rfl
theorem tileBlind_active : TileBlind Cluster.active := fun _ _ _ => rfl

/-! ## The starts -/

theorem mxe_starts {s : State} {c : Nat} {x : Cmd} {rest : List Cmd} (hrot : (coreOf s c).rot = false)
    (hrows : rowsStopped (coreOf s c) = false) (hq : (coreOf s c).mxeq = x :: rest) (hm : mayStart s x = true)
    (hf : (coreOf s c).mxeFree ≤ s.cycle) :
    ∃ u, exec (.mxeCommandStart c) s = .next u ∧ (coreOf u c).mxeq = rest ∧ ∃ y ∈ (coreOf u c).active, StartOf s.cycle x y := by
  dsimp only [exec, execMxeCommandStart, event]
  simp only [hq, hrot, hrows, hm, Nat.not_lt.2 hf, decide_false, Bool.not_true, Bool.or_false, Bool.false_eq_true, if_false,
    Option.getD_some]
  refine ⟨_, rfl, started_core wakeBlind_mxeq .., startedMxe s x (mxeEffect s x) (mxeOccupancy x.op x.x), ?_,
    startOf_startedMxe ..⟩
  rw [started_core wakeBlind_active]
  exact List.mem_append_right _ (List.mem_singleton.2 rfl)

theorem vxe_starts {s : State} {c : Nat} {x : Cmd} {rest : List Cmd} (hq : (coreOf s c).vxeq = x :: rest)
    (hm : mayStart s x = true) (hf : (coreOf s c).vxeFree ≤ s.cycle) :
    ∃ u, exec (.vxeCommandStart c) s = .next u ∧ (coreOf u c).vxeq = rest ∧ ∃ y ∈ (coreOf u c).active, StartOf s.cycle x y := by
  dsimp only [exec, execVxeCommandStart, event]
  simp only [hq, hm, Nat.not_lt.2 hf, decide_false, Bool.not_true, Bool.or_false, Bool.false_eq_true, if_false,
    Option.getD_some]
  refine ⟨_, rfl, started_core wakeBlind_vxeq .., startedCmd s x (vxeEffect s x) (vOccupancy x.op x.x), ?_,
    startOf_startedCmd ..⟩
  rw [started_core wakeBlind_active]
  exact List.mem_append_right _ (List.mem_singleton.2 rfl)

/-- What a GCE's start leaves of its cluster: the command out of the queue and among the active ones. -/
theorem gce_starts {s : State} {c : Nat} {x : Cmd} (hn : nextGce s c = some x) (hst : x.started = false)
    (hm : mayStart s x = true) (hf : (clusterOf s c).gceFree ≤ s.cycle)
    (hstep : ∀ y ∈ (clusterOf s c).active, gceStepping y = false) :
    ∃ u, exec (.gceCommandStart c) s = .next u ∧ (∀ y ∈ (clusterOf u c).gceq, y.uid ≠ x.uid) ∧
      ∃ y ∈ (clusterOf u c).active, y.uid = x.uid ∧ y.op = x.op ∧ y.started = true := by
  have hany : (clusterOf s c).active.any gceStepping = false := by
    rw [List.any_eq_false]
    exact fun y hy => ne_true_of_eq_false (hstep y hy)
  have hkeep {β : Type} {π : Cluster → β} (h : TileBlind π) (u : State) (y : Cmd) (b : Bool) :
      π (clusterOf (wakeQueue (if b then releaseRefs u y else u) y) c) = π (clusterOf u c) := by
    rw [clusterOf_wakeQueue]
    split
    · exact h.dropRefs ..
    · rfl
  dsimp only [exec, execGceCommandStart, event]
  simp only [hn, hany, Nat.not_lt.2 hf, hm, hst, decide_false, Bool.not_true, Bool.and_false, Bool.or_false,
    Bool.false_eq_true, if_false, Option.getD_some]
  refine ⟨_, rfl, fun y hy => ?_, (startGrid s x).1, ?_, startGrid_runs s x⟩
  · rw [hkeep tileBlind_gceq, clusterOf_modCluster_same, List.mem_filter, bne_iff_ne] at hy
    exact hy.2
  · rw [hkeep tileBlind_active, clusterOf_modCluster_same]
    exact List.mem_append_right _ (List.mem_singleton.2 rfl)

/-- The first step of a lane's next command in rotation mode (R221). -/
theorem lane_starts (s : State) (c : Nat) (x : Cmd) :
    (∀ y ∈ (coreOf (laneStart s c x) c).mxeq, y.uid ≠ x.uid) ∧
      ∃ y ∈ (coreOf (laneStart s c x) c).active, y.uid = x.uid ∧ y.op = x.op ∧ y.started = true := by
  obtain ⟨hruns, -⟩ := startOf_startedMxe s x (mxeEffect s x) 0
  unfold laneStart
  dsimp only
  constructor
  · intro y hy
    rw [started_core wakeBlind_mxeq, List.mem_filter, bne_iff_ne] at hy
    exact hy.2
  · rw [started_core wakeBlind_active]
    refine ⟨_, List.mem_append_right _ (List.mem_singleton.2 rfl), ?_⟩
    split
    · exact hruns
    · obtain ⟨h1, h2, h3⟩ := stepCmd_runs s.cycle { startedMxe s x (mxeEffect s x) 0 with retireAt := never, due := never }
      exact ⟨h1.trans hruns.1, h2.trans hruns.2.1, h3.trans hruns.2.2⟩

/-! ## The steps -/

/-- A step of a started command in rotation mode, with its stored rows that wait for it (R221). -/
def stepOf (s : State) (c : Nat) (y : Cmd) : State :=
  let later (d : Send) : Send := if d.direct then d else { d with next := max d.next (s.cycle + 1) }
  putActive (modCore s c fun z =>
    { z with mxeFree := s.cycle + 1, sends := z.sends.map fun d => if d.1 = y.uid then (d.1, later d.2) else d })
    (stepCmd s.cycle y)

section
variable {s : State} {c : Nat}

/-- MXE_STEP where no row command stops or goes on and the MXE of a rotation core is free. -/
theorem exec_mxeStep (hrows : rowsHeld s (coreOf s c) = none) (hrot : (coreOf s c).rot = true)
    (hf : (coreOf s c).mxeFree ≤ s.cycle) :
    exec (.mxeStep c) s = event s (
      if isHeldMode (coreOf s c).mode then ((coreOf s c).active.find? fun y => stepsLeft y && runsOut y).map (stepOf s c)
      else if !(rotEntry (coreOf s c) (turnOf s)).getLsbD 15 then none
      else match (coreOf s c).active.find? fun y =>
          stepsLeft y && y.slot == bits (rotEntry (coreOf s c) (turnOf s)).toNat 7 0 with
        | some y => some (stepOf s c y)
        | none => match (coreOf s c).mxeq.find? fun y => y.slot == bits (rotEntry (coreOf s c) (turnOf s)).toNat 7 0 with
          | some x => if mayStart s x && !laneBlocked (coreOf s c) x then some (laneStart s c x) else none
          | none => none) := by
  dsimp only [exec, execMxeStep]
  simp only [hrows, hrot, Nat.not_lt.2 hf, decide_false, Bool.not_true, Bool.or_false, Bool.false_eq_true, if_false]
  rfl

variable {x : Cmd}

/-- GCE_STEP of the stepping command of a GCE that is free. -/
theorem exec_gceStep (hx : (clusterOf s c).active.find? gceStepping = some x) (hf : (clusterOf s c).gceFree ≤ s.cycle) :
    exec (.gceStep c) s = event s (gridTurn s x) := by
  dsimp only [exec, execGceStep]
  simp only [hx, if_neg (Nat.not_lt.2 hf)]

theorem gridTurn_stops (hstop : x.stop = true) (hedge : x.steps % (gridCount x).2 = 0) : gridTurn s x = some (stopGrid s x) := by
  unfold gridTurn
  dsimp only
  rw [if_pos (by rw [hstop, hedge]; rfl)]

theorem gridTurn_parks (hstop : x.stop = false) (hheld : isHeldMode (coreOf s x.core).mode = true)
    (hedge : x.steps % (gridCount x).2 = 0) : gridTurn s x = some (parkGrid s x) := by
  unfold gridTurn
  dsimp only
  rw [if_neg (by rw [hstop]; exact Bool.false_ne_true), if_pos (by rw [hheld, hedge]; rfl)]

theorem gridTurn_opens (hstop : x.stop = false) (hheld : isHeldMode (coreOf s x.core).mode = false) (hfills : x.fills = true)
    (hedge : x.steps % (gridCount x).2 = 0) (hrows : x.rows ≤ x.steps / (gridCount x).2)
    (hlive : ∃ p ∈ x.members.zipIdx, x.fail.testBit p.2 = false) :
    gridTurn s x = some (openTile s x (x.steps / (gridCount x).2)) := by
  have hany : (x.members.zipIdx.any fun p => !x.fail.testBit p.2) = true := by
    obtain ⟨p, hp, hb⟩ := hlive
    exact List.any_eq_true.2 ⟨p, hp, by rw [hb]; rfl⟩
  unfold gridTurn
  dsimp only
  rw [if_neg (by rw [hstop]; exact Bool.false_ne_true), if_neg (by rw [hheld, Bool.and_false]; exact Bool.false_ne_true),
    if_pos (by rw [hfills, hedge, decide_eq_true hrows, hany]; rfl)]

theorem gridTurn_steps {gr : Grid} (hstop : x.stop = false) (hheld : isHeldMode (coreOf s x.core).mode = false)
    (hinside : x.fills = false ∨ x.steps % (gridCount x).2 ≠ 0)
    (hclaimed : ∀ f ∈ tileFills s x (x.steps / (gridCount x).2), f.index ≠ none) (hpoison : x.poison = none)
    (hg : gridOf x = .ok gr) : gridTurn s x = some (gridStep s x gr) := by
  have hfe : (x.fills && (x.steps % (gridCount x).2 == 0)) = false := by
    obtain h | h := hinside
    · rw [h, Bool.false_and]
    · rw [beq_eq_false_iff_ne.2 h, Bool.and_false]
  have hany : ((tileFills s x (x.steps / (gridCount x).2)).any fun f => f.index.isNone) = false := by
    rw [List.any_eq_false]
    exact fun f hf => by simpa using hclaimed f hf
  unfold gridTurn
  simp only [hstop, hheld, hfe, hany, hpoison, hg, Bool.false_and, Bool.and_false, Bool.false_eq_true, if_false,
    Option.isSome_none]

/-! ## The ends -/

/-- An operation of a command that leaves the mode and the guest of every core. -/
def KeepsGuest {β : Type} (F : State → Cmd → State × β) : Prop :=
  ∀ s x d, guestOf (coreOf (F s x).1 d) = guestOf (coreOf s d)

theorem KeepsGuest.of {β : Type} {F : State → Cmd → State × β}
    (h : ∀ s x d, guestOf (coreOf (F s x).1 d) = guestOf (coreOf s d)) : KeepsGuest F := h

/-- The end of a multicast. Where its status record lies is a variable of this proof: unfolded at a state, the kernel would look
for the record's 144 bytes one after another. -/
theorem keepsGuest_mcastEnd : KeepsGuest mcastEnd := by
  delta mcastEnd
  generalize recSegs = place
  refine KeepsGuest.of fun s x d => ?_
  cases place s x .write x.x.w6 144 with
  | error e => rfl
  | ok g => exact guest_writeRanges s x [g] [mcastRecord x] d

theorem guest_modThread (u : State) (c n d : Nat) (f : Thread → Thread) :
    guestOf (coreOf (modThread u c n f) d) = guestOf (coreOf u d) := by
  by_cases h : d = c
  · subst h
    exact (congrArg guestOf (coreOf_modSlot_same u d n fun x => { x with thread := x.thread.map f })).trans rfl
  · exact congrArg guestOf (coreOf_setCore_other _ _ _ _ h)

/-- A command's flags for its thread leave the mode and the guest of every core (R245). -/
theorem guest_report (x : Cmd) (u : State) (d : Nat) : guestOf (coreOf (x.report u) d) = guestOf (coreOf u d) := by
  unfold Cmd.report
  split
  · split
    · exact guest_modThread ..
    · rfl
  · rfl

/-- A signal that its core takes at once: in a state whose modes are those of one in which the core keeps no other context
(R302). -/
theorem signalHeld_now {u : State} {err : Option DefErr} (h : SignalsNow s x)
    (hu : guestOf (coreOf u x.core) = guestOf (coreOf s x.core)) : x.signalHeld u err = x.signal u err := by
  obtain ⟨hmode, hguest⟩ := Prod.mk.inj hu
  unfold Cmd.signalHeld
  dsimp only
  rw [hmode, hguest, if_neg]
  obtain ⟨h1, h2⟩ | h := h
  · simp [h1, h2]
  · simp [h]

theorem signal_raises {u : State} (hi : x.x.inc.toNat ≠ 0) :
    x.signal u none = semAdd u x.core x.x.sigSem.toNat x.x.inc.toNat := if_neg hi

/-- A command of a core's engine that is due ends without error (R220, R244, R245). -/
theorem completeCmd_raises {e : Nat} (ha : activeCmd s c x.uid = some x) (hc : x.core = c) (hs : x.started = true)
    (hr : x.retired = true) (hd : x.due ≤ s.cycle) (he : x.err = none) (hi : x.x.inc.toNat ≠ 0)
    (hw : writesOut s (cmdTid s x) = false) (hn : SignalsNow s x) (hcode : (cmdCode x.op).1 = e) :
    completeCmd s c x.uid e = some (semAdd (x.report (dropActive s c x.uid)) c x.x.sigSem.toNat x.x.inc.toNat) := by
  have hguest : guestOf (coreOf (x.report (dropActive s c x.uid)) x.core) = guestOf (coreOf s x.core) :=
    (guest_report ..).trans (coreOf_modCore_keeps (π := guestOf) (by intro; rfl) s c x.core)
  unfold completeCmd
  simp only [ha, hs, hr, hw, hcode, decide_eq_true hd, decide_true, Bool.and_self, Bool.not_false, if_true]
  rw [he, signalHeld_now hn hguest, signal_raises hi, hc]

/-- A grid command that is due ends with the signal of its end (R257, R266, R268). -/
theorem exec_gceComplete (hx : gceCmd s c x.uid = some x) (hs : gceStepping x = false) (hr : x.retired = true)
    (hd : x.due ≤ s.cycle) (hf : fillsOf s x.uid = []) (hw : writesOut s (cmdTid s x) = false) (hn : SignalsNow s x) :
    let s1 := modCluster s c fun y => { y with active := y.active.filter fun z => z.uid != x.uid }
    exec (.gceCommandComplete c x.uid) s =
      .next (if isMcast x.op then x.signal (mcastEnd s1 x).1 (mcastEnd s1 x).2 else x.signal s1 x.err) := by
  intro s1
  have hdue : (gceStepping x || !x.retired || decide (s.cycle < x.due) || !(fillsOf s x.uid).isEmpty || writesOut s (cmdTid s x)) =
      false := by
    rw [hs, hr, hf, hw, decide_eq_false (Nat.not_lt.2 hd)]
    rfl
  have hguest : guestOf (coreOf s1 x.core) = guestOf (coreOf s x.core) := congrArg guestOf (coreOf_modCluster ..)
  have hmcast := (keepsGuest_mcastEnd s1 x x.core).trans hguest
  dsimp only [exec, execGceCommandComplete, event]
  rw [hx]
  dsimp only
  rw [hdue, if_neg Bool.false_ne_true, Option.getD_some]
  cases isMcast x.op with
  | true => rw [if_pos rfl, if_pos rfl, signalHeld_now hn hmcast]
  | false => rw [if_neg Bool.false_ne_true, if_neg Bool.false_ne_true, signalHeld_now hn hguest]

end

/-- Settles O50. -/
theorem engineCommands : Obligations.EngineCommands := by
  intro s c x rest
  dsimp only
  refine ⟨?_, ?_, ?_, ?_, ?_, ?_, ?_⟩
  · intro hrot hrows hq _ hm hf
    exact mxe_starts hrot hrows hq hm hf
  · intro hq _ hm hf
    exact vxe_starts hq hm hf
  · intro hn _ hst hm hf hstep
    exact gce_starts hn hst hm hf hstep
  · refine ⟨fun u hu => ?_, fun hrows hrot hf => ⟨fun hheld hx => ?_, fun hheld he => ⟨fun hx => ?_, ?_⟩⟩⟩
    · dsimp only [exec, execMxeStep]
      simp only [hu]
      rfl
    · rw [exec_mxeStep hrows hrot hf, if_pos hheld, hx]
      rfl
    · rw [exec_mxeStep hrows hrot hf, if_neg (ne_true_of_eq_false hheld), he, if_neg (by decide), hx]
      rfl
    · intro hnone _ hx hm hlane
      have hfind : (coreOf s c).active.find? (fun y =>
          stepsLeft y && y.slot == bits (rotEntry (coreOf s c) (turnOf s)).toNat 7 0) = none := by
        rw [List.find?_eq_none]
        intro y hy
        obtain h | h := hnone y hy <;> simp [h]
      rw [exec_mxeStep hrows hrot hf, if_neg (ne_true_of_eq_false hheld), he, if_neg (by decide), hfind, hx]
      dsimp only
      rw [hm, hlane]
      exact ⟨_, rfl, lane_starts s c x⟩
  · intro hx hf
    rw [exec_gceStep hx hf]
    refine ⟨fun hstop hedge => ?_, fun hstop hheld hedge => ?_, fun hstop hheld hfills hedge hrows hlive => ?_,
      fun gr hstop hheld hin hcl hp hg => ?_⟩
    · rw [gridTurn_stops hstop hedge, event_some]
    · rw [gridTurn_parks hstop hheld hedge, event_some]
    · rw [gridTurn_opens hstop hheld hfills hedge hrows hlive, event_some]
    · rw [gridTurn_steps hstop hheld hin hcl hp hg, event_some]
  · intro ha hc hs hr hd he hi hw hn
    refine ⟨fun hcode => ?_, fun hcode => ?_⟩
    · dsimp only [exec, execMxeCommandComplete]
      rw [completeCmd_raises ha hc hs hr hd he hi hw hn hcode, event_some]
    · dsimp only [exec, execVxeCommandComplete]
      rw [completeCmd_raises ha hc hs hr hd he hi hw hn hcode, event_some]
  · intro hx hs hr hd hf hw hn
    have hend := exec_gceComplete hx hs hr hd hf hw hn
    dsimp only at hend
    refine ⟨fun hmc he hi => ?_, fun hmc => ?_⟩
    · rw [hend, if_neg (ne_true_of_eq_false hmc), he, signal_raises hi]
    · rw [hend, if_pos hmc]

end Sys2Proof.Machine
end

/-! Hod programs come and go (O51): the hod interface, the begin of a program by what its hod runs, and the signal of its end. -/
section

namespace Sys2Proof.Machine

open Sys2Proof.Claims

@[simp] theorem hodOf_modHod_same (s : State) (h : Nat) (f : Hod → Hod) : hodOf (modHod s h f) h = f (hodOf s h) :=
  mapGet_mapSet_same ..

theorem wakeQueue_hods (s : State) (x : Cmd) : (wakeQueue s x).hods = s.hods := by
  unfold wakeQueue
  dsimp only
  split
  · exact foldl_keeps (f := State.hods) (fun u i => wakeSlots_hods u (clusterOfCore x.core * 8 + i) _) (List.range 8) s
  · exact wakeSlots_hods ..

/-- A command's signal as a message of its core (R283). -/
theorem signalMsg_sent (x : Cmd) (s : State) (err : Option DefErr) :
    ∃ m ∈ (x.signalMsg s err).net, m.dcore = x.core ∧ m.ddev = s.pkg.dev.toNat ∧
      m.body = .signal x.x.sigSem.toNat x.x.inc.toNat (err.map DefErr.info) x.uid := by
  unfold Cmd.signalMsg
  rw [putMsg_here _ _ (.inr rfl)]
  exact ⟨_, List.mem_append_right _ (List.mem_singleton.2 rfl), rfl, rfl, rfl⟩

theorem signalMsg_hods (x : Cmd) (s : State) (err : Option DefErr) : (x.signalMsg s err).hods = s.hods := by
  unfold Cmd.signalMsg
  rw [putMsg_here _ _ (.inr rfl)]

/-- The registers of a program that a request begins: h0 and h1 from the command, the others 0 (R271, R272). -/
theorem newProg_spec (q : HodReq) :
    (newProg q).pc = q.cmd.a ∧ (newProg q).asid = q.cmd.asid ∧ (newProg q).tag = q.cmd.hodTag ∧ (newProg q).h[0] = q.cmd.b ∧
      (newProg q).h[1] = q.cmd.x.w7 ++ q.cmd.x.w6 ∧ (∀ i : Fin 8, 2 ≤ i.val → (newProg q).h[i] = 0#64) ∧
      (newProg q).stack = [] ∧ (newProg q).ended = false := by
  refine ⟨rfl, rfl, rfl, rfl, ?_, fun i hi => ?_, rfl, rfl⟩
  · change BitVec.ofNat 64 (q.cmd.x.w7.toNat * 2 ^ 32 + q.cmd.x.w6.toNat) = q.cmd.x.w7 ++ q.cmd.x.w6
    apply BitVec.eq_of_toNat_eq
    rw [BitVec.toNat_append, BitVec.toNat_ofNat, Nat.shiftLeft_eq, ← Nat.shiftLeft_eq,
      ← Nat.shiftLeft_add_eq_or_of_lt q.cmd.x.w6.isLt, Nat.shiftLeft_eq]
    exact Nat.mod_eq_of_lt (by have := q.cmd.x.w7.isLt; have := q.cmd.x.w6.isLt; omega)
  · fin_cases i
    · exact absurd hi (by decide)
    · exact absurd hi (by decide)
    all_goals rfl

section
variable {s : State} {c h : Nat} {x : Cmd} {b : Bundle}

/-- The state in which the first command of a core's hod queue has left it. -/
def hodTaken (s : State) (c : Nat) (x : Cmd) (rest : List Cmd) : State :=
  wakeQueue (modCore s c fun k => { k with hodq := rest }) x

theorem hodq_hodTaken (rest : List Cmd) : (coreOf (hodTaken s c x rest) c).hodq = rest := by
  rw [hodTaken, wakeBlind_hodq.wakeQueue, coreOf_modCore_same]

theorem hodOf_hodTaken (rest : List Cmd) (i : Nat) : hodOf (hodTaken s c x rest) i = hodOf s i := by
  rw [hodTaken, hodOf, wakeQueue_hods]
  rfl

/-- A HODRUN passes to its hod (R272). -/
theorem interface_run {rest : List Cmd} (hq : (coreOf s c).hodq = x :: rest) (hm : mayStart s x = true) (ho : x.op = .hodrun b)
    (ha : progAddrErr (hodTaken s c x rest) x = none) :
    ∃ u q, exec (.hodInterfaceStart c) s = .next u ∧ (coreOf u c).hodq = rest ∧ q.cmd = { x with retireAt := s.cycle } ∧
      s.cycle < q.due ∧ (hodOf u x.hodNum).queue = (hodOf s x.hodNum).queue ++ [q] := by
  unfold hodTaken at ha
  dsimp only [exec, execHodInterfaceStart, event]
  simp only [hq, hm, ho, ha, Bool.not_true, Bool.false_eq_true, if_false, Option.getD_some]
  refine ⟨_, ⟨{ x with retireAt := s.cycle }, (partOfCore s c).getD 64, s.cycle + 1 + Config.latency x.uid⟩, rfl,
    hodq_hodTaken rest, by rw [ho], by dsimp only; omega, ?_⟩
  rw [hodOf_modHod_same]
  change (hodOf (hodTaken s c x rest) x.hodNum).queue ++ _ = _
  rw [hodOf_hodTaken, ho]

/-- HOD_PROGRAM_BEGIN of the oldest request that has come, on a hod with a place (R272). -/
theorem exec_programBegin {q : HodReq} (hq : (hodOf s h).queue.find? (fun r => decide (r.due ≤ s.cycle)) = some q)
    (hh : h < availHods s) (hn : (runningProgs (hodOf s h)).length < 32) :
    exec (.hodProgramBegin h) s = .next (
      if (runningProgs (hodOf s h)).any fun p => p.2.asid == q.cmd.asid && p.2.tag == q.cmd.hodTag then
        q.cmd.signalMsg (modHod s h fun k => { k with queue := k.queue.filter fun r => r.cmd.uid != q.cmd.uid })
          (some (q.cmd.fault 0x2E (BitVec.ofNat 64 q.cmd.hodTag) 0))
      else modHod (modHod s h fun k => { k with queue := k.queue.filter fun r => r.cmd.uid != q.cmd.uid }) h fun k =>
        { k with progs := mapSet k.progs (freePlace k) (newProg q) }) := by
  dsimp only [exec, execHodProgramBegin, event]
  rw [hq]
  dsimp only
  rw [if_neg]
  · split <;> rfl
  · rw [Bool.or_eq_true, decide_eq_true_eq, decide_eq_true_eq, not_or]
    exact ⟨Nat.not_le.2 hh, Nat.not_le.2 hn⟩

/-- HODRUN_COMPLETE of a program that has ended, whose fills are READY and whose HSIGs are applied (R272). -/
theorem exec_hodrunComplete {n : Nat} {p : Prog} (hp : mapFind (hodOf s h).progs n = some p) (he : p.ended = true)
    (hf : progFills s h n = false) (hs : ∀ g ∈ p.sigs, sigPending s g.1 = false) :
    exec (.hodrunComplete h n) s =
      .next (p.cmd.signalMsg (modHod s h fun k => { k with progs := mapErase k.progs n }) p.err) := by
  have hsigs : (p.sigs.any fun g => sigPending s g.1) = false := by
    rw [List.any_eq_false]
    exact fun g hg => ne_true_of_eq_false (hs g hg)
  dsimp only [exec, execHodrunComplete, event]
  rw [hp]
  dsimp only
  rw [he, hf, hsigs]
  rfl

end

/-- Settles O51. -/
theorem hodPrograms : Obligations.HodPrograms := by
  intro s c h x b
  refine ⟨fun rest hq _ hm => ⟨fun ho ha => interface_run hq hm ho ha, fun ho => ?_⟩, fun q hq hh hn => ⟨fun hnone => ?_, ?_⟩,
    fun n p hp he hf hs => ?_⟩
  · dsimp only [exec, execHodInterfaceStart, event]
    simp only [hq, hm, ho, Bool.not_true, Bool.false_eq_true, if_false, Option.getD_some]
  · rw [exec_programBegin hq hh hn, if_neg]
    · refine ⟨_, ?place, newProg q, rfl, ?found, newProg_spec q⟩
      case found =>
        rw [hodOf_modHod_same]
        exact mapFind_mapSet_same ..
    · rw [List.any_eq_true]
      rintro ⟨p, hp, hb⟩
      rw [Bool.and_eq_true, beq_iff_eq, beq_iff_eq] at hb
      obtain hne | hne := hnone p hp
      · exact hne hb.1
      · exact hne hb.2
  · rintro ⟨p, hp, hasid, htag⟩
    rw [exec_programBegin hq hh hn, if_pos (List.any_eq_true.2 ⟨p, hp, by simp [hasid, htag]⟩)]
    refine ⟨_, rfl, ?_, ?_⟩
    · rw [hodOf, signalMsg_hods, ← hodOf, hodOf_modHod_same]
    · obtain ⟨m, hm, hcore, -, hbody⟩ := signalMsg_sent q.cmd
        (modHod s h fun k => { k with queue := k.queue.filter fun r => r.cmd.uid != q.cmd.uid })
        (some (q.cmd.fault 0x2E (BitVec.ofNat 64 q.cmd.hodTag) 0))
      exact ⟨m, hm, _, hcore, rfl, hbody⟩
  · rw [exec_hodrunComplete hp he hf hs]
    refine ⟨_, rfl, ?_, signalMsg_sent p.cmd _ p.err⟩
    rw [hodOf, signalMsg_hods, ← hodOf, hodOf_modHod_same]

end Sys2Proof.Machine
end


/-! PROOFS. The mortar network's events (R284 to R304). -/

section

namespace Sys2Proof.Machine

open Sys2Proof.Claims

/-! ## What signals and messages leave of the mortar network -/

/-- The parts of a core that belong to the mortar network. -/
def mortarOf (k : Core) : SMap Chain × SMap Binding × SMap Send × SMap Bool × List Cmd :=
  (k.chains, k.binds, k.sends, k.quarters, k.mniq)

theorem wakeBlind_mortar : WakeBlind mortarOf := fun _ _ _ => rfl

theorem chainOf_mortar {s u : State} {c : Nat} (h : mortarOf (coreOf u c) = mortarOf (coreOf s c)) (n : Nat) :
    chainOf u c n = chainOf s c n := congrArg (fun p : _ × _ => mapGet Chain.free p.1 n) h

theorem binds_mortar {s u : State} {c : Nat} (h : mortarOf (coreOf u c) = mortarOf (coreOf s c)) :
    (coreOf u c).binds = (coreOf s c).binds := congrArg (fun p : _ × _ × _ => p.2.1) h

theorem quarterUsed_mortar {s u : State} {c : Nat} (h : mortarOf (coreOf u c) = mortarOf (coreOf s c)) (q : Nat) :
    quarterUsed u c q = quarterUsed s c q := congrArg (fun p : _ × _ × _ × _ × _ => mapGet false p.2.2.2.1 q) h

theorem coreOf_putMsg (s : State) (m : Msg) (d : Nat) : coreOf (putMsg s m) d = coreOf s d := by
  unfold putMsg
  split
  · rfl
  · cases hl : linkSend s m 0 with
    | none => rfl
    | some u => exact guest_linkSend hl d

theorem mortar_setSem (s : State) (c n d : Nat) (x : Sem) : mortarOf (coreOf (setSem s c n x) d) = mortarOf (coreOf s d) :=
  (wakeBlind_mortar.wakeSlots ..).trans (coreOf_modCore_keeps (π := mortarOf) (by intro; rfl) s c d)

theorem mortar_signalSem (s : State) (c sem inc d : Nat) (err : Option DefErr) :
    mortarOf (coreOf (signalSem s c sem inc err) d) = mortarOf (coreOf s d) := by
  have hheld : mortarOf (coreOf (match err with | some e => semHold s c sem e | none => s) d) = mortarOf (coreOf s d) := by
    cases err with
    | none => rfl
    | some e => exact mortar_setSem ..
  unfold signalSem
  dsimp only
  split
  · cases err <;> exact hheld
  · cases err <;> exact (mortar_setSem ..).trans hheld

theorem mortar_endNamed (s : State) (c uid d : Nat) : mortarOf (coreOf (endNamed s c uid) d) = mortarOf (coreOf s d) := by
  unfold endNamed
  split
  · rfl
  · exact (coreOf_modCore_keeps (π := mortarOf) (by intro; rfl) ..).trans
      (coreOf_modCore_keeps (π := mortarOf) (by intro; rfl) s c d)

theorem mortar_mniFinish (s : State) (x : Cmd) (err : Option DefErr) (d : Nat) :
    mortarOf (coreOf (mniFinish s x err) d) = mortarOf (coreOf s d) :=
  (mortar_signalSem ..).trans (mortar_endNamed ..)

theorem mortar_noteUser (s : State) (m : Msg) (d : Nat) : mortarOf (coreOf (noteUser s m) d) = mortarOf (coreOf s d) := by
  unfold noteUser
  split
  · split
    · exact coreOf_modCore_keeps (π := mortarOf) (by intro; rfl) ..
    · rfl
  · rfl

theorem mortar_traceAdd (s : State) (c kind slot peer ccid asid : Nat) (arg pc : Word) (d : Nat) :
    mortarOf (coreOf (traceAdd s c kind slot peer ccid asid arg pc) d) = mortarOf (coreOf s d) := by
  unfold traceAdd
  exact coreOf_modCore_keeps (π := mortarOf) (by intro; dsimp only [mortarOf]) s c d

theorem mortar_toSpill (s : State) (m : Msg) (d : Nat) : mortarOf (coreOf (toSpill s m) d) = mortarOf (coreOf s d) := by
  unfold toSpill
  dsimp only
  rw [mortar_traceAdd]
  exact coreOf_modCore_keeps (π := mortarOf) (by intro; rfl) s m.dcore d

theorem mortar_divertSignal (s : State) (c asid sem inc d : Nat) (err : Option DefErr) :
    mortarOf (coreOf (divertSignal s c asid sem inc err) d) = mortarOf (coreOf s d) := by
  unfold divertSignal
  dsimp only
  split
  · exact (mortar_signalSem ..).trans ((mortar_endNamed ..).trans (mortar_noteUser ..))
  · exact mortar_toSpill ..
  · exact congrArg mortarOf (coreOf_putMsg ..)

/-! ## Messages of the mortar network -/

theorem mortarMsg_here (s : State) (c d asid : Nat) (b : MsgBody) :
    mortarMsg s c d asid b = { s with net := s.net ++ [{ mkMsg s c 256 s.pkg.dev.toNat d .mortar false b with asid := asid }],
                                      uid := s.uid + 1 } := putMsg_here _ _ (.inr rfl)

theorem mortarMsg_sent (s : State) (c d asid : Nat) (b : MsgBody) :
    ∃ m ∈ (mortarMsg s c d asid b).net, m.ddev = s.pkg.dev.toNat ∧ m.dcore = d ∧ m.net = .mortar ∧ m.body = b := by
  rw [mortarMsg_here]
  exact ⟨_, List.mem_append_right _ (List.mem_singleton.2 rfl), rfl, rfl, rfl, rfl⟩

theorem mortarMsg_cores (s : State) (c d asid : Nat) (b : MsgBody) : (mortarMsg s c d asid b).cores = s.cores := by
  rw [mortarMsg_here]

theorem coreOf_mortarMsg (s : State) (c d asid e : Nat) (b : MsgBody) : coreOf (mortarMsg s c d asid b) e = coreOf s e :=
  coreOf_putMsg ..

theorem mortarMsg_pkg (s : State) (c d asid : Nat) (b : MsgBody) : (mortarMsg s c d asid b).pkg = s.pkg := by
  rw [mortarMsg_here]

/-! ## Chains and quarters -/

theorem chainOf_putChain_same (s : State) (c n : Nat) (h : Chain) : chainOf (putChain s c n h) c n = h := by
  unfold chainOf putChain
  rw [coreOf_modCore_same, mapGet_mapSet_same]

theorem quarterUsed_putChain (s : State) (c n d q : Nat) (h : Chain) : quarterUsed (putChain s c n h) d q = quarterUsed s d q :=
  coreOf_modCore_keeps (π := fun k => mapGet false k.quarters q) (by intro; rfl) s c d

theorem chainOf_setQuarters (s : State) (c d n : Nat) (qs : List Nat) (b : Bool) :
    chainOf (setQuarters s c qs b) d n = chainOf s d n :=
  coreOf_modCore_keeps (π := fun k => mapGet Chain.free k.chains n) (by intro; rfl) s c d

theorem chainOf_freeChain (s : State) (c n : Nat) :
    chainOf (freeChain s c n) c n = { Chain.free with gen := (chainOf s c n).gen + 1#8 } := chainOf_putChain_same ..

theorem quarterUsed_set_two (s : State) (c q : Nat) :
    quarterUsed (setQuarters s c [q, q + 1] true) c q = true ∧ quarterUsed (setQuarters s c [q, q + 1] true) c (q + 1) = true := by
  unfold quarterUsed setQuarters
  rw [coreOf_modCore_same]
  simp [mapGet_mapSet]

theorem admitAll_fix {s : State} {c n : Nat} (h : (chainOf s c n).fix = true) : admitAll s c n = s := by
  unfold admitAll admitN
  simp [h]

theorem admitN_pkg : ∀ (fuel : Nat) (s : State) (c n : Nat), (admitN fuel s c n).pkg = s.pkg
  | 0, _, _, _ => rfl
  | fuel + 1, s, c, n => by
    unfold admitN
    dsimp only
    split
    · rfl
    · split
      · rw [admitN_pkg fuel]
        split
        · exact mortarMsg_pkg ..
        · rfl
      · rfl

theorem acceptBeat_pkg (s : State) (c n p r : Nat) (v : List Nat) : (acceptBeat s c n p r v).pkg = s.pkg := by
  unfold acceptBeat
  dsimp only
  split
  · exact admitN_pkg 256 _ c n
  · rfl

theorem mortar_mniEnd (s : State) (x : Cmd) (err : Option DefErr) (delay d : Nat) :
    mortarOf (coreOf (mniEnd s x err delay) d) = mortarOf (coreOf s d) :=
  (congrArg mortarOf (coreOf_putMsg ..)).trans (coreOf_modCore_keeps (π := mortarOf) (by intro; rfl) s x.core d)

end Sys2Proof.Machine

end


/-! PROOFS. The mortar network's events at their cores (R288 to R304). -/

section

namespace Sys2Proof.Machine

open Sys2Proof.Claims

section
variable {s : State} {c : Nat}

/-- The chain that CHOPEN opens in its FIX form, in a slot of generation `g` (R288). -/
def fixChain (x : Cmd) (g : BitVec 8) : Chain :=
  { Chain.free with st := 1, gen := g, fix := true, n := fld x.x.w5 23 16 + 1, look := 0, qtr := fld x.x.w5 11 10,
                    base := x.x.chBase, csem := fld x.x.w5 31 24, asid := x.asid }

/-- CHOPEN of a FIX chain starts in a free slot with two free quarters (R288). -/
theorem startChopen_fix {x : Cmd} (hc : x.core = c) (hf : x.x.flag 0 = true) (hst : (chainOf s c (fld x.x.w5 3 0)).st = 0)
    (hq : quarterUsed s c (fld x.x.w5 11 10) = false) (hq1 : quarterUsed s c (fld x.x.w5 11 10 + 1) = false) :
    mortarOf (coreOf (startChopen s x) c) =
      mortarOf (coreOf (putChain (setQuarters s c [fld x.x.w5 11 10, fld x.x.w5 11 10 + 1] true) c (fld x.x.w5 3 0)
        (fixChain x (chainOf s c (fld x.x.w5 3 0)).gen)) c) := by
  subst hc
  unfold startChopen
  dsimp only
  simp only [hf, if_true]
  rw [if_neg (fun h => h hst)]
  have hquarters (h : Chain) (hh : h.fix = true) : chainQuarters h = [h.qtr, h.qtr + 1] := by
    unfold chainQuarters
    rw [if_pos hh]
    rfl
  rw [hquarters _ rfl, List.find?_cons_of_neg (by simp [hq]), List.find?_cons_of_neg (by simp [hq1]), List.find?_nil]
  refine (mortar_mniEnd ..).trans ?_
  rw [admitAll_fix (by rw [chainOf_putChain_same])]
  rfl

theorem exec_chopen {x : Cmd} {rest : List Cmd} {b : Bundle} (hq : (coreOf s c).mniq = x :: rest) (hm : mayStart s x = true)
    (hr : mniRuns (coreOf s c) = false) (hf : (coreOf s c).mniFree ≤ s.cycle) (ho : x.op = .chopen b) :
    exec (.mniCommandStart c) s =
      .next (startChopen (wakeQueue (modCore s c fun k => { k with mniq := rest }) x) x) := by
  dsimp only [exec, execMniCommandStart, event]
  rw [hq]
  dsimp only
  rw [hm, hr, decide_eq_false (Nat.not_lt.2 hf), ho]
  rfl

/-! ## Joins -/

theorem joinRefusal_none {h : Chain} {asid p : Nat} {g : Bool} (hst : h.st = 1) (ha : h.asid = asid) (hp : p < h.n)
    (hj : ∀ j ∈ h.joined, j.1 ≠ p) (hg : h.fix = true ∨ g = true) : joinRefusal h asid p g = none := by
  have hany : (h.joined.any fun j => j.1 == p) = false := by simpa using hj
  have hstg : (!h.fix && !g) = false := by obtain hg | hg := hg <;> simp [hg]
  simp [joinRefusal, hst, ha, Nat.not_le.2 hp, hany, hstg]

theorem joinRefusal_closed {h : Chain} {asid p : Nat} {g : Bool} (hst : h.st ≠ 1 ∨ h.asid ≠ asid) :
    joinRefusal h asid p g = some 1 := if_pos (by simpa using hst)

theorem joinRefusal_position {h : Chain} {asid p : Nat} {g : Bool} (hst : h.st = 1) (ha : h.asid = asid) (hp : h.n ≤ p) :
    joinRefusal h asid p g = some 2 := by simp [joinRefusal, hst, ha, hp]

theorem joinRefusal_taken {h : Chain} {asid p : Nat} {g : Bool} (hst : h.st = 1) (ha : h.asid = asid) (hp : p < h.n)
    (hj : ∃ j ∈ h.joined, j.1 = p) : joinRefusal h asid p g = some 3 := by
  have hany : (h.joined.any fun j => j.1 == p) = true := by simpa using hj
  simp [joinRefusal, hst, ha, Nat.not_le.2 hp, hany]

theorem joinRefusal_staging {h : Chain} {asid p : Nat} {g : Bool} (hst : h.st = 1) (ha : h.asid = asid) (hp : p < h.n)
    (hj : ∀ j ∈ h.joined, j.1 ≠ p) (hf : h.fix = false) (hg : g = false) : joinRefusal h asid p g = some 4 := by
  have hany : (h.joined.any fun j => j.1 == p) = false := by simpa using hj
  simp [joinRefusal, hst, ha, Nat.not_le.2 hp, hany, hf, hg]

variable {m : Msg} (ha : arrived s m.uid = some m)
include ha

theorem exec_joinRefused {b n p r : Nat} {g : Bool} (hb : m.body = .joinReq b n p g)
    (hr : joinRefusal (chainOf s m.dcore n) m.asid p g = some r) :
    exec (.joinRequestArrival m.uid) s = .next (mortarMsg (dropMsg s m.uid) m.dcore m.score m.asid
      (.joinReply b (chainOf s m.dcore n).gen.toNat (some r) false (chainOf s m.dcore n).fix)) := by
  dsimp only [exec, execJoinRequestArrival, event]
  rw [ha, Option.bind_some, hb]
  dsimp only
  rw [hr]
  rfl

theorem exec_joinAccepted {b n p : Nat} {g : Bool} (hb : m.body = .joinReq b n p g)
    (hr : joinRefusal (chainOf s m.dcore n) m.asid p g = none) :
    exec (.joinRequestArrival m.uid) s = .next (mortarMsg
      (putChain (dropMsg s m.uid) m.dcore n (joinChain (chainOf s m.dcore n) p m.score b)) m.dcore m.score m.asid
      (.joinReply b (chainOf s m.dcore n).gen.toNat none
        ((chainOf s m.dcore n).fix || decide (p < (chainOf s m.dcore n).admitTo)) (chainOf s m.dcore n).fix)) := by
  dsimp only [exec, execJoinRequestArrival, event]
  rw [ha, Option.bind_some, hb]
  dsimp only
  rw [hr]
  rfl

/-- The accepting reply binds (R286, R289). -/
theorem exec_joinReply {b g : Nat} {ad f : Bool} {x : Cmd} (hb : m.body = .joinReply b g none ad f)
    (hx : joinCmd s m.dcore b = some x) :
    ∃ u, exec (.joinReplyArrival m.uid) s = .next u ∧ mapFind (coreOf u m.dcore).binds b = some (boundBy x m.score g ad f) := by
  dsimp only [exec, execJoinReplyArrival, event]
  rw [ha, Option.bind_some, hb]
  dsimp only
  rw [hx]
  dsimp only
  refine ⟨_, rfl, ?_⟩
  rw [Option.getD_some, binds_mortar (mortar_mniFinish ..)]
  have hbound (u : State) (qs : List Nat) : (coreOf (setQuarters u m.dcore qs false) m.dcore).binds = (coreOf u m.dcore).binds :=
    coreOf_modCore_keeps (π := Core.binds) (by intro; rfl) ..
  have hnew (u : State) : mapFind (coreOf (modCore u m.dcore fun k =>
      { k with binds := mapSet k.binds b (boundBy x m.score g ad f) }) m.dcore).binds b = some (boundBy x m.score g ad f) := by
    rw [coreOf_modCore_same]
    exact mapFind_mapSet_same ..
  split
  · split
    · rw [hbound, hnew]
    · rw [hnew]
  · rw [hnew]

/-! ## Admission, beats and eviction -/

theorem exec_admission {n p g : Nat} (hb : m.body = .admission n p g) :
    ∃ u, exec (.admissionArrival m.uid) s = .next u ∧
      ∀ b ∈ (coreOf u m.dcore).binds, isBinding b.2 m.score n p g = true → b.2.admitted = true := by
  dsimp only [exec, execAdmissionArrival, event]
  rw [ha, Option.bind_some, hb]
  dsimp only [Option.getD_some]
  refine ⟨_, rfl, fun b hmem hit => ?_⟩
  rw [coreOf_modCore_same] at hmem
  obtain ⟨e, -, rfl⟩ := List.mem_map.1 hmem
  by_cases he : isBinding e.2 m.score n p g = true
  · rw [if_pos he]
  · rw [if_neg he] at hit
    exact absurd hit he

/-- A beat of another generation is answered with an eviction notice (R304). -/
theorem exec_beatStale {n p g r : Nat} {v : List Nat} (hb : m.body = .beat n p g r v)
    (hs : (chainOf s m.dcore n).st ≠ 1 ∨ (chainOf s m.dcore n).gen.toNat ≠ g) :
    exec (.beatArrival m.uid) s =
      .next (mortarMsg (dropMsg s m.uid) m.dcore m.score m.asid (.evictNotice n p g)) := by
  have hstale : (decide ((chainOf s m.dcore n).st ≠ 1) || decide ((chainOf s m.dcore n).gen.toNat ≠ g)) = true := by
    simpa using hs
  dsimp only [exec, execBeatArrival, event]
  rw [ha, Option.bind_some, hb]
  dsimp only
  rw [if_pos hstale, Option.getD_some]

theorem exec_beatAccepted {n p g r : Nat} {v : List Nat} (hb : m.body = .beat n p g r v)
    (hst : (chainOf s m.dcore n).st = 1) (hg : (chainOf s m.dcore n).gen.toNat = g)
    (hl : (coreOf s m.dcore).lastBeat ≠ some s.cycle) :
    let t := acceptBeat (modCore (dropMsg s m.uid) m.dcore fun k => { k with lastBeat := some s.cycle }) m.dcore n p r v
    exec (.beatArrival m.uid) s = .next (if mapGet 0 (chainOf s m.dcore n).accepted p + 1 = 64
      then mortarMsg t m.dcore m.score m.asid (.beatAck n p g) else t) := by
  have hfresh : ¬ (decide ((chainOf s m.dcore n).st ≠ 1) || decide ((chainOf s m.dcore n).gen.toNat ≠ g)) = true := by
    simp [hst, hg]
  dsimp only [exec, execBeatArrival, event]
  rw [ha, Option.bind_some, hb]
  dsimp only
  rw [if_neg hfresh, if_neg hl, Option.getD_some]

theorem exec_beatAck {n p g uid : Nat} {d : Send} {x : Cmd} (hb : m.body = .beatAck n p g)
    (hd : ((coreOf s m.dcore).sends.find? fun e => isBinding e.2.bind m.score n p g) = some (uid, d))
    (hx : activeCmd (dropSend (dropMsg s m.uid) m.dcore uid d) m.dcore uid = some x) :
    exec (.beatAckArrival m.uid) s = .next (divertSignal (dropActive (dropSend (dropMsg s m.uid) m.dcore uid d) m.dcore uid)
      m.dcore x.asid x.x.sigSem.toNat x.x.inc.toNat none) := by
  dsimp only [exec, execBeatAckArrival, event]
  rw [ha, Option.bind_some, hb]
  dsimp only
  rw [hd]
  dsimp only
  rw [hx]
  rfl

omit ha in
/-- A send that ends leaves the bindings and the package (R233). -/
theorem binds_endSend (u : State) (d uid : Nat) (x : Send) (e : Cmd → DefErr) (c : Nat) :
    (coreOf (endSend u d uid x e) c).binds = (coreOf u c).binds ∧ (endSend u d uid x e).pkg = u.pkg := by
  have hdrop : (coreOf (dropSend u d uid x) c).binds = (coreOf u c).binds :=
    (coreOf_modCore_keeps (π := Core.binds) (by intro; rfl) ..).trans
      (coreOf_modCore_keeps (π := Core.binds) (by intro; rfl) u d c)
  unfold endSend
  dsimp only
  split
  · exact ⟨hdrop, rfl⟩
  · refine ⟨?_, rfl⟩
    unfold putEverywhere
    rw [coreOf_modCore_keeps (π := Core.binds) (by intro; rfl)]
    exact (coreOf_modCore_keeps (π := Core.binds) (by intro; rfl) ..).trans hdrop

theorem exec_evictionNotice {n p g : Nat} (hb : m.body = .evictNotice n p g) :
    ∃ u v, exec (.evictionNoticeArrival m.uid) s = .next (mortarMsg u m.dcore m.score m.asid (.evictAck n p g)) ∧
      u.pkg = s.pkg ∧ v = evictBinding (dropMsg s m.uid) m.dcore (fun b => isBinding b m.score n p g) ∧
      (coreOf u m.dcore).binds = (coreOf v m.dcore).binds := by
  dsimp only [exec, execEvictionNoticeArrival, event]
  rw [ha, Option.bind_some, hb]
  refine ⟨_, _, rfl, ?_, rfl, ?_⟩
  · exact foldl_keeps (f := State.pkg) (fun u (d : Nat × Send) => (binds_endSend u _ _ _ _ 0).2) _ _
  · exact foldl_keeps (f := fun u => (coreOf u m.dcore).binds) (fun u d => (binds_endSend u ..).1) _ _

theorem exec_evictionAck {n p g : Nat} (hb : m.body = .evictAck n p g) :
    exec (.evictionAckArrival m.uid) s = .next (ackEviction (dropMsg s m.uid) m.dcore n p g) := by
  dsimp only [exec, execEvictionAckArrival, event]
  rw [ha, Option.bind_some, hb]
  rfl

theorem exec_chevictRequest {n cmd : Nat} (hb : m.body = .chevictReq n cmd) :
    exec (.chevictRequestArrival m.uid) s = .next (evictChain (dropMsg s m.uid) m.dcore n (some (m.score, cmd))) := by
  dsimp only [exec, execChevictRequestArrival, event]
  rw [ha, Option.bind_some, hb]
  rfl

end

/-- Every binding that a notice names is evicted (R304). -/
theorem evictBinding_evicts {s : State} {c : Nat} {hit : Binding → Bool}
    (hs : ∀ b : Binding, hit { b with evicted := true, stg := none } = hit b) :
    ∀ b ∈ (coreOf (evictBinding s c hit) c).binds, hit b.2 = true → b.2.evicted = true := by
  intro b hmem hb
  have hquarters : (coreOf (evictBinding s c hit) c).binds = (coreOf s c).binds.map fun b =>
      if hit b.2 then (b.1, { b.2 with evicted := true, stg := none }) else b := by
    unfold evictBinding setQuarters
    simp
  rw [hquarters] at hmem
  obtain ⟨e, -, rfl⟩ := List.mem_map.1 hmem
  by_cases he : hit e.2 = true
  · rw [if_pos he]
  · rw [if_neg he] at hb
    exact absurd hb he

/-- An evicted chain is free in a new generation (R304). -/
theorem chainOf_evictChain {s : State} {c n : Nat} (q : Option (Nat × Nat)) (h : (chainOf s c n).st ≠ 0) :
    chainOf (evictChain s c n q) c n = { Chain.free with gen := (chainOf s c n).gen + 1#8 } := by
  have hdone (u : State) : mortarOf (coreOf (evictDone u c q) c) = mortarOf (coreOf u c) := by
    cases q with
    | none => rfl
    | some i => exact congrArg mortarOf (coreOf_mortarMsg ..)
  have htold (u : State) (l : List (Nat × Nat × Nat × Bool)) (b : Nat × Nat × Nat × Bool → MsgBody) (asid : Nat) :
      mortarOf (coreOf (l.foldl (fun a j => mortarMsg a c j.2.1 asid (b j)) u) c) = mortarOf (coreOf u c) :=
    foldl_keeps (f := fun u => mortarOf (coreOf u c))
      (fun u (j : Nat × Nat × Nat × Bool) => congrArg mortarOf (coreOf_mortarMsg u c j.2.1 asid c (b j))) _ _
  unfold evictChain
  dsimp only
  rw [if_neg h]
  refine (chainOf_mortar (s := freeChain s c n) ?_ n).trans (chainOf_freeChain ..)
  split
  · exact (hdone _).trans ((mortar_divertSignal ..).trans (htold ..))
  · exact (coreOf_modCore_keeps (π := mortarOf) (by intro; rfl) ..).trans ((mortar_divertSignal ..).trans (htold ..))

theorem evictChain_free {s : State} {c n d cmd : Nat} (h : (chainOf s c n).st = 0) :
    evictChain s c n (some (d, cmd)) = mortarMsg s c d 0 (.chevictDone cmd) := if_pos h

/-! ## Sends and stored rows -/

section
variable {s : State} {c : Nat}

/-- The next row of a send leaves where its staging quarter has no errors (R292, R345). -/
theorem exec_stagedBeat {n uid r : Nat} {d : Send} {v : List Nat} {rest : List (Nat × List Nat)}
    (hd : (coreOf s c).sends.find? (fun e => e.2.num == n && sendReady s c e.1 e.2) = some (uid, d)) (hr : d.rows = (r, v) :: rest)
    (hn : ∀ q, d.direct = false → d.bind.stg = some q → NoErrors s (mortarKey c (32768 * q + 512 * r)) 512) :
    exec (.stagedBeatSend c n) s = .next (mortarMsg
      (modCore s c fun k => { k with sends := mapSet k.sends uid { d with rows := rest, next := s.cycle + 1 } })
      c d.bind.core d.bind.asid (.beat d.bind.chain d.bind.pos d.bind.gen r v)) := by
  dsimp only [exec, execStagedBeatSend, event]
  rw [hd]
  dsimp only
  rw [hr]
  cases hdir : d.direct with
  | true => rfl
  | false =>
    cases hstg : d.bind.stg with
    | none => rfl
    | some q =>
      simp only [Bool.false_eq_true, if_false, Option.map_some, eccRead_clean (hn q hdir hstg), Option.getD_some]

theorem exec_storedRow_whole {n : Nat} (hla : (coreOf s c).lastApply ≠ some s.cycle) (hlb : (coreOf s c).lastBeat ≠ some s.cycle)
    (hst : (chainOf s c n).st = 1) (hdone : (chainOf s c n).done = (chainOf s c n).n) :
    exec (.storedRowApply c n) s = .next (chainComplete s c n) := by
  dsimp only [exec, execStoredRowApply, event]
  rw [if_neg (by simp [hla, hlb, hst]), if_pos hdone]
  rfl

theorem exec_storedRow_next {n : Nat} {e : Nat × Nat × List Nat} (hla : (coreOf s c).lastApply ≠ some s.cycle)
    (hlb : (coreOf s c).lastBeat ≠ some s.cycle) (hst : (chainOf s c n).st = 1)
    (hdone : (chainOf s c n).done ≠ (chainOf s c n).n)
    (he : ((chainOf s c n).stored.find? fun q => rowReady (chainOf s c n) q.1 q.2.1) = some e) :
    exec (.storedRowApply c n) s = .next (applyRow
      (putChain (modCore s c fun k => { k with lastApply := some s.cycle }) c n
        { chainOf s c n with stored := (chainOf s c n).stored.filter (· != e) }) c n e.1 e.2.1 e.2.2) := by
  dsimp only [exec, execStoredRowApply, event]
  rw [if_neg (by simp [hla, hlb, hst]), if_neg hdone, he]
  rfl

theorem chainOf_chainComplete (n : Nat) : (chainOf (chainComplete s c n) c n).st = 2 := by
  unfold chainComplete
  dsimp only
  rw [chainOf_mortar (mortar_divertSignal ..), chainOf_putChain_same]

end

/-- Settles O52. -/
theorem mortarEvents : Obligations.MortarEvents := by
  intro s c sends
  refine ⟨?_, ?_, ?_, ?_⟩
  · intro x rest b hq hc hm hr hf ho hx n q hst hfix hq2 hu hu1
    subst hx
    have hkeeps := wakeBlind_mortar.wakeQueue (modCore s c fun k => { k with mniq := rest }) x c
    have hchain : chainOf (wakeQueue (modCore s c fun k => { k with mniq := rest }) x) c n = chainOf s c n :=
      (chainOf_mortar hkeeps n).trans (coreOf_modCore_keeps (π := fun k => mapGet Chain.free k.chains n) (by intro; rfl) s c c)
    have hgen := congrArg Chain.gen hchain
    have hused (i : Nat) : quarterUsed (wakeQueue (modCore s c fun k => { k with mniq := rest }) x) c i = quarterUsed s c i :=
      (quarterUsed_mortar hkeeps i).trans (coreOf_modCore_keeps (π := fun k => mapGet false k.quarters i) (by intro; rfl) s c c)
    have hstart := startChopen_fix hc hfix ((congrArg Chain.st hchain).trans hst) ((hused q).trans hu) ((hused (q + 1)).trans hu1)
    refine ⟨_, exec_chopen hq hm hr hf ho, ?_, ?_⟩
    · have hmniq : (coreOf (wakeQueue (modCore s c fun k => { k with mniq := rest }) x) c).mniq = rest := by
        have := congrArg (fun p : _ × _ × _ × _ × _ => p.2.2.2.2) hkeeps
        exact this.trans (by rw [coreOf_modCore_same]; rfl)
      refine (congrArg (fun p : _ × _ × _ × _ × _ => p.2.2.2.2) hstart).trans (Eq.trans ?_ hmniq)
      exact (coreOf_modCore_keeps (π := Core.mniq) (by intro; rfl) ..).trans
        (coreOf_modCore_keeps (π := Core.mniq) (by intro; rfl) ..)
    · rw [quarterUsed_mortar hstart, quarterUsed_mortar hstart, chainOf_mortar hstart, chainOf_putChain_same,
        quarterUsed_putChain, quarterUsed_putChain]
      exact ⟨rfl, rfl, hgen, rfl, rfl, rfl, rfl, quarterUsed_set_two ..⟩
  · intro m ha hc hdev
    subst hc
    refine ⟨?_, ?_, ?_, ?_, ?_, ?_, ?_, ?_⟩
    · intro b n p g hb h
      cases hr : joinRefusal h m.asid p g with
      | none =>
        refine ⟨_, exec_joinAccepted ha hb hr, fun _ _ _ _ _ => ⟨_, ?_, mortarMsg_sent ..⟩, ?_, ?_, ?_, ?_⟩
        · unfold chainOf
          rw [coreOf_mortarMsg]
          exact congrArg Chain.joined (chainOf_putChain_same ..)
        · intro h1; rw [joinRefusal_closed h1] at hr; cases hr
        · intro h1 h2 h3; rw [joinRefusal_position h1 h2 h3] at hr; cases hr
        · intro h1 h2 h3 h4; rw [joinRefusal_taken h1 h2 h3 h4] at hr; cases hr
        · intro h1 h2 h3 h4 h5 h6; rw [joinRefusal_staging h1 h2 h3 h4 h5 h6] at hr; cases hr
      | some r =>
        have hsent (i : Nat) (hi : joinRefusal h m.asid p g = some i) :
            sends (mortarMsg (dropMsg s m.uid) m.dcore m.score m.asid (.joinReply b h.gen.toNat (some r) false h.fix))
              m.score (.joinReply b h.gen.toNat (some i) false h.fix) := by
          cases hr.symm.trans hi
          exact mortarMsg_sent ..
        refine ⟨_, exec_joinRefused ha hb hr, ?_, ?_, ?_, ?_, ?_⟩
        · intro h1 h2 h3 h4 h5; rw [joinRefusal_none h1 h2 h3 h4 h5] at hr; cases hr
        · exact fun h1 => hsent 1 (joinRefusal_closed h1)
        · exact fun h1 h2 h3 => hsent 2 (joinRefusal_position h1 h2 h3)
        · exact fun h1 h2 h3 h4 => hsent 3 (joinRefusal_taken h1 h2 h3 h4)
        · exact fun h1 h2 h3 h4 h5 h6 => hsent 4 (joinRefusal_staging h1 h2 h3 h4 h5 h6)
    · exact fun b g ad f hb x hx => exec_joinReply ha hb hx
    · exact fun n p g hb => exec_admission ha hb
    · intro n p g r v hb
      refine ⟨fun hs => ⟨_, exec_beatStale ha hb hs, mortarMsg_sent ..⟩, ?_⟩
      intro hst hg hl t
      refine ⟨fun hp => ?_, fun hp => ?_⟩
      · rw [exec_beatAccepted ha hb hst hg hl, if_neg (by omega)]
      · rw [exec_beatAccepted ha hb hst hg hl, if_pos (by omega)]
        refine ⟨_, rfl, mortarMsg_cores .., ?_⟩
        have hsent := mortarMsg_sent t m.dcore m.score m.asid (.beatAck n p g)
        rwa [acceptBeat_pkg] at hsent
    · intro n p g hb uid d x hd s1 hx
      exact exec_beatAck ha hb hd hx
    · intro n p g hb
      obtain ⟨u, v, hu, hpkg, rfl, hbinds⟩ := exec_evictionNotice ha hb
      refine ⟨_, hu, ?_, ?_⟩
      · have hsent := mortarMsg_sent u m.dcore m.score m.asid (.evictAck n p g)
        rwa [hpkg] at hsent
      · rw [coreOf_mortarMsg, hbinds]
        exact evictBinding_evicts fun _ => rfl
    · exact fun n p g hb => exec_evictionAck ha hb
    · intro n cmd hb
      refine ⟨_, exec_chevictRequest ha hb, fun hst => ?_, fun hst => ?_⟩
      · rw [chainOf_evictChain (s := dropMsg s m.uid) _ hst]
        exact ⟨rfl, rfl⟩
      · rw [evictChain_free (s := dropMsg s m.uid) hst]
        exact mortarMsg_sent ..
  · intro n uid d r v rest hd hr hn
    refine ⟨_, exec_stagedBeat hd hr hn, mortarMsg_sent .., ?_⟩
    rw [coreOf_mortarMsg, coreOf_modCore_same]
    exact mapFind_mapSet_same ..
  · intro n hla hlb hst
    exact ⟨fun hdone => ⟨_, exec_storedRow_whole hla hlb hst hdone, chainOf_chainComplete n⟩,
      fun e hdone he => exec_storedRow_next hla hlb hst hdone he⟩

end Sys2Proof.Machine

end


/-! PROOFS. Pre-emption, resumption and debug halt (R343, R347, R380 to R386). -/

section

namespace Sys2Proof.Machine

open Sys2Proof.Claims

/-! ## Control requests and their answers -/

/-- A control request that its reply names register `r` of slot `n` for. -/
def Requests (m : Msg) (n r : Nat) : Prop :=
  (∃ d a, m.body = .preempt n r d a) ∨ (∃ d a, m.body = .resume n r d a) ∨ m.body = .debugHalt n r

/-- The answer to a request of the own device is a reply with its bytes and its STATUS (R343). -/
theorem answerOp_replies {s : State} {m : Msg} {n r : Nat} (hm : Requests m n r) (hd : m.sdev = s.pkg.dev.toNat)
    (bytes st : Nat) : ∃ e, answerOp s m bytes st = { s with net := s.net ++ [e], uid := s.uid + 1 } ∧ e.ddev = m.sdev ∧
      e.dcore = m.score ∧ e.body = .reply n r (BitVec.ofNat 64 (bytes * 2 ^ 32 + st)) false := by
  have hto : answerOp s m bytes st = answer s m (.reply n r (BitVec.ofNat 64 (bytes * 2 ^ 32 + st)) false) := by
    unfold answerOp
    obtain ⟨d, a, h⟩ | ⟨d, a, h⟩ | h := hm <;> rw [h]
  obtain ⟨e, he, h1, h2, -, h4⟩ := answer_here s m (.reply n r (BitVec.ofNat 64 (bytes * 2 ^ 32 + st)) false) hd
  exact ⟨e, hto.trans he, h1, h2, h4⟩

/-- What the answer leaves, and the message that it is. -/
theorem answerOp_sent {s : State} {m : Msg} {n r : Nat} (hm : Requests m n r) (hd : m.sdev = s.pkg.dev.toNat)
    (bytes st : Nat) : (answerOp s m bytes st).cores = s.cores ∧ (answerOp s m bytes st).mem = s.mem ∧
      ∃ e ∈ (answerOp s m bytes st).net, e.ddev = m.sdev ∧ e.dcore = m.score ∧
        e.body = .reply n r (BitVec.ofNat 64 (bytes * 2 ^ 32 + st)) false := by
  obtain ⟨e, he, h1, h2, h3⟩ := answerOp_replies hm hd bytes st
  rw [he]
  exact ⟨rfl, rfl, e, List.mem_append_right _ (List.mem_singleton.2 rfl), h1, h2, h3⟩

theorem coreOf_of_cores {s u : State} (h : u.cores = s.cores) (c : Nat) : coreOf u c = coreOf s c := by
  unfold coreOf
  rw [h]

theorem errorBlind_dev : ErrorBlind (fun s => s.pkg.dev) where
  counts s c num := by
    unfold countSoft
    split <;> rfl
  marks _ _ := rfl
  injects _ _ := rfl
  logs _ _ := rfl

theorem isUserSlot_of_le {n : Nat} (h : 4 ≤ n) : isUserSlot n = true := decide_eq_true h
theorem isUserSlot_of_lt {n : Nat} (h : n < 4) : isUserSlot n = false := decide_eq_false (Nat.not_le.2 h)

theorem holdUsers_held {b : Bool} {k : Core} {y : Nat × Slot} (h : y ∈ (holdUsers b k).slots) (hn : 4 ≤ y.1) :
    y.2.isHeld = b := by
  obtain ⟨p, -, rfl⟩ := List.mem_map.1 h
  by_cases hp : isUserSlot p.1 = true
  · rw [if_pos hp]
  · rw [if_neg hp] at hn
    exact absurd (isUserSlot_of_le hn) hp

theorem restoredSlot_isHeld (cycle : Nat) (x : Slot) : (restoredSlot cycle x).isHeld = x.isHeld := by
  unfold restoredSlot
  split
  case h_8 => split <;> rfl
  all_goals rfl

/-- A request that its core takes: the core is awake, and the message gone. -/
def takenBy (s : State) (m : Msg) : State := wakeIdle (dropMsg s m.uid) m.dcore

section
variable {s : State} {m : Msg}

theorem takenBy_pkg : (takenBy s m).pkg = s.pkg := wakeSlots_pkg ..

theorem takenBy_core {β : Type} {π : Core → β} (h : WakeBlind π) : π (coreOf (takenBy s m) m.dcore) = π (coreOf s m.dcore) :=
  h.wakeSlots (dropMsg s m.uid) ..

theorem samePart_taken (hd : m.sdev = s.pkg.dev.toNat) (hp : m.part = (partOfCore s m.dcore).getD 64) :
    samePart (takenBy s m) m = true := by
  have hparts : partOfCore (takenBy s m) m.dcore = partOfCore s m.dcore := by
    unfold takenBy partOfCore wakeIdle
    rw [wakeSlots_parts]
    rfl
  unfold samePart
  rw [takenBy_pkg, hparts, ← hd, ← hp]
  simp

theorem controlArrival_takes (ha : arrived s m.uid = some m) (ho : (coreOf s m.dcore).op = none) (f : State → Msg → State) :
    controlArrival s m.uid f = some (f (takenBy s m) m) := by
  have hnone : (coreOf s m.dcore).op.isSome = false := by rw [ho]; rfl
  rw [controlArrival, ha, Option.bind_some, hnone, if_neg Bool.false_ne_true]
  rfl

end

/-! ## Requests at their core -/

section
variable {s : State} {m : Msg} {n r a : Nat} {desc : Word} (ha : arrived s m.uid = some m)
  (hd : m.sdev = s.pkg.dev.toNat) (hp : m.part = (partOfCore s m.dcore).getD 64)
include ha hd hp

theorem exec_preempt_held (hb : m.body = .preempt n r desc a) (ho : (coreOf s m.dcore).op = none)
    (hm : (coreOf s m.dcore).mode ≠ .running) :
    exec (.preemptArrival m.uid) s = .next (answerOp (takenBy s m) m 0 1) := by
  have hmode : isHeldCore (coreOf (takenBy s m) m.dcore) = true := by
    rw [isHeldCore, takenBy_core (π := Core.mode) fun _ _ _ => rfl]
    simpa using hm
  dsimp only [exec, execPreemptArrival, event]
  rw [(arrived_some ha).1, Option.bind_some, hb]
  dsimp only
  rw [controlArrival_takes ha ho, samePart_taken hd hp, hmode]
  rfl

/-- A PREEMPT of a running core whose descriptor is read without an error stops it (R381, R383). -/
theorem exec_preempt_stops {o : CoreOp} (hb : m.body = .preempt n r desc a) (ho : (coreOf s m.dcore).op = none)
    (hm : (coreOf s m.dcore).mode = .running)
    (hclean : ∀ key, descKey (takenBy s m) m.dcore a desc = some key → NoErrors s key 64 ∧
      AttrClean (takenBy s m) m.dcore (memNat s.mem (key + 16) 2))
    (hop : preemptOp (takenBy s m) m desc a = some o) :
    exec (.preemptArrival m.uid) s = .next (modCore (takenBy s m) m.dcore fun k =>
      holdUsers true { k with mode := .stopping, op := some o }) := by
  have hmode : isHeldCore (coreOf (takenBy s m) m.dcore) = false := by
    rw [isHeldCore, takenBy_core (π := Core.mode) fun _ _ _ => rfl, hm]
    rfl
  have hmeets : descMeets (takenBy s m) m.dcore a desc true = takenBy s m := by
    unfold descMeets
    cases hk : descKey (takenBy s m) m.dcore a desc with
    | none => rfl
    | some key =>
      obtain ⟨hdesc, hattr⟩ := hclean key hk
      have hnew : NoErrors (takenBy s m) key 64 := by
        have hecc : (takenBy s m).ecc = s.ecc := wakeSlots_ecc ..
        unfold NoErrors
        rw [hecc]
        exact hdesc
      have hmem : (takenBy s m).mem = s.mem := wakeSlots_mem ..
      dsimp only
      rw [eccRead_clean hnew, if_pos rfl]
      exact attrMeets_clean (hmem ▸ hattr)
  dsimp only [exec, execPreemptArrival, event]
  rw [(arrived_some ha).1, Option.bind_some, hb]
  dsimp only
  rw [controlArrival_takes ha ho, samePart_taken hd hp, hmode, hmeets, hop]
  rfl

/-- A RESUME of a pre-empted core waits there for its guest to leave (R386). -/
theorem exec_resume_waits (hb : m.body = .resume n r desc a) (ho : (coreOf s m.dcore).op = none)
    (hm : (coreOf s m.dcore).mode = .preempted) (hz : desc ≠ 0#64) :
    ∃ u o, exec (.resumeArrival m.uid) s = .next u ∧ (coreOf u m.dcore).op = some o ∧ o.req = m ∧
      (coreOf u m.dcore).mode = .preempted := by
  have hmode : (coreOf (takenBy s m) m.dcore).mode = .preempted := (takenBy_core (π := Core.mode) fun _ _ _ => rfl).trans hm
  have hheld : isHeldCore (coreOf (takenBy s m) m.dcore) = true := by rw [isHeldCore, hmode]; rfl
  dsimp only [exec, execResumeArrival, event]
  rw [(arrived_some ha).1, Option.bind_some, hb]
  dsimp only
  rw [controlArrival_takes ha ho, samePart_taken hd hp, hheld, if_neg (by simp), if_neg (by simp), if_neg hz,
    if_neg (fun h => h hmode), Option.getD_some]
  refine ⟨_, { req := m, launchAsid := (coreOf (takenBy s m) m.dcore).guestAsid.getD 0, tiles := 0, blocks := 0, image := 0,
               seq := (coreOf (takenBy s m) m.dcore).savedSeq, bytes := 0, due := (takenBy s m).cycle }, rfl, ?_, rfl, ?_⟩
  · rw [coreOf_modCore_same]
  · rw [coreOf_modCore_same]
    exact hmode

/-- A RESUME without a descriptor ends a debug halt (R347). -/
theorem exec_resume_ends (hb : m.body = .resume n r 0#64 a) (ho : (coreOf s m.dcore).op = none)
    (hm : (coreOf s m.dcore).mode = .debugHalt) :
    exec (.resumeArrival m.uid) s = .next (answerOp (endHalt (takenBy s m) m.dcore) m 0 0) := by
  have hmode : (coreOf (takenBy s m) m.dcore).mode = .debugHalt := (takenBy_core (π := Core.mode) fun _ _ _ => rfl).trans hm
  have hheld : isHeldCore (coreOf (takenBy s m) m.dcore) = true := by rw [isHeldCore, hmode]; rfl
  dsimp only [exec, execResumeArrival, event]
  rw [(arrived_some ha).1, Option.bind_some, hb]
  dsimp only
  rw [controlArrival_takes ha ho, samePart_taken hd hp, hheld, if_pos rfl, if_pos hmode]
  rfl

theorem exec_debugHalt (hb : m.body = .debugHalt n r) (hm : (coreOf s m.dcore).mode = .running) :
    exec (.debugHaltArrival m.uid) s = .next (answerOp (haltCore (takenBy s m) m.dcore) m 0 0) := by
  have hheld : isHeldCore (coreOf (takenBy s m) m.dcore) = false := by
    rw [isHeldCore, takenBy_core (π := Core.mode) fun _ _ _ => rfl, hm]
    rfl
  have hpart : samePart (wakeIdle (dropMsg s m.uid) m.dcore) m = true := samePart_taken hd hp
  have hcore : isHeldCore (coreOf (wakeIdle (dropMsg s m.uid) m.dcore) m.dcore) = false := hheld
  dsimp only [exec, execDebugHaltArrival, event]
  rw [(arrived_some ha).1, Option.bind_some, hb]
  dsimp only
  rw [ha, Option.map_some, hpart, hcore]
  rfl

end

theorem coreOf_endHalt (s : State) (c : Nat) : ∃ drain, coreOf (endHalt s c) c =
    { coreOf s c with
      mode := (coreOf s c).haltMode, draining := drain,
      slots := (coreOf s c).slots.map fun p =>
        if isUserSlot p.1 && (coreOf s c).haltMode = .restoring then p
        else (p.1, restoredSlot s.cycle { p.2 with isHeld := false }) } := by
  unfold endHalt reacceptGce
  rw [coreOf_modCluster, coreOf_modCore_same]
  exact ⟨_, rfl⟩

/-- After a debug halt a slot is HELD only where a pre-emption holds it besides (R347). -/
theorem endHalt_released {s : State} {c : Nat} {y : Nat × Slot} (hy : y ∈ (coreOf (endHalt s c) c).slots)
    (hc : y.1 < 4 ∨ (coreOf s c).haltMode ≠ .restoring) : y.2.isHeld = false := by
  obtain ⟨drain, hcore⟩ := coreOf_endHalt s c
  rw [hcore] at hy
  obtain ⟨p, -, rfl⟩ := List.mem_map.1 hy
  by_cases hp : (isUserSlot p.1 && decide ((coreOf s c).haltMode = .restoring)) = true
  · rw [if_pos hp] at hc
    rw [Bool.and_eq_true, decide_eq_true_eq] at hp
    obtain hc | hc := hc
    · rw [isUserSlot_of_lt hc] at hp
      exact absurd hp.1 Bool.false_ne_true
    · exact absurd hp.2 hc
  · rw [if_neg hp]
    exact restoredSlot_isHeld ..

/-! ## Saving and restoring -/

/-- A core whose drains have ended: its queued commands, and those of the GCE that are its own, leave with its context (R383). -/
def savingCore (o : CoreOp) (gce : List Cmd) (due : Nat) (k : Core) : Core :=
  { k with mode := .saving, savedCmds := k.active.filter (·.stop) ++ k.mxeq ++ k.vxeq ++ k.hodq ++ k.mniq ++ gce,
           active := k.active.filter fun y => !y.stop, mxeq := [], vxeq := [], hodq := [], mniq := [],
           op := some { o with due := due } }

/-- A core whose restore begins (R386). -/
def restoringCore (o : CoreOp) (k : Core) : Core := { holdUsers true k with mode := .restoring, op := some o }

/-- The state in which a core's context has been saved, before its answer (R383). -/
def savedState (s : State) (c : Nat) (o : CoreOp) : State :=
  let s0 := writeImage s c o
  traceAdd (modCore { s0 with enqs := s0.enqs ++ enqJobs s c } c (savedCore s c o)) c 0x06 0 0 0 0 (BitVec.ofNat 64 o.bytes) 0#64

section
variable {s : State} {c : Nat} {o : CoreOp} (ho : (coreOf s c).op = some o)
include ho

/-- Once its drains have ended a core's queued commands leave with its context (R383 step 3). -/
theorem exec_saveBegin (hm : (coreOf s c).mode = .stopping) (hdue : o.due ≤ s.cycle) (hw : saveWaits s c = false) :
    ∃ u l due, exec (.saveBegin c) s = .next u ∧ u.mem = s.mem ∧ coreOf u c = savingCore o l due (coreOf s c) := by
  have hgo : ¬ (decide ((coreOf s c).mode ≠ .stopping) || decide (s.cycle < o.due) || saveWaits s c) = true := by
    simp [hm, hw, hdue]
  dsimp only [exec, execSaveBegin, event]
  rw [ho]
  dsimp only
  rw [if_neg hgo, Option.getD_some]
  refine ⟨_, (clusterOf s (clusterOfCore c)).gceq.filter fun y => y.core == c,
    s.cycle + (o.bytes + 127) / 128 + 1 + Config.latency s.uid, rfl, rfl, ?_⟩
  exact coreOf_modCore_same s c (savingCore o _ _)

theorem exec_saveComplete (hm : (coreOf s c).mode = .saving) (hdue : o.due ≤ s.cycle) :
    exec (.saveComplete c) s = .next (answerOp (savedState s c o) o.req o.bytes 0) := by
  have hgo : ¬ (decide ((coreOf s c).mode ≠ .saving) || decide (s.cycle < o.due)) = true := by simp [hm, hdue]
  dsimp only [exec, execSaveComplete, event]
  rw [ho]
  dsimp only
  rw [if_neg hgo]
  rfl

theorem exec_restoreBegin (hm : (coreOf s c).mode = .preempted) (hg : guestGone s c = true)
    (hclean : ∀ n r desc a key, o.req.body = .resume n r desc a → descKey s c a desc = some key → NoErrors s key 64)
    {a n : Nat} (hi : resumeImage s c o.req = some (a, n)) :
    ∃ u o1, exec (.restoreBegin c) s = .next u ∧ (coreOf u c).mode = .restoring ∧ (coreOf u c).op = some o1 ∧
      o1.image = a ∧ o1.bytes = n ∧ o1.req = o.req := by
  have hgo : ¬ (decide ((coreOf s c).mode ≠ .preempted) || !guestGone s c) = true := by simp [hm, hg]
  have hmeets (n r a : Nat) (desc : Word) (hb : o.req.body = .resume n r desc a) : descMeets s c a desc false = s := by
    unfold descMeets
    cases hk : descKey s c a desc with
    | none => rfl
    | some key =>
      dsimp only
      rw [eccRead_clean (hclean n r desc a key hb hk)]
      rfl
  have hresume : ∃ n r desc a, o.req.body = .resume n r desc a := by
    unfold resumeImage at hi
    split at hi
    next n r desc a hb => exact ⟨n, r, desc, a, hb⟩
    next => cases hi
  obtain ⟨n', r', desc, a', hb⟩ := hresume
  dsimp only [exec, execRestoreBegin, event]
  rw [ho]
  dsimp only
  rw [if_neg hgo, hb]
  dsimp only
  rw [hmeets _ _ _ _ hb, hi]
  dsimp only [Option.getD_some]
  refine ⟨_, { o with image := a, bytes := n, tiles := fieldAt (coreOf s c).savedHead 18 2,
                      blocks := fieldAt (coreOf s c).savedHead 20 8,
                      due := s.cycle + (n + 127) / 128 + 1 + Config.latency s.uid }, rfl, ?_, ?_, rfl, rfl, rfl⟩
  · exact congrArg Core.mode (coreOf_modCore_same s c (restoringCore _))
  · exact congrArg Core.op (coreOf_modCore_same s c (restoringCore _))

end

/-- What a core's mode is after a restore, its operation and the slots that it still keeps away. -/
def restoreOf (k : Core) : CoreMode × Option CoreOp × SMap Slot := (k.mode, k.op, k.savedSlots)

theorem restoreOf_restoredCore (s : State) (o : CoreOp) (bs : List Byte) (k : Core) :
    restoreOf (restoredCore s o bs k) = (.running, none, []) :=
  List.foldlRecOn (motive := fun u => restoreOf u = (.running, none, [])) (setTiles o).zipIdx _ rfl fun _ hu _ _ => hu

theorem restoreOf_traceAdd (s : State) (c kind slot peer ccid asid : Nat) (arg pc : Word) (d : Nat) :
    restoreOf (coreOf (traceAdd s c kind slot peer ccid asid arg pc) d) = restoreOf (coreOf s d) := by
  unfold traceAdd
  exact coreOf_modCore_keeps (π := restoreOf) (by intro; dsimp only [restoreOf]) s c d

/-- A restore that is due ends with the core RUNNING and answers (R386). -/
theorem exec_restoreComplete {s : State} {c : Nat} {o : CoreOp} (ho : (coreOf s c).op = some o)
    (hm : (coreOf s c).mode = .restoring) (hdue : o.due ≤ s.cycle) :
    ∃ v, exec (.restoreComplete c) s = .next (answerOp v o.req o.bytes 0) ∧ v.pkg.dev = s.pkg.dev ∧
      restoreOf (coreOf v c) = (.running, none, []) := by
  have hgo : ¬ (decide ((coreOf s c).mode ≠ .restoring) || decide (s.cycle < o.due)) = true := by simp [hm, hdue]
  dsimp only [exec, execRestoreComplete, event]
  rw [ho]
  dsimp only
  rw [if_neg hgo]
  refine ⟨_, rfl, ?_, ?_⟩
  · have hplaced (u : State) (f : Nat × Nat → Nat) (h : Nat × Nat → List Byte) :
        ((setBlocks o).zipIdx.foldl (fun a p => placeBytes a (f p) (h p)) u).pkg = u.pkg :=
      foldl_keeps (f := State.pkg) (g := fun a p => placeBytes a (f p) (h p)) (fun _ _ => rfl) _ _
    exact (congrArg Pkg.dev (hplaced ..)).trans (errorBlind_dev.eccReads s c _)
  · have hplaced (u : State) (f : Nat × Nat → Nat) (h : Nat × Nat → List Byte) :
        coreOf ((setBlocks o).zipIdx.foldl (fun a p => placeBytes a (f p) (h p)) u) c = coreOf u c :=
      foldl_keeps (f := fun u => coreOf u c) (g := fun a p => placeBytes a (f p) (h p)) (fun _ _ => rfl) _ _
    rw [restoreOf_traceAdd]
    refine (congrArg restoreOf (hplaced ..)).trans ?_
    rw [coreOf_modCluster, coreOf_modCore_same]
    exact restoreOf_restoredCore ..

theorem coreOf_traceAdd_rest (s : State) (c kind slot peer ccid asid : Nat) (arg pc : Word) :
    ∃ tr kinds n, coreOf (traceAdd s c kind slot peer ccid asid arg pc) c =
      { coreOf s c with trace := tr, traceKinds := kinds, traceCount := n } := by
  unfold traceAdd
  rw [coreOf_modCore_same]
  exact ⟨_, _, _, rfl⟩

/-- What writing a save image leaves of the package: its device number. -/
theorem writeImage_dev (s : State) (c : Nat) (o : CoreOp) : (writeImage s c o).pkg.dev = s.pkg.dev := by
  have hplace (g : List (Nat × Nat)) : ∀ (u : State) (bs : List Byte), (placeSegs u g bs).pkg = u.pkg := by
    induction g with
    | nil => exact fun _ _ => rfl
    | cons e g ih => exact fun u bs => ih ..
  have hmarks (u : State) (g : List (Nat × Nat)) : (saveMarks u c o g).pkg.dev = u.pkg.dev := by
    unfold saveMarks
    exact (errorBlind_dev.marks ..).trans (errorBlind_dev.eccReads ..)
  have himage : ((match imageSegs s c o.req.asid .write o.image o.bytes with
      | some g => saveMarks (placeSegs s g (imageBytes s c o)) c o g
      | none => s) : State).pkg.dev = s.pkg.dev := by
    split
    · exact (hmarks ..).trans (congrArg Pkg.dev (hplace ..))
    · rfl
  unfold writeImage
  dsimp only
  split
  · split
    · exact himage
    · exact himage
  · exact himage

theorem savedState_dev (s : State) (c : Nat) (o : CoreOp) : (savedState s c o).pkg.dev = s.pkg.dev := writeImage_dev s c o

theorem coreOf_savedState (s : State) (c : Nat) (o : CoreOp) : ∃ tr kinds n, coreOf (savedState s c o) c =
    { savedCore s c o (coreOf (writeImage s c o) c) with trace := tr, traceKinds := kinds, traceCount := n } := by
  unfold savedState
  obtain ⟨tr, kinds, n, h⟩ := coreOf_traceAdd_rest (modCore { writeImage s c o with
    enqs := (writeImage s c o).enqs ++ enqJobs s c } c (savedCore s c o)) c 0x06 0 0 0 0 (BitVec.ofNat 64 o.bytes) 0#64
  exact ⟨tr, kinds, n, h.trans (by rw [coreOf_modCore_same]; rfl)⟩

/-- Settles O54. -/
theorem preemption : Obligations.Preemption := by
  intro s c k answers
  have hsent {u : State} {m : Msg} {n r : Nat} (bytes st : Nat) (hr : Requests m n r) (hd : m.sdev = u.pkg.dev.toNat) :
      answers (answerOp u m bytes st) m n r bytes st := (answerOp_sent hr hd bytes st).2.2
  have hcore {u : State} {m : Msg} {n r : Nat} (bytes st : Nat) (hr : Requests m n r) (hd : m.sdev = u.pkg.dev.toNat) (d : Nat) :
      coreOf (answerOp u m bytes st) d = coreOf u d := coreOf_of_cores (answerOp_sent hr hd bytes st).1 d
  refine ⟨?_, ?_⟩
  · intro m ha _ hc hd hp u0
    subst hc
    have htaken : m.sdev = (takenBy s m).pkg.dev.toNat := hd.trans (congrArg (fun p : Pkg => p.dev.toNat) takenBy_pkg.symm)
    have hmode : (coreOf (takenBy s m) m.dcore).mode = k.mode := takenBy_core (π := Core.mode) fun _ _ _ => rfl
    have hhalt : (coreOf (takenBy s m) m.dcore).haltMode = k.haltMode := takenBy_core (π := Core.haltMode) fun _ _ _ => rfl
    refine ⟨?_, ?_, ?_⟩
    · intro n r desc a hb ho
      have hr : Requests m n r := .inl ⟨desc, a, hb⟩
      refine ⟨fun hm hclean o hop => ⟨_, exec_preempt_stops ha hd hp hb ho hm hclean hop, ?_, ?_, ?_⟩, fun hm => ?_⟩
      · rw [coreOf_modCore_same]; rfl
      · rw [coreOf_modCore_same]; rfl
      · rw [coreOf_modCore_same]
        exact fun y hy hn => holdUsers_held hy hn
      · exact ⟨_, exec_preempt_held ha hd hp hb ho hm, by rw [hcore 0 1 hr htaken, hmode], hsent 0 1 hr htaken⟩
    · intro n r desc a hb ho
      refine ⟨exec_resume_waits ha hd hp hb ho, fun hm hz => ?_⟩
      subst hz
      have hr : Requests m n r := .inr (.inl ⟨_, a, hb⟩)
      obtain ⟨drain, hend⟩ := coreOf_endHalt (takenBy s m) m.dcore
      refine ⟨_, exec_resume_ends ha hd hp hb ho hm, ?_, hsent 0 0 hr htaken, ?_⟩
      · rw [hcore (u := endHalt (takenBy s m) m.dcore) 0 0 hr htaken, hend, hhalt]
      · rw [hcore (u := endHalt (takenBy s m) m.dcore) 0 0 hr htaken]
        exact fun y hy hcase => endHalt_released hy (by rw [hhalt]; exact hcase)
    · intro n r hb hm
      have hr : Requests m n r := .inr (.inr hb)
      refine ⟨_, exec_debugHalt ha hd hp hb hm, ?_, hsent 0 0 hr htaken, ?_⟩
      · rw [hcore (u := haltCore (takenBy s m) m.dcore) 0 0 hr htaken]
        exact haltCore_mode ..
      · rw [hcore (u := haltCore (takenBy s m) m.dcore) 0 0 hr htaken]
        exact fun y hy => haltCore_held hy
  · intro o ho
    refine ⟨?_, ?_, ?_, ?_⟩
    · intro hm hdue hw
      obtain ⟨u, l, due, hu, hmem, hk⟩ := exec_saveBegin ho hm hdue hw
      refine ⟨u, hu, ?_⟩
      rw [hk]
      refine ⟨rfl, rfl, rfl, rfl, rfl, hmem, fun y hy => ?_⟩
      simp only [savingCore, List.mem_append] at hy ⊢
      tauto
    · intro hm hdue hd n r desc a hb
      have hr : Requests o.req n r := .inl ⟨desc, a, hb⟩
      have hdev : o.req.sdev = (savedState s c o).pkg.dev.toNat := by rw [savedState_dev]; exact hd
      obtain ⟨tr, kinds, cnt, hk⟩ := coreOf_savedState s c o
      refine ⟨_, exec_saveComplete ho hm hdue, ?_⟩
      rw [hcore o.bytes 0 hr hdev, hk, (answerOp_sent hr hdev o.bytes 0).2.1]
      refine ⟨rfl, rfl, rfl, fun y hy hn => ?_, hsent o.bytes 0 hr hdev, rfl⟩
      obtain ⟨p, -, rfl⟩ := List.mem_map.1 hy
      by_cases hp : isUserSlot p.1 = true
      · rw [if_pos hp]; rfl
      · rw [if_neg hp] at hn
        exact absurd (isUserSlot_of_le hn) hp
    · exact fun hm hg hclean a n hi => exec_restoreBegin ho hm hg hclean hi
    · intro hm hdue hd n r desc a hb
      have hr : Requests o.req n r := .inr (.inl ⟨desc, a, hb⟩)
      obtain ⟨v, hv, hdev, hparts⟩ := exec_restoreComplete ho hm hdue
      have hd' : o.req.sdev = v.pkg.dev.toNat := by rw [hdev]; exact hd
      obtain ⟨hmode, hrest⟩ := Prod.mk.inj hparts
      obtain ⟨hop, hslots⟩ := Prod.mk.inj hrest
      refine ⟨_, hv, ?_, ?_, ?_, hsent _ _ hr hd'⟩
      · rw [hcore _ _ hr hd', hmode]
      · rw [hcore _ _ hr hd', hop]
      · rw [hcore _ _ hr hd', hslots]

end Sys2Proof.Machine

end


/-! PROOFS. The monitor and the rest of a core (R336 to R388). -/

section

namespace Sys2Proof.Machine

open Sys2Proof.Claims

section
variable {s : State} {c : Nat}

theorem exec_spillDelivery {m : Msg} {rest : List Msg} (hm : (coreOf s c).mode = .running) (hs : (coreOf s c).spill = m :: rest)
    (hn : (coreOf s c).spillNext ≤ s.cycle) (hq : bodyQueues m.body = false ∨ (coreOf s c).inbox.length < Config.inboxSize) :
    exec (.spillQueueDelivery c) s = .next (deliverSpilled (modCore s c (spillLeft s.cycle rest)) m) := by
  have hroom : (bodyQueues m.body && decide (Config.inboxSize ≤ (coreOf s c).inbox.length)) = false := by
    obtain hq | hq := hq
    · rw [hq]; rfl
    · rw [decide_eq_false (Nat.not_le.2 hq), Bool.and_false]
  dsimp only [exec, execSpillQueueDelivery, event]
  rw [if_neg (Nat.not_lt.2 hn), hm, hs]
  dsimp only
  rw [hroom]
  rfl

theorem wdFired_traceAdd (kind slot peer ccid asid : Nat) (arg pc : Word) :
    (coreOf (traceAdd s c kind slot peer ccid asid arg pc) c).wdFired = (coreOf s c).wdFired := by
  unfold traceAdd
  rw [coreOf_modCore_same]

theorem traceCount_traceAdd (kind slot peer ccid asid : Nat) (arg pc : Word) :
    (coreOf (traceAdd s c kind slot peer ccid asid arg pc) c).traceCount = (coreOf s c).traceCount + 1 := by
  unfold traceAdd
  rw [coreOf_modCore_same]

/-- The watchdog fires with a record in the core's trace (R388). -/
theorem exec_watchdog (hq : (coreOf s c).qwd ≠ 0#64) (hf : (coreOf s c).wdFired = false)
    (hn : (coreOf s c).qwd.toNat ≤ (coreOf s c).wdCount) :
    ∃ u, exec (.quiescenceWatchdogFire c) s = .next u ∧ (coreOf u c).wdFired = true ∧ u.mem = s.mem ∧
      (coreOf u c).traceCount = (coreOf s c).traceCount + 1 := by
  have hgo : ¬ (decide ((coreOf s c).qwd = 0#64) || (coreOf s c).wdFired || decide ((coreOf s c).wdCount < (coreOf s c).qwd.toNat)) =
      true := by simp [hq, hf, hn]
  dsimp only [exec, execQuiescenceWatchdogFire, event]
  rw [if_neg hgo, Option.getD_some]
  refine ⟨_, rfl, ?_, ?_, ?_⟩
  · rw [wakeIdle, WakeBlind.wakeSlots (π := Core.wdFired) fun _ _ _ => rfl, notice, coreOf_putMsg, wdFired_traceAdd,
      coreOf_modCore_same]
  · rw [wakeIdle, wakeSlots_mem, notice, putMsg_here _ _ (.inr rfl)]
    rfl
  · rw [wakeIdle, WakeBlind.wakeSlots (π := Core.traceCount) fun _ _ _ => rfl, notice, coreOf_putMsg, traceCount_traceAdd,
      coreOf_modCore_same]

theorem exec_scrub {g : Nat} (hs : (coreOf s c).scrub ≠ 0#32) (hg : g < 98304) :
    exec (.patrolScrub c g) s = .next (eccRead s c (scrubKey c g) 8).1 := by
  have hgo : ¬ (decide ((coreOf s c).scrub = 0#32) || decide (98304 ≤ g)) = true := by simp [hs, hg]
  dsimp only [exec, execPatrolScrub, event]
  rw [if_neg hgo, Option.getD_some]

theorem exec_thermalTrip (hc : c < 1024) (hr : (coreOf s c).rot = true) :
    ∃ u, exec (.thermalTrip c) s = .next u ∧ u.pkg.alerts = s.pkg.alerts ++ [c] := by
  have hfix : islandFixed s c = true := by rw [islandFixed, if_pos hc, hr]
  dsimp only [exec, execThermalTrip, event]
  rw [if_pos hfix, if_pos hc, Option.getD_some]
  exact ⟨_, rfl, by rw [wakeIdle, wakeSlots_pkg]; rfl⟩

theorem exec_clockStop (hr : (coreOf s c).rot = false) (hk : (coreOf s c).clockStopped = false)
    (hs : ∀ y ∈ (coreOf s c).slots, y.2.st = .free ∨ y.2.st = .waiting) :
    exec (.islandClockStop c) s = .next (modCore s c fun y => { y with clockStopped := true }) := by
  have hall : ((coreOf s c).slots.all fun p => decide (p.2.st = .free) || decide (p.2.st = .waiting)) = true := by
    simpa using hs
  dsimp only [exec, execIslandClockStop, event]
  rw [if_neg, Option.getD_some]
  simp only [hr, hk, Bool.or_self, Bool.false_or, Bool.not_eq_true', Bool.not_eq_false]
  simpa using hs

end

/-! ## Page walks -/

/-- The state in which a walk has been made: the soft errors that it met are noted, and it is over. -/
def walkedState (s : State) (w : Walk) : State :=
  let s1 := walkMeets s w.core (partOfCore s w.core) w.asid w.va.toNat
  { s1 with walks := s1.walks.filter fun v => v.uid != w.uid }

theorem wait_walkedState (s : State) (w : Walk) (c n : Nat) : (slotOf (walkedState s w) c n).wait = (slotOf s c n).wait :=
  (errorBlind_slot Slot.wait c n).walkMeets ..

section
variable {s : State} {w : Walk} {n : Bool} (hw : (s.walks.find? fun y => y.uid == w.uid) = some w) (hd : w.due ≤ s.cycle)
  (hf : walkFollows s w = false) (hs : (slotOf s w.core w.slot).wait = .walk w.uid n)
include hw hd hf

theorem exec_pageWalk :
    exec (.pageWalk w.uid) s = .next (walkEnds (walkedState s w) w (walkTables s (partOfCore s w.core) w.asid w.va.toNat)) := by
  dsimp only [exec, execPageWalk, event]
  rw [hw, Option.bind_some, if_neg (by simp [hd, hf]), Option.getD_some]
  rfl

include hs

theorem exec_pageWalk_found {leaf lv : Nat} (h : walkTables s (partOfCore s w.core) w.asid w.va.toNat = .ok (leaf, lv)) :
    exec (.pageWalk w.uid) s = .next (reissueSlot (modCore (walkedState s w) w.core
      fun y => { y with tlb := y.tlb ++ [tlbOf w.asid w.va.toNat leaf lv] }) w.core w.slot) := by
  rw [exec_pageWalk hw hd hf, h]
  unfold walkEnds
  dsimp only
  rw [wait_walkedState, hs]
  exact congrArg _ (if_pos (beq_self_eq_true _))

theorem exec_pageWalk_fails {lv st : Nat} (h : walkTables s (partOfCore s w.core) w.asid w.va.toNat = .error (lv, st)) :
    exec (.pageWalk w.uid) s = .next (takeTrap (reissueSlot (walkedState s w) w.core w.slot) w.core w.slot
      (trapInfo 0x07 w.va (BitVec.ofNat 64 (walkDetail lv st))) none) := by
  rw [exec_pageWalk hw hd hf, h]
  unfold walkEnds
  dsimp only
  rw [wait_walkedState, hs]
  exact congrArg _ (if_pos (beq_self_eq_true _))

end

/-! ## Kill fences -/

theorem settle_kills (s : State) (c : Nat) : (settle s c).kills = s.kills := wakeSlots_kills ..

theorem clearLive_kills (s : State) (asid : Nat) : (clearLive s asid).kills = s.kills := by
  unfold clearLive
  dsimp only
  split <;> rfl

theorem threadOf_clearLive (s : State) (asid c n : Nat) : threadOf (clearLive s asid) c n = threadOf s c n := by
  unfold clearLive
  dsimp only
  split
  · exact threadOf_storeBy ..
  · rfl

theorem threadOf_discardTlb (s : State) (p : Option Nat) (kind asid va c n : Nat) :
    threadOf (discardTlb s p kind asid va) c n = threadOf s c n := by
  refine mapGet_map_keeps (π := fun k => (slotIn k n).thread) Core.fresh s.cores c (fun q => ?_) (fun q => ?_)
  · split <;> rfl
  · split <;> rfl

/-- KILLING of an ASID cleared where no other fence of it runs (R366). -/
def killingCleared (s : State) (asid : Nat) : State :=
  if s.kills.any fun k => k.asid == asid then s else setKilling s asid false

theorem killingCleared_kills (s : State) (asid : Nat) : (killingCleared s asid).kills = s.kills := by
  unfold killingCleared
  split <;> rfl

theorem threadOf_killingCleared (s : State) (asid c n : Nat) : threadOf (killingCleared s asid) c n = threadOf s c n := by
  unfold killingCleared
  split
  · rfl
  · exact threadOf_storeBy ..

/-- A kill fence before its KILL is answered (R366 steps 5 and 6). -/
def killedState (s : State) (q : Kill) : State :=
  let s1 := { s with
    kills := s.kills.filter fun k => k.uid != q.uid,
    clusters := s.clusters.map fun k =>
      if (partOfCore s (k.1 * 8)).getD 64 == q.part then (k.1, killRings q.asid k.2) else k }
  let s3 := killingCleared (discardTlb s1 (if q.part < 64 then some q.part else none) 1 q.asid 0) q.asid
  if q.unlive then clearLive s3 q.asid else s3

theorem killEnd_answered {s : State} {q : Kill} {c n r : Nat} (h : q.issuer = some (c, n, r)) :
    killEnd s q = settle (fillReg (killedState s q) c n r (BitVec.ofNat 64 q.count)) c := by
  unfold killEnd
  dsimp only
  rw [h]
  rfl

theorem killEnd_alone {s : State} {q : Kill} (h : q.issuer = none) : killEnd s q = killedState s q := by
  unfold killEnd
  dsimp only
  rw [h]
  rfl

theorem killedState_kills (s : State) (q : Kill) : (killedState s q).kills = s.kills.filter fun k => k.uid != q.uid := by
  unfold killedState
  dsimp only
  rw [apply_ite State.kills, clearLive_kills, ite_self]
  exact killingCleared_kills ..

theorem threadOf_killedState (s : State) (q : Kill) (c n : Nat) : threadOf (killedState s q) c n = threadOf s c n := by
  unfold killedState
  dsimp only
  rw [apply_ite (threadOf · c n), threadOf_clearLive, ite_self, threadOf_killingCleared]
  exact threadOf_discardTlb ..

theorem killEnd_kills (s : State) (q : Kill) : (killEnd s q).kills = s.kills.filter fun k => k.uid != q.uid := by
  cases h : q.issuer with
  | none => rw [killEnd_alone h, killedState_kills]
  | some i =>
    obtain ⟨c, n, r⟩ := i
    rw [killEnd_answered h, settle_kills, fillReg, wakeSlots_kills, modThread_kills]
    exact killedState_kills s q

/-- rd of the KILL takes the count of the threads that went (R342). -/
theorem killEnd_fills {s : State} {q : Kill} {c n r : Nat} {t : Thread} (h : q.issuer = some (c, n, r)) (hr : r < 10)
    (ht : threadOf s c n = some t) :
    ∃ t1, threadOf (killEnd s q) c n = some t1 ∧ regOf t1 r = ⟨BitVec.ofNat 64 q.count, true, false⟩ := by
  refine ⟨writeReg t r (BitVec.ofNat 64 q.count), ?_, regOf_writeReg_same t ⟨r, hr⟩ _⟩
  rw [killEnd_answered h, settle, threadOf_wakeSlots, threadOf_fillReg, threadOf_killedState, ht, Option.map_some]

section
variable {s : State} {q : Kill} (hq : (s.kills.find? fun y => y.uid == q.uid) = some q) (hd : q.due ≤ s.cycle)
include hq hd

theorem exec_killFence_begins (hb : q.begun = false) : exec (.killFence q.uid) s = .next (killBegin s q) := by
  dsimp only [exec, execKillFence, event]
  rw [hq]
  dsimp only
  rw [if_neg (Nat.not_lt.2 hd), hb]
  rfl

theorem exec_killFence_ends (hb : q.begun = true) (hm : killedMsgs s q = []) (hw : killWaits s q = false) :
    exec (.killFence q.uid) s = .next (killEnd s q) := by
  dsimp only [exec, execKillFence, event]
  rw [hq]
  dsimp only
  rw [if_neg (Nat.not_lt.2 hd), hb, hm, hw]
  rfl

end

/-- Settles O55. -/
theorem coreEvents : Obligations.CoreEvents := by
  intro s c k
  refine ⟨?_, ?_, ?_, ?_, ?_, ?_, ?_, ?_⟩
  · exact fun m rest hm hs hn hq => exec_spillDelivery hm hs hn hq
  · exact fun hq hf hn => exec_watchdog hq hf hn
  · intro g hs hg
    rw [exec_scrub hs (by omega), scrubKey, if_pos hg]
  · intro g hs hlo hg
    rw [exec_scrub hs hg, scrubKey, if_neg (Nat.not_lt.2 hlo)]
  · exact exec_thermalTrip
  · exact exec_clockStop
  · intro w n hw hd hc hf hs s0 s1
    subst hc
    exact ⟨fun leaf lv h => exec_pageWalk_found hw hd hf hs h, fun lv st h => exec_pageWalk_fails hw hd hf hs h⟩
  · intro q hq hd
    refine ⟨exec_killFence_begins hq hd, fun hb hm hw => ⟨_, exec_killFence_ends hq hd hb hm hw, fun y hy => ?_, ?_⟩⟩
    · rw [killEnd_kills] at hy
      simpa using (List.mem_filter.1 hy).2
    · exact fun d n r t hi hr ht => killEnd_fills hi hr ht

end Sys2Proof.Machine

end


/-! PROOFS. Partition commands (R357 to R365). -/

section

namespace Sys2Proof.Machine

open Sys2Proof.Claims

/-! ## What the parts of a command leave of the partitions -/

theorem partOf_modPart_same (s : State) (p : Nat) (f : Part → Part) : partOf (modPart s p f) p = f (partOf s p) :=
  mapGet_mapSet_same ..

theorem partOf_of_parts {s u : State} (h : u.parts = s.parts) (p : Nat) : partOf u p = partOf s p := by
  rw [partOf, partOf, h]

theorem ErrorBlind.devMeets {α : Type} {f : State → α} (h : ErrorBlind f) (s : State) (k n : Nat) : f (devMeets s k n) = f s := by
  unfold Machine.devMeets
  dsimp only
  split
  · rfl
  · exact (foldl_keeps (f := f) h.logs _ _).trans (h.marks ..)

theorem recordMeets_mem (s : State) : (recordMeets s).mem = s.mem := by
  unfold recordMeets
  split
  · rfl
  · exact softBlind_mem.toErrorBlind.devMeets ..

theorem platformTrap_parts (s : State) (c : Nat) (r : TrapRec) : (platformTrap s c r).parts = s.parts := by
  unfold platformTrap
  dsimp only
  repeat' split
  all_goals rfl

theorem ownTrap_parts (s : State) (c n : Nat) (r : TrapRec) : (ownTrap s c n r).parts = s.parts := by
  unfold ownTrap
  dsimp only
  repeat' split
  · exact platformTrap_parts ..
  · exact platformTrap_parts ..
  · rfl

theorem takeTrap_low_parts {n : Nat} (hn : n < 4) (s : State) (c : Nat) (r : TrapInfo) (d : Option Nat) :
    (takeTrap s c n r d).parts = s.parts := by
  unfold takeTrap
  dsimp only
  split
  · rfl
  · split
    · unfold departHome
      rw [postHere_eq]
      rfl
    · rw [isUserSlot_of_lt hn]
      exact ownTrap_parts ..

theorem spawnLow_parts {n : Nat} (hn : n < 4) (s : State) (c pc a0 a1 : Nat) : (spawnLow s c n pc a0 a1).parts = s.parts := by
  unfold spawnLow
  dsimp only
  split
  · rfl
  · exact takeTrap_low_parts hn ..

theorem spawnSupervisors_parts (s : State) (p : Nat) : (spawnSupervisors s p).parts = s.parts :=
  foldl_keeps (f := State.parts) (fun u c => by
    simp only [List.foldl_cons, List.foldl_nil]
    rw [spawnLow_parts (by decide), spawnLow_parts (by decide), spawnLow_parts (by decide)]) _ _

theorem clearCluster_parts (s : State) (cl : Nat) (b : Bool) : (clearCluster s cl b).parts = s.parts := by
  unfold clearCluster
  exact foldl_keeps (f := State.parts) (g := fun a i => clearCore a (cl * 8 + i) b) (fun _ _ => rfl) _ _

theorem st_clearPart (s : State) (p : Nat) (b : Bool) : (partOf (clearPart s p b) p).st = (partOf s p).st := by
  unfold clearPart
  dsimp only
  rw [partOf_modPart_same, partOf_of_parts (foldl_keeps (f := State.parts) (fun u cl => clearCluster_parts u cl b) _ _)]
  rfl

theorem holdCores_parts (s : State) (p : Nat) : (holdCores s p).parts = s.parts :=
  foldl_keeps (f := State.parts) (fun u c => by
    split
    · exact wakeSlots_parts ..
    · rfl) _ _

theorem holdCores_mem (s : State) (p : Nat) : (holdCores s p).mem = s.mem :=
  foldl_keeps (f := State.mem) (fun u c => by
    split
    · exact wakeSlots_mem ..
    · rfl) _ _

theorem continueCores_parts (s : State) (p : Nat) : (continueCores s p).parts = s.parts := by
  unfold continueCores
  exact foldl_keeps (f := State.parts) (g := fun a c => reacceptGce (modCore a c continuedCore) c) (fun _ _ => rfl) _ _

theorem swapOutCluster_parts (s : State) (p cl : Nat) : (swapOutCluster s p cl).parts = s.parts := by
  unfold swapOutCluster
  exact foldl_keeps (f := State.parts) (g := fun a c => zeroBytes (setCore a c vacantCore) (tcmKey c 0) Config.tcmBytes)
    (fun _ _ => rfl) _ _

theorem swapInCluster_parts (s : State) (cl : Nat) : (swapInCluster s cl).parts = s.parts := by
  unfold swapInCluster
  split
  · rfl
  · refine (foldl_keeps (f := State.parts) (g := fun a (k : Core × Nat) => setCore a (cl * 8 + k.2) k.1) (fun _ _ => rfl) _ _).trans ?_
    dsimp only
    rw [modCluster_parts]
    exact foldl_keeps (f := State.parts) (g := fun a i => zeroBytes a (tcmKey (cl * 8 + i) 0) Config.tcmBytes) (fun _ _ => rfl) _ _

theorem st_counterEnd (s : State) (p id w : Nat) : (partOf (counterEnd s (some p) id w) p).st = (partOf s p).st := by
  unfold counterEnd
  dsimp only
  split
  · rw [partOf_modPart_same]
    rfl
  · rfl

theorem st_settleCounters (s : State) (p : Nat) : (partOf (settleCounters s p) p).st = (partOf s p).st :=
  foldl_keeps (f := fun u => (partOf u p).st) (fun u i => by
    dsimp only
    split
    · rfl
    · exact st_counterEnd ..) _ _

/-- A command that ends (R358). -/
theorem finishPart_ends {u : State} {p st : Nat} (status : Nat) (h : (partOf u p).st = st) :
    (partOf (finishPart u p status) p).cmd = none ∧ (finishPart u p status).pkg.partStatus = BitVec.ofNat 8 status ∧
      (partOf (finishPart u p status) p).st = st := by
  have hp : partOf (finishPart u p status) p = { partOf u p with cmd := none } :=
    partOf_modPart_same u p fun q => { q with cmd := none }
  rw [hp]
  exact ⟨rfl, rfl, h⟩

/-! ## Held cores -/

/-- A core that HALT or RESET finds RUNNING is held by it (R362). -/
theorem holdCores_mode {s : State} {p k : Nat} (hk : k ∈ coresOfPart s p) (hm : (coreOf s k).mode = .running) :
    (coreOf (holdCores s p) k).mode = .partHalt := by
  have hstep (a : State) (c : Nat) (h : c ≠ k) :
      coreOf (if holdable (coreOf a c) then modCore (wakeIdle a c) c heldCore else a) k = coreOf a k := by
    split
    · rw [coreOf_modCore_other _ _ _ _ (Ne.symm h), wakeIdle, coreOf_wakeSlots_other _ _ _ _ (Ne.symm h)]
    · rfl
  have hfold (l : List Nat) : ∀ a : State, (coreOf a k).mode = .partHalt ∨ k ∈ l ∧ (coreOf a k).mode = .running →
      (coreOf (l.foldl (fun a c => if holdable (coreOf a c) then modCore (wakeIdle a c) c heldCore else a) a) k).mode =
        .partHalt := by
    induction l with
    | nil =>
      rintro a (h | ⟨h, -⟩)
      · exact h
      · cases h
    | cons c l ih =>
      intro a h
      refine ih _ ?_
      by_cases hc : c = k
      · subst hc
        left
        dsimp only
        obtain h | ⟨-, h⟩ := h
        · rw [if_neg (by simp [holdable, h])]
          exact h
        · rw [if_pos (by simp [holdable, h]), coreOf_modCore_same]
          rfl
      · dsimp only
        rw [hstep a c hc]
        obtain h | ⟨hl, h⟩ := h
        · exact .inl h
        · exact .inr ⟨(List.mem_cons.1 hl).resolve_left (Ne.symm hc), h⟩
  exact hfold _ s (.inr ⟨hk, hm⟩)

end Sys2Proof.Machine

end


/-! PROOFS. Partition commands start and complete (R358 to R365). -/

section

namespace Sys2Proof.Machine

open Sys2Proof.Claims

/-! ## The start of a command -/

/-- The state from which a row of a partition command starts its command: the platform has selected it (R358). -/
def selectedPart (s : State) (p op : Nat) : State := modPkg s fun k => { k with partSel := BitVec.ofNat 6 p, partOp := BitVec.ofNat 3 op }

theorem cmd_of_idle {s : State} (h : partBusy s = false) (p : Nat) : (partOf s p).cmd = none := by
  unfold partBusy at h
  unfold partOf
  generalize s.parts = l at h
  induction l with
  | nil => rfl
  | cons q l ih =>
    rw [List.any_cons, Bool.or_eq_false_iff] at h
    rw [mapGet]
    split
    · exact Option.not_isSome_iff_eq_none.1 (by rw [h.1]; exact Bool.false_ne_true)
    · exact ih h.2

theorem partCommand_starts {s : State} (p op : Nat) (h : partBusy s = false) :
    partCommand s p op = .next (startPart (selectedPart s p op) p op) := by
  unfold partCommand
  rw [cmd_of_idle h]
  dsimp only
  rw [h]
  rfl

theorem refusalStatus_selected (s : State) (p op q : Nat) :
    refusalStatus (selectedPart s p op) q op = refusalStatus s q op := rfl

/-- The row of a partition command, and what refuses it (R358, R359). -/
theorem exec_partLine {i : Instr} {p : BitVec 6} {op : Nat} {states : List Nat} (h : partLine i = some (p, op, states)) (s : State) :
    exec i s = partCommand s p.toNat op ∧ ((partOf s p.toNat).st ∉ states → refusalStatus s p.toNat op = 1) := by
  unfold partLine at h
  split at h
  case h_8 => cases h
  all_goals
    cases h
    refine ⟨rfl, fun hst => ?_⟩
    unfold refusalStatus
    exact if_pos (by simpa using hst)

section
variable (s : State) (p op : Nat)

/-- A state in which a command that may run has begun (R359, R362). -/
def begunPart : State :=
  let s0 := if op = 1 && refusalStatus s p op != 1 then recordMeets s else s
  if refusalStatus s p op = 0 then partBegin s0 p op else s0

theorem cmd_startPart : (partOf (startPart s p op) p).cmd =
    some { op := op, phase := 1, due := s.cycle + partDelay s op, status := refusalStatus s p op } :=
  congrArg Part.cmd (partOf_modPart_same (begunPart s p op) p fun q =>
    { q with cmd := some { op := op, phase := 1, due := s.cycle + partDelay s op, status := refusalStatus s p op } })

theorem st_startPart : (partOf (startPart s p op) p).st = (partOf (begunPart s p op) p).st :=
  (congrArg Part.st (partOf_modPart_same (begunPart s p op) p fun q =>
    { q with cmd := some { op := op, phase := 1, due := s.cycle + partDelay s op, status := refusalStatus s p op } })).trans rfl

variable {s p op}

theorem begunPart_refused (h : refusalStatus s p op = 1) : begunPart s p op = s := by
  unfold begunPart
  rw [h]
  simp

theorem begunPart_mem : (begunPart s p op).mem = s.mem := by
  have hbegin (u : State) : (partBegin u p op).mem = u.mem := by
    unfold partBegin
    split
    · split <;> rfl
    · exact holdCores_mem ..
    · exact holdCores_mem ..
    · rfl
  have hmeets : (if op = 1 && refusalStatus s p op != 1 then recordMeets s else s).mem = s.mem := by
    split
    · exact recordMeets_mem s
    · rfl
  unfold begunPart
  dsimp only
  split
  · exact (hbegin _).trans hmeets
  · exact hmeets

/-- HALT and RESET hold the partition's running cores as they start (R362, R365). -/
theorem begunPart_holds (hst : refusalStatus s p op = 0) (hop : op = 2 ∨ op = 6) : begunPart s p op = holdCores s p := by
  unfold begunPart
  dsimp only
  rw [if_pos hst]
  obtain rfl | rfl := hop <;> rfl

end

/-! ## The end of a command -/

theorem beginKill_parts (s : State) (a p : Nat) (i : Option (Nat × Nat × Nat)) (b : Bool) : (beginKill s a p i b).parts = s.parts := rfl

theorem killPart_parts (s : State) (p : Nat) (b : Bool) : (killPart s p b).parts = s.parts :=
  foldl_keeps (f := State.parts) (fun u a => beginKill_parts u a p none b) _ _

/-- A kill fence begins for each live ASID of the partition (R365). -/
theorem killPart_fences {s : State} {p a : Nat} {b : Bool} (ha : a ∈ liveAsids s p) :
    ∃ q ∈ (killPart s p b).kills, q.asid = a ∧ q.part = p := by
  have hfold (l : List Nat) : ∀ u : State, (∃ q ∈ u.kills, q.asid = a ∧ q.part = p) ∨ a ∈ l →
      ∃ q ∈ (l.foldl (fun u i => beginKill u i p none b) u).kills, q.asid = a ∧ q.part = p := by
    induction l with
    | nil =>
      rintro u (h | h)
      · exact h
      · cases h
    | cons i l ih =>
      intro u h
      have hkills : (beginKill u i p none b).kills = u.kills ++
          [{ uid := u.uid, begun := false, asid := i, part := p, issuer := none, count := 0, due := u.cycle + 1, unlive := b }] := rfl
      refine ih _ ?_
      rw [hkills]
      obtain ⟨q, hq, hqa⟩ | h := h
      · exact .inl ⟨q, List.mem_append_left _ hq, hqa⟩
      · obtain rfl | h := List.mem_cons.1 h
        · exact .inl ⟨_, List.mem_append_right _ (List.mem_singleton.2 rfl), rfl, rfl⟩
        · exact .inr h
  exact hfold _ s (.inr ha)

theorem st_setPartState (s : State) (p st : Nat) : (partOf (setPartState s p st) p).st = st :=
  congrArg Part.st (partOf_modPart_same s p fun q => { q with st := st })

section
variable {s : State} {p : Nat} {c : PartCmd} (hc : (partOf s p).cmd = some c) (hp : c.phase ≠ 0) (hd : c.due ≤ s.cycle)
include hc hp hd

theorem exec_partComplete_fails (h : c.status ≠ 0) : exec (.partitionCommandComplete p) s = .next (finishPart s p c.status) := by
  have hgo : ¬ (decide (c.phase = 0) || decide (s.cycle < c.due)) = true := by simp [hp, hd]
  dsimp only [exec, execPartitionCommandComplete, event]
  rw [hc]
  dsimp only
  rw [if_neg hgo, if_pos h]
  rfl

theorem exec_partComplete {u : State} (h : c.status = 0) (hu : partStep s p c = some u) :
    exec (.partitionCommandComplete p) s = .next u := by
  have hgo : ¬ (decide (c.phase = 0) || decide (s.cycle < c.due)) = true := by simp [hp, hd]
  dsimp only [exec, execPartitionCommandComplete, event]
  rw [hc]
  dsimp only
  rw [if_neg hgo, if_neg (fun hn => hn h), hu]
  rfl

end

/-- The steps that wait for the partition's cores: one that can be held is (R362). -/
theorem partStep_holds {s : State} {p : Nat} {c : PartCmd} (hop : c.op = 2 ∨ c.op = 6 ∧ c.phase = 1)
    (hh : ∃ k ∈ coresOfPart s p, holdable (coreOf s k) = true) : partStep s p c = some (holdCores s p) := by
  have hany : ((coresOfPart s p).any fun k => holdable (coreOf s k)) = true := List.any_eq_true.2 hh
  unfold partStep
  dsimp only
  rw [hany]
  obtain hop | ⟨hop, hphase⟩ := hop
  · rw [hop]
    rfl
  · rw [hop, if_pos hphase]
    rfl

theorem partStep_fences {s : State} {p : Nat} {c : PartCmd} (hphase : c.phase = 1) (hop : c.op = 6 ∧
    ((∀ k ∈ coresOfPart s p, holdable (coreOf s k) = false) ∧ halted s p = true) ∨ c.op = 7) :
    ∃ b, partStep s p c = some (fencePhase (killPart s p b) p) := by
  unfold partStep
  dsimp only
  obtain ⟨hop, hnone, hhalt⟩ | hop := hop
  · have hany : ((coresOfPart s p).any fun k => holdable (coreOf s k)) = false := by simpa using hnone
    rw [hany, hhalt, hop, if_pos hphase]
    exact ⟨false, rfl⟩
  · rw [hop]
    exact ⟨true, if_pos hphase⟩

/-- Whether a command with every check passed ends now, with its partition in state `st` (R359). -/
def EndsIn (s : State) (p : Nat) (c : PartCmd) (st : Nat) : Prop :=
  c.op = 1 ∧ st = 1 ∨
    c.op = 2 ∧ ((∀ k ∈ coresOfPart s p, holdable (coreOf s k) = false) ∧ halted s p = true) ∧ st = 2 ∨
    c.op = 3 ∧ st = 1 ∨ c.op = 4 ∧ st = 3 ∨ c.op = 5 ∧ st = 2 ∨
    c.op = 6 ∧ (c.phase = 2 ∧ fencing s p = false) ∧ st = 1 ∨ c.op = 7 ∧ (c.phase = 2 ∧ fencing s p = false) ∧ st = 0

theorem partStep_ends {s : State} {p : Nat} {c : PartCmd} {st : Nat} (h : EndsIn s p c st) :
    ∃ u, partStep s p c = some (finishPart u p 0) ∧ (partOf u p).st = st := by
  unfold partStep
  dsimp only
  obtain ⟨hop, rfl⟩ | ⟨hop, ⟨hnone, hhalt⟩, rfl⟩ | ⟨hop, rfl⟩ | ⟨hop, rfl⟩ | ⟨hop, rfl⟩ | ⟨hop, ⟨hphase, hf⟩, rfl⟩ |
    ⟨hop, ⟨hphase, hf⟩, rfl⟩ := h <;> rw [hop]
  · refine ⟨_, rfl, ?_⟩
    rw [partOf_of_parts (spawnSupervisors_parts ..), st_clearPart]
    exact st_setPartState s p 1
  · have hany : ((coresOfPart s p).any fun k => holdable (coreOf s k)) = false := by simpa using hnone
    rw [hany, hhalt]
    exact ⟨_, rfl, st_setPartState ..⟩
  · exact ⟨_, rfl, st_setPartState ..⟩
  · exact ⟨_, rfl, st_setPartState ..⟩
  · exact ⟨_, rfl, st_setPartState ..⟩
  · refine ⟨_, (if_neg (hphase ▸ by decide)).trans (if_neg (hf ▸ Bool.false_ne_true)), ?_⟩
    rw [partOf_of_parts (spawnSupervisors_parts ..), st_clearPart, st_settleCounters, st_setPartState]
  · refine ⟨_, (if_neg (hphase ▸ by decide)).trans (if_neg (hf ▸ Bool.false_ne_true)), ?_⟩
    rw [partOf_modPart_same]
    rfl

/-- Settles O56. -/
theorem partitionCommands : Obligations.PartitionCommands := by
  intro s
  refine ⟨?_, ?_, ?_⟩
  · intro i p op states hi hb
    obtain ⟨hexec, hrefuse⟩ := exec_partLine hi s
    have hstatus := refusalStatus_selected s p.toNat op p.toNat
    refine ⟨startPart (selectedPart s p.toNat op) p.toNat op, _, hexec.trans (partCommand_starts _ _ hb), cmd_startPart ..,
      rfl, rfl, ?_, hstatus, ?_, ?_, ?_⟩
    · have hdelay : 0 < partDelay (selectedPart s p.toNat op) op := by
        unfold partDelay
        split <;> omega
      exact Nat.lt_add_of_pos_right hdelay
    · exact begunPart_mem (s := selectedPart s p.toNat op)
    · intro hst
      have hone := hstatus.trans (hrefuse hst)
      refine ⟨hone, (congrArg State.cores (begunPart_refused hone) :), ?_⟩
      rw [st_startPart, begunPart_refused hone]
      rfl
    · intro hz hop k hk hm
      have hheld := holdCores_mode (s := selectedPart s p.toNat op) hk hm
      exact (congrArg (fun u => (coreOf u k).mode) (begunPart_holds hz hop)).trans hheld
  · intro p hb
    dsimp only [exec, execSelectOnly, event]
    rw [hb]
    rfl
  · intro p c hc hp hd ends still
    have hends (st : Nat) (hz : c.status = 0) (u : State) (hu : partStep s p c = some (finishPart u p 0))
        (hst : (partOf u p).st = st) : ends st := by
      refine ⟨_, exec_partComplete hc hp hd hz hu, ?_⟩
      rw [hz]
      exact finishPart_ends 0 hst
    refine ⟨fun hn => ⟨_, exec_partComplete_fails hc hp hd hn, finishPart_ends c.status rfl⟩, fun hz => ?_⟩
    have hstep {st : Nat} (h : EndsIn s p c st) : ends st := by
      obtain ⟨u, hu, hst⟩ := partStep_ends (s := s) (p := p) (c := c) (st := st) h
      exact hends st hz u hu hst
    refine ⟨?_, ?_, ?_, ?_, ?_, ?_, ?_, ?_, ?_⟩
    · exact fun h => hstep (.inl ⟨h, rfl⟩)
    · exact fun h hs => hstep (.inr (.inl ⟨h, hs, rfl⟩))
    · exact fun h => hstep (.inr (.inr (.inl ⟨h, rfl⟩)))
    · exact fun h => hstep (.inr (.inr (.inr (.inl ⟨h, rfl⟩))))
    · exact fun h => hstep (.inr (.inr (.inr (.inr (.inl ⟨h, rfl⟩)))))
    · exact fun h h2 hf => hstep (.inr (.inr (.inr (.inr (.inr (.inl ⟨h, ⟨h2, hf⟩, rfl⟩))))))
    · exact fun h h2 hf => hstep (.inr (.inr (.inr (.inr (.inr (.inr ⟨h, ⟨h2, hf⟩, rfl⟩))))))
    · exact fun hop hh => exec_partComplete hc hp hd hz (partStep_holds hop hh)
    · intro hphase hop
      obtain ⟨b, hu⟩ := partStep_fences hphase hop
      refine ⟨_, exec_partComplete hc hp hd hz hu, ?_, fun a ha => killPart_fences ha⟩
      refine (congrArg Part.cmd (partOf_modPart_same (killPart s p b) p fun q =>
        { q with cmd := q.cmd.map fun c => { c with phase := 2 } })).trans ?_
      dsimp only
      rw [partOf_of_parts (killPart_parts s p b), hc]
      rfl

end Sys2Proof.Machine

end


/-! PROOFS. The mailbox and the host's accesses (R345 to R347, R369, R373, R406 to R408, R417). -/

section

namespace Sys2Proof.Machine

open Sys2Proof.Claims

/-! ## Counter commands keep the cycle -/

theorem errorBlind_cycle : ErrorBlind State.cycle where
  counts s c num := by
    unfold countSoft
    split <;> rfl
  marks _ _ := rfl
  injects _ _ := rfl
  logs _ _ := rfl

theorem counterMeets_cycle (s : State) (p : Option Nat) (id : Nat) : (counterMeets s p id).cycle = s.cycle := by
  unfold counterMeets
  split
  · rfl
  · split
    · rfl
    · exact errorBlind_cycle.devMeets ..

theorem counterWrite_cycle (s : State) (p : Option Nat) (id w : Nat) : (counterWrite s p id w).cycle = s.cycle := by
  unfold counterWrite
  split <;> rfl

theorem counterEnd_cycle (s : State) (p : Option Nat) (id w : Nat) : (counterEnd s p id w).cycle = s.cycle := by
  unfold counterEnd
  dsimp only
  split
  · exact counterWrite_cycle ..
  · split
    · exact counterWrite_cycle ..
    · exact counterWrite_cycle ..

theorem counterCompleteN_cycle (p : Option Nat) : ∀ (fuel : Nat) (s : State) (id : Nat) (e : Bool),
    (counterCompleteN fuel s p id e).cycle = s.cycle
  | 0, _, _, _ => rfl
  | fuel + 1, s, id, e => by
    unfold counterCompleteN
    dsimp only
    split
    · exact counterMeets_cycle ..
    · split
      · split
        · exact (counterEnd_cycle ..).trans (counterMeets_cycle ..)
        · exact (counterCompleteN_cycle p fuel ..).trans ((counterEnd_cycle ..).trans (counterMeets_cycle ..))
      · exact (counterWrite_cycle ..).trans (counterMeets_cycle ..)

theorem counterCancelN_cycle (p : Nat) : ∀ (fuel : Nat) (s : State) (id : Nat), (counterCancelN fuel s p id).cycle = s.cycle
  | 0, _, _ => rfl
  | fuel + 1, s, id => by
    unfold counterCancelN
    dsimp only
    split
    · rfl
    · split
      · split
        · exact counterEnd_cycle ..
        · exact (counterCompleteN_cycle ..).trans (counterEnd_cycle ..)
      · exact (foldl_keeps (f := State.cycle) (fun u i => counterCancelN_cycle p fuel u i) _ _).trans (counterWrite_cycle ..)

theorem counterCancel_cycle (s : State) (p id : Nat) : (counterCancel s p id).cycle = s.cycle := counterCancelN_cycle p 4 s id

theorem counterCommand_cycle (s : State) (p : Option Nat) (op level id parent count : Nat) :
    (counterCommand s p op level id parent count).1.cycle = s.cycle := by
  cases p with
  | none => rfl
  | some q =>
    have hmeets : (counterMeets (counterMeets s (some q) id) (some q) parent).cycle = s.cycle :=
      (counterMeets_cycle ..).trans (counterMeets_cycle ..)
    unfold counterCommand
    dsimp only
    generalize counterMeets (counterMeets s (some q) id) (some q) parent = u at hmeets
    repeat' split
    all_goals simp only [counterWrite_cycle, counterCancel_cycle, modPart_cycle, hmeets]

/-! ## The mailbox -/

/-- The state with a command of the mailbox written in its area (R408). -/
def tookCommand (s : State) (op tag : Nat) (args : List Byte) : State :=
  modPkg s fun p =>
    { p with cmdArea := leBytes 2 op ++ leBytes 2 tag ++ leBytes 4 0 ++ (args ++ List.replicate (56 - args.length) 0#8) }

section
variable {s : State} {op tag : Nat} {args : List Byte} {f : State → State × Answer}

theorem mailbox_busy (h : s.pkg.busy = true) : mailbox s op tag args f = .next { s with pkg := { s.pkg with ovr := true } } := by
  unfold mailbox
  rw [h]
  rfl

theorem mailbox_runs (h : s.pkg.busy = false) :
    mailbox s op tag args f = .next (respond (f (tookCommand s op tag args)).1 op tag (f (tookCommand s op tag args)).2) := by
  unfold mailbox
  rw [h]
  rfl

end

section
variable {s : State} {c : Nat}

theorem chaltNow_denied (h : (coreOf s c).dbgctl.getLsbD 1 = false) : chaltNow c s = (s, 2, []) := by
  unfold chaltNow
  dsimp only
  rw [h]
  rfl

theorem chaltNow_held (h : (coreOf s c).dbgctl.getLsbD 1 = true) (hm : (coreOf s c).mode ≠ .running) : chaltNow c s = (s, 1, []) := by
  have hheld : isHeldCore (coreOf s c) = true := by simpa [isHeldCore] using hm
  unfold chaltNow
  dsimp only
  rw [h, hheld]
  rfl

theorem chaltNow_halts (h : (coreOf s c).dbgctl.getLsbD 1 = true) (hm : (coreOf s c).mode = .running) :
    chaltNow c s = (haltCore s c, 0, []) := by
  have hheld : isHeldCore (coreOf s c) = false := by rw [isHeldCore, hm]; rfl
  unfold chaltNow
  dsimp only
  rw [h, hheld]
  rfl

theorem cresumeNow_denied (h : (coreOf s c).dbgctl.getLsbD 1 = false) : cresumeNow c s = (s, 2, []) := by
  unfold cresumeNow
  dsimp only
  rw [h]
  rfl

theorem cresumeNow_runs (h : (coreOf s c).dbgctl.getLsbD 1 = true) (hm : (coreOf s c).mode ≠ .debugHalt) :
    cresumeNow c s = (s, 1, []) := by
  unfold cresumeNow
  dsimp only
  rw [h]
  exact if_pos hm

theorem cresumeNow_ends (h : (coreOf s c).dbgctl.getLsbD 1 = true) (hm : (coreOf s c).mode = .debugHalt) :
    cresumeNow c s = (endHalt s c, 0, []) := by
  unfold cresumeNow
  dsimp only
  rw [h, if_neg (by decide), if_neg (fun hn => hn hm)]

end

/-- Eight bytes written into the command area read back (R408). -/
theorem areaWrite_reads {s : State} {o : Nat} {v : Word} (hl : s.pkg.cmdArea.length = 64) (ho : o ≤ 56) :
    fieldAt (areaWrite s o v).pkg.cmdArea o 8 = v.toNat := by
  have harea : (areaWrite s o v).pkg.cmdArea =
      s.pkg.cmdArea.take o ++ (leBytes 8 v.toNat ++ s.pkg.cmdArea.drop (o + 8)) := by
    unfold areaWrite modPkg
    dsimp only
    have hwhole : (leBytes 8 v.toNat).take (64 - o) = leBytes 8 v.toNat :=
      List.take_of_length_le (by rw [length_leBytes]; omega)
    rw [hl, Nat.sub_self, List.replicate_zero, List.append_nil, List.append_assoc, hwhole]
  have htake : (s.pkg.cmdArea.take o).length = o := by rw [List.length_take, hl]; omega
  rw [fieldAt, harea, List.drop_left' htake, List.take_left' (length_leBytes ..), leNat_leBytes]
  exact Nat.mod_eq_of_lt v.isLt

theorem exec_areaWrite {s : State} {j : Nat} {v : Word} (hb : s.pkg.busy = false) (hj : j < 8) :
    exec (.mailboxOverrun (BitVec.ofNat 12 (8 * j)) v) s = .next (areaWrite s (8 * j) v) := by
  have hofs : (BitVec.ofNat 12 (8 * j)).toNat = 8 * j := by
    rw [BitVec.toNat_ofNat]
    omega
  have hlow : 8 * j < 0x40 := by omega
  dsimp only [exec, execMailboxOverrun, event]
  rw [hofs, hb, Bool.and_false, if_neg Bool.false_ne_true, if_pos hlow, Option.getD_some]

/-! ## The host's accesses -/

section
variable {s : State} {a ring side : Nat} {ws : Vector Word 8} {x y : Word}

theorem exec_hostStore (data : List Byte) : exec (.hostStore a data) s = .next (if haclAllows s a data.length
    then hostSees (storeBytes s a data) [] false else hostSees s [] true) := rfl

theorem exec_hostRead (n : Nat) : exec (.hostRead a n) s = .next (if haclAllows s a n
    then hostSees s (memBytes s.mem a n) (eccBad s.ecc a n) else hostSees s (List.replicate n 0#8) true) := rfl

/-- A host append to a QCB without a side ring, all of whose addresses the host may use (R369, R406). -/
theorem exec_hostAppend {q : Qcb} (hq : q = qcbAt s a (fieldAt (memBytes s.mem a 16) 12 2)) (h1 : haclAllows s a 256 = true)
    (h2 : haclAllows s (ring + 64 * (q.claim % q.cap)) 64 = true) (hok : q.ok = true) (hside : q.side = 0) :
    exec (.hostAppend a ring side ws x y) s = .next (if qcbClosed q || qcbFull q then
        hostSees (qcbSet s a 200 ((memNat s.mem (a + 200) 8 + 1) % 2 ^ 64)) (leBytes 8 0) false
      else hostSees (modPkg (storeBytes (qcbSet s a 128 ((q.claim + 1) % 2 ^ 64)) (ring + 64 * (q.claim % q.cap)) (packetBytes ws))
        fun p => { p with hostAppends := p.hostAppends ++ [{ qcb := a, claim := q.claim }] }) (leBytes 8 1) false) := by
  have hkey : q.key = a := by rw [hq]; rfl
  dsimp only [exec, execHostAppend, event]
  rw [← hq, h1, h2, hok, hside, hkey]
  rfl

end

end Sys2Proof.Machine

end


/-! PROOFS. Boot (R410), and the host's interface as a whole. -/

section

namespace Sys2Proof.Machine

open Sys2Proof.Claims

/-! ## What the spawn of slot 0 leaves of the package -/

/-- What boot's spawning of cores leaves: the mailbox's answer, the clusters that are not available, the partitions, the
clusters. -/
def bootedOf (s : State) : Option (List Byte × Nat) × List Nat × SMap Part × SMap Cluster :=
  (s.pkg.mbox, s.pkg.badClusters, s.parts, s.clusters)

theorem bootedOf_platformTrap (s : State) (c : Nat) (r : TrapRec) : bootedOf (platformTrap s c r) = bootedOf s := by
  unfold platformTrap
  dsimp only
  repeat' split
  all_goals rfl

theorem bootedOf_takeTrap (s : State) (c : Nat) (r : TrapInfo) (d : Option Nat) : bootedOf (takeTrap s c 0 r d) = bootedOf s := by
  unfold takeTrap
  dsimp only
  split
  · rfl
  · split
    · unfold departHome
      rw [postHere_eq]
      rfl
    · exact bootedOf_platformTrap ..

theorem bootedOf_spawnLow (s : State) (c pc a0 a1 : Nat) : bootedOf (spawnLow s c 0 pc a0 a1) = bootedOf s := by
  unfold spawnLow
  dsimp only
  split
  · rfl
  · exact bootedOf_takeTrap ..

theorem bootedOf_bootCore (s : State) (c : Nat) : bootedOf (bootCore s c) = bootedOf s := by
  unfold bootCore
  dsimp only
  rw [bootedOf_spawnLow]
  exact foldl_keeps (f := bootedOf) (g := fun a (g : Segment) => storeBytes a (tcmKey c g.place) (segmentBytes s.pkg.image g))
    (fun _ _ => rfl) _ _

theorem bootedOf_bootCores (l : List Nat) (s : State) : bootedOf (l.foldl bootCore s) = bootedOf s :=
  foldl_keeps (f := bootedOf) bootedOf_bootCore l s

/-! ## Boot -/

/-- The code that boot leaves in its status word (R410). -/
def bootCode (s : State) : Word :=
  if imageOk s.pkg.image = false ∨ imageSigned s = false then 0x10#64
  else if inventoryOk s = false then 0x11#64
  else if Config.trainOk s.fresh = false then 0x12#64
  else if Config.trainOk (s.fresh + 1) = false then 0x13#64
  else if fieldAt s.pkg.image 32 4 = 0 then 0x14#64
  else 1#64

/-- What a boot that ends with `code` leaves (R410). -/
structure Boots (s u : State) (code : Word) : Prop where
  status : u.pkg.bootStatus = code
  stopped : code ≠ 1#64 → u.pkg.busy = s.pkg.busy ∧ u.pkg.booted = s.pkg.booted ∧ u.cores = s.cores
  early : code.toNat ≤ 0x12 → code ≠ 1#64 → u.mem = s.mem
  hbm : code = 0x13#64 → u.mem = cellsFrom s.mem (tcmKey 0 0)
  stores : code = 0x14#64 → u.mem = cellsFrom s.mem (hostKey 0)
  done : code = 1#64 → (s.pkg.mbox = none → u.pkg.busy = false) ∧ u.pkg.booted = true ∧
    u.pkg.badClusters = inventoryClusters s.pkg.inventory ∧ u.parts = [] ∧ u.clusters = []

theorem boots_fails {s v : State} {code : Nat} {w : Word} (hw : BitVec.ofNat 64 code = w) (hpkg : v.pkg.busy = s.pkg.busy)
    (hboot : v.pkg.booted = s.pkg.booted) (hcores : v.cores = s.cores) (he : w.toNat ≤ 0x12 → v.mem = s.mem)
    (hh : w = 0x13#64 → v.mem = cellsFrom s.mem (tcmKey 0 0)) (hs : w = 0x14#64 → v.mem = cellsFrom s.mem (hostKey 0))
    (hone : w ≠ 1#64) : Boots s (bootFails v code) w where
  status := hw
  stopped _ := ⟨hpkg, hboot, hcores⟩
  early h _ := he h
  hbm := hh
  stores := hs
  done h := absurd h hone

theorem boots_ends (s : State) (l : List Nat) :
    Boots s (bootEnd (l.foldl bootCore (bootUnits (bootClear { s with fresh := s.fresh + 2 })))) 1#64 where
  status := rfl
  stopped h := absurd rfl h
  early _ h := absurd rfl h
  hbm h := absurd h (by decide)
  stores h := absurd h (by decide)
  done _ := by
    have hkept := bootedOf_bootCores l (bootUnits (bootClear { s with fresh := s.fresh + 2 }))
    obtain ⟨hmbox, hrest⟩ := Prod.mk.inj hkept
    obtain ⟨hbad, hrest⟩ := Prod.mk.inj hrest
    obtain ⟨hparts, hclus⟩ := Prod.mk.inj hrest
    refine ⟨fun hnone => ?_, rfl, hbad, hparts, hclus⟩
    have hbox : (l.foldl bootCore (bootUnits (bootClear { s with fresh := s.fresh + 2 }))).pkg.mbox = none := hmbox.trans hnone
    exact congrArg Option.isSome hbox

theorem exec_boot {s : State} (hb : s.pkg.booted = false) (hz : s.pkg.bootStatus = 0#64) :
    ∃ u, exec .boot s = .next u ∧ Boots s u (bootCode s) := by
  have hgo : ¬ (s.pkg.booted || decide (s.pkg.bootStatus ≠ 0#64)) = true := by simp [hb, hz]
  dsimp only [exec, execBoot, event]
  rw [if_neg hgo]
  unfold bootCode
  by_cases h1 : imageOk s.pkg.image = false ∨ imageSigned s = false
  · rw [if_pos h1, if_pos (by obtain h | h := h1 <;> simp [h])]
    exact ⟨_, rfl, boots_fails rfl rfl rfl rfl (fun _ => rfl) (fun h => absurd h (by decide)) (fun h => absurd h (by decide))
      (by decide)⟩
  have h1' : ¬ (!(imageOk s.pkg.image && imageSigned s)) = true := by
    simpa [not_or] using h1
  rw [if_neg h1, if_neg h1']
  by_cases h2 : inventoryOk s = false
  · rw [if_pos h2, if_pos (by rw [h2]; rfl)]
    exact ⟨_, rfl, boots_fails rfl rfl rfl rfl (fun _ => rfl) (fun h => absurd h (by decide)) (fun h => absurd h (by decide))
      (by decide)⟩
  rw [if_neg h2, if_neg (by simpa using h2)]
  by_cases h3 : Config.trainOk s.fresh = false
  · rw [if_pos h3, if_pos (by rw [h3]; rfl)]
    exact ⟨_, rfl, boots_fails rfl rfl rfl rfl (fun _ => rfl) (fun h => absurd h (by decide)) (fun h => absurd h (by decide))
      (by decide)⟩
  rw [if_neg h3, if_neg (by simpa using h3)]
  by_cases h4 : Config.trainOk (s.fresh + 1) = false
  · rw [if_pos h4, if_pos (by rw [h4]; rfl)]
    exact ⟨_, rfl, boots_fails rfl rfl rfl rfl (fun h => absurd h (by decide)) (fun _ => rfl) (fun h => absurd h (by decide))
      (by decide)⟩
  rw [if_neg h4, if_neg (by simpa using h4)]
  by_cases h5 : fieldAt s.pkg.image 32 4 = 0
  · rw [if_pos h5, if_pos h5]
    exact ⟨_, rfl, boots_fails rfl rfl rfl rfl (fun h => absurd h (by decide)) (fun h => absurd h (by decide)) (fun _ => rfl)
      (by decide)⟩
  · rw [if_neg h5, if_neg h5]
    exact ⟨_, rfl, boots_ends s _⟩

end Sys2Proof.Machine

end


/-! PROOFS. The mailbox's commands, the host's accesses and boot together (R406 to R410). -/

section

namespace Sys2Proof.Machine

open Sys2Proof.Claims

/-- The halves of the result of a counter block (R373, R408). -/
theorem counterNow_runs {s : State} {part lo hi : Nat} (hp : part < 64) (hst : (partOf s part).st ≠ 0) (hz : bits hi 63 32 = 0) :
    counterNow part lo hi s =
      let r := counterCommand s (some part) (bits lo 7 0) (bits lo 15 8) (bits lo 31 16) (bits lo 47 32) (bits hi 31 0)
      (r.1, r.2, leBytes 6 lo ++ leBytes 2 r.2 ++ leBytes 8 hi) := by
  have hgo : ¬ (decide (64 ≤ part) || decide ((partOf s part).st = 0)) = true := by simp [hp, hst]
  unfold counterNow
  dsimp only
  rw [if_neg hgo, if_neg (fun hn => hn hz)]

theorem counterNow_malformed {s : State} {part lo hi : Nat} (hp : part < 64) (hst : (partOf s part).st ≠ 0)
    (hz : bits hi 63 32 ≠ 0) : counterNow part lo hi s = (s, 4, leBytes 6 lo ++ leBytes 2 4 ++ leBytes 8 hi) := by
  have hgo : ¬ (decide (64 ≤ part) || decide ((partOf s part).st = 0)) = true := by simp [hp, hst]
  unfold counterNow
  dsimp only
  rw [if_neg hgo, if_pos hz]

theorem counterNow_unbound {s : State} {part lo hi : Nat} (h : 64 ≤ part ∨ (partOf s part).st = 0) :
    counterNow part lo hi s = (s, 0xFE, leBytes 6 lo ++ leBytes 2 (bits lo 63 48) ++ leBytes 8 hi) :=
  if_pos (by simpa using h)

theorem exec_unlisted {s : State} {op tag : BitVec 16} (h : op.toNat = 0 ∨ 7 ≤ op.toNat) :
    exec (.unlistedMailboxOp op tag) s = mailbox s op.toNat tag.toNat [] fun u => (u, 0xFF, []) :=
  if_neg (by simp only [Bool.and_eq_true, decide_eq_true_eq]; omega)

/-- Settles O58. -/
theorem hostInterface : Obligations.HostInterface := by
  refine ⟨?_, ?_⟩
  · intro s tag core op part a lo hi len padded took tells
    have htells (v : State) (o st : Nat) (bs : List Byte) (hc : v.cycle = s.cycle) :
        tells (respond v o tag.toNat (st, bs)) v o st bs :=
      ⟨v.cycle + 1 + Config.latency v.uid, by omega, rfl⟩
    have hruns {o : Nat} {args : List Byte} {f : State → State × Answer} {v : State} {st : Nat} {bs : List Byte}
        (hb : s.pkg.busy = false) (hf : f (took o args) = (v, st, bs)) :
        mailbox s o tag.toNat args f = .next (respond v o tag.toNat (st, bs)) := by
      have hr := mailbox_runs (s := s) (op := o) (tag := tag.toNat) (args := args) (f := f) hb
      have hf' : f (tookCommand s o tag.toNat args) = (v, st, bs) := hf
      rwa [hf'] at hr
    refine ⟨?_, ?_, ?_, ?_⟩
    · intro hb i hi hop
      simp only [List.mem_cons, List.not_mem_nil, or_false] at hi
      obtain rfl | rfl | rfl | rfl | rfl | rfl | rfl | rfl := hi
      · exact mailbox_busy hb
      · exact mailbox_busy hb
      · exact mailbox_busy hb
      · exact mailbox_busy hb
      · exact mailbox_busy hb
      · exact mailbox_busy hb
      · exact (exec_unlisted hop).trans (mailbox_busy hb)
      · dsimp only [exec, execMailboxOverrun, event]
        rw [if_pos (by rw [hb]; decide)]
        rfl
    · dsimp only [exec, execMailboxOverrun, event]
      rw [if_neg (by simp), if_neg (by decide), if_neg (by decide), if_pos (by decide)]
      rfl
    · intro bs due hm hdue
      unfold mailboxEnd
      rw [hm]
      exact ⟨_, if_neg (Nat.not_lt.2 hdue), rfl, rfl, rfl, rfl, rfl, rfl⟩
    · intro hb k
      refine ⟨?_, ?_, ?_, ?_, ?_, ?_, ?_, ?_, ?_⟩
      · exact fun j hj hl => ⟨_, exec_areaWrite hb hj, areaWrite_reads hl (by omega), hb, rfl, rfl⟩
      · dsimp only [exec, execMailboxOverrun, event]
        rw [hb]
        rfl
      · exact ⟨_, hruns hb rfl, htells _ 1 0 _ rfl⟩
      · exact ⟨_, hruns hb rfl, htells _ 5 0 _ rfl⟩
      · have hexec (v : State) (st : Nat) (h : chaltNow core.toNat (took 3 (leBytes 2 core.toNat)) = (v, st, [])) :
            exec (.chalt tag core) s = .next (respond v 3 tag.toNat (st, [])) := hruns hb h
        by_cases hd : k.dbgctl.getLsbD 1 = true
        · by_cases hm : k.mode = .running
          · refine ⟨_, haltCore (took 3 (leBytes 2 core.toNat)) core.toNat, hexec _ _ (chaltNow_halts hd hm), fun h => ?_, fun _ h => ?_,
              fun _ _ => ⟨htells _ 3 0 [] rfl, haltCore_mode .., fun y hy => haltCore_held hy, rfl⟩⟩
            · rw [hd] at h; cases h
            · exact absurd hm h
          · refine ⟨_, s, hexec _ _ (chaltNow_held hd hm), fun h => ?_, fun _ _ => htells _ 3 1 [] rfl, fun _ h => absurd h hm⟩
            rw [hd] at h; cases h
        · refine ⟨_, s, hexec _ _ (chaltNow_denied (Bool.not_eq_true _ ▸ hd)), fun _ => htells _ 3 2 [] rfl, fun h => absurd h hd,
            fun h => absurd h hd⟩
      · have hexec (v : State) (st : Nat) (h : cresumeNow core.toNat (took 4 (leBytes 2 core.toNat)) = (v, st, [])) :
            exec (.cresume tag core) s = .next (respond v 4 tag.toNat (st, [])) := hruns hb h
        by_cases hd : k.dbgctl.getLsbD 1 = true
        · by_cases hm : k.mode = .debugHalt
          · obtain ⟨drain, hend⟩ := coreOf_endHalt (took 4 (leBytes 2 core.toNat)) core.toNat
            refine ⟨_, endHalt (took 4 (leBytes 2 core.toNat)) core.toNat, hexec _ _ (cresumeNow_ends hd hm), fun h => ?_,
              fun _ h => absurd hm h, fun _ _ => ⟨htells _ 4 0 [] rfl, ?_, fun y hy hc => endHalt_released hy hc, rfl⟩⟩
            · rw [hd] at h; cases h
            · rw [hend]; rfl
          · refine ⟨_, s, hexec _ _ (cresumeNow_runs hd hm), fun h => ?_, fun _ _ => htells _ 4 1 [] rfl, fun _ h => absurd h hm⟩
            rw [hd] at h; cases h
        · refine ⟨_, s, hexec _ _ (cresumeNow_denied (Bool.not_eq_true _ ▸ hd)), fun _ => htells _ 4 2 [] rfl, fun h => absurd h hd,
            fun h => absurd h hd⟩
      · have hsum : summary (took 2 (leBytes 8 a.toNat ++ leBytes 4 len.toNat)) = summary s := rfl
        by_cases hl : len.toNat < (summary s).length
        · have hnow : resyncNow a.toNat len.toNat (took 2 (leBytes 8 a.toNat ++ leBytes 4 len.toNat)) =
              (took 2 (leBytes 8 a.toNat ++ leBytes 4 len.toNat), 1, leBytes 4 (summary s).length) := by
            unfold resyncNow
            dsimp only
            rw [hsum, if_pos hl]
          exact ⟨_, s, hruns hb hnow, fun _ => htells _ 2 1 _ rfl, fun h => absurd hl (Nat.not_lt.2 h)⟩
        · have hnow : resyncNow a.toNat len.toNat (took 2 (leBytes 8 a.toNat ++ leBytes 4 len.toNat)) =
              (storeBytes (took 2 (leBytes 8 a.toNat ++ leBytes 4 len.toNat)) (hostKey a.toNat) (summary s), 0, []) := by
            unfold resyncNow
            dsimp only
            rw [hsum, if_neg hl]
          exact ⟨_, _, hruns hb hnow, fun h => absurd h hl, fun _ => ⟨htells _ 2 0 _ rfl, storeBytes_mem ..⟩⟩
      · have hexec {v : State} {st : Nat} {bs : List Byte} (h : counterNow part.toNat lo.toNat hi.toNat
            (took 6 (leBytes 8 part.toNat ++ leBytes 8 lo.toNat ++ leBytes 8 hi.toNat)) = (v, st, bs)) :
            exec (.counter tag part lo hi) s = .next (respond v 6 tag.toNat (st, bs)) := hruns hb h
        by_cases hp : 64 ≤ part.toNat ∨ (partOf s part.toNat).st = 0
        · exact ⟨_, s, 0, hexec (counterNow_unbound hp), fun _ => htells _ 6 0xFE _ rfl,
            fun h1 h2 => absurd hp (not_or.2 ⟨Nat.not_le.2 h1, h2⟩), fun h1 h2 => absurd hp (not_or.2 ⟨Nat.not_le.2 h1, h2⟩)⟩
        · obtain ⟨hlt, hst⟩ := not_or.1 hp
          by_cases hz : bits hi.toNat 63 32 = 0
          · exact ⟨_, _, _, hexec (counterNow_runs (Nat.not_le.1 hlt) hst hz), fun h => absurd h hp, fun _ _ h => absurd hz h,
              fun _ _ _ => ⟨rfl, htells _ 6 _ _ (counterCommand_cycle ..)⟩⟩
          · exact ⟨_, s, 0, hexec (counterNow_malformed (Nat.not_le.1 hlt) hst hz), fun h => absurd h hp,
              fun _ _ _ => htells _ 6 4 _ rfl, fun _ _ h => absurd h hz⟩
      · exact fun hop => ⟨_, (exec_unlisted hop).trans (hruns hb rfl), htells _ op.toNat 0xFF [] rfl⟩
  · intro s a n data
    refine ⟨fun h => ?_, fun h => ?_, fun h => ?_, fun h => ?_, ?_, fun hb hz => ?_⟩
    · rw [exec_hostStore, if_pos h]
      exact ⟨_, rfl, storeBytes_mem .., rfl⟩
    · rw [exec_hostStore, if_neg (by rw [h]; exact Bool.false_ne_true)]
      exact ⟨_, rfl, rfl, rfl, rfl⟩
    · rw [exec_hostRead, if_pos h]
      exact ⟨_, rfl, rfl, rfl, rfl⟩
    · rw [exec_hostRead, if_neg (by rw [h]; exact Bool.false_ne_true)]
      exact ⟨_, rfl, rfl, rfl, rfl⟩
    · intro ring ws x y q pos h1 h2 hok hside
      rw [exec_hostAppend (q := q) rfl h1 h2 hok hside]
      refine ⟨fun hc hf => ?_, fun h => ?_⟩
      · rw [hc, hf]
        exact ⟨_, rfl, rfl, rfl⟩
      · rw [if_pos (by simpa using h)]
        exact ⟨_, rfl, rfl, rfl⟩
    · obtain ⟨u, hu, hboot⟩ := exec_boot hb hz
      obtain ⟨hstatus, hstop, hearly, hhbm, hstores, hdone⟩ := hboot
      refine ⟨u, hu, hstatus, ?_⟩
      rw [hstatus]
      exact ⟨fun h => hb ▸ hstop h, hearly, hhbm, hstores, hdone⟩

end Sys2Proof.Machine

end


/-! PROOFS. Reliable connections between packages (R210, R389 to R395, R409). -/

section

namespace Sys2Proof.Machine

open Sys2Proof.Claims

/-! ## Connections -/

theorem connOf_setConn_same (s : State) (d : Nat) (x : Conn) : connOf (setConn s d x) d = x := mapGet_mapSet_same ..

theorem connOf_setConn_other (s : State) {d e : Nat} (x : Conn) (h : e ≠ d) : connOf (setConn s d x) e = connOf s e :=
  mapGet_mapSet_other _ _ _ _ _ h

theorem connClass_putClass_same (x : Conn) {cls : Nat} (q : ConnClass) (h : cls < 3) : connClass (putClass x cls q) cls = q := by
  unfold connClass putClass
  rw [Vector.toList_setIfInBounds, List.getD_eq_getElem?_getD, List.getElem?_set_self (by simpa using h), Option.getD_some]

/-- Whether a connection is down with nothing of it unacknowledged (R395). -/
def DownEmpty (x : Conn) : Prop := x.up = false ∧ ∀ q ∈ x.classes.toList, q.unacked = []

theorem downEmpty_spillPeer {s : State} {d : Nat} (h : DownEmpty (connOf s d)) : DownEmpty (connOf (spillPeer s) d) := by
  unfold spillPeer
  split
  · exact h
  · split
    · exact h
    · next e _ =>
      by_cases he : d = e
      · subst he
        rw [connOf_setConn_same]
        exact h
      · rwa [connOf_setConn_other _ _ he]

/-- Nothing is sent to a peer that is down, and what is sent to another leaves it so (R394, R395). -/
theorem downEmpty_linkSend {s u : State} {m : Msg} {cyc d : Nat} (hs : linkSend s m cyc = some u) (h : DownEmpty (connOf s d)) :
    DownEmpty (connOf u d) := by
  unfold linkSend at hs
  dsimp only at hs
  rw [Option.ite_none_left_eq_some] at hs
  obtain ⟨hreach, hs⟩ := hs
  have hd : d ≠ m.ddev := by
    rintro rfl
    simp [linkReach, linkDown, h.1] at hreach
  have hadmit : DownEmpty (connOf (if (mapFind s.pkg.conns m.ddev).isSome then s else admitPeer s m.ddev) d) := by
    split
    · exact h
    · rw [admitPeer, connOf_setConn_other _ _ hd]
      exact downEmpty_spillPeer h
  rw [← Option.some.inj hs]
  generalize (if (mapFind s.pkg.conns m.ddev).isSome then s else admitPeer s m.ddev) = s1 at hadmit ⊢
  split
  · rwa [enqueueLink, connOf_setConn_other _ _ hd]
  · rwa [connOf_setConn_other _ _ hd]

theorem downEmpty_returnCredit {s : State} {d : Nat} (c : Nat) (i : Option (Nat × Nat)) (h : DownEmpty (connOf s d)) :
    DownEmpty (connOf (returnCredit s c i) d) := by
  unfold returnCredit
  split
  · exact h
  · split
    · rw [postHere_eq]
      exact h
    · next dev k _ =>
      cases hs : linkSend s (mkMsg s c 256 dev k .control false .credit) 0 with
      | none => exact h
      | some u => exact downEmpty_linkSend hs h

theorem conns_lostAnswer (s : State) (peer : Nat) (k : LinkPkt) (d : Nat) : connOf (lostAnswer s peer k) d = connOf s d := by
  unfold lostAnswer
  split
  · dsimp only
    split <;> rfl
  · rfl

theorem conns_lostSig (s : State) (n d : Nat) : connOf (lostSig s n) d = connOf s d := by
  unfold lostSig
  split <;> rfl

theorem downEmpty_lostSend {s : State} {d : Nat} (peer : Nat) (k : LinkPkt) (h : DownEmpty (connOf s d)) :
    DownEmpty (connOf (lostSend s peer k) d) := by
  unfold lostSend
  dsimp only
  split
  · split <;> exact h
  · split <;> exact h
  · refine downEmpty_returnCredit _ _ ?_
    split <;> exact h
  · exact h

/-! ## Arrivals and acknowledgements -/

section
variable {s : State} {k : LinkPkt} (hdev : s.pkg.dev ≠ 0xFFFF#16) (hd : k.dstDev = s.pkg.dev.toNat) (hc : k.cls < 3)
  (hx : mapFind s.pkg.conns k.srcDev = some (connOf s k.srcDev)) (hup : (connOf s k.srcDev).up = true)
  (hr : (connOf s k.srcDev).resident = true)
include hdev hd hc hx hup hr

/-- A packet of the class of a connection that is up, in a window that counts from the next number (R393). -/
theorem exec_linkPacket : exec (.linkPacketArrival k) s = .next
    (let s1 := setConn s k.srcDev { connOf s k.srcDev with lastUse := s.cycle }
     let q := connClass (connOf s k.srcDev) k.cls
     let n := (k.seq + 2 ^ 32 - q.recvSeq) % 2 ^ 32
     if n = 0 then deliverSeq linkWindow s1 k.srcDev k.cls k
     else if n < linkWindow && !q.early.any fun e => e.seq == k.seq then
       setConn s1 k.srcDev (putClass { connOf s k.srcDev with lastUse := s.cycle } k.cls { q with early := q.early ++ [k] })
     else s1) := by
  have hgo : ¬ (decide (s.pkg.dev = 0xFFFF#16) || decide (k.dstDev ≠ s.pkg.dev.toNat) || linkDown s k.srcDev ||
      decide (3 ≤ k.cls)) = true := by
    simp [hdev, hd, linkDown, hup, hc]
  have hhold : holdPeer s k.srcDev = some (setConn s k.srcDev { connOf s k.srcDev with lastUse := s.cycle }) := by
    unfold holdPeer
    rw [hx]
    dsimp only
    rw [if_pos hr]
  dsimp only [exec, execLinkPacketArrival, event]
  rw [if_neg hgo, hhold, Option.map_some, Option.getD_some, connOf_setConn_same]
  rfl

theorem exec_linkPacket_next (hseq : k.seq = (connClass (connOf s k.srcDev) k.cls).recvSeq) :
    exec (.linkPacketArrival k) s =
      .next (deliverSeq 256 (setConn s k.srcDev { connOf s k.srcDev with lastUse := s.cycle }) k.srcDev k.cls k) := by
  rw [exec_linkPacket hdev hd hc hx hup hr]
  dsimp only
  rw [← hseq, Nat.add_sub_cancel_left, Nat.mod_self, if_pos rfl]
  rfl

theorem exec_linkPacket_early {j : Nat} (hj : 0 < j) (hw : j < 256)
    (hseq : k.seq = ((connClass (connOf s k.srcDev) k.cls).recvSeq + j) % 2 ^ 32)
    (hlt : (connClass (connOf s k.srcDev) k.cls).recvSeq < 2 ^ 32)
    (hnew : ∀ e ∈ (connClass (connOf s k.srcDev) k.cls).early, e.seq ≠ k.seq) :
    ∃ u, exec (.linkPacketArrival k) s = .next u ∧
      connClass (connOf u k.srcDev) k.cls =
        { connClass (connOf s k.srcDev) k.cls with early := (connClass (connOf s k.srcDev) k.cls).early ++ [k] } ∧ u.net = s.net := by
  have hn : (k.seq + 2 ^ 32 - (connClass (connOf s k.srcDev) k.cls).recvSeq) % 2 ^ 32 = j := by omega
  have hnone : ((connClass (connOf s k.srcDev) k.cls).early.any fun e => e.seq == k.seq) = false := by simpa using hnew
  have hfits : (decide (j < linkWindow) && !false) = true := by
    rw [linkWindow, decide_eq_true hw]
    rfl
  refine ⟨_, exec_linkPacket hdev hd hc hx hup hr, ?_⟩
  dsimp only
  rw [hn, hnone, if_neg (by omega), if_pos hfits, connOf_setConn_same, connClass_putClass_same _ _ hc]
  exact ⟨rfl, rfl⟩

end

section
variable {s : State} {d cls : Nat} {e : LinkPkt × Nat × Nat}

/-- An acknowledgement takes off every packet up to its number (R393). -/
theorem exec_linkAck (hc : cls < 3) (he : e ∈ (connClass (connOf s d) cls).unacked) (hs : e.2.1 ≠ 0) :
    ∃ u, exec (.linkAckArrival d cls e.1.seq) s = .next u ∧
      ∀ f ∈ (connClass (connOf u d) cls).unacked, 2 ^ 31 ≤ (e.1.seq + 2 ^ 32 - f.1.seq) % 2 ^ 32 := by
  have hany : ((connClass (connOf s d) cls).unacked.any fun f => f.1.seq == e.1.seq && f.2.1 != 0) = true :=
    List.any_eq_true.2 ⟨e, he, by simp [hs]⟩
  dsimp only [exec, execLinkAckArrival, event]
  rw [hany]
  refine ⟨_, rfl, ?_⟩
  rw [if_neg (by simp), Option.getD_some, connOf_setConn_same, connClass_putClass_same _ _ hc]
  intro f hf
  obtain ⟨g, hg, rfl⟩ := List.mem_map.1 hf
  have hnum := of_decide_eq_true (List.mem_filter.1 (List.fst_mem_of_mem_zipIdx hg)).2
  split
  · exact hnum
  · exact hnum

theorem conns_countResend (s : State) (k : LinkPkt) (d : Nat) : connOf (countResend s k) d = connOf s d := by
  unfold countResend
  split
  · rfl
  · unfold connOf modPkg
    dsimp only
    split <;> rfl

/-- A packet that goes without an acknowledgement for 20 µs is sent again (R393). -/
theorem exec_retransmit (hc : cls < 3) (he : e ∈ (connClass (connOf s d) cls).unacked) (hu : unanswered s e = true)
    (hn : e.2.1 < 9) :
    ∃ u, exec (.retransmitTimeout d cls) s = .next u ∧ (e.1, e.2.1 + 1, s.cycle) ∈ (connClass (connOf u d) cls).unacked := by
  have hdue : (unanswered s e && decide (e.2.1 < 9)) = true := by rw [hu, decide_eq_true hn]; rfl
  have hany : ((connClass (connOf s d) cls).unacked.any fun f => unanswered s f && decide (f.2.1 < 9)) = true :=
    List.any_eq_true.2 ⟨e, he, hdue⟩
  dsimp only [exec, execRetransmitTimeout, event]
  rw [hany, if_neg (by decide), Option.getD_some]
  refine ⟨_, rfl, ?_⟩
  rw [foldl_keeps (f := fun u => connOf u d) (fun u (f : LinkPkt × Nat × Nat) => conns_countResend u f.1 d), connOf_setConn_same,
    connClass_putClass_same _ _ hc]
  exact List.mem_map.2 ⟨e, he, if_pos hdue⟩

/-- After nine sends a connection is down with nothing of it left to acknowledge (R395). -/
theorem exec_connectionDown (hup : (connOf s d).up = true) (he : ∃ q ∈ (connOf s d).classes.toList, e ∈ q.unacked)
    (hu : unanswered s e = true) (hn : 9 ≤ e.2.1) :
    ∃ u, exec (.connectionDown d) s = .next u ∧ DownEmpty (connOf u d) := by
  obtain ⟨q, hq, heq⟩ := he
  have hany : ((connOf s d).classes.toList.any fun q => q.unacked.any fun e => unanswered s e && decide (9 ≤ e.2.1)) = true :=
    List.any_eq_true.2 ⟨q, hq, List.any_eq_true.2 ⟨e, heq, by rw [hu, decide_eq_true hn]; rfl⟩⟩
  have hfresh : DownEmpty { Conn.fresh with up := false, lastUse := (connOf s d).lastUse } := by
    refine ⟨rfl, fun q hq => ?_⟩
    obtain rfl : q = ConnClass.fresh := by simpa [Conn.fresh] using hq
    rfl
  dsimp only [exec, execConnectionDown, event]
  rw [hup, hany, if_neg (by decide), Option.getD_some]
  refine ⟨_, rfl, ?_⟩
  refine List.foldlRecOn (motive := fun u => DownEmpty (connOf u d)) _ _ ?_ fun u hu k _ => ?_
  · rw [foldl_keeps (f := fun u => connOf u d) (fun u k => conns_lostAnswer u d k d), connOf_setConn_same]
    exact hfresh
  · refine downEmpty_lostSend d k ?_
    rwa [conns_lostSig]

theorem exec_connectionReopen (hup : (connOf s d).up = false) (hp : (routePort s none 0 0 d).isSome = true) :
    exec (.connectionReopen d) s = .next (setConn s d { Conn.fresh with lastUse := s.cycle }) := by
  have hdown : linkDown s d = true := by rw [linkDown, hup]; rfl
  dsimp only [exec, execConnectionReopen, event]
  rw [hdown, hp]
  rfl

/-- The packets that waited for a peer's state go on once it is there (R394). -/
theorem loadPeer_spec (s : State) (d : Nat) : (connOf (loadPeer s d) d).resident = true ∧ (connOf (loadPeer s d) d).waiting = [] ∧
    (loadPeer s d).net = s.net := by
  have henqueue (u : State) (k : LinkPkt) : (connOf (enqueueLink u d k.cls k) d).resident = (connOf u d).resident ∧
      (connOf (enqueueLink u d k.cls k) d).waiting = (connOf u d).waiting := by
    unfold enqueueLink
    rw [connOf_setConn_same]
    exact ⟨rfl, rfl⟩
  unfold loadPeer
  dsimp only
  refine ⟨?_, ?_, ?_⟩
  · rw [foldl_keeps (f := fun u => (connOf u d).resident) (fun u k => (henqueue u k).1), connOf_setConn_same]
  · rw [foldl_keeps (f := fun u => (connOf u d).waiting) (fun u k => (henqueue u k).2), connOf_setConn_same]
  · rw [foldl_keeps (f := State.net) (g := fun a (k : LinkPkt) => enqueueLink a d k.cls k) (fun _ _ => rfl)]
    obtain ⟨g, hg⟩ := spillPeer_onlyPkg s
    show (spillPeer s).net = s.net
    rw [hg]

theorem exec_peerStateLoad (hr : (connOf s d).resident = false) (hup : (connOf s d).up = true) (hw : (connOf s d).waiting ≠ []) :
    exec (.peerStateLoad d) s = .next (loadPeer s d) := by
  have hgo : ¬ ((connOf s d).resident || !(connOf s d).up || (connOf s d).waiting.isEmpty) = true := by simp [hr, hup, hw]
  dsimp only [exec, execPeerStateLoad, event]
  rw [if_neg hgo, Option.getD_some]

/-! ## Ports and the egress queue -/

theorem setPort_spec (s : State) (p st : Nat) (hp : p < 24) :
    (portOf (setPort s p st) p).st = st ∧ (setPort s p st).pkg.plive.getLsbD p = (st == 2) := by
  refine ⟨congrArg Port.st (mapGet_mapSet_same ..), ?_⟩
  unfold setPort modPkg putBit
  dsimp only
  cases st == 2 with
  | true => simp [BitVec.getLsbD_or, BitVec.getLsbD_twoPow, hp]
  | false => simp [BitVec.getLsbD_and, BitVec.getLsbD_not, BitVec.getLsbD_twoPow, hp]

end

/-- The first entry of an egress queue leaves for a core of the own device (R210). -/
theorem exec_egress {s : State} {m : Msg} (hm : findMsg s m.uid = some m) (he : m.egress = true) (hn : m.net ≠ .timediv)
    (hd : m.due ≤ s.cycle) (hf : firstOfQueue s m = true) (hdev : m.ddev = s.pkg.dev.toNat) :
    ∃ u, exec (.egressQueueDeparture m.uid) s = .next u ∧ u.mem = s.mem ∧
      ∃ e ∈ u.net, e.uid = m.uid ∧ e.egress = false ∧ e.body = m.body ∧ s.cycle < e.due := by
  have hgo : ¬ (!m.egress || decide (m.net = .timediv) || decide (s.cycle < m.due) || !firstOfQueue s m) = true := by
    simp [he, hn, hd, hf]
  dsimp only [exec, execEgressQueueDeparture, event]
  rw [hm, Option.bind_some, if_neg hgo, if_pos hdev, Option.getD_some]
  refine ⟨_, rfl, wakeSlots_mem .., { m with egress := false, due := s.cycle + 1 + Config.latency s.uid }, ?_, rfl, rfl, rfl, by
    dsimp only; omega⟩
  rw [wakeRes, wakeSlots_net]
  exact List.mem_map.2 ⟨m, List.mem_of_find?_eq_some hm, if_pos rfl⟩

/-- Settles O59. -/
theorem connections : Obligations.Connections := by
  intro s d x
  refine ⟨?_, ?_, ?_, ?_, ?_, ?_, ?_, ?_, ?_⟩
  · intro k hdev hdst hsrc hc hx hup hr q s1
    subst hsrc
    refine ⟨fun hseq _ => exec_linkPacket_next hdev hdst hc hx hup hr hseq, fun j hj hw hseq hlt hnew => ?_⟩
    obtain ⟨u, hu, hcls, hnet⟩ := exec_linkPacket_early hdev hdst hc hx hup hr hj hw hseq hlt hnew
    refine ⟨u, hu, ?_, ?_, hnet⟩
    · rw [hcls]
    · rw [hcls]
  · intro cls seq e hc he hseq hs _
    subst hseq
    exact exec_linkAck hc he hs
  · exact fun cls e hc he hu hn => exec_retransmit hc he hu hn
  · exact fun e hup he hu hn => exec_connectionDown hup he hu hn
  · intro hup hp
    refine ⟨_, exec_connectionReopen hup hp, ?_, ?_⟩
    · rw [connOf_setConn_same]; rfl
    · rw [connOf_setConn_same]
      intro q hq
      obtain rfl : q = ConnClass.fresh := by simpa [Conn.fresh] using hq
      exact ⟨rfl, rfl⟩
  · exact fun hr hup hw => ⟨_, exec_peerStateLoad hr hup hw, loadPeer_spec s d⟩
  · exact fun p hst hp => ⟨setPort s p 3, congrArg (event s) (if_pos hst), setPort_spec s p 3 hp⟩
  · intro p hst hl hp
    have hgo : (decide (p < 24) && decide ((portOf s p).st = 1) && decide ((portOf s p).lanes ≠ 0#8)) = true := by
      simp [hp, hst, hl]
    exact ⟨setPort s p 2, congrArg (event s) (if_pos hgo), setPort_spec s p 2 hp⟩
  · exact fun m hm he hn hd hf hdev => exec_egress hm he hn hd hf hdev

end Sys2Proof.Machine

end


/-! PROOFS. O8 is refuted. A queued command holds its instruction and its bundle apart, and nothing in the statement makes the
bundle of the instruction the command's own. For a VFMA whose two bundles differ the statement asks nothing of the addend, but
the command reads it all the same: an uncorrectable error there ends the command with D unwritten. -/
section

namespace Sys2Proof.Machine

open Sys2Proof.Claims

namespace AddendUnread

/-- One FP32 element, Y the scalar +0 of word 7. -/
def bundle : Bundle :=
  { substA := 15, substB := 15, popA := false, popB := false, flags := 0, waitSem := 0, threshold := 0, sigSem := 0, inc := 0,
    rov := false, rm := 0, satv := false, fieldA := 0, fieldB := 0, w5 := 0, w6 := 0x200000, w7 := 0 }

/-- The bundle in the instruction, which has another increment. -/
def otherBundle : Bundle := { bundle with inc := 1 }

/-- A VFMA of X at offset 0 of the own TCM, with D and the addend at offset 8. -/
def cmd : Cmd :=
  { uid := 0, core := 0, slot := 4, thread := 0, asid := 0, user := true, op := .vfma otherBundle, x := bundle,
    a := 0x8000000000000000, b := 0x8000000000000008, aBad := false, bBad := false, fmt := 0, sca := 0, scb := 0, refs := [],
    refused := none, issued := 0, started := false, retireAt := 0, retired := false, due := 0, steps := 0, rows := 0,
    far := false, err := none, flags := 0, desc := [], ltab := [], tab := [], tabBad := false, members := [], fail := 0,
    poison := none, stop := false }

/-- Core 0 runs with the command in its VXE's queue. X is +0, the addend is −0, and its codeword has an uncorrectable error. -/
def state : State :=
  { State.reset with
    cycle := 1, cores := [(0, { Core.fresh with mode := .running, vxeq := [cmd] })],
    mem := [(tcmKey 0 11, 0x80#8)], ecc := [(tcmKey 0 8, true)] }

theorem may_start : mayStart state cmd = true := by decide

theorem reads_x : ReadsAt state cmd cmd.a 4 (tcmKey 0 0) := by decide

theorem writes_d : WritesAt state cmd cmd.b 4 (tcmKey 0 8) := by decide

/-- The command ends before it writes: D keeps the sign of the addend. -/
theorem d_kept : ∃ u, exec (.vxeCommandStart 0) state = .next u ∧ memBytes u.mem (tcmKey 0 8) 4 = [0#8, 0#8, 0#8, 0x80#8] :=
  ⟨_, rfl, by decide⟩

/-- 0 · 0 + (−0) is +0. -/
theorem fma_code : (roundFmt (elemResult cmd.op cmd.vrm (valueOf 0 (memNat state.mem (tcmKey 0 0) 4)) (valueOf 0 0)
    (valueOf 0 (memNat state.mem (tcmKey 0 8) 4))).1 0 cmd.vrm cmd.satOf 0).1 = 0 := by decide

end AddendUnread

open AddendUnread in
/-- Refutes O8: a VFMA whose instruction carries another bundle than its command, with an uncorrectable error in the addend's
codeword, leaves −0 in D, where the sum of its product and its addend is +0. -/
theorem not_floatSpecialCases : ¬ Obligations.FloatSpecialCases := by
  intro h
  obtain ⟨-, -, -, -, -, hvxe⟩ := h
  obtain ⟨hel, -⟩ := hvxe state 0 cmd [] (tcmKey 0 0) 0 (tcmKey 0 8) rfl rfl may_start (by decide) rfl rfl rfl rfl rfl rfl
    (by decide) (by decide) (by decide) (by decide) reads_x writes_d (by decide)
  have hother : cmd.op ≠ .vfma cmd.x := by decide
  obtain ⟨u, hu, hd, -⟩ := hel rfl (fun hy => absurd hy.2 (by decide)) (fun hop => absurd hop hother)
  obtain ⟨v, hv, hkept⟩ := d_kept
  obtain rfl : u = v := by
    rw [hu] at hv
    exact Host.Outcome.next.inj hv
  have hzero : memBytes u.mem (tcmKey 0 8) 4 = leBytes 4 0 := (hd 0 (by decide)).trans (congrArg (leBytes 4) fma_code)
  rw [hkept] at hzero
  exact absurd hzero (by decide)

end Sys2Proof.Machine
end
